-- ==== Sys2Proof/Word.lean ====
section
/-! DEFINITION. The byte and word types of the model and their plainest arithmetic: little-endian and big-endian byte
lists (R6), bit fields of natural numbers, and two's complement reading. -/

namespace Sys2Proof

/-- A byte of a packet, of HBM, or of host memory. -/
abbrev Byte := BitVec 8

/-- A 32-bit register word. -/
abbrev Word := BitVec 32

/-- A 64-bit word of event-queue memory, a descriptor or a microcode register. -/
abbrev Dword := BitVec 64

/-- `n` little-endian bytes of `v` (R6). -/
def toLE : Nat → Nat → List Byte
  | 0, _ => []
  | n + 1, v => BitVec.ofNat 8 v :: toLE n (v / 256)

/-- The number a little-endian byte list spells (R6). -/
def ofLE : List Byte → Nat
  | [] => 0
  | b :: bs => b.toNat + 256 * ofLE bs

/-- `n` bytes of `v` in network byte order (R6). -/
def toBE (n v : Nat) : List Byte := (toLE n v).reverse

/-- The number a byte list in network byte order spells (R6). -/
def ofBE (bs : List Byte) : Nat := ofLE bs.reverse

/-- Bits `[lo + w - 1 : lo]` of `v` (R5). -/
def bits (v lo w : Nat) : Nat := v / 2 ^ lo % 2 ^ w

/-- Bit `i` of `v` (R5). -/
def bit (v i : Nat) : Bool := v / 2 ^ i % 2 == 1

/-- A Boolean as the number 0 or 1. -/
def b2n (b : Bool) : Nat := if b then 1 else 0

/-- `v` with the field `[lo + w - 1 : lo]` replaced by the low `w` bits of `x`. -/
def putBits (v lo w x : Nat) : Nat := v - bits v lo w * 2 ^ lo + x % 2 ^ w * 2 ^ lo

/-- The two's complement reading of the low `w` bits of `v`. -/
def sint (w v : Nat) : Int :=
  let u := v % 2 ^ w
  if u < 2 ^ (w - 1) then (u : Int) else (u : Int) - (2 ^ w : Nat)

/-- The low `w` bits of an integer, in two's complement. -/
def uint (w : Nat) (i : Int) : Nat := (i % (2 ^ w : Nat)).toNat

/-- The quotient rounded up; 0 for a divisor of 0. -/
def ceilDiv (a b : Nat) : Nat := (a + b - 1) / b

/-- `n` bytes of `bs` from index `i`; bytes beyond the end read 0. -/
def sliceB (bs : List Byte) (i n : Nat) : List Byte :=
  let t := (bs.drop i).take n
  t ++ List.replicate (n - t.length) 0

/-- `bs` with the bytes from index `i` on replaced by those of `v`, as far as `bs` reaches. -/
def putB (bs : List Byte) (i : Nat) (v : List Byte) : List Byte :=
  bs.take i ++ v.take (bs.length - i) ++ bs.drop (i + v.length)

/-- Bytewise exclusive or of two byte lists, as long as the shorter. -/
def xorB (a b : List Byte) : List Byte := List.zipWith (· ^^^ ·) a b

end Sys2Proof
end

