-- ==== Sys2Proof/Syntax.lean ====
section
/-! DEFINITION. The commands of the block: one constructor per row of the opcode table, with the row's operands.
A register-write row carries the function that writes (0 is PF0, 1 to 127 the VFs, 128 the Novyx monitor, R528) and, where
the register is per instance, the instance. An event row carries what the surroundings decide (the frame's bytes, a
completion's data, a measurement); everything else it needs it takes from the state. -/

namespace Sys2Proof

/-- A command or event of the block. -/
inductive Instr where
  /-- R42: A host or monitor write to a register that has no row of its own takes effect in page-run order, or is discarded or refused under the alignment and permission rules. -/
  | registerWrite (fn bar addr : Nat) (data : List Byte) (host : Option (List Byte))
  /-- R43: A read of FENCE returns once every earlier write to the run and the operation it started have taken effect, or returns with Stall set at 2 µs. -/
  | fenceRead (fn page : Nat)
  /-- R35: A write of CTL.BlockReset resets the instance with the scope of its hierarchy level, or is refused and sets STAT.ResetRefused. -/
  | blockReset (fn page : Nat)
  /-- R36: A write of CTL.QuiesceReq makes the block stop accepting new work; clearing it resumes the block. -/
  | quiesceReq (fn page : Nat) (on : Bool)
  /-- R36: The block's work in progress ends after a quiesce request, and the block sets STAT.Quiesced. -/
  | quiesced (page : Nat)
  /-- R54: A write of 1 to IRQ_STATUS bits clears them, and the page signals its vector again if its summary is still 1. -/
  | irqStatusWrite (fn page data : Nat)
  /-- R54: A write of IRQ_ENABLE changes the page summary, and the page signals again if the summary is still 1. -/
  | irqEnableWrite (fn page data : Nat)
  /-- R56: A write of IRQ_FORCE sets status bits, updates IRQ_FIRST with Forced set and runs the roll-up; forcing bit 30 sends a forced Detect to ERR. -/
  | irqForceWrite (fn page data : Nat)
  /-- R54: Unmasking an MSI-X vector whose Pending bit is set sends the held message. -/
  | msixUnmask (fn vector : Nat)
  /-- R57: A write of ERR_INJ with Arm set arms the detector for a once or continuous injection while GLB.ERR_INJ_EN is 1. -/
  | errInjArm (fn page det : Nat) (continuous : Bool)
  /-- R38: A PF0 write of OWNER assigns the page to a function, or is refused when the page is not assignable or the VF is not enabled, and clears the route Enable. -/
  | ownerWrite (fn page owner : Nat)
  /-- R55: A PF0 write of ERR.ROUTE_DATA sets the interrupt route of the selected first page, or is refused for a vector beyond the owner's allocation. -/
  | routeDataWrite (fn data : Nat)
  /-- R475: A read of the lower word of a counter value latches its upper word, and for a chained pair both words of the next counter, for the reading function. -/
  | counterLowRead (fn page k : Nat) (wide : Bool)
  /-- R475: A write of the upper word of a counter value sets the 48-bit count, and events of that cycle are added after it. -/
  | counterValueWrite (fn page k data : Nat)
  /-- R49: A COMMIT_CTL Go arms a commit whose act time is the current device time plus 420 ns, or is refused with a reason. -/
  | commitGo (fn : Nat)
  /-- R48: A COMMIT_CTL Arm takes COMMIT_MASK and the act time and arms a commit in every block, or is refused with a reason. -/
  | commitArm (fn : Nat)
  /-- R48: A COMMIT_CTL Cancel at least 420 ns before the act time disarms the commit in every block; a later Cancel is ignored. -/
  | commitCancel (fn : Nat)
  /-- R48: A COMMIT_CTL Discard empties the staging of the masked blocks and clears their overflow status. -/
  | commitDiscard (fn : Nat)
  /-- R50: A COMMIT_CTL write with more than one bit set does nothing and is refused with Reason 6. -/
  | commitCtlMultiBit (fn : Nat)
  /-- R47: At the act time every masked block makes its staged changes active in one CLK_TIME cycle and the generation advances, or the act is deferred until retirement. -/
  | commitAct
  /-- R47: The previous generation retires when no lookup uses it, COMMIT_STAT.Busy clears and ACL makes the retired plane the new staging plane. -/
  | generationRetire
  /-- R15: A slice ingress arbiter accepts a packet, which is stamped, parsed, reduced to a FLOW_KEY and digest, and sent toward its home RUU and lookups. -/
  | ingressAccept (port lane late : Nat) (frame : List Byte)
  /-- R70: An arriving cell of a frame is admitted from the port-class reserve or the shared region, or refused, and the frame is dropped or truncated. -/
  | cellArrival (pid : Nat)
  /-- R77: The last cell of a frame is stored and its FCS checked; with FcsGate the descriptor is sent, and a bad FCS drops the frame or voids its number. -/
  | frameEnd (pid fcs : Nat)
  /-- R142: A request enters the home RUU queue by admission class, or waits at its source while the queue is full. -/
  | ruuRequestEnter (ruu : Nat)
  /-- R144: A request at the queue head is checked for row hazards, looks up the cache and issues HBM reads for missing slots. -/
  | ruuService (ruu : Nat)
  /-- R144: The last slot data of a stalled request arrives and the request runs its fetch, operations, write and result cycles. -/
  | ruuServiceResume (ruu : Nat) (err : Bool)
  /-- R146: A memory request from a home RUU enters the target RUU's memory port, which performs the read or write and returns the data. -/
  | memoryRequest (home target : Nat)
  /-- R146: The data or completion of a memory request returns to the home RUU that issued it. -/
  | memoryRequestDone (home target : Nat)
  /-- R147: A memory request not completed within WayTimeout is abandoned and its request ends as Spillway, discarded or MemError. -/
  | wayTimeout (ruu : Nat)
  /-- R168: A pin update at its turn writes Member and MemberValid into a cached, Valid, matching line, or is discarded and counted. -/
  | pinUpdate (ruu : Nat)
  /-- R149: A line allocated by an insert stops being young after 4,096 CLK_CORE cycles. -/
  | youngExpire (ruu : Nat)
  /-- R150: A write of RCC.CFG.Mode changes the cache behaviour, writing back dirty lines first and invalidating them for Mode 2. -/
  | rccModeWrite (fn ruu mode : Nat)
  /-- R150: A write of RCC.CTL_C.Flush writes back every dirty line and leaves the lines valid and clean. -/
  | rccFlush (fn ruu : Nat)
  /-- R150: A flush or mode change finishes writing back and clears STAT_C.Flushing. -/
  | rccFlushDone (ruu : Nat)
  /-- R169: A TPL_CMD Write through RUU0 stages TPL_DATA as the selected template word, or is refused with a reason. -/
  | tplCmdWrite (fn ruu : Nat)
  /-- R169: A TPL_CMD Read loads the active template word into TPL_DATA. -/
  | tplCmdRead (fn ruu : Nat)
  /-- R169: A TPL_CMD ReadStaged through RUU0 loads the staged template word into TPL_DATA. -/
  | tplCmdReadStaged (fn ruu : Nat)
  /-- R169: An MPF_CMD Write through RUU0 stages both words of a meter profile, or is refused. -/
  | mpfCmdWrite (fn ruu : Nat)
  /-- R169: An MPF_CMD Read loads the active meter profile into MPF_DATA. -/
  | mpfCmdRead (fn ruu : Nat)
  /-- R169: An MPF_CMD ReadStaged loads the staged meter profile into MPF_DATA. -/
  | mpfCmdReadStaged (fn ruu : Nat)
  /-- R172: A POISON_CMD Clear enters the queue in class C and writes the slot as 64 zero bytes, or is refused for an epoch mismatch or ignored while busy. -/
  | poisonClear (fn ruu : Nat)
  /-- R271: At step 7 the slice merges the ACTION with lookups and filter winners, selects the member, meters, assigns sequence numbers and yields ledger entries. -/
  | actionMerge (pid : Nat)
  /-- R253: The slice reads the annex entry of a NAT64 inbound packet and uses it, or drops the packet as Nat64Stale. -/
  | nat64AnnexRead (pid : Nat) (err : Bool)
  /-- R267: A false hit found by verify makes the bank search again with that entry masked. -/
  | secondPass (pid bank : Nat)
  /-- R268: A queued repair rewrites an entry's search-array units from its stored copy. -/
  | aclRepair (bank : Nat)
  /-- R268: The bank scrubber compares search-array units with the stored copy and queues repairs. -/
  | aclScrub (bank : Nat)
  /-- R241: The learn engine decides a learn or move request against the table, commits, refreshes or refuses it. -/
  | learnRequest
  /-- R244: The ager visits an entry, removing it if idle and not static, or clearing Hit. -/
  | l2AgerVisit (slot : Nat)
  /-- R88: A numbered packet reaches Rill and is released in order, held, force-skipped or handled as late. -/
  | rillArrival (pid slice : Nat)
  /-- R89: A held packet that has waited GapTimeout skips the missing numbers below it and releases the held run. -/
  | gapTimeout (slice : Nat)
  /-- R92: A packet dropped after step 7 voids its number, which Rill releases without counting a skip. -/
  | numberVoid
  /-- R73: A copy is enqueued to its port queue and shaper group, or refused at the queue Limit or port state. -/
  | copyEnqueue (pid port : Nat)
  /-- R288: A copy becoming head of its shaper group has its eligible time computed by the group Mode. -/
  | headEvaluation (grp : Nat)
  /-- R286: At each tick the wheel releases the due level-0 list into ready lists. -/
  | wheelTick (slice : Nat)
  /-- R286: When the tick counter reaches a level boundary, entries of the next level-1 or level-2 slot are placed again. -/
  | wheelReplace (slice : Nat)
  /-- R291: EGS visits each idle group at least once per second and brings TAT, k and Credit up to date. -/
  | shaperIdleVisit (grp : Nat)
  /-- R292: A port with room chooses its next copy by strict level and virtual-time sharing and starts transmitting it. -/
  | portSelect (port lane : Nat)
  /-- R80: The last cell of a transmitted copy is read, the reference count falls and the cells are freed at zero. -/
  | copyTxEnd (port : Nat)
  /-- R293: A received PAUSE or PFC frame pauses the port's queues for its pause time, or ends a pause. -/
  | pauseReceive (port : Nat) (pfc : Bool) (enables : Nat) (times : List Nat)
  /-- R293: A pause time runs out and the queues resume. -/
  | pauseExpire (port : Nat)
  /-- R82: A write of MAC.PORT_CTL sets or clears Enable and DownHold, moving the port between Disabled, Down and Dusk. -/
  | portCtlWrite (fn mac port data : Nat)
  /-- R83: The PCS reports loss of lock or a fault; an Up port starts its DownHold. -/
  | linkDown (port : Nat)
  /-- R82: The link comes up and a Down port goes Up, or an Up port in its hold resumes and counts a fast return. -/
  | linkUp (port : Nat)
  /-- R82: DownHold runs out with the link still down and the port enters Dusk. -/
  | downholdExpire (port : Nat)
  /-- R84: The Dusk flush completes and the port goes to Disabled, Down or Up. -/
  | duskFlushDone (port : Nat)
  /-- R79: An MCG_CMD Write applies DATA0 to DATA4 to the selected multicast group in one cycle. -/
  | mcgCmdWrite (fn : Nat)
  /-- R79: An MCG_CMD Read loads the selected group into DATA0 to DATA4. -/
  | mcgCmdRead (fn : Nat)
  /-- R74: An ADM CMD Write stages GUAR and LIMIT for the selected entry, or is refused. -/
  | admCmdWrite (fn : Nat)
  /-- R74: An ADM CMD Read loads the active values of the selected entry into GUAR and LIMIT. -/
  | admCmdRead (fn : Nat)
  /-- R126: A host Insert command inserts a record with the given key and fields, or returns Exists, Collision or a failure. -/
  | ftbInsert (fn : Nat)
  /-- R126: A host Replace writes the masked groups of a hit record, or inserts on a miss. -/
  | ftbReplace (fn : Nat)
  /-- R127: A host Lookup returns the record, handle and location, or NotFound or Collision. -/
  | ftbLookup (fn : Nat)
  /-- R127: A host Delete removes the record and posts a Delete event, or returns NotFound or Collision. -/
  | ftbDelete (fn : Nat)
  /-- R127: A host ReadLoc returns the slot at a location when the epoch matches. -/
  | ftbReadloc (fn : Nat)
  /-- R127: A host DeleteLoc removes the record at a location when the epoch matches and the slot is Valid. -/
  | ftbDeleteloc (fn : Nat)
  /-- R127: A host ReadAnnex returns the annex key of a handle in use, served outside the RUU queues. -/
  | ftbReadannex (fn : Nat) (err : Bool)
  /-- R131: SetGeom applies MaxLog2 and TargetLog2 to an empty table and enters Clear, or is refused. -/
  | ftbSetgeom (fn : Nat)
  /-- R132: Resize starts an in-service resize and enters ResizeClear, or is refused. -/
  | ftbResize (fn : Nat)
  /-- R110: Rekey draws a new digest key on an empty table in phase Ready. -/
  | ftbRekey (fn : Nat)
  /-- R125: A host command completes, clears Busy, sets Done and its Result and raises event bit 0. -/
  | ftbCmdDone
  /-- R131: FTB finishes zeroing the annex and target set in Clear and enters Ready. -/
  | clearDone
  /-- R133: FTB finishes zeroing the new set and enters Move with every cursor at 0. -/
  | resizeclearDone
  /-- R133: A migration step moves, ages out or loses the records of the old slots at the cursor and advances it. -/
  | migrationStep (ruu : Nat)
  /-- R133: When all 384 cursors are finished FTB enters Retire, makes the new set active, sets CapLog2 and returns to Ready. -/
  | moveDone
  /-- R118: A sweep step ages out expired records of one slot position and leaves others unchanged. -/
  | sweepStep (ruu : Nat)
  /-- R114: FTB adds up to 128 handles from the pool to a stock holding 128 or fewer. -/
  | stockRefill (ruu : Nat)
  /-- R114: FTB takes 128 handles back into the pool from a stock above 384. -/
  | stockReturn (ruu : Nat)
  /-- R120: A removed digest leaves the recent list after the rebirth window. -/
  | rebirthExpire (ruu : Nat)
  /-- R107: The record clock advances by 1 every 81,920 CLK_TIME cycles. -/
  | recordClockTick
  /-- R161: The meter clock advances by 1 every 128 CLK_TIME cycles. -/
  | meterClockTick
  /-- R108: A read of FTB.RCLK latches device time into RCLK_NS and RCLK_SEC in the same cycle. -/
  | rclkRead (fn : Nat)
  /-- R129: An EXPORT_CTL Start begins an export walk, or is refused outside Ready or while one is active. -/
  | exportStart (fn : Nat)
  /-- R129: An EXPORT_CTL Stop ends the walk at once with Aborted set. -/
  | exportStop (fn : Nat)
  /-- R129: An export read reads a Valid record and its annex at its turn and writes one EXPORT_ENTRY to the channel. -/
  | exportRead (ruu : Nat)
  /-- R176: A punt or host command joins its FSC priority level, or is refused and handled by Overflow. -/
  | fscEntryArrive (pid : Nat)
  /-- R177: FSC takes eligible entries by age and priority and dispatches them to the cluster with the most free threads. -/
  | fscDispatch
  /-- R179: An FSC entry that has waited Expire is removed and its packet forwarded or dropped by Overflow. -/
  | entryExpire (level : Nat)
  /-- R191: A HOST_CMD message handed to FSC is placed in a punt entry, or answered NoEntry, Denied or Malformed. -/
  | hostCmdSubmit
  /-- R203: A ready thread issues one microword, whose sequencer, ALUs and context port read then write together, or aborts as Illegal. -/
  | microwordIssue (cluster thread : Nat)
  /-- R207: A RecRead request reads a record by digest, location or key into the record buffer. -/
  | recRead (cluster thread : Nat)
  /-- R207: A RecOps request journals up to 8 operations on a hit record. -/
  | recOps (cluster thread : Nat)
  /-- R207: A RecWrite request journals a masked write of record groups. -/
  | recWrite (cluster thread : Nat)
  /-- R207: A RecInsert request journals an insert with key and initial fields. -/
  | recInsert (cluster thread : Nat)
  /-- R207: A RecDelete request journals removal of a record. -/
  | recDelete (cluster thread : Nat)
  /-- R255: A Lookup request searches LPM, L2T, ECM, NAT or ACL at the current generation and fills its result slot. -/
  | routineLookup (cluster thread : Nat)
  /-- R207: A GenRead request reads 8 bytes of the HBM general region into a result slot. -/
  | genRead (cluster thread : Nat)
  /-- R207: A GenWrite request journals an 8-byte write to the general region. -/
  | genWrite (cluster thread : Nat)
  /-- R207: An EventPost request journals a packet for an event queue, optionally with the FLOW_KEY. -/
  | eventPostReq (cluster thread : Nat)
  /-- R185: A Forward at the end microword disposes of the packet to its targets and rewrites its head. -/
  | forward (cluster thread : Nat)
  /-- R185: A Drop at the end microword frees the packet's cells and voids its numbers. -/
  | drop (cluster thread : Nat)
  /-- R193: A Reply at the end microword journals the host-command reply. -/
  | reply (cluster thread : Nat)
  /-- R311: A Fence request journals a general-region fence in journal order. -/
  | fenceReq (cluster thread : Nat)
  /-- R180: A read or lookup result arrives in its result slot and a thread waiting on it becomes ready. -/
  | resultArrive (err : Bool)
  /-- R181: At a safe point the journal is sealed and its entries are sent in order to their targets. -/
  | seal (cluster thread : Nat)
  /-- R181: Every sealed entry has been admitted to its target's queue and the thread continues with an empty journal. -/
  | sealAdmitted (cluster thread : Nat)
  /-- R188: A thread running RunLimit × 64 CLK_FE cycles aborts with reason RunLimit. -/
  | runlimitExpire (cluster thread : Nat)
  /-- R189: A write of FEN.KILL Go aborts the named thread at its next safe point after the seal. -/
  | kill (fn cluster thread : Nat)
  /-- R219: A Load fetches, verifies and writes a signed IMAGE into the inactive bank of the target clusters, or is refused. -/
  | ucsLoad (fn : Nat) (image : List Byte) (err : Bool)
  /-- R218: A Clone copies an active bank into the inactive bank of the target clusters. -/
  | ucsClone (fn : Nat)
  /-- R217: An Enrol fetches an ENROLL record and enrols or revokes a customer key, and a fresh nonce is drawn. -/
  | ucsEnrol (fn : Nat) (record : List Byte) (err : Bool)
  /-- R219: A load, clone or enrolment ends, leaving target banks Ready, Incompatible or Empty and setting Done and Result. -/
  | loadDone (bad : List Nat)
  /-- R220: A SWAP_CTL Swap starts draining the cluster to make its inactive bank active, or is refused. -/
  | swap (fn cluster : Nat)
  /-- R221: In the first cycle with no thread running the active bank changes, a trial may start and dispatch resumes. -/
  | swapDrainDone (cluster : Nat)
  /-- R222: Trial aborts reach TrialAborts and the cluster swaps back automatically and sets RolledBack. -/
  | trialRollback (cluster : Nat)
  /-- R222: TrialTime runs out and the trial ends. -/
  | trialExpire (cluster : Nat)
  /-- R225: A SWAP_CTL Confirm ends the trial and, with RaiseFloor, raises the security floors in MRAM. -/
  | confirm (fn cluster : Nat) (raise : Bool)
  /-- R227: A write of POISON_CLR resets the poison record. -/
  | ucsPoisonClr (fn cluster : Nat)
  /-- R228: A READ_CTL Go loads a microword or dispatch entry into READ_DATA, with vendor words reading 0. -/
  | ucsRead (fn cluster : Nat)
  /-- R227: The store scrubber checks a word, correcting single-bit errors and poisoning uncorrectable ones. -/
  | ucsScrub (cluster outcome : Nat)
  /-- R239: A ROUTE_CMD Add stages a route add with its short-table expansion, or is refused. -/
  | routeAdd (fn : Nat)
  /-- R239: A ROUTE_CMD Delete stages a route delete, or is refused. -/
  | routeDelete (fn : Nat)
  /-- R551: A ROUTE_CMD Read loads the active route result into ROUTE_DATA and sets Found. -/
  | routeRead (fn : Nat)
  /-- R551: An NH_CMD Write stages the selected next hop, or is refused for staging capacity. -/
  | nhWrite (fn : Nat)
  /-- R551: An NH_CMD Read loads the active next hop entry. -/
  | nhRead (fn : Nat)
  /-- R551: A write of the upper word of LPM.SMAC stages the 64-bit source MAC entry. -/
  | smacWrite (fn k data : Nat)
  /-- R243: An L2T CMD Add stages a host entry that replaces any learned entry at commit. -/
  | l2Add (fn : Nat)
  /-- R243: An L2T CMD Delete stages removal of a key. -/
  | l2Delete (fn : Nat)
  /-- R243: An L2T CMD Read loads the active entry into DATA. -/
  | l2Read (fn : Nat)
  /-- R243: A VLAN_CMD Write stages FloodGroup and LearnEn for the selected VLAN. -/
  | vlanWrite (fn : Nat)
  /-- R243: A VLAN_CMD Read loads the selected VLAN entry. -/
  | vlanRead (fn : Nat)
  /-- R245: An ECM GRP_CMD Write stages the selected multipath group, or is refused. -/
  | grpWrite (fn : Nat)
  /-- R245: An ECM GRP_CMD Read loads the selected group. -/
  | grpRead (fn : Nat)
  /-- R248: An ECM GRP_CMD Rebuild computes the group's buckets into staging in striped or resilient mode, or is refused. -/
  | rebuild (fn : Nat)
  /-- R248: A Rebuild ends and STAT.Busy clears. -/
  | rebuildDone
  /-- R245: An ECM SLOT_CMD Write stages a member slot's next hop and State. -/
  | slotWrite (fn : Nat)
  /-- R245: An ECM SLOT_CMD Read loads a member slot. -/
  | slotRead (fn : Nat)
  /-- R249: A NAT ADDR_CMD Write stages an address entry, or is refused. -/
  | natAddrWrite (fn : Nat)
  /-- R249: A NAT ADDR_CMD Read loads an address entry. -/
  | natAddrRead (fn : Nat)
  /-- R252: A NAT PFX_CMD Write stages a NAT64 prefix. -/
  | natPfxWrite (fn : Nat)
  /-- R252: A NAT PFX_CMD Read loads a NAT64 prefix. -/
  | natPfxRead (fn : Nat)
  /-- R250: A NAT MAP_CMD Write stages a block map entry in the on-die overlay. -/
  | natMapWrite (fn : Nat)
  /-- R250: A NAT MAP_CMD Read loads a block map entry. -/
  | natMapRead (fn : Nat)
  /-- R250: A committed overlay map entry is written to HBM, after which lookups use HBM. -/
  | natMapWriteback
  /-- R256: A SHW CTL Start begins a pass over the shadow entries. -/
  | shwStart (fn : Nat)
  /-- R256: A SHW CTL Stop ends the pass. -/
  | shwStop (fn : Nat)
  /-- R256: A SHW CTL Dump writes each host entry of the table as a SHADOW_ENTRY to the dump channel. -/
  | shwDump (fn : Nat)
  /-- R256: The walker checks one shadow entry as Pending, Match, Differs or Missing, repairing in Mode 1. -/
  | shadowCheck (entry : List Byte) (err : Bool)
  /-- R274: An ENT_CMD Write writes an entry into the staging plane, or is refused as InUse or invalid. -/
  | aclEntWrite (fn bank : Nat)
  /-- R274: An ENT_CMD Delete clears the entry's staging-plane bit. -/
  | aclEntDelete (fn bank : Nat)
  /-- R274: An ENT_CMD Read loads the stored copy and hit counter, clearing the counter with ClearHits. -/
  | aclEntRead (fn bank : Nat) (clear : Bool)
  /-- R275: A Write or Delete made while a commit is Busy is applied after the previous generation retires. -/
  | aclEntDeferred (bank : Nat)
  /-- R300: A QCMD stage writes QCFG for the selected queue into staging, or is refused. -/
  | egsQcmdStage (fn slice : Nat)
  /-- R300: A QCMD load reads the active queue entry into QCFG. -/
  | egsQcmdLoad (fn slice : Nat)
  /-- R300: A GRP_CMD stage writes the shaper group configuration into staging, or is refused. -/
  | egsGrpStage (fn slice : Nat)
  /-- R300: A GRP_CMD load reads the active group entry. -/
  | egsGrpLoad (fn slice : Nat)
  /-- R300: A GRP_CMD state load reads the group state into GRP_STATE and GRP_DEPTH. -/
  | egsGrpState (fn slice : Nat)
  /-- R301: An MTR CMD stage writes the selected meter configuration into staging, or is refused. -/
  | mtrStage (fn : Nat)
  /-- R301: An MTR CMD load reads the active meter entry. -/
  | mtrLoad (fn : Nat)
  /-- R301: An MTR CMD state load reads tokens and colour counts, clearing the counts when asked. -/
  | mtrStateLoad (fn : Nat) (clear : Bool)
  /-- R297: MTR applies a zero-length refill to every meter at least once per second. -/
  | mtrRefill
  /-- R315: Each CLK_MEM cycle the controller issues at most one command per pseudo-channel by urgency, row hit and age. -/
  | hbmCommandIssue (pc : Nat)
  /-- R330: Read data returns, corrected with a repair write queued or marked poisoned. -/
  | hbmReadReturn (pc outcome : Nat)
  /-- R310: A write enters the pseudo-channel queue with check bits and becomes visible to later reads. -/
  | hbmWriteAccept (pc port addr mask : Nat) (data : List Byte)
  /-- R331: A parity or CRC error reported by the stack makes the controller reissue the command up to 3 times. -/
  | commandRetry (pc : Nat) (crc : Bool)
  /-- R331: A read with no data within 4 µs completes as uncorrectable. -/
  | readReturnTimeout (pc : Nat)
  /-- R317: A 1 µs cap window ends and capped requests may be accepted again. -/
  | capWindowEnd (stack : Nat)
  /-- R319: A pseudo-channel enters its 350 ns refresh window of all-bank refresh and a calibration slot. -/
  | refreshWindow (pc : Nat) (est : List (Int × Nat × Nat × Int))
  /-- R321: Every 256 µs the controller reads its stack temperature and sets or clears Hot and Derate. -/
  | hbmTempRead (stack : Nat) (reading : Int)
  /-- R332: The scrubber reads one burst, repairing a corrected one and reporting an uncorrectable one. -/
  | hbmScrub (stack outcome : Nat)
  /-- R326: A FREQ_CTL Go stops the ports and puts all stacks into self-refresh to change rate, or is refused. -/
  | freqChange (fn data : Nat)
  /-- R327: The memory PLL and delay lines have relocked, self-refresh is exited and the ports accept requests at the new rate. -/
  | freqHoldEnd
  /-- R308: A write of HBC.MAP_CFG while Enable is 1 is refused, counted and posted. -/
  | mapCfgWrite (fn inst data : Nat)
  /-- R354: A TIME_CTL Set loads device time from SET_* in one step cycle, or is refused for bad nanoseconds. -/
  | timeSet (fn : Nat) (andStep : Bool)
  /-- R354: A TIME_CTL Step adds the signed offset to device time in one step cycle. -/
  | timeStep (fn : Nat)
  /-- R353: A write of the upper word of TIM.INCR changes the time base rate, or is refused outside ±1,000 ppm. -/
  | incrWrite (fn : Nat) (whole : Bool) (data : Nat)
  /-- R370: A read of TIM.TIME_NS latches the seconds and fraction in the same cycle. -/
  | timeRead (fn : Nat)
  /-- R356: PPS_OUT rises when device time passes each second plus the offset. -/
  | ppsOutPulse
  /-- R357: A PPS_IN edge latches device time into PPS_IN_STAMP, or is ignored if too soon. -/
  | ppsInEdge (falling : Bool)
  /-- R358: At each 10,000,000th 10 MHz edge TIM latches the elapsed device time. -/
  | tenMhzMeasure
  /-- R364: A lane completes a path-delay measurement and moves its constant by at most 0.0625 ns, advancing CAL_GEN. -/
  | calMeasurement (lane : Nat) (transmit : Bool) (sum : Int)
  /-- R379: Setting STREAM_CFG.Enable begins a run with a start seal, or is refused with a reason. -/
  | streamEnable (fn stream data : Nat)
  /-- R380: Clearing Enable ends the run, chains buffered entries and makes a final seal. -/
  | streamDisable (fn stream data : Nat)
  /-- R374: The hash unit chains the next entry whose Stamp the horizon has passed. -/
  | ledgerChain (stream : Nat)
  /-- R375: The horizon passes an epoch boundary and SDL closes the epoch for sealing. -/
  | epochClose (stream : Nat)
  /-- R377: SEC signs a SEAL and it is delivered to the seal channel. -/
  | sealSigned (stream : Nat)
  /-- R385: A full buffer drains to 2,048 and SDL chains one gap entry for the entries not recorded. -/
  | gapEntry (stream : Nat)
  /-- R386: SDL reads chained entries from the staging ring and writes them to the entry channel. -/
  | stagingDeliver (stream : Nat)
  /-- R382: Every Period seconds SDL makes, signs and stores an ANCHOR in MRAM and sends it. -/
  | anchorPeriodic
  /-- R382: A write of ANCHOR_CTL.Now makes an anchor at once, or is refused within 1 s of the last. -/
  | anchorNow (fn : Nat)
  /-- R384: A ROT_CTL Go starts a ledger key rotation, or is refused. -/
  | rotationGo (fn : Nat)
  /-- R384: SEC has made the next ledger key and its certificate, and streams close their next epochs with rotation seals. -/
  | rotationKeyReady
  /-- R384: Every stream has made its rotation seal, the old key is erased and ROT_STAT.Done is set. -/
  | rotationDone
  /-- R394: A hot reset, link disable or DL_Down acts as an FLR of every function and removes every VF. -/
  | pcieLinkReset
  /-- R394: The PCIe link trains and LINK_STAT and HIF event bit 2 report it. -/
  | pcieLinkUp (rate width : Nat)
  /-- R397: Setting VF Enable creates VF1 to VFn in their reset state. -/
  | vfEnableSet (n : Nat)
  /-- R397: Clearing VF Enable removes every VF and resets its pages as under FLR. -/
  | vfEnableClear
  /-- R398: A VF count change completes and sets HIF event bit 3. -/
  | vfChangeDone
  /-- R392: A function moves between D0 and D3hot, keeping its state. -/
  | powerStateChange (fn : Nat) (d3 : Bool)
  /-- R405: A Function Level Reset stops and resets the function's channels, queues, commands, buffers, grants, MSI-X and mailbox. -/
  | flr (fn : Nat)
  /-- R406: The FLR completes, FLR_ACTIVE clears and HIF event bit 1 is set. -/
  | flrDone (fn : Nat)
  /-- R404: A VF write of ToPfDoorbell sets ToPfBusy and its MBX_PEND bit. -/
  | toPfDoorbell (fn window data : Nat)
  /-- R404: A PF0 write of FromPfDoorbell sets FromPfFull and FromPfLength and signals the VF's vector. -/
  | fromPfDoorbell (fn window data : Nat)
  /-- R404: A PF0 write of 1 to an MBX_PEND bit clears it and the VF's ToPfBusy. -/
  | mbxPendWrite (fn j data : Nat)
  /-- R410: SPDM GET_VERSION is answered with version 1.2. -/
  | getVersion
  /-- R410: SPDM GET_CAPABILITIES is answered with the responder's capabilities. -/
  | getCapabilities (ct flags dts maxSize : Nat)
  /-- R410: SPDM NEGOTIATE_ALGORITHMS selects ECDSA P-384 and SHA-384. -/
  | negotiateAlgorithms (n : Nat) (req : List Byte)
  /-- R410: SPDM GET_DIGESTS returns the digest of certificate slot 0. -/
  | getDigests
  /-- R411: SPDM GET_CERTIFICATE returns part of the slot 0 chain. -/
  | getCertificate (slot offset length : Nat)
  /-- R411: SPDM CHALLENGE is answered with a signed response for slot 0. -/
  | challenge (slot summary : Nat) (nonce : List Byte)
  /-- R412: SPDM GET_MEASUREMENTS returns the measurement blocks captured at acceptance, signed on request. -/
  | getMeasurements (attr op : Nat) (nonce : List Byte) (slot : Nat)
  /-- R410: Any other or premature SPDM request is answered with ERROR. -/
  | spdmUnsupported (code : Nat)
  /-- R409: A DOE Abort abandons the data object in progress. -/
  | doeAbort
  /-- R417: A PF0 write of DMA.BIND binds a channel to an endpoint, or is refused. -/
  | bindWrite (fn chan data : Nat)
  /-- R441: A write of DMA.STG_CFG sets the staging reserves, or is refused when they exceed 32,768 blocks. -/
  | stgCfgWrite (fn data : Nat)
  /-- R422: A channel doorbell adds descriptors to its credit, or is discarded on overflow. -/
  | dmaDoorbell (fn window chan add : Nat)
  /-- R423: Writing CTL.Run = 1 starts the channel from HEAD. -/
  | dmaRunSet (fn chan : Nat)
  /-- R439: Writing Run = 0 stops new requests, zeroes credit and lets issued requests complete. -/
  | dmaRunClear (fn chan : Nat)
  /-- R439: Every issued request and write-back has completed and State becomes Stopped. -/
  | dmaStopped (chan : Nat)
  /-- R438: Writing Resume in Halted clears HALT, zeroes the hop counter and continues from HEAD. -/
  | dmaResume (fn chan : Nat) (run : Bool)
  /-- R438: A write of HEAD while Halted or Stopped sets the next descriptor; in other states it is discarded. -/
  | dmaHeadWrite (fn chan addr : Nat)
  /-- R424: A running channel with credit fetches descriptors from HEAD and follows Next, halting at HopLimit. -/
  | descriptorFetch (chan : Nat)
  /-- R427: An Idle channel with credit starts a burst when its level reaches HighMark, reserving its bytes. -/
  | burstStart (chan : Nat)
  /-- R427: A level held above 0 for FlushUs µs while Idle starts a burst. -/
  | flushusExpire (chan : Nat)
  /-- R428: A burst ends and the next starts if the level is at least LowMark and credit remains, else the channel goes Idle. -/
  | burstEnd (chan : Nat)
  /-- R436: A completion for a DMA read arrives and delivers data, or halts the channel for UR, CA or EP. -/
  | pcieCompletion (chan idx status : Nat) (ep : Bool) (data : List Byte)
  /-- R436: A read has no completion within the timeout and the channel halts with CplTimeout. -/
  | completionTimeout (chan idx : Nat)
  /-- R430: A Data descriptor completes, its write-back is issued in order and a Notify item is posted. -/
  | descriptorComplete (chan : Nat)
  /-- R431: The zero-length flush read completes and the write-back with Flushed set is issued. -/
  | flushReadDone (chan : Nat)
  /-- R435: A complete TxA or TxB frame enters its host port as an ingress packet, or is dropped as TooLong. -/
  | txFrameEnter (port : Nat)
  /-- R450: A Submit channel that got an empty response asks Cistern again after 1 µs. -/
  | submitRetry (chan : Nat)
  /-- R447: CPM decides one cycle's allocations in port order from the smallest fitting pool, with fallback. -/
  | cisternAllocate (cores : List (Nat × Nat × Nat)) (chan : Option Nat)
  /-- R448: A free lowers a buffer's RefCount and frees it at 0, or is refused as Stale, DoubleFree or Foreign. -/
  | cisternFree (tag handle : Nat)
  /-- R445: The Holder adds a reference to a buffer, refused beyond 15. -/
  | cisternAddref (tag handle : Nat)
  /-- R445: A buffer is handed to its destination, which becomes its Holder. -/
  | cisternHandoff (tag handle dest : Nat) (data : List Byte)
  /-- R448: A CPM FREE_CMD Go frees a handle as function 0. -/
  | freeCmd (fn handle : Nat)
  /-- R449: A reclaim frees every Held buffer of one Owner and advances each generation. -/
  | reclaim (fn owner : Nat)
  /-- R450: A management core's message to a function is queued for its Deliver channel, or refused. -/
  | deliverSend (core f handle : Nat) (data : List Byte)
  /-- R456: A post reserves header and payload words at the queue tail and takes the next Seq, overwriting or being refused. -/
  | eventPost (page typ queue items : Nat)
  /-- R456: A post writes its header last and the packet becomes complete and readable, setting Ready. -/
  | postComplete (queue seq : Nat) (payload : List Nat)
  /-- R460: A reservation not complete after StaleUs is completed by EVQ with Void set and a notice. -/
  | staleVoid (queue : Nat)
  /-- R465: The oldest complete packet has been held for NotifyUs and Ready is set. -/
  | notifyTimeout (queue : Nat)
  /-- R461: A read of the lower word of ITEM[0] latches the packet at the read pointer for the reading function. -/
  | item0Read (fn queue len : Nat)
  /-- R462: A queue doorbell releases complete packets up to the given Seq, or is ignored and counted. -/
  | evqDoorbell (fn window queue seq : Nat)
  /-- R463: A read of NEXT returns the highest-priority owned queue with a complete packet and advances the round-robin. -/
  | nextRead (fn queue : Nat)
  /-- R464: A QCMD DropRemainder discards every complete packet held. -/
  | dropRemainder (fn queue : Nat)
  /-- R453: A write of EVQ.QMEM sets a queue's memory range, or is refused. -/
  | qmemWrite (fn queue data : Nat)
  /-- R453: A write of Enable = 1 to a queue is refused when its range overlaps an enabled queue. -/
  | queueEnableWrite (fn queue data : Nat)
  /-- R454: The EVQ scrubber reads a word and writes corrected words back. -/
  | evqScrub (queue idx word outcome : Nat)
  /-- R476: A GRANT_CMD Write sets a counter read grant. -/
  | grantWrite (fn : Nat)
  /-- R476: A GRANT_CMD Read loads a grant. -/
  | grantRead (fn : Nat)
  /-- R477: A SNAP_CTL Go arms a snapshot at the earliest lead, or is refused. -/
  | snapGo (fn : Nat)
  /-- R477: A SNAP_CTL Arm arms a snapshot at SNAP_TIME, or is refused. -/
  | snapArm (fn : Nat)
  /-- R477: A SNAP_CTL Cancel at least 420 ns ahead disarms the snapshot. -/
  | snapCancel (fn : Nat)
  /-- R478: At the act every selected first page captures its counters, clearing them with Clear, and a periodic series arms the next. -/
  | snapAct
  /-- R479: 420 ns before a periodic act GTH cancels it if the previous snapshot is still gathering or held. -/
  | snapPeriodCheck
  /-- R481: Every selected page result has reached the GTH buffer. -/
  | gatherDone (cycles : Nat)
  /-- R482: GTH writes the snapshot as one Stream entry to its channel. -/
  | snapDeliver
  /-- R484: At a window boundary PMC latches each port's counts and raises the peaks. -/
  | bwWindowEnd
  /-- R484: A write of BW_CFG ends the current window early with Short set. -/
  | bwCfgWrite (fn data : Nat)
  /-- R485: A read of the lower word of BW_RX_BYTES latches the selected port's BW values from one window. -/
  | bwRxBytesRead (fn len : Nat)
  /-- R490: PMC closes an IPFIX Message when the next record would exceed MaxMessage and writes it to the channel. -/
  | ipxMessageClose
  /-- R490: A Message that has held records for FlushMs is closed. -/
  | ipxFlushExpire
  /-- R490: A write of IPX_CTL.SendTemplates makes the next Message carry the Template Set. -/
  | ipxSendTemplates (fn : Nat)
  /-- R490: Clearing IPX_CFG.Enable stops triggers, drains the ring and clears Active; other writes while Active are refused. -/
  | ipxEnableWrite (fn data : Nat)
  /-- R493: A detector reports to ERR, which classes, logs and signals it and starts the containment its class calls for. -/
  | detectorReport (page det addr : Nat) (unc : Bool) (a k : Nat)
  /-- R503: SEC writes the latest held class 4 report to the MRAM critical record once its second has passed. -/
  | critRecordWrite
  /-- R499: A datapath soft reset begins: arbiters stop, threads abort, caches write back and the stacks enter self-refresh. -/
  | dprGo (fn data : Nat) (lost : List (Nat × Nat))
  /-- R499: Every stack is in self-refresh and the RUUs, engines, Basin, Rill and schedulers are reset, or the reset waits under Hold. -/
  | dprSelfRefresh
  /-- R499: The stacks leave self-refresh, ingress resumes, Done is set and an event is posted. -/
  | dprDone
  /-- R500: Writing Hold = 0, or the thermal release, lets a held soft reset continue. -/
  | dprHoldRelease (fn : Nat)
  /-- R501: Once every stack reads 100 °C or below and the die 115 °C or below, ERR clears Hold. -/
  | thermalRelease
  /-- R544: The hardware comparator asserts THERMTRIP# when the die exceeds 135 °C. -/
  | thermtrip
  /-- R543: TMP reads the 24 die sensors every 100 µs, excluding failed ones, and sets DieMax. -/
  | dieSensorRead (readings : List Int) (failed : List Nat)
  /-- R537: TMP measures each rail every 10 µs and latches a reading outside its window. -/
  | vmonSample (readings : List Nat)
  /-- R25: PERST# or a fall of PWR_OK applies a cold reset that clears everything except MRAM. -/
  | perst (power : Bool)
  /-- R506: Reset release starts Dawn stage 1 on management core 0. -/
  | resetRelease (rcv : Bool)
  /-- R506: A Dawn stage finishes, records its time and the next stage begins, or a fault stops Dawn. -/
  | dawnStageEnd (us fault info : Nat) (counterFail : Bool) (cal : List (Nat × Nat × Nat × Nat × Nat × Nat)) (lanes : List (Nat × Nat × Nat)) (failed : List Nat)
  /-- R514: A FLASH_CMD read copies 256 bytes of the boot flash into FLASH_BUF. -/
  | flashRead (fn : Nat)
  /-- R514: A FLASH_CMD program writes 256 bytes of FLASH_BUF to the flash. -/
  | flashProgram (fn : Nat)
  /-- R514: A FLASH_CMD erase clears a 64 KiB flash sector. -/
  | flashErase (fn : Nat)
  /-- R514: A flash operation ends, setting Done, or Error when it exceeds its time limit. -/
  | flashDone (late : Bool)
  /-- R513: A write of FLOOR_CTL.Raise raises the firmware floor to the running images' SecurityVersion. -/
  | floorRaise (fn : Nat)
  /-- R515: A STORE_CFG Go fetches and checks a microcode IMAGE and writes it to an MRAM image slot, or empties the slot. -/
  | storeGo (fn slot : Nat) (image : List Byte) (err : Bool)
  /-- R515: An image store completes and sets Done and Result. -/
  | storeDone (bad : Bool)
  /-- R521: A PCFG_CTL Commit writes the PCFG copy to MRAM, or is refused or busy. -/
  | pcfgCommit (fn : Nat)
  /-- R521: A PCFG_CTL Reload loads PCFG from MRAM. -/
  | pcfgReload (fn : Nat)
  /-- R522: A DBG_CTL Submit checks a DEBUG_TOKEN and unlocks its scopes, or refuses it, and draws a new nonce. -/
  | dbgSubmit (fn : Nat)
  /-- R527: The monitor lists commands available at the current level, or the syntax of one. -/
  | monHelp
  /-- R527: The monitor prints ROM, monitor, firmware and microcode versions. -/
  | monVer
  /-- R527: The monitor prints serial, identity key hash, boot counter and ledger key serial. -/
  | monId
  /-- R527: The monitor prints BOOT.STAT decoded, stage times and DIR_USED. -/
  | monDawn
  /-- R527: The monitor prints die and stack temperatures with Hot and Derate. -/
  | monTemp
  /-- R527: The monitor prints State, Link and speed of ports. -/
  | monPort
  /-- R527: The monitor prints the last ERR_LOG entries. -/
  | monLog
  /-- R527: The monitor prints a certificate or LEDGER_CERT in hexadecimal. -/
  | monCert
  /-- R527: The monitor prints boot counter, AnchorSeq, certificates used, image slot versions and floors. -/
  | monMram
  /-- R525: The monitor checks a password and raises the level, or refuses under the lockout rules. -/
  | monLogin
  /-- R527: The monitor returns to Observe. -/
  | monLogout
  /-- R527: The monitor prints DBG_NONCE or submits a debug token. -/
  | monUnlock
  /-- R528: The monitor reads BAR0 words with PF0 permissions. -/
  | monRd
  /-- R528: The monitor writes one 32-bit BAR0 word, refused under HostLock. -/
  | monWr (host : Option (List Byte))
  /-- R527: The monitor reads FENCE of a page and prints WriteSeq and Stall. -/
  | monFence
  /-- R527: The monitor switches its baud rate after OK, optionally committing MonBaud. -/
  | monBaud
  /-- R527: The monitor writes BOOT.FLOOR_CTL.Raise. -/
  | monFloor
  /-- R527: The monitor starts a datapath soft reset and prints OK when Done is set. -/
  | monResetDp
  /-- R527: After confirmation the monitor applies a cold reset. -/
  | monResetChip
  /-- R527: The monitor halts a management core at Debug level. -/
  | monCoreHalt
  /-- R527: The monitor resumes a management core at Debug level. -/
  | monCoreResume
  /-- R527: The monitor reads SRAM of a management core at Debug level. -/
  | monCoreRd
  /-- R527: The monitor reads words of the HBM general region at Debug level. -/
  | monHbmRead
  /-- R525: After IdleS seconds without input the monitor returns to Observe. -/
  | monIdleTimeout
  /-- R32: A host read of a register clears the RC fields it covers, or is answered with 0 and counted in BAR_MISS_CNT or VF_DENY_CNT when misaligned, reserved, too long or refused. -/
  | registerRead (fn bar addr len : Nat)
  /-- R35: An instance reset ends, STAT.ResetActive clears and the instance works again, for example RCC leaving uncached operation within 20 µs. -/
  | blockResetEnd (page : Nat)
  /-- R27: An armed ordered port reconfiguration acts at its act time, after the snapshots and commits of the same CLK_TIME cycle. -/
  | portReconfiguration (act mac : Nat) (ports : List (Nat × Nat))
  /-- R239: The short-table expansion started by a route add or delete finishes writing its entries, up to 52.4 µs after the write. -/
  | routeExpansionDone
  /-- R495: ADM finishes recounting Used and SharedUsed from the link entries and returns from reserve-only admission to normal admission. -/
  | admRecountDone
  /-- R190: FSC finishes recounting its level counters after a parity error, and dispatch resumes. -/
  | fscLevelRecountDone
  /-- R451: CPM finishes rebuilding a pool's free list from the buffer states, and the pool stops answering empty. -/
  | poolRebuildDone (pool : Nat)
  /-- R449: A CPM FREE_CMD or RECLAIM completes, clearing CMD_STAT.Busy and setting Done, or Refused with its reason. -/
  | cpmCommandDone
  /-- R521: The MRAM write of a PCFG commit ends, PCFG_STAT.Busy clears and Done is set. -/
  | pcfgCommitDone (bad : Bool)
  /-- R495: The TRNG continuous health tests pass again, and draws and the operations that need them are served again. -/
  | trngTestsPass
  /-- R356: PPS_OUT falls after it has been high for PPS_OUT_CFG.Width ms. -/
  | ppsOutFall
  /-- R409: A DOE Discovery request object is answered with the supported data object types. -/
  | doeDiscovery (index : Nat)
  /-- R396: A configuration write of a function's Memory Space Enable or Bus Master Enable makes its BAR accesses complete with Unsupported Request, or stops its DMA channels and holds its MSI-X messages pending, or releases them. -/
  | busMasterEnableWrite (fn : Nat) (mse bme : Bool) (mps mrrs ctl : Nat)
  /-- R526: A monitor line that is malformed or names no command is answered with ERR 1 Syntax or ERR 2 Unknown and a new prompt. -/
  | monUnknownCommand
  /-- R526: A character received on the monitor UART is echoed, erases the previous character on backspace, and restarts the idle time. -/
  | monInputCharacter (ch : Nat)
  deriving DecidableEq, Repr

end Sys2Proof
end

