-- ==== Sys2Proof/Decode.lean ====
section
/-! DEFINITION. The reading of a command from a word by the bits that the opcode table gives its row. The block takes its commands
from outside; no row of its table has bits, so no word spells a command (log entry 3). -/

namespace Sys2Proof

/-- The command that `nbits` bits with value `w` spell: none, since no row of the table gives bits. -/
def decodeTableWord (_nbits _w : Nat) : Option Instr := none

end Sys2Proof
end

