-- ==== Sys2Proof/Config.lean ====
section
/-! DEFINITION. What the manual leaves to the part or to nobody: the free values. Each is an opaque constant with no
body, so no proof can see what it is. -/

namespace Sys2Proof.Config

/-- The n-th 32-bit draw of the true random number generator. -/
opaque trng : Nat → BitVec 32

/-- Which unused handle the device takes next: the manual does not specify it (R114). -/
opaque handlePick : Nat → Nat

/-- Which handle of its stock a home RUU issues, and which ones FTB takes back (R114). -/
opaque stockPick : Nat → Nat

/-- What the other bytes of a slot hold once its Valid bit is 0 (R106). -/
opaque emptied : Nat → BitVec 512

/-- The two hash functions of L2T: seed, MAC, VLAN and function (0 or 1) to a bucket. The manual does not give them (R240). -/
opaque l2Hash : Nat → Nat → Nat → Nat → Nat

/-- The DSCP that GreenAct 2 of a meter writes: MTR.CFG has no such field (R299, R301). -/
opaque greenDscp : Nat → BitVec 6

/-- The Identification of an IPv4 header that NAT64 makes for an unfragmented packet (R252). -/
opaque natIdent : Nat → BitVec 16

/-- The Pyrdawen vendor key in key slot 0: 97 bytes written at manufacture and never changed (R214). -/
opaque vendorKey : List (BitVec 8)

/-- The device's serial number (R516, R517). -/
opaque serial : BitVec 64

/-- The identity private key, made at manufacture inside SEC and never read out (R516). -/
opaque identityKey : Nat

/-- The DER bytes of certificates 0 to 2, by number and subject public key (R517). -/
opaque certDer : Nat → List (BitVec 8) → List (BitVec 8)

/-- What the notice of a queue emptied by EVQ detector 1 says of a reservation where none was open: Seq, Source and Type (R467, R470), by the
count of free values drawn. -/
opaque lostNotice : Nat → BitVec 28

/-- SHA-384 of the Pyrdawen root certificate, which SPDM slot 0 carries (R411, R517). -/
opaque rootHash : Fin 48 → BitVec 8

/-- Pyrdawen's PCI-SIG vendor identifier (R393, R521). -/
opaque vendorId : BitVec 16

/-- The Interrupt Message Number of the DOE capability (R401). -/
opaque doeVector : BitVec 11

/-- Whether the link layer reports a TLP that HIF detector 0 drops through AER, or replays it (R414), by the count of free values drawn. -/
opaque tlpReported : Nat → Bool

/-- SHA-384 of the boot ROM (R412), and its version (R527). -/
opaque romHash : Fin 48 → BitVec 8
opaque romVersion : BitVec 32

/-- What a word of a management core's SRAM holds when the monitor reads it: core, address, and the count of free values drawn.
The firmware that runs there is not part of the manual (R512, R527). -/
opaque sramWord : Nat → Nat → Nat → BitVec 32

/-- What a byte of the boot flash holds after an erase or program that did not end in time (R514), by the count of free values
drawn and the byte's address. -/
opaque flashTorn : Nat → Nat → BitVec 8

/-- What a byte of HBM holds that a change of the table layout did not preserve (R102), by the count of free values drawn and the byte's
address. -/
opaque lostByte : Nat → Nat → BitVec 8

/-- The Version field of ID and the BlockCaps field of CAPS, by block type code: the manual gives no values (R34). -/
opaque blockVersion : Nat → BitVec 8
opaque blockCaps : Nat → BitVec 16

end Sys2Proof.Config
end

