-- ==== Sys2Proof/Machine/Assoc.lean ====
section
/-! DEFINITION. Sparse tables: lists of (key, value) pairs in one canonical form, keys strictly rising. Memory is such
a table of bytes in which no entry equals what an unlisted address reads as. -/

namespace Sys2Proof.Machine

/-- A sparse table. -/
abbrev Tab (α : Type) := List (Nat × α)

/-- The value of key `k`, or `d` where none is listed. -/
def Tab.get {α : Type} (d : α) : Tab α → Nat → α
  | [], _ => d
  | (k', v) :: t, k => if k' = k then v else Tab.get d t k

/-- The value of key `k`, where one is listed. -/
def Tab.find {α : Type} : Tab α → Nat → Option α
  | [], _ => none
  | (k', v) :: t, k => if k' = k then some v else Tab.find t k

/-- The table with key `k` set to `v`. -/
def Tab.set {α : Type} : Tab α → Nat → α → Tab α
  | [], k, v => [(k, v)]
  | (k', v') :: t, k, v =>
    if k < k' then (k, v) :: (k', v') :: t
    else if k = k' then (k, v) :: t
    else (k', v') :: Tab.set t k v

/-- The table without key `k`. -/
def Tab.del {α : Type} : Tab α → Nat → Tab α
  | [], _ => []
  | (k', v') :: t, k => if k' = k then Tab.del t k else (k', v') :: Tab.del t k

/-- The table with key `k` set to `v`, unlisted when `v` is the value an unlisted key has. -/
def Tab.put {α : Type} [DecidableEq α] (d : α) (t : Tab α) (k : Nat) (v : α) : Tab α :=
  if v = d then t.del k else t.set k v

/-- Keys strictly rise. -/
def Tab.rising {α : Type} : Tab α → Bool
  | [] => true
  | [_] => true
  | (k, _) :: (k', v') :: t => decide (k < k') && Tab.rising ((k', v') :: t)

/-- No entry holds the value an unlisted key has. -/
def Tab.noDefault {α : Type} [DecidableEq α] (d : α) : Tab α → Bool
  | [] => true
  | (_, v) :: t => decide (v ≠ d) && Tab.noDefault d t

/-- Memory: bytes by address. -/
abbrev Mem := List Host.Cell

/-- What an address nothing has written reads as: 0. The manual gives no contents of HBM after power-on
(DESIGN CHOICE, unsafe; log entry 1). -/
def Mem.unlisted : Byte := 0

/-- The canonical form of a memory: addresses strictly rise and no listed byte equals `Mem.unlisted`. -/
def Mem.wf (m : Mem) : Bool := Tab.rising m && Tab.noDefault Mem.unlisted m

/-- Read one byte. -/
def Mem.read (m : Mem) (a : Nat) : Byte := Tab.get Mem.unlisted m a

/-- Write one byte, keeping the canonical form. -/
def Mem.write (m : Mem) (a : Nat) (b : Byte) : Mem := Tab.put Mem.unlisted m a b

/-- Read `n` bytes from `a`. -/
def Mem.readN (m : Mem) (a : Nat) : Nat → List Byte
  | 0 => []
  | n + 1 => m.read a :: Mem.readN m (a + 1) n

/-- Write a run of bytes from `a`. -/
def Mem.writeN (m : Mem) (a : Nat) : List Byte → Mem
  | [] => m
  | b :: bs => Mem.writeN (m.write a b) (a + 1) bs

end Sys2Proof.Machine
end

