-- ==== Sys2Proof/Machine/RegMap.lean ====
section
/-! DEFINITION. The register map of BAR0: the block table of R30 and every register field the chapters' register
tables give, with its place, width, access code (R8) and Reset value (R9).
A field is named as the manual's register paths name it: block, register, field. Array registers carry the byte step
between their elements. Where the Reset column names a source other than a number (MRAM, PCFG, TRNG, "per R443"), the
field's stored reset is 0 and the value is read through the overlay of `Machine/Access.lean` or placed by `State.reset`. -/

namespace Sys2Proof.Machine

/-- The block types of R30. `dch` is a DMA channel page, `evp` an EVQ queue page. -/
inductive Blk where
  | glb | clk | boot | mon | tmp | err | sec | hif | pmc | gth | tim | sdl | ftb | bsn | adm | fsc | lpm | l2t | ecm
  | nat | shw | mtr | dma | cpm | evq | ser | mac | prs | slc | rsq | egs | hbc | acl | fen | ucs | ruu | rcc | dch | evp
  deriving DecidableEq, Repr

/-- The access codes of R8. -/
inductive Acc where
  | rw | ro | wo | rw1c | rc | rws | ros
  deriving DecidableEq, Repr

/-- One row of the block table of R30, with the hierarchy level of R10 and the Assignable value of CAPS. -/
structure BlkRow where
  blk    : Blk
  type   : Nat
  base   : Nat
  stride : Nat
  inst   : Nat
  pages  : Nat
  level  : Nat
  assignable : Bool
  deriving DecidableEq, Repr

/-- A register field: its block, the byte offset of its register within the instance's run, its low bit, its width, its
Reset value, the byte step between array elements, and the amount its Reset value grows per element. -/
structure Fld where
  blk  : Blk
  off  : Nat
  lo   : Nat
  w    : Nat
  rst  : Nat
  step : Nat
  rstStep : Nat := 0
  deriving DecidableEq, Repr

/-- One row of a register table: the field, the number of array elements, its access code, and whether its writes go
directly into staging (R46, R550). -/
structure RegRow where
  fld : Fld
  n   : Nat
  acc : Acc
  staged : Bool
  deriving DecidableEq, Repr



/-! ### GLB -/
def GLB.COMMIT_MASK.Mask : Fld := ⟨.glb, 0x200, 0, 10, 0, 0, 0⟩
def GLB.COMMIT_CTL.Go : Fld := ⟨.glb, 0x204, 0, 1, 0, 0, 0⟩
def GLB.COMMIT_CTL.Arm : Fld := ⟨.glb, 0x204, 1, 1, 0, 0, 0⟩
def GLB.COMMIT_CTL.Cancel : Fld := ⟨.glb, 0x204, 2, 1, 0, 0, 0⟩
def GLB.COMMIT_CTL.Discard : Fld := ⟨.glb, 0x204, 3, 1, 0, 0, 0⟩
def GLB.COMMIT_TIME_NS.Nanoseconds : Fld := ⟨.glb, 0x208, 0, 30, 0, 0, 0⟩
def GLB.COMMIT_TIME_SEC_LO.SecondsLo : Fld := ⟨.glb, 0x20c, 0, 32, 0, 0, 0⟩
def GLB.COMMIT_TIME_SEC_HI.SecondsHi : Fld := ⟨.glb, 0x210, 0, 16, 0, 0, 0⟩
def GLB.COMMIT_STAT.Armed : Fld := ⟨.glb, 0x214, 0, 1, 0, 0, 0⟩
def GLB.COMMIT_STAT.Busy : Fld := ⟨.glb, 0x214, 1, 1, 0, 0, 0⟩
def GLB.COMMIT_STAT.Refused : Fld := ⟨.glb, 0x214, 2, 1, 0, 0, 0⟩
def GLB.COMMIT_STAT.Reason : Fld := ⟨.glb, 0x214, 3, 3, 0, 0, 0⟩
def GLB.COMMIT_STAT.Late : Fld := ⟨.glb, 0x214, 6, 1, 0, 0, 0⟩
def GLB.COMMIT_STAT.Gen : Fld := ⟨.glb, 0x214, 16, 16, 0, 0, 0⟩
def GLB.ERR_INJ_EN.Enable : Fld := ⟨.glb, 0x220, 0, 1, 0, 0, 0⟩
def GLB.DPR_CTL.Go : Fld := ⟨.glb, 0x240, 0, 1, 0, 0, 0⟩
def GLB.DPR_CTL.Hold : Fld := ⟨.glb, 0x240, 1, 1, 0, 0, 0⟩
def GLB.DPR_STAT.Active : Fld := ⟨.glb, 0x244, 0, 1, 0, 0, 0⟩
def GLB.DPR_STAT.Done : Fld := ⟨.glb, 0x244, 1, 1, 0, 0, 0⟩
def GLB.DPR_STAT.Cause : Fld := ⟨.glb, 0x244, 2, 2, 0, 0, 0⟩
def GLB.DPR_STAT.Count : Fld := ⟨.glb, 0x244, 16, 16, 0, 0, 0⟩

/-- The register rows of GLB. -/
def rowsGLB : List RegRow :=
  [⟨GLB.COMMIT_MASK.Mask, 1, .rw, false⟩,
   ⟨GLB.COMMIT_CTL.Go, 1, .wo, false⟩,
   ⟨GLB.COMMIT_CTL.Arm, 1, .wo, false⟩,
   ⟨GLB.COMMIT_CTL.Cancel, 1, .wo, false⟩,
   ⟨GLB.COMMIT_CTL.Discard, 1, .wo, false⟩,
   ⟨GLB.COMMIT_TIME_NS.Nanoseconds, 1, .rw, false⟩,
   ⟨GLB.COMMIT_TIME_SEC_LO.SecondsLo, 1, .rw, false⟩,
   ⟨GLB.COMMIT_TIME_SEC_HI.SecondsHi, 1, .rw, false⟩,
   ⟨GLB.COMMIT_STAT.Armed, 1, .ro, false⟩,
   ⟨GLB.COMMIT_STAT.Busy, 1, .ro, false⟩,
   ⟨GLB.COMMIT_STAT.Refused, 1, .rw1c, false⟩,
   ⟨GLB.COMMIT_STAT.Reason, 1, .ro, false⟩,
   ⟨GLB.COMMIT_STAT.Late, 1, .rw1c, false⟩,
   ⟨GLB.COMMIT_STAT.Gen, 1, .ro, false⟩,
   ⟨GLB.ERR_INJ_EN.Enable, 1, .rw, false⟩,
   ⟨GLB.DPR_CTL.Go, 1, .wo, false⟩,
   ⟨GLB.DPR_CTL.Hold, 1, .rw, false⟩,
   ⟨GLB.DPR_STAT.Active, 1, .ro, false⟩,
   ⟨GLB.DPR_STAT.Done, 1, .rw1c, false⟩,
   ⟨GLB.DPR_STAT.Cause, 1, .ro, false⟩,
   ⟨GLB.DPR_STAT.Count, 1, .ros, false⟩]

/-! ### ERR -/
def ERR.ROUTE_SEL.Page : Fld := ⟨.err, 0x200, 0, 14, 0, 0, 0⟩
def ERR.ROUTE_DATA.Vector : Fld := ⟨.err, 0x204, 0, 11, 0, 0, 0⟩
def ERR.ROUTE_DATA.Enable : Fld := ⟨.err, 0x204, 31, 1, 0, 0, 0⟩
def ERR.ROUTE_REFUSED.Count : Fld := ⟨.err, 0x208, 0, 16, 0, 0, 0⟩
def ERR.PEND_BITMAP.PendBitmap : Fld := ⟨.err, 0x1000, 0, 32, 0, 4, 0⟩
def ERR.SEV_VEC.Vector : Fld := ⟨.err, 0x210, 0, 11, 0, 4, 0⟩
def ERR.SEV_VEC.Enable : Fld := ⟨.err, 0x210, 31, 1, 0, 4, 0⟩
def ERR.CONTAIN_CFG.AutoReset : Fld := ⟨.err, 0x230, 0, 5, 31, 0, 0⟩
def ERR.CONTAIN_CFG.DeviceAuto : Fld := ⟨.err, 0x230, 8, 1, 1, 0, 0⟩
def ERR.CONTAIN_CFG.HbmThermal : Fld := ⟨.err, 0x230, 9, 1, 1, 0, 0⟩
def ERR.CONTAIN_CFG.DieThermal : Fld := ⟨.err, 0x230, 10, 1, 1, 0, 0⟩
def ERR.CONTAIN_CFG.HoldMs : Fld := ⟨.err, 0x230, 16, 16, 1000, 0, 0⟩
def ERR.LOG_HEAD.Seq : Fld := ⟨.err, 0x234, 0, 32, 0, 0, 0⟩
def ERR.LOG_LOST.Count : Fld := ⟨.err, 0x238, 0, 16, 0, 0, 0⟩
def ERR.CLASS_CNT.Count : Fld := ⟨.err, 0x240, 0, 32, 0, 4, 0⟩
def ERR.CRIT_RECORD.CritRecord : Fld := ⟨.err, 0x6000, 0, 32, 0, 4, 0⟩

/-- The register rows of ERR. -/
def rowsERR : List RegRow :=
  [⟨ERR.ROUTE_SEL.Page, 1, .rw, false⟩,
   ⟨ERR.ROUTE_DATA.Vector, 1, .rws, false⟩,
   ⟨ERR.ROUTE_DATA.Enable, 1, .rws, false⟩,
   ⟨ERR.ROUTE_REFUSED.Count, 1, .rc, false⟩,
   ⟨ERR.PEND_BITMAP.PendBitmap, 512, .ro, false⟩,
   ⟨ERR.SEV_VEC.Vector, 5, .rws, false⟩,
   ⟨ERR.SEV_VEC.Enable, 5, .rws, false⟩,
   ⟨ERR.CONTAIN_CFG.AutoReset, 1, .rws, false⟩,
   ⟨ERR.CONTAIN_CFG.DeviceAuto, 1, .rws, false⟩,
   ⟨ERR.CONTAIN_CFG.HbmThermal, 1, .rws, false⟩,
   ⟨ERR.CONTAIN_CFG.DieThermal, 1, .rws, false⟩,
   ⟨ERR.CONTAIN_CFG.HoldMs, 1, .rws, false⟩,
   ⟨ERR.LOG_HEAD.Seq, 1, .ro, false⟩,
   ⟨ERR.LOG_LOST.Count, 1, .rc, false⟩,
   ⟨ERR.CLASS_CNT.Count, 5, .rc, false⟩,
   ⟨ERR.CRIT_RECORD.CritRecord, 8, .ro, false⟩]

/-! ### PRS -/
def PRS.PORT_CFG.MapSet : Fld := ⟨.prs, 0x200, 0, 2, 0, 4, 0⟩
def PRS.PORT_CFG.ClassSrc : Fld := ⟨.prs, 0x200, 2, 2, 0, 4, 0⟩
def PRS.PORT_CFG.DefClass : Fld := ⟨.prs, 0x200, 4, 3, 0, 4, 0⟩
def PRS.PORT_CFG.FcsGate : Fld := ⟨.prs, 0x200, 7, 1, 1, 4, 0⟩
def PRS.PORT_CFG.CtClasses : Fld := ⟨.prs, 0x200, 8, 8, 0, 4, 0⟩
def PRS.PORT_CFG.Zone : Fld := ⟨.prs, 0x200, 16, 16, 0, 4, 0⟩
def PRS.PROFILE_MAP.Profiles : Fld := ⟨.prs, 0x250, 0, 32, 0, 4, 0⟩
def PRS.DSCP_MAP.Classes : Fld := ⟨.prs, 0x270, 0, 32, 0, 4, 0⟩
def PRS.TUN_CFG.VxlanPort : Fld := ⟨.prs, 0x290, 0, 16, 4789, 0, 0⟩
def PRS.TUN_CFG.GenevePort : Fld := ⟨.prs, 0x290, 16, 16, 6081, 0, 0⟩
def PRS.TUN_EN.Vxlan : Fld := ⟨.prs, 0x294, 0, 1, 0, 0, 0⟩
def PRS.TUN_EN.Geneve : Fld := ⟨.prs, 0x294, 1, 1, 0, 0, 0⟩
def PRS.TUN_EN.Gre : Fld := ⟨.prs, 0x294, 2, 1, 0, 0, 0⟩
def PRS.TUN_EN.MplsIp : Fld := ⟨.prs, 0x294, 3, 1, 0, 0, 0⟩
def PRS.KP_SEL.InPort : Fld := ⟨.prs, 0x1000, 0, 1, 0, 16, 0⟩
def PRS.KP_SEL.Vlan : Fld := ⟨.prs, 0x1000, 1, 1, 0, 16, 0⟩
def PRS.KP_SEL.MacPair : Fld := ⟨.prs, 0x1000, 2, 1, 0, 16, 0⟩
def PRS.KP_SEL.L3Src : Fld := ⟨.prs, 0x1000, 3, 1, 0, 16, 0⟩
def PRS.KP_SEL.L3Dst : Fld := ⟨.prs, 0x1000, 4, 1, 0, 16, 0⟩
def PRS.KP_SEL.Proto : Fld := ⟨.prs, 0x1000, 5, 1, 0, 16, 0⟩
def PRS.KP_SEL.L4Src : Fld := ⟨.prs, 0x1000, 6, 1, 0, 16, 0⟩
def PRS.KP_SEL.L4Dst : Fld := ⟨.prs, 0x1000, 7, 1, 0, 16, 0⟩
def PRS.KP_SEL.TunId : Fld := ⟨.prs, 0x1000, 8, 1, 0, 16, 0⟩
def PRS.KP_SEL.Inner : Fld := ⟨.prs, 0x1000, 9, 1, 0, 16, 0⟩
def PRS.KP_SEL.Zone : Fld := ⟨.prs, 0x1000, 10, 1, 0, 16, 0⟩
def PRS.KP_SEL.IcmpId : Fld := ⟨.prs, 0x1000, 11, 1, 0, 16, 0⟩
def PRS.KP_PFX.SrcPrefix : Fld := ⟨.prs, 0x1004, 0, 8, 128, 16, 0⟩
def PRS.KP_PFX.DstPrefix : Fld := ⟨.prs, 0x1004, 8, 8, 128, 16, 0⟩
def PRS.KP_CTL.KeyTag : Fld := ⟨.prs, 0x1008, 0, 8, 0, 16, 0⟩
def PRS.KP_CTL.DomainMode : Fld := ⟨.prs, 0x1008, 8, 2, 0, 16, 0⟩
def PRS.KP_CTL.DomainBase : Fld := ⟨.prs, 0x1008, 10, 13, 0, 16, 0⟩
def PRS.KP_CTL.DomainBits : Fld := ⟨.prs, 0x1008, 23, 4, 0, 16, 0⟩
def PRS.KP_CTL.SpillMode : Fld := ⟨.prs, 0x1008, 27, 2, 0, 16, 0⟩
def PRS.KP_TPL.TplSel : Fld := ⟨.prs, 0x100c, 0, 10, 0, 16, 0⟩

/-- The register rows of PRS. -/
def rowsPRS : List RegRow :=
  [⟨PRS.PORT_CFG.MapSet, 18, .rw, true⟩,
   ⟨PRS.PORT_CFG.ClassSrc, 18, .rw, true⟩,
   ⟨PRS.PORT_CFG.DefClass, 18, .rw, true⟩,
   ⟨PRS.PORT_CFG.FcsGate, 18, .rw, true⟩,
   ⟨PRS.PORT_CFG.CtClasses, 18, .rw, true⟩,
   ⟨PRS.PORT_CFG.Zone, 18, .rw, true⟩,
   ⟨PRS.PROFILE_MAP.Profiles, 8, .rw, true⟩,
   ⟨PRS.DSCP_MAP.Classes, 8, .rw, true⟩,
   ⟨PRS.TUN_CFG.VxlanPort, 1, .rw, true⟩,
   ⟨PRS.TUN_CFG.GenevePort, 1, .rw, true⟩,
   ⟨PRS.TUN_EN.Vxlan, 1, .rw, true⟩,
   ⟨PRS.TUN_EN.Geneve, 1, .rw, true⟩,
   ⟨PRS.TUN_EN.Gre, 1, .rw, true⟩,
   ⟨PRS.TUN_EN.MplsIp, 1, .rw, true⟩,
   ⟨PRS.KP_SEL.InPort, 16, .rw, true⟩,
   ⟨PRS.KP_SEL.Vlan, 16, .rw, true⟩,
   ⟨PRS.KP_SEL.MacPair, 16, .rw, true⟩,
   ⟨PRS.KP_SEL.L3Src, 16, .rw, true⟩,
   ⟨PRS.KP_SEL.L3Dst, 16, .rw, true⟩,
   ⟨PRS.KP_SEL.Proto, 16, .rw, true⟩,
   ⟨PRS.KP_SEL.L4Src, 16, .rw, true⟩,
   ⟨PRS.KP_SEL.L4Dst, 16, .rw, true⟩,
   ⟨PRS.KP_SEL.TunId, 16, .rw, true⟩,
   ⟨PRS.KP_SEL.Inner, 16, .rw, true⟩,
   ⟨PRS.KP_SEL.Zone, 16, .rw, true⟩,
   ⟨PRS.KP_SEL.IcmpId, 16, .rw, true⟩,
   ⟨PRS.KP_PFX.SrcPrefix, 16, .rw, true⟩,
   ⟨PRS.KP_PFX.DstPrefix, 16, .rw, true⟩,
   ⟨PRS.KP_CTL.KeyTag, 16, .rw, true⟩,
   ⟨PRS.KP_CTL.DomainMode, 16, .rw, true⟩] ++
  [⟨PRS.KP_CTL.DomainBase, 16, .rw, true⟩,
   ⟨PRS.KP_CTL.DomainBits, 16, .rw, true⟩,
   ⟨PRS.KP_CTL.SpillMode, 16, .rw, true⟩,
   ⟨PRS.KP_TPL.TplSel, 16, .rw, true⟩]

/-! ### ADM -/
def ADM.SEL.Port : Fld := ⟨.adm, 0x200, 0, 8, 0, 0, 0⟩
def ADM.SEL.Index : Fld := ⟨.adm, 0x200, 8, 4, 0, 0, 0⟩
def ADM.SEL.Kind : Fld := ⟨.adm, 0x200, 12, 1, 0, 0, 0⟩
def ADM.GUAR.Guarantee : Fld := ⟨.adm, 0x204, 0, 20, 0, 0, 0⟩
def ADM.LIMIT.Limit : Fld := ⟨.adm, 0x208, 0, 20, 0, 0, 0⟩
def ADM.CMD.Write : Fld := ⟨.adm, 0x20c, 0, 1, 0, 0, 0⟩
def ADM.CMD.Read : Fld := ⟨.adm, 0x20c, 1, 1, 0, 0, 0⟩
def ADM.SHARED_LIMIT.SharedLimit : Fld := ⟨.adm, 0x210, 0, 20, 0, 0, 0⟩
def ADM.SHARED_USED.SharedUsed : Fld := ⟨.adm, 0x214, 0, 20, 0, 0, 0⟩
def ADM.USED.Used : Fld := ⟨.adm, 0x218, 0, 20, 0, 0, 0⟩
def ADM.STAT.Refused : Fld := ⟨.adm, 0x21c, 0, 1, 0, 0, 0⟩
def ADM.STAT.Reason : Fld := ⟨.adm, 0x21c, 1, 2, 0, 0, 0⟩

/-- The register rows of ADM. -/
def rowsADM : List RegRow :=
  [⟨ADM.SEL.Port, 1, .rw, false⟩,
   ⟨ADM.SEL.Index, 1, .rw, false⟩,
   ⟨ADM.SEL.Kind, 1, .rw, false⟩,
   ⟨ADM.GUAR.Guarantee, 1, .rw, false⟩,
   ⟨ADM.LIMIT.Limit, 1, .rw, false⟩,
   ⟨ADM.CMD.Write, 1, .wo, false⟩,
   ⟨ADM.CMD.Read, 1, .wo, false⟩,
   ⟨ADM.SHARED_LIMIT.SharedLimit, 1, .rw, true⟩,
   ⟨ADM.SHARED_USED.SharedUsed, 1, .ro, false⟩,
   ⟨ADM.USED.Used, 1, .ro, false⟩,
   ⟨ADM.STAT.Refused, 1, .rw1c, false⟩,
   ⟨ADM.STAT.Reason, 1, .ro, false⟩]

/-! ### BSN -/
def BSN.MCG_SEL.Group : Fld := ⟨.bsn, 0x200, 0, 14, 0, 0, 0⟩
def BSN.MCG_DATA0.Ports : Fld := ⟨.bsn, 0x204, 0, 32, 0, 4, 0⟩
def BSN.MCG_DATA4.PortsHi : Fld := ⟨.bsn, 0x214, 0, 10, 0, 0, 0⟩
def BSN.MCG_DATA4.Hairpin : Fld := ⟨.bsn, 0x214, 10, 1, 0, 0, 0⟩
def BSN.MCG_CMD.Write : Fld := ⟨.bsn, 0x218, 0, 1, 0, 0, 0⟩
def BSN.MCG_CMD.Read : Fld := ⟨.bsn, 0x218, 1, 1, 0, 0, 0⟩
def BSN.FREE_CELLS.Free : Fld := ⟨.bsn, 0x21c, 0, 20, 786432, 0, 0⟩
def BSN.FREE_LOW.FreeLow : Fld := ⟨.bsn, 0x220, 0, 20, 786432, 0, 0⟩

/-- The register rows of BSN. -/
def rowsBSN : List RegRow :=
  [⟨BSN.MCG_SEL.Group, 1, .rw, false⟩,
   ⟨BSN.MCG_DATA0.Ports, 4, .rw, false⟩,
   ⟨BSN.MCG_DATA4.PortsHi, 1, .rw, false⟩,
   ⟨BSN.MCG_DATA4.Hairpin, 1, .rw, false⟩,
   ⟨BSN.MCG_CMD.Write, 1, .wo, false⟩,
   ⟨BSN.MCG_CMD.Read, 1, .wo, false⟩,
   ⟨BSN.FREE_CELLS.Free, 1, .ro, false⟩,
   ⟨BSN.FREE_LOW.FreeLow, 1, .rc, false⟩]

/-! ### MAC -/
def MAC.PORT_CTL.Enable : Fld := ⟨.mac, 0x200, 0, 1, 0, 8, 0⟩
def MAC.PORT_CTL.DownHold : Fld := ⟨.mac, 0x200, 1, 10, 0, 8, 0⟩
def MAC.PORT_STATE.State : Fld := ⟨.mac, 0x204, 0, 2, 0, 8, 0⟩
def MAC.PORT_STATE.Link : Fld := ⟨.mac, 0x204, 2, 1, 0, 8, 0⟩
def MAC.PORT_STATE.FlushLeft : Fld := ⟨.mac, 0x204, 3, 20, 0, 8, 0⟩

/-- The register rows of MAC. -/
def rowsMAC : List RegRow :=
  [⟨MAC.PORT_CTL.Enable, 8, .rws, false⟩,
   ⟨MAC.PORT_CTL.DownHold, 8, .rws, false⟩,
   ⟨MAC.PORT_STATE.State, 8, .ro, false⟩,
   ⟨MAC.PORT_STATE.Link, 8, .ro, false⟩,
   ⟨MAC.PORT_STATE.FlushLeft, 8, .ro, false⟩]

/-! ### RSQ -/
def RSQ.CFG.GapTimeout : Fld := ⟨.rsq, 0x200, 0, 16, 625, 0, 0⟩
def RSQ.CFG.Window : Fld := ⟨.rsq, 0x200, 16, 13, 1024, 0, 0⟩
def RSQ.CFG.LateAction : Fld := ⟨.rsq, 0x200, 29, 1, 1, 0, 0⟩
def RSQ.STAT.Used : Fld := ⟨.rsq, 0x204, 0, 15, 0, 0, 0⟩
def RSQ.HWM.HighWater : Fld := ⟨.rsq, 0x208, 0, 15, 0, 0, 0⟩
def RSQ.DOM_SEL.Domain : Fld := ⟨.rsq, 0x20c, 0, 16, 0, 0, 0⟩
def RSQ.DOM_STAT.NextSeq : Fld := ⟨.rsq, 0x210, 0, 16, 0, 0, 0⟩
def RSQ.DOM_STAT.Held : Fld := ⟨.rsq, 0x210, 16, 13, 0, 0, 0⟩

/-- The register rows of RSQ. -/
def rowsRSQ : List RegRow :=
  [⟨RSQ.CFG.GapTimeout, 1, .rw, false⟩,
   ⟨RSQ.CFG.Window, 1, .rw, false⟩,
   ⟨RSQ.CFG.LateAction, 1, .rw, false⟩,
   ⟨RSQ.STAT.Used, 1, .ro, false⟩,
   ⟨RSQ.HWM.HighWater, 1, .rc, false⟩,
   ⟨RSQ.DOM_SEL.Domain, 1, .rw, false⟩,
   ⟨RSQ.DOM_STAT.NextSeq, 1, .ro, false⟩,
   ⟨RSQ.DOM_STAT.Held, 1, .ro, false⟩]

/-! ### FTB -/
def FTB.FAIL_SEL.Slice : Fld := ⟨.ftb, 0x3a0, 0, 3, 0, 0, 0⟩
def FTB.FAIL_SEL.Profile : Fld := ⟨.ftb, 0x3a0, 3, 4, 0, 0, 0⟩
def FTB.FAIL_SEL.Reason : Fld := ⟨.ftb, 0x3a0, 8, 3, 0, 0, 0⟩
def FTB.FAIL_CNT.Count : Fld := ⟨.ftb, 0x3a8, 0, 48, 0, 0, 0⟩
def FTB.AGE_TIMEOUT.Timeout : Fld := ⟨.ftb, 0x230, 0, 31, 0, 4, 0⟩
def FTB.SWEEP_CFG.Period : Fld := ⟨.ftb, 0x250, 0, 16, 10, 0, 0⟩
def FTB.SWEEP_PASS.Passes : Fld := ⟨.ftb, 0x254, 0, 32, 0, 0, 0⟩
def FTB.REBIRTH_CFG.Window : Fld := ⟨.ftb, 0x258, 0, 16, 1000, 0, 0⟩
def FTB.RCLK.Clock : Fld := ⟨.ftb, 0x218, 0, 32, 0, 0, 0⟩
def FTB.RCLK_NS.Nanoseconds : Fld := ⟨.ftb, 0x21c, 0, 30, 0, 0, 0⟩
def FTB.RCLK_SEC_LO.SecondsLo : Fld := ⟨.ftb, 0x220, 0, 32, 0, 0, 0⟩
def FTB.RCLK_SEC_HI.SecondsHi : Fld := ⟨.ftb, 0x224, 0, 16, 0, 0, 0⟩
def FTB.CMD_CTL.Op : Fld := ⟨.ftb, 0x280, 0, 8, 0, 0, 0⟩
def FTB.CMD_CTL.Go : Fld := ⟨.ftb, 0x280, 8, 1, 0, 0, 0⟩
def FTB.CMD_STAT.Busy : Fld := ⟨.ftb, 0x284, 0, 1, 0, 0, 0⟩
def FTB.CMD_STAT.Done : Fld := ⟨.ftb, 0x284, 1, 1, 0, 0, 0⟩
def FTB.CMD_STAT.Result : Fld := ⟨.ftb, 0x284, 4, 4, 0, 0, 0⟩
def FTB.CMD_LOC.Index : Fld := ⟨.ftb, 0x288, 0, 21, 0, 0, 0⟩
def FTB.CMD_LOC.Ruu : Fld := ⟨.ftb, 0x288, 21, 9, 0, 0, 0⟩
def FTB.CMD_LOC.Way : Fld := ⟨.ftb, 0x288, 30, 1, 0, 0, 0⟩
def FTB.CMD_LOC.Set : Fld := ⟨.ftb, 0x288, 31, 1, 0, 0, 0⟩
def FTB.CMD_EPOCH.Epoch : Fld := ⟨.ftb, 0x28c, 0, 16, 0, 0, 0⟩
def FTB.CMD_HANDLE.Handle : Fld := ⟨.ftb, 0x290, 0, 30, 0, 0, 0⟩
def FTB.CMD_MASK.Groups : Fld := ⟨.ftb, 0x294, 0, 5, 0, 0, 0⟩
def FTB.CMD_KEY.Key : Fld := ⟨.ftb, 0x300, 0, 32, 0, 4, 0⟩
def FTB.CMD_REC.Rec : Fld := ⟨.ftb, 0x340, 0, 32, 0, 4, 0⟩
def FTB.EVT_CFG.Queue : Fld := ⟨.ftb, 0x260, 0, 9, 0, 0, 0⟩
def FTB.EVT_CFG.InsertEv : Fld := ⟨.ftb, 0x260, 16, 1, 0, 0, 0⟩
def FTB.EVT_CFG.AgeOutEv : Fld := ⟨.ftb, 0x260, 17, 1, 0, 0, 0⟩
def FTB.EVT_CFG.DeleteEv : Fld := ⟨.ftb, 0x260, 18, 1, 0, 0, 0⟩
def FTB.EVT_CFG.CollisionEv : Fld := ⟨.ftb, 0x260, 19, 1, 0, 0, 0⟩
def FTB.EVT_CFG.MigrateLossEv : Fld := ⟨.ftb, 0x260, 20, 1, 0, 0, 0⟩
def FTB.VERIFY_CFG.Interval : Fld := ⟨.ftb, 0x25c, 0, 16, 0, 0, 0⟩
def FTB.EXPORT_CFG.Channel : Fld := ⟨.ftb, 0x3c0, 0, 8, 0, 0, 0⟩
def FTB.EXPORT_CFG.Rate : Fld := ⟨.ftb, 0x3c0, 8, 10, 64, 0, 0⟩
def FTB.EXPORT_CTL.Start : Fld := ⟨.ftb, 0x3c4, 0, 1, 0, 0, 0⟩
def FTB.EXPORT_CTL.Stop : Fld := ⟨.ftb, 0x3c4, 1, 1, 0, 0, 0⟩
def FTB.EXPORT_STAT.Active : Fld := ⟨.ftb, 0x3c8, 0, 1, 0, 0, 0⟩
def FTB.EXPORT_STAT.Complete : Fld := ⟨.ftb, 0x3c8, 1, 1, 0, 0, 0⟩
def FTB.EXPORT_STAT.Aborted : Fld := ⟨.ftb, 0x3c8, 2, 1, 0, 0, 0⟩
def FTB.EXPORT_STAT.Refused : Fld := ⟨.ftb, 0x3c8, 3, 1, 0, 0, 0⟩
def FTB.EXPORT_COUNT.Entries : Fld := ⟨.ftb, 0x3cc, 0, 31, 0, 0, 0⟩
def FTB.GEOM_CFG.TargetLog2 : Fld := ⟨.ftb, 0x200, 0, 5, 0, 0, 0⟩
def FTB.GEOM_CFG.MaxLog2 : Fld := ⟨.ftb, 0x200, 8, 5, 0, 0, 0⟩
def FTB.GEOM_STAT.CapLog2 : Fld := ⟨.ftb, 0x204, 0, 5, 0, 0, 0⟩
def FTB.GEOM_STAT.MaxLog2 : Fld := ⟨.ftb, 0x204, 8, 5, 0, 0, 0⟩
def FTB.GEOM_STAT.ActiveSet : Fld := ⟨.ftb, 0x204, 16, 1, 0, 0, 0⟩
def FTB.GEOM_STAT.Phase : Fld := ⟨.ftb, 0x204, 17, 3, 0, 0, 0⟩
def FTB.EPOCH.Epoch : Fld := ⟨.ftb, 0x208, 0, 16, 0, 0, 0⟩
def FTB.CTL_FT.InsertEnable : Fld := ⟨.ftb, 0x20c, 0, 1, 0, 0, 0⟩
def FTB.CTL_FT.SweepEnable : Fld := ⟨.ftb, 0x20c, 1, 1, 0, 0, 0⟩
def FTB.RECORDS.Records : Fld := ⟨.ftb, 0x210, 0, 31, 0, 0, 0⟩
def FTB.HANDLE_FREE.Free : Fld := ⟨.ftb, 0x214, 0, 31, 0, 0, 0⟩
def FTB.MIG_CFG.MinRate : Fld := ⟨.ftb, 0x270, 0, 10, 100, 0, 0⟩
def FTB.MIG_SEL.Ruu : Fld := ⟨.ftb, 0x274, 0, 9, 0, 0, 0⟩
def FTB.MIG_CURSOR.Cursor : Fld := ⟨.ftb, 0x278, 0, 21, 0, 0, 0⟩
def FTB.MIG_MIN.MinCursor : Fld := ⟨.ftb, 0x27c, 0, 21, 0, 0, 0⟩

/-- The register rows of FTB. -/
def rowsFTB : List RegRow :=
  [⟨FTB.FAIL_SEL.Slice, 1, .rw, false⟩,
   ⟨FTB.FAIL_SEL.Profile, 1, .rw, false⟩,
   ⟨FTB.FAIL_SEL.Reason, 1, .rw, false⟩,
   ⟨FTB.FAIL_CNT.Count, 1, .ros, false⟩,
   ⟨FTB.AGE_TIMEOUT.Timeout, 8, .rws, false⟩,
   ⟨FTB.SWEEP_CFG.Period, 1, .rws, false⟩,
   ⟨FTB.SWEEP_PASS.Passes, 1, .ro, false⟩,
   ⟨FTB.REBIRTH_CFG.Window, 1, .rws, false⟩,
   ⟨FTB.RCLK.Clock, 1, .ro, false⟩,
   ⟨FTB.RCLK_NS.Nanoseconds, 1, .ro, false⟩,
   ⟨FTB.RCLK_SEC_LO.SecondsLo, 1, .ro, false⟩,
   ⟨FTB.RCLK_SEC_HI.SecondsHi, 1, .ro, false⟩,
   ⟨FTB.CMD_CTL.Op, 1, .rw, false⟩,
   ⟨FTB.CMD_CTL.Go, 1, .wo, false⟩,
   ⟨FTB.CMD_STAT.Busy, 1, .ro, false⟩,
   ⟨FTB.CMD_STAT.Done, 1, .rw1c, false⟩,
   ⟨FTB.CMD_STAT.Result, 1, .ro, false⟩,
   ⟨FTB.CMD_LOC.Index, 1, .rw, false⟩,
   ⟨FTB.CMD_LOC.Ruu, 1, .rw, false⟩,
   ⟨FTB.CMD_LOC.Way, 1, .rw, false⟩,
   ⟨FTB.CMD_LOC.Set, 1, .rw, false⟩,
   ⟨FTB.CMD_EPOCH.Epoch, 1, .rw, false⟩,
   ⟨FTB.CMD_HANDLE.Handle, 1, .rw, false⟩,
   ⟨FTB.CMD_MASK.Groups, 1, .rw, false⟩,
   ⟨FTB.CMD_KEY.Key, 12, .rw, false⟩,
   ⟨FTB.CMD_REC.Rec, 16, .rw, false⟩,
   ⟨FTB.EVT_CFG.Queue, 1, .rws, false⟩,
   ⟨FTB.EVT_CFG.InsertEv, 1, .rws, false⟩,
   ⟨FTB.EVT_CFG.AgeOutEv, 1, .rws, false⟩,
   ⟨FTB.EVT_CFG.DeleteEv, 1, .rws, false⟩] ++
  [⟨FTB.EVT_CFG.CollisionEv, 1, .rws, false⟩,
   ⟨FTB.EVT_CFG.MigrateLossEv, 1, .rws, false⟩,
   ⟨FTB.VERIFY_CFG.Interval, 1, .rws, false⟩,
   ⟨FTB.EXPORT_CFG.Channel, 1, .rw, false⟩,
   ⟨FTB.EXPORT_CFG.Rate, 1, .rw, false⟩,
   ⟨FTB.EXPORT_CTL.Start, 1, .wo, false⟩,
   ⟨FTB.EXPORT_CTL.Stop, 1, .wo, false⟩,
   ⟨FTB.EXPORT_STAT.Active, 1, .ro, false⟩,
   ⟨FTB.EXPORT_STAT.Complete, 1, .rw1c, false⟩,
   ⟨FTB.EXPORT_STAT.Aborted, 1, .rw1c, false⟩,
   ⟨FTB.EXPORT_STAT.Refused, 1, .rw1c, false⟩,
   ⟨FTB.EXPORT_COUNT.Entries, 1, .ro, false⟩,
   ⟨FTB.GEOM_CFG.TargetLog2, 1, .rws, false⟩,
   ⟨FTB.GEOM_CFG.MaxLog2, 1, .rws, false⟩,
   ⟨FTB.GEOM_STAT.CapLog2, 1, .ros, false⟩,
   ⟨FTB.GEOM_STAT.MaxLog2, 1, .ros, false⟩,
   ⟨FTB.GEOM_STAT.ActiveSet, 1, .ros, false⟩,
   ⟨FTB.GEOM_STAT.Phase, 1, .ros, false⟩,
   ⟨FTB.EPOCH.Epoch, 1, .ros, false⟩,
   ⟨FTB.CTL_FT.InsertEnable, 1, .rws, false⟩,
   ⟨FTB.CTL_FT.SweepEnable, 1, .rws, false⟩,
   ⟨FTB.RECORDS.Records, 1, .ros, false⟩,
   ⟨FTB.HANDLE_FREE.Free, 1, .ros, false⟩,
   ⟨FTB.MIG_CFG.MinRate, 1, .rws, false⟩,
   ⟨FTB.MIG_SEL.Ruu, 1, .rw, false⟩,
   ⟨FTB.MIG_CURSOR.Cursor, 1, .ros, false⟩,
   ⟨FTB.MIG_MIN.MinCursor, 1, .ros, false⟩]

/-! ### RCC -/
def RCC.CFG.Mode : Fld := ⟨.rcc, 0x200, 0, 2, 0, 0, 0⟩
def RCC.CTL_C.Flush : Fld := ⟨.rcc, 0x204, 0, 1, 0, 0, 0⟩
def RCC.STAT_C.Lines : Fld := ⟨.rcc, 0x208, 0, 11, 0, 0, 0⟩
def RCC.STAT_C.Dirty : Fld := ⟨.rcc, 0x208, 11, 11, 0, 0, 0⟩
def RCC.STAT_C.Flushing : Fld := ⟨.rcc, 0x208, 22, 1, 0, 0, 0⟩

/-- The register rows of RCC. -/
def rowsRCC : List RegRow :=
  [⟨RCC.CFG.Mode, 1, .rws, false⟩,
   ⟨RCC.CTL_C.Flush, 1, .wo, false⟩,
   ⟨RCC.STAT_C.Lines, 1, .ro, false⟩,
   ⟨RCC.STAT_C.Dirty, 1, .ro, false⟩,
   ⟨RCC.STAT_C.Flushing, 1, .ro, false⟩]

/-! ### RUU -/
def RUU.CFG.WayTimeout : Fld := ⟨.ruu, 0x200, 0, 16, 1024, 0, 0⟩
def RUU.QSTAT.Used : Fld := ⟨.ruu, 0x204, 0, 9, 0, 0, 0⟩
def RUU.QSTAT.Rows : Fld := ⟨.ruu, 0x204, 16, 6, 0, 0, 0⟩
def RUU.QHWM.HighWater : Fld := ⟨.ruu, 0x208, 0, 9, 0, 0, 0⟩
def RUU.STOCK.Stock : Fld := ⟨.ruu, 0x20c, 0, 9, 0, 0, 0⟩
def RUU.TPL_SEL.Index : Fld := ⟨.ruu, 0x240, 0, 10, 0, 0, 0⟩
def RUU.TPL_SEL.Word : Fld := ⟨.ruu, 0x240, 10, 4, 0, 0, 0⟩
def RUU.TPL_DATA.Data : Fld := ⟨.ruu, 0x248, 0, 64, 0, 0, 0⟩
def RUU.TPL_CMD.Write : Fld := ⟨.ruu, 0x250, 0, 1, 0, 0, 0⟩
def RUU.TPL_CMD.Read : Fld := ⟨.ruu, 0x250, 1, 1, 0, 0, 0⟩
def RUU.TPL_CMD.ReadStaged : Fld := ⟨.ruu, 0x250, 2, 1, 0, 0, 0⟩
def RUU.TPL_STAT.Refused : Fld := ⟨.ruu, 0x254, 0, 1, 0, 0, 0⟩
def RUU.TPL_STAT.Reason : Fld := ⟨.ruu, 0x254, 1, 2, 0, 0, 0⟩
def RUU.TPL_STAT.Staged : Fld := ⟨.ruu, 0x254, 16, 15, 0, 0, 0⟩
def RUU.MPF_SEL.Profile : Fld := ⟨.ruu, 0x260, 0, 12, 0, 0, 0⟩
def RUU.MPF_DATA_LO.Lo : Fld := ⟨.ruu, 0x268, 0, 64, 0, 0, 0⟩
def RUU.MPF_DATA_HI.Hi : Fld := ⟨.ruu, 0x270, 0, 64, 0, 0, 0⟩
def RUU.MPF_CMD.Cmd : Fld := ⟨.ruu, 0x278, 0, 3, 0, 0, 0⟩
def RUU.POISON_LOC.Loc : Fld := ⟨.ruu, 0x280, 0, 32, 0, 0, 0⟩
def RUU.POISON_EPOCH.Epoch : Fld := ⟨.ruu, 0x284, 0, 16, 0, 0, 0⟩
def RUU.POISON_CMD.Clear : Fld := ⟨.ruu, 0x288, 0, 1, 0, 0, 0⟩
def RUU.POISON_STAT.Busy : Fld := ⟨.ruu, 0x28c, 0, 1, 0, 0, 0⟩
def RUU.POISON_STAT.Done : Fld := ⟨.ruu, 0x28c, 1, 1, 0, 0, 0⟩
def RUU.POISON_STAT.Refused : Fld := ⟨.ruu, 0x28c, 2, 1, 0, 0, 0⟩

/-- The register rows of RUU. -/
def rowsRUU : List RegRow :=
  [⟨RUU.CFG.WayTimeout, 1, .rws, false⟩,
   ⟨RUU.QSTAT.Used, 1, .ro, false⟩,
   ⟨RUU.QSTAT.Rows, 1, .ro, false⟩,
   ⟨RUU.QHWM.HighWater, 1, .rc, false⟩,
   ⟨RUU.STOCK.Stock, 1, .ros, false⟩,
   ⟨RUU.TPL_SEL.Index, 1, .rw, false⟩,
   ⟨RUU.TPL_SEL.Word, 1, .rw, false⟩,
   ⟨RUU.TPL_DATA.Data, 1, .rw, false⟩,
   ⟨RUU.TPL_CMD.Write, 1, .wo, false⟩,
   ⟨RUU.TPL_CMD.Read, 1, .wo, false⟩,
   ⟨RUU.TPL_CMD.ReadStaged, 1, .wo, false⟩,
   ⟨RUU.TPL_STAT.Refused, 1, .rw1c, false⟩,
   ⟨RUU.TPL_STAT.Reason, 1, .ro, false⟩,
   ⟨RUU.TPL_STAT.Staged, 1, .ro, false⟩,
   ⟨RUU.MPF_SEL.Profile, 1, .rw, false⟩,
   ⟨RUU.MPF_DATA_LO.Lo, 1, .rw, false⟩,
   ⟨RUU.MPF_DATA_HI.Hi, 1, .rw, false⟩,
   ⟨RUU.MPF_CMD.Cmd, 1, .wo, false⟩,
   ⟨RUU.POISON_LOC.Loc, 1, .rw, false⟩,
   ⟨RUU.POISON_EPOCH.Epoch, 1, .rw, false⟩,
   ⟨RUU.POISON_CMD.Clear, 1, .wo, false⟩,
   ⟨RUU.POISON_STAT.Busy, 1, .ro, false⟩,
   ⟨RUU.POISON_STAT.Done, 1, .rw1c, false⟩,
   ⟨RUU.POISON_STAT.Refused, 1, .ro, false⟩]

/-! ### FSC -/
def FSC.LVL_CFG.Limit : Fld := ⟨.fsc, 0x200, 0, 16, 4096, 8, 0⟩
def FSC.LVL_CFG.MaxThreads : Fld := ⟨.fsc, 0x200, 16, 13, 0, 8, 0⟩
def FSC.LVL_CFG.Overflow : Fld := ⟨.fsc, 0x200, 29, 1, 1, 8, 0⟩
def FSC.LVL_TIME.MaxWait : Fld := ⟨.fsc, 0x204, 0, 16, 0, 8, 0⟩
def FSC.LVL_TIME.Expire : Fld := ⟨.fsc, 0x204, 16, 16, 0, 8, 0⟩
def FSC.CLU_EN.Enable : Fld := ⟨.fsc, 0x240, 0, 16, 65535, 0, 0⟩
def FSC.CFG.Rate : Fld := ⟨.fsc, 0x244, 0, 3, 4, 0, 0⟩
def FSC.CFG.SpillPrio : Fld := ⟨.fsc, 0x244, 4, 3, 0, 0, 0⟩
def FSC.HCMD_CFG.VfMaxPrio : Fld := ⟨.fsc, 0x248, 0, 3, 0, 0, 0⟩
def FSC.HCMD_STAT.ReplyDrop : Fld := ⟨.fsc, 0x24c, 0, 16, 0, 0, 0⟩
def FSC.LVL_STAT.Waiting : Fld := ⟨.fsc, 0x250, 0, 16, 0, 4, 0⟩
def FSC.LVL_STAT.Running : Fld := ⟨.fsc, 0x250, 16, 13, 0, 4, 0⟩
def FSC.LVL_HWM.HighWater : Fld := ⟨.fsc, 0x270, 0, 16, 0, 4, 0⟩

/-- The register rows of FSC. -/
def rowsFSC : List RegRow :=
  [⟨FSC.LVL_CFG.Limit, 8, .rw, false⟩,
   ⟨FSC.LVL_CFG.MaxThreads, 8, .rw, false⟩,
   ⟨FSC.LVL_CFG.Overflow, 8, .rw, false⟩,
   ⟨FSC.LVL_TIME.MaxWait, 8, .rw, false⟩,
   ⟨FSC.LVL_TIME.Expire, 8, .rw, false⟩,
   ⟨FSC.CLU_EN.Enable, 1, .rw, false⟩,
   ⟨FSC.CFG.Rate, 1, .rw, false⟩,
   ⟨FSC.CFG.SpillPrio, 1, .rw, false⟩,
   ⟨FSC.HCMD_CFG.VfMaxPrio, 1, .rw, false⟩,
   ⟨FSC.HCMD_STAT.ReplyDrop, 1, .rc, false⟩,
   ⟨FSC.LVL_STAT.Waiting, 8, .ro, false⟩,
   ⟨FSC.LVL_STAT.Running, 8, .ro, false⟩,
   ⟨FSC.LVL_HWM.HighWater, 8, .rc, false⟩]

/-! ### FEN -/
def FEN.CFG.RunLimit : Fld := ⟨.fen, 0x200, 0, 16, 160, 0, 0⟩
def FEN.THR_COUNT.Running : Fld := ⟨.fen, 0x204, 0, 9, 0, 0, 0⟩
def FEN.KILL.Thread : Fld := ⟨.fen, 0x208, 0, 8, 0, 0, 0⟩
def FEN.KILL.Go : Fld := ⟨.fen, 0x208, 8, 1, 0, 0, 0⟩
def FEN.ABORT_LAST.Reason : Fld := ⟨.fen, 0x20c, 0, 4, 0, 0, 0⟩
def FEN.ABORT_LAST.Thread : Fld := ⟨.fen, 0x20c, 4, 8, 0, 0, 0⟩
def FEN.ABORT_LAST.Address : Fld := ⟨.fen, 0x20c, 12, 15, 0, 0, 0⟩
def FEN.ABORT_LAST.Bank : Fld := ⟨.fen, 0x20c, 27, 1, 0, 0, 0⟩
def FEN.JRN_HWM.HighWater : Fld := ⟨.fen, 0x210, 0, 5, 0, 0, 0⟩
def FEN.THR_STAT.Busy : Fld := ⟨.fen, 0x220, 0, 32, 0, 4, 0⟩

/-- The register rows of FEN. -/
def rowsFEN : List RegRow :=
  [⟨FEN.CFG.RunLimit, 1, .rw, false⟩,
   ⟨FEN.THR_COUNT.Running, 1, .ro, false⟩,
   ⟨FEN.KILL.Thread, 1, .rw, false⟩,
   ⟨FEN.KILL.Go, 1, .wo, false⟩,
   ⟨FEN.ABORT_LAST.Reason, 1, .ro, false⟩,
   ⟨FEN.ABORT_LAST.Thread, 1, .ro, false⟩,
   ⟨FEN.ABORT_LAST.Address, 1, .ro, false⟩,
   ⟨FEN.ABORT_LAST.Bank, 1, .ro, false⟩,
   ⟨FEN.JRN_HWM.HighWater, 1, .rc, false⟩,
   ⟨FEN.THR_STAT.Busy, 8, .ro, false⟩]

/-! ### UCS -/
def UCS.STAT.ActiveBank : Fld := ⟨.ucs, 0x200, 0, 1, 0, 0, 0⟩
def UCS.STAT.StateA : Fld := ⟨.ucs, 0x200, 1, 3, 0, 0, 0⟩
def UCS.STAT.StateB : Fld := ⟨.ucs, 0x200, 4, 3, 0, 0, 0⟩
def UCS.STAT.Draining : Fld := ⟨.ucs, 0x200, 7, 1, 0, 0, 0⟩
def UCS.STAT.Trial : Fld := ⟨.ucs, 0x200, 8, 1, 0, 0, 0⟩
def UCS.SWAP_CTL.Swap : Fld := ⟨.ucs, 0x204, 0, 1, 0, 0, 0⟩
def UCS.SWAP_CTL.Confirm : Fld := ⟨.ucs, 0x204, 1, 1, 0, 0, 0⟩
def UCS.SWAP_CTL.RaiseFloor : Fld := ⟨.ucs, 0x204, 2, 1, 0, 0, 0⟩
def UCS.SWAP_CFG.TrialTime : Fld := ⟨.ucs, 0x208, 0, 16, 0, 0, 0⟩
def UCS.SWAP_CFG.TrialAborts : Fld := ⟨.ucs, 0x208, 16, 8, 1, 0, 0⟩
def UCS.SWAP_CFG.AutoRollback : Fld := ⟨.ucs, 0x208, 24, 1, 0, 0, 0⟩
def UCS.SWAP_STAT.SwapCount : Fld := ⟨.ucs, 0x20c, 0, 16, 0, 0, 0⟩
def UCS.SWAP_STAT.Refused : Fld := ⟨.ucs, 0x20c, 16, 1, 0, 0, 0⟩
def UCS.SWAP_STAT.Reason : Fld := ⟨.ucs, 0x20c, 17, 3, 0, 0, 0⟩
def UCS.SWAP_STAT.RolledBack : Fld := ⟨.ucs, 0x20c, 20, 1, 0, 0, 0⟩
def UCS.VERSION.Version : Fld := ⟨.ucs, 0x210, 0, 64, 0, 0, 0⟩
def UCS.VERSION_ALT.Version : Fld := ⟨.ucs, 0x218, 0, 64, 0, 0, 0⟩
def UCS.SECVER.SecVer : Fld := ⟨.ucs, 0x220, 0, 32, 0, 0, 0⟩
def UCS.KEYS.ActiveKey : Fld := ⟨.ucs, 0x224, 0, 3, 0, 0, 0⟩
def UCS.KEYS.AltKey : Fld := ⟨.ucs, 0x224, 4, 3, 0, 0, 0⟩
def UCS.POISON.Address : Fld := ⟨.ucs, 0x228, 0, 15, 0, 0, 0⟩
def UCS.POISON.Bank : Fld := ⟨.ucs, 0x228, 15, 1, 0, 0, 0⟩
def UCS.POISON.Valid : Fld := ⟨.ucs, 0x228, 31, 1, 0, 0, 0⟩
def UCS.POISON_CLR.Clear : Fld := ⟨.ucs, 0x22c, 0, 1, 0, 0, 0⟩
def UCS.READ_SEL.Addr : Fld := ⟨.ucs, 0x230, 0, 15, 0, 0, 0⟩
def UCS.READ_SEL.Bank : Fld := ⟨.ucs, 0x230, 15, 1, 0, 0, 0⟩
def UCS.READ_SEL.Dispatch : Fld := ⟨.ucs, 0x230, 16, 1, 0, 0, 0⟩
def UCS.READ_CTL.Go : Fld := ⟨.ucs, 0x234, 0, 1, 0, 0, 0⟩
def UCS.READ_DATA.Data : Fld := ⟨.ucs, 0x240, 0, 32, 0, 4, 0⟩
def UCS.LOAD_ADDR.Addr : Fld := ⟨.ucs, 0x300, 0, 64, 0, 0, 0⟩
def UCS.LOAD_LEN.Length : Fld := ⟨.ucs, 0x308, 0, 21, 0, 0, 0⟩
def UCS.LOAD_CFG.Clusters : Fld := ⟨.ucs, 0x30c, 0, 16, 0, 0, 0⟩
def UCS.LOAD_CFG.Op : Fld := ⟨.ucs, 0x30c, 16, 2, 0, 0, 0⟩
def UCS.LOAD_CFG.Source : Fld := ⟨.ucs, 0x30c, 18, 1, 0, 0, 0⟩
def UCS.LOAD_CFG.MramSlot : Fld := ⟨.ucs, 0x30c, 19, 3, 0, 0, 0⟩
def UCS.LOAD_CFG.CloneSrc : Fld := ⟨.ucs, 0x30c, 22, 4, 0, 0, 0⟩
def UCS.LOAD_CFG.Self : Fld := ⟨.ucs, 0x30c, 26, 1, 0, 0, 0⟩
def UCS.LOAD_CTL.Go : Fld := ⟨.ucs, 0x310, 0, 1, 0, 0, 0⟩
def UCS.LOAD_STAT.Busy : Fld := ⟨.ucs, 0x314, 0, 1, 0, 0, 0⟩
def UCS.LOAD_STAT.Done : Fld := ⟨.ucs, 0x314, 1, 1, 0, 0, 0⟩
def UCS.LOAD_STAT.Result : Fld := ⟨.ucs, 0x314, 2, 4, 0, 0, 0⟩
def UCS.LOAD_STAT.FailMask : Fld := ⟨.ucs, 0x314, 16, 16, 0, 0, 0⟩
def UCS.ENR_NONCE.Nonce : Fld := ⟨.ucs, 0x318, 0, 64, 0, 0, 0⟩
def UCS.FLOOR.VendorFloor : Fld := ⟨.ucs, 0x320, 0, 8, 0, 0, 0⟩
def UCS.FLOOR.CustomerFloor : Fld := ⟨.ucs, 0x320, 8, 8, 0, 0, 0⟩
def UCS.KEY_STAT.Enrolled : Fld := ⟨.ucs, 0x324, 0, 4, 0, 0, 0⟩
def UCS.KEY_STAT.Admin : Fld := ⟨.ucs, 0x324, 4, 4, 0, 0, 0⟩

/-- The register rows of UCS. -/
def rowsUCS : List RegRow :=
  [⟨UCS.STAT.ActiveBank, 1, .ros, false⟩,
   ⟨UCS.STAT.StateA, 1, .ros, false⟩,
   ⟨UCS.STAT.StateB, 1, .ros, false⟩,
   ⟨UCS.STAT.Draining, 1, .ro, false⟩,
   ⟨UCS.STAT.Trial, 1, .ros, false⟩,
   ⟨UCS.SWAP_CTL.Swap, 1, .wo, false⟩,
   ⟨UCS.SWAP_CTL.Confirm, 1, .wo, false⟩,
   ⟨UCS.SWAP_CTL.RaiseFloor, 1, .wo, false⟩,
   ⟨UCS.SWAP_CFG.TrialTime, 1, .rws, false⟩,
   ⟨UCS.SWAP_CFG.TrialAborts, 1, .rws, false⟩,
   ⟨UCS.SWAP_CFG.AutoRollback, 1, .rws, false⟩,
   ⟨UCS.SWAP_STAT.SwapCount, 1, .ros, false⟩,
   ⟨UCS.SWAP_STAT.Refused, 1, .rw1c, false⟩,
   ⟨UCS.SWAP_STAT.Reason, 1, .ro, false⟩,
   ⟨UCS.SWAP_STAT.RolledBack, 1, .rw1c, false⟩,
   ⟨UCS.VERSION.Version, 1, .ros, false⟩,
   ⟨UCS.VERSION_ALT.Version, 1, .ros, false⟩,
   ⟨UCS.SECVER.SecVer, 1, .ros, false⟩,
   ⟨UCS.KEYS.ActiveKey, 1, .ros, false⟩,
   ⟨UCS.KEYS.AltKey, 1, .ros, false⟩,
   ⟨UCS.POISON.Address, 1, .ros, false⟩,
   ⟨UCS.POISON.Bank, 1, .ros, false⟩,
   ⟨UCS.POISON.Valid, 1, .ros, false⟩,
   ⟨UCS.POISON_CLR.Clear, 1, .wo, false⟩,
   ⟨UCS.READ_SEL.Addr, 1, .rw, false⟩,
   ⟨UCS.READ_SEL.Bank, 1, .rw, false⟩,
   ⟨UCS.READ_SEL.Dispatch, 1, .rw, false⟩,
   ⟨UCS.READ_CTL.Go, 1, .wo, false⟩,
   ⟨UCS.READ_DATA.Data, 6, .ro, false⟩,
   ⟨UCS.LOAD_ADDR.Addr, 1, .rw, false⟩] ++
  [⟨UCS.LOAD_LEN.Length, 1, .rw, false⟩,
   ⟨UCS.LOAD_CFG.Clusters, 1, .rw, false⟩,
   ⟨UCS.LOAD_CFG.Op, 1, .rw, false⟩,
   ⟨UCS.LOAD_CFG.Source, 1, .rw, false⟩,
   ⟨UCS.LOAD_CFG.MramSlot, 1, .rw, false⟩,
   ⟨UCS.LOAD_CFG.CloneSrc, 1, .rw, false⟩,
   ⟨UCS.LOAD_CFG.Self, 1, .rw, false⟩,
   ⟨UCS.LOAD_CTL.Go, 1, .wo, false⟩,
   ⟨UCS.LOAD_STAT.Busy, 1, .ro, false⟩,
   ⟨UCS.LOAD_STAT.Done, 1, .rw1c, false⟩,
   ⟨UCS.LOAD_STAT.Result, 1, .ro, false⟩,
   ⟨UCS.LOAD_STAT.FailMask, 1, .ro, false⟩,
   ⟨UCS.ENR_NONCE.Nonce, 1, .ro, false⟩,
   ⟨UCS.FLOOR.VendorFloor, 1, .ros, false⟩,
   ⟨UCS.FLOOR.CustomerFloor, 1, .ros, false⟩,
   ⟨UCS.KEY_STAT.Enrolled, 1, .ros, false⟩,
   ⟨UCS.KEY_STAT.Admin, 1, .ros, false⟩]

/-! ### LPM -/
def LPM.ROUTE_CTL.Family : Fld := ⟨.lpm, 0x200, 0, 1, 0, 0, 0⟩
def LPM.ROUTE_CTL.Vrf : Fld := ⟨.lpm, 0x200, 8, 8, 0, 0, 0⟩
def LPM.ROUTE_CTL.Length : Fld := ⟨.lpm, 0x200, 16, 8, 0, 0, 0⟩
def LPM.ROUTE_ADDR.Addr : Fld := ⟨.lpm, 0x204, 0, 32, 0, 4, 0⟩
def LPM.ROUTE_DATA.Route : Fld := ⟨.lpm, 0x214, 0, 24, 0, 0, 0⟩
def LPM.ROUTE_CMD.Add : Fld := ⟨.lpm, 0x218, 0, 1, 0, 0, 0⟩
def LPM.ROUTE_CMD.Delete : Fld := ⟨.lpm, 0x218, 1, 1, 0, 0, 0⟩
def LPM.ROUTE_CMD.Read : Fld := ⟨.lpm, 0x218, 2, 1, 0, 0, 0⟩
def LPM.ROUTE_STAT.Refused : Fld := ⟨.lpm, 0x21c, 0, 1, 0, 0, 0⟩
def LPM.ROUTE_STAT.Reason : Fld := ⟨.lpm, 0x21c, 1, 3, 0, 0, 0⟩
def LPM.ROUTE_STAT.Found : Fld := ⟨.lpm, 0x21c, 4, 1, 0, 0, 0⟩
def LPM.NH_SEL.Index : Fld := ⟨.lpm, 0x220, 0, 16, 0, 0, 0⟩
def LPM.NH_DATA0.DmacLo : Fld := ⟨.lpm, 0x224, 0, 32, 0, 0, 0⟩
def LPM.NH_DATA1.DmacHi : Fld := ⟨.lpm, 0x228, 0, 16, 0, 0, 0⟩
def LPM.NH_DATA1.Vlan : Fld := ⟨.lpm, 0x228, 16, 12, 0, 0, 0⟩
def LPM.NH_DATA2.Port : Fld := ⟨.lpm, 0x22c, 0, 8, 0, 0, 0⟩
def LPM.NH_DATA2.SmacIdx : Fld := ⟨.lpm, 0x22c, 8, 6, 0, 0, 0⟩
def LPM.NH_DATA2.DecTtl : Fld := ⟨.lpm, 0x22c, 14, 1, 0, 0, 0⟩
def LPM.NH_DATA2.Valid : Fld := ⟨.lpm, 0x22c, 15, 1, 0, 0, 0⟩
def LPM.NH_CMD.Write : Fld := ⟨.lpm, 0x230, 0, 1, 0, 0, 0⟩
def LPM.NH_CMD.Read : Fld := ⟨.lpm, 0x230, 1, 1, 0, 0, 0⟩
def LPM.CFG.TtlToHost : Fld := ⟨.lpm, 0x234, 0, 1, 0, 0, 0⟩
def LPM.COUNT4.Routes4 : Fld := ⟨.lpm, 0x238, 0, 24, 0, 0, 0⟩
def LPM.COUNT6.Routes6 : Fld := ⟨.lpm, 0x23c, 0, 23, 0, 0, 0⟩
def LPM.SMAC.SmacLo : Fld := ⟨.lpm, 0x300, 0, 32, 0, 8, 0⟩
def LPM.SMAC.SmacHi : Fld := ⟨.lpm, 0x304, 0, 16, 0, 8, 0⟩

/-- The register rows of LPM. -/
def rowsLPM : List RegRow :=
  [⟨LPM.ROUTE_CTL.Family, 1, .rw, false⟩,
   ⟨LPM.ROUTE_CTL.Vrf, 1, .rw, false⟩,
   ⟨LPM.ROUTE_CTL.Length, 1, .rw, false⟩,
   ⟨LPM.ROUTE_ADDR.Addr, 4, .rw, false⟩,
   ⟨LPM.ROUTE_DATA.Route, 1, .rw, false⟩,
   ⟨LPM.ROUTE_CMD.Add, 1, .wo, false⟩,
   ⟨LPM.ROUTE_CMD.Delete, 1, .wo, false⟩,
   ⟨LPM.ROUTE_CMD.Read, 1, .wo, false⟩,
   ⟨LPM.ROUTE_STAT.Refused, 1, .rw1c, false⟩,
   ⟨LPM.ROUTE_STAT.Reason, 1, .ro, false⟩,
   ⟨LPM.ROUTE_STAT.Found, 1, .ro, false⟩,
   ⟨LPM.NH_SEL.Index, 1, .rw, false⟩,
   ⟨LPM.NH_DATA0.DmacLo, 1, .rw, false⟩,
   ⟨LPM.NH_DATA1.DmacHi, 1, .rw, false⟩,
   ⟨LPM.NH_DATA1.Vlan, 1, .rw, false⟩,
   ⟨LPM.NH_DATA2.Port, 1, .rw, false⟩,
   ⟨LPM.NH_DATA2.SmacIdx, 1, .rw, false⟩,
   ⟨LPM.NH_DATA2.DecTtl, 1, .rw, false⟩,
   ⟨LPM.NH_DATA2.Valid, 1, .rw, false⟩,
   ⟨LPM.NH_CMD.Write, 1, .wo, false⟩,
   ⟨LPM.NH_CMD.Read, 1, .wo, false⟩,
   ⟨LPM.CFG.TtlToHost, 1, .rw, false⟩,
   ⟨LPM.COUNT4.Routes4, 1, .ro, false⟩,
   ⟨LPM.COUNT6.Routes6, 1, .ro, false⟩,
   ⟨LPM.SMAC.SmacLo, 64, .rw, true⟩,
   ⟨LPM.SMAC.SmacHi, 64, .rw, true⟩]

/-! ### L2T -/
def L2T.KEY_LO.MacLo : Fld := ⟨.l2t, 0x200, 0, 32, 0, 0, 0⟩
def L2T.KEY_HI.MacHi : Fld := ⟨.l2t, 0x204, 0, 16, 0, 0, 0⟩
def L2T.KEY_HI.Vlan : Fld := ⟨.l2t, 0x204, 16, 12, 0, 0, 0⟩
def L2T.DATA.Port : Fld := ⟨.l2t, 0x208, 0, 8, 0, 0, 0⟩
def L2T.DATA.Static : Fld := ⟨.l2t, 0x208, 8, 1, 0, 0, 0⟩
def L2T.DATA.Router : Fld := ⟨.l2t, 0x208, 9, 1, 0, 0, 0⟩
def L2T.CMD.Add : Fld := ⟨.l2t, 0x20c, 0, 1, 0, 0, 0⟩
def L2T.CMD.Delete : Fld := ⟨.l2t, 0x20c, 1, 1, 0, 0, 0⟩
def L2T.CMD.Read : Fld := ⟨.l2t, 0x20c, 2, 1, 0, 0, 0⟩
def L2T.STAT.Refused : Fld := ⟨.l2t, 0x210, 0, 1, 0, 0, 0⟩
def L2T.STAT.Reason : Fld := ⟨.l2t, 0x210, 1, 2, 0, 0, 0⟩
def L2T.STAT.Found : Fld := ⟨.l2t, 0x210, 3, 1, 0, 0, 0⟩
def L2T.STAT.Learned : Fld := ⟨.l2t, 0x210, 4, 1, 0, 0, 0⟩
def L2T.CFG.MoveWindow : Fld := ⟨.l2t, 0x214, 0, 16, 1000, 0, 0⟩
def L2T.CFG.AgeTime : Fld := ⟨.l2t, 0x214, 16, 16, 300, 0, 0⟩
def L2T.LEARN_PORTS.Ports : Fld := ⟨.l2t, 0x218, 0, 32, 0, 4, 0⟩
def L2T.VLAN_SEL.Vlan : Fld := ⟨.l2t, 0x228, 0, 12, 0, 0, 0⟩
def L2T.VLAN_DATA.FloodGroup : Fld := ⟨.l2t, 0x22c, 0, 14, 0, 0, 0⟩
def L2T.VLAN_DATA.LearnEn : Fld := ⟨.l2t, 0x22c, 14, 1, 0, 0, 0⟩
def L2T.VLAN_CMD.Write : Fld := ⟨.l2t, 0x230, 0, 1, 0, 0, 0⟩
def L2T.VLAN_CMD.Read : Fld := ⟨.l2t, 0x230, 1, 1, 0, 0, 0⟩
def L2T.ENTRIES.Entries : Fld := ⟨.l2t, 0x234, 0, 21, 0, 0, 0⟩
def L2T.STATIC_ENTRIES.Static : Fld := ⟨.l2t, 0x238, 0, 21, 0, 0, 0⟩

/-- The register rows of L2T. -/
def rowsL2T : List RegRow :=
  [⟨L2T.KEY_LO.MacLo, 1, .rw, false⟩,
   ⟨L2T.KEY_HI.MacHi, 1, .rw, false⟩,
   ⟨L2T.KEY_HI.Vlan, 1, .rw, false⟩,
   ⟨L2T.DATA.Port, 1, .rw, false⟩,
   ⟨L2T.DATA.Static, 1, .rw, false⟩,
   ⟨L2T.DATA.Router, 1, .rw, false⟩,
   ⟨L2T.CMD.Add, 1, .wo, false⟩,
   ⟨L2T.CMD.Delete, 1, .wo, false⟩,
   ⟨L2T.CMD.Read, 1, .wo, false⟩,
   ⟨L2T.STAT.Refused, 1, .rw1c, false⟩,
   ⟨L2T.STAT.Reason, 1, .ro, false⟩,
   ⟨L2T.STAT.Found, 1, .ro, false⟩,
   ⟨L2T.STAT.Learned, 1, .ro, false⟩,
   ⟨L2T.CFG.MoveWindow, 1, .rw, false⟩,
   ⟨L2T.CFG.AgeTime, 1, .rw, false⟩,
   ⟨L2T.LEARN_PORTS.Ports, 4, .rw, false⟩,
   ⟨L2T.VLAN_SEL.Vlan, 1, .rw, false⟩,
   ⟨L2T.VLAN_DATA.FloodGroup, 1, .rw, true⟩,
   ⟨L2T.VLAN_DATA.LearnEn, 1, .rw, true⟩,
   ⟨L2T.VLAN_CMD.Write, 1, .wo, false⟩,
   ⟨L2T.VLAN_CMD.Read, 1, .wo, false⟩,
   ⟨L2T.ENTRIES.Entries, 1, .ro, false⟩,
   ⟨L2T.STATIC_ENTRIES.Static, 1, .ro, false⟩]

/-! ### ECM -/
def ECM.GRP_SEL.Group : Fld := ⟨.ecm, 0x200, 0, 14, 0, 0, 0⟩
def ECM.GRP_DATA0.SlotBase : Fld := ⟨.ecm, 0x204, 0, 18, 0, 0, 0⟩
def ECM.GRP_DATA0.SlotCount : Fld := ⟨.ecm, 0x204, 18, 13, 0, 0, 0⟩
def ECM.GRP_DATA1.BucketBase : Fld := ⟨.ecm, 0x208, 0, 20, 0, 0, 0⟩
def ECM.GRP_DATA1.BucketLog2 : Fld := ⟨.ecm, 0x208, 20, 4, 0, 0, 0⟩
def ECM.GRP_DATA1.Mode : Fld := ⟨.ecm, 0x208, 24, 1, 0, 0, 0⟩
def ECM.GRP_DATA1.StaleAction : Fld := ⟨.ecm, 0x208, 25, 1, 0, 0, 0⟩
def ECM.GRP_CMD.Write : Fld := ⟨.ecm, 0x20c, 0, 1, 0, 0, 0⟩
def ECM.GRP_CMD.Read : Fld := ⟨.ecm, 0x20c, 1, 1, 0, 0, 0⟩
def ECM.GRP_CMD.Rebuild : Fld := ⟨.ecm, 0x20c, 2, 1, 0, 0, 0⟩
def ECM.SLOT_SEL.Slot : Fld := ⟨.ecm, 0x210, 0, 18, 0, 0, 0⟩
def ECM.SLOT_DATA.NextHop : Fld := ⟨.ecm, 0x214, 0, 16, 0, 0, 0⟩
def ECM.SLOT_DATA.State : Fld := ⟨.ecm, 0x214, 16, 2, 0, 0, 0⟩
def ECM.SLOT_CMD.Write : Fld := ⟨.ecm, 0x218, 0, 1, 0, 0, 0⟩
def ECM.SLOT_CMD.Read : Fld := ⟨.ecm, 0x218, 1, 1, 0, 0, 0⟩
def ECM.STAT.Refused : Fld := ⟨.ecm, 0x21c, 0, 1, 0, 0, 0⟩
def ECM.STAT.Reason : Fld := ⟨.ecm, 0x21c, 1, 2, 0, 0, 0⟩
def ECM.STAT.Busy : Fld := ⟨.ecm, 0x21c, 3, 1, 0, 0, 0⟩
def ECM.BKT_SEL.Bucket : Fld := ⟨.ecm, 0x220, 0, 20, 0, 0, 0⟩
def ECM.BKT_DATA.Slot : Fld := ⟨.ecm, 0x224, 0, 12, 0, 0, 0⟩

/-- The register rows of ECM. -/
def rowsECM : List RegRow :=
  [⟨ECM.GRP_SEL.Group, 1, .rw, false⟩,
   ⟨ECM.GRP_DATA0.SlotBase, 1, .rw, false⟩,
   ⟨ECM.GRP_DATA0.SlotCount, 1, .rw, false⟩,
   ⟨ECM.GRP_DATA1.BucketBase, 1, .rw, false⟩,
   ⟨ECM.GRP_DATA1.BucketLog2, 1, .rw, false⟩,
   ⟨ECM.GRP_DATA1.Mode, 1, .rw, false⟩,
   ⟨ECM.GRP_DATA1.StaleAction, 1, .rw, false⟩,
   ⟨ECM.GRP_CMD.Write, 1, .wo, false⟩,
   ⟨ECM.GRP_CMD.Read, 1, .wo, false⟩,
   ⟨ECM.GRP_CMD.Rebuild, 1, .wo, false⟩,
   ⟨ECM.SLOT_SEL.Slot, 1, .rw, false⟩,
   ⟨ECM.SLOT_DATA.NextHop, 1, .rw, false⟩,
   ⟨ECM.SLOT_DATA.State, 1, .rw, false⟩,
   ⟨ECM.SLOT_CMD.Write, 1, .wo, false⟩,
   ⟨ECM.SLOT_CMD.Read, 1, .wo, false⟩,
   ⟨ECM.STAT.Refused, 1, .rw1c, false⟩,
   ⟨ECM.STAT.Reason, 1, .ro, false⟩,
   ⟨ECM.STAT.Busy, 1, .ro, false⟩,
   ⟨ECM.BKT_SEL.Bucket, 1, .rw, false⟩,
   ⟨ECM.BKT_DATA.Slot, 1, .ro, false⟩]

/-! ### NAT -/
def NAT.ADDR_SEL.Index : Fld := ⟨.nat, 0x200, 0, 16, 0, 0, 0⟩
def NAT.ADDR_DATA0.Address : Fld := ⟨.nat, 0x204, 0, 32, 0, 0, 0⟩
def NAT.ADDR_DATA1.PortBase : Fld := ⟨.nat, 0x208, 0, 16, 0, 0, 0⟩
def NAT.ADDR_DATA1.BlockLog2 : Fld := ⟨.nat, 0x208, 16, 4, 0, 0, 0⟩
def NAT.ADDR_DATA1.Kind : Fld := ⟨.nat, 0x208, 20, 1, 0, 0, 0⟩
def NAT.ADDR_DATA1.Pfx64 : Fld := ⟨.nat, 0x208, 21, 3, 0, 0, 0⟩
def NAT.ADDR_DATA1.Valid : Fld := ⟨.nat, 0x208, 24, 1, 0, 0, 0⟩
def NAT.ADDR_CMD.Cmd : Fld := ⟨.nat, 0x20c, 0, 2, 0, 0, 0⟩
def NAT.PFX_SEL.Prefix : Fld := ⟨.nat, 0x210, 0, 3, 0, 0, 0⟩
def NAT.PFX_DATA.Bits : Fld := ⟨.nat, 0x214, 0, 32, 0, 4, 0⟩
def NAT.PFX_LEN.Len : Fld := ⟨.nat, 0x220, 0, 3, 0, 0, 0⟩
def NAT.PFX_CMD.Cmd : Fld := ⟨.nat, 0x224, 0, 2, 0, 0, 0⟩
def NAT.SUB.Base : Fld := ⟨.nat, 0x230, 0, 32, 0, 16, 0⟩
def NAT.SUB.Len : Fld := ⟨.nat, 0x234, 0, 6, 0, 16, 0⟩
def NAT.SUB.MapBase : Fld := ⟨.nat, 0x238, 0, 24, 0, 16, 0⟩
def NAT.SUB.Valid : Fld := ⟨.nat, 0x23c, 0, 1, 0, 16, 0⟩
def NAT.MAP_CFG.MapOffset : Fld := ⟨.nat, 0x640, 0, 29, 0, 0, 0⟩
def NAT.MAP_SEL.Entry : Fld := ⟨.nat, 0x644, 0, 24, 0, 0, 0⟩
def NAT.MAP_DATA.AddrIndex : Fld := ⟨.nat, 0x648, 0, 16, 0, 4, 0⟩
def NAT.MAP_DATA.BlockNo : Fld := ⟨.nat, 0x648, 16, 12, 0, 4, 0⟩
def NAT.MAP_DATA.Valid : Fld := ⟨.nat, 0x648, 31, 1, 0, 4, 0⟩
def NAT.MAP_CMD.Cmd : Fld := ⟨.nat, 0x658, 0, 2, 0, 0, 0⟩
def NAT.STAT.Refused : Fld := ⟨.nat, 0x65c, 0, 1, 0, 0, 0⟩
def NAT.STAT.Reason : Fld := ⟨.nat, 0x65c, 1, 2, 0, 0, 0⟩

/-- The register rows of NAT. -/
def rowsNAT : List RegRow :=
  [⟨NAT.ADDR_SEL.Index, 1, .rw, false⟩,
   ⟨NAT.ADDR_DATA0.Address, 1, .rw, false⟩,
   ⟨NAT.ADDR_DATA1.PortBase, 1, .rw, false⟩,
   ⟨NAT.ADDR_DATA1.BlockLog2, 1, .rw, false⟩,
   ⟨NAT.ADDR_DATA1.Kind, 1, .rw, false⟩,
   ⟨NAT.ADDR_DATA1.Pfx64, 1, .rw, false⟩,
   ⟨NAT.ADDR_DATA1.Valid, 1, .rw, false⟩,
   ⟨NAT.ADDR_CMD.Cmd, 1, .wo, false⟩,
   ⟨NAT.PFX_SEL.Prefix, 1, .rw, false⟩,
   ⟨NAT.PFX_DATA.Bits, 3, .rw, false⟩,
   ⟨NAT.PFX_LEN.Len, 1, .rw, false⟩,
   ⟨NAT.PFX_CMD.Cmd, 1, .wo, false⟩,
   ⟨NAT.SUB.Base, 64, .rw, true⟩,
   ⟨NAT.SUB.Len, 64, .rw, true⟩,
   ⟨NAT.SUB.MapBase, 64, .rw, true⟩,
   ⟨NAT.SUB.Valid, 64, .rw, true⟩,
   ⟨NAT.MAP_CFG.MapOffset, 1, .rw, true⟩,
   ⟨NAT.MAP_SEL.Entry, 1, .rw, false⟩,
   ⟨NAT.MAP_DATA.AddrIndex, 4, .rw, false⟩,
   ⟨NAT.MAP_DATA.BlockNo, 4, .rw, false⟩,
   ⟨NAT.MAP_DATA.Valid, 4, .rw, false⟩,
   ⟨NAT.MAP_CMD.Cmd, 1, .wo, false⟩,
   ⟨NAT.STAT.Refused, 1, .rw1c, false⟩,
   ⟨NAT.STAT.Reason, 1, .ro, false⟩]

/-! ### SHW -/
def SHW.CFG.Table : Fld := ⟨.shw, 0x200, 0, 4, 0, 0, 0⟩
def SHW.CFG.Mode : Fld := ⟨.shw, 0x200, 4, 1, 0, 0, 0⟩
def SHW.CFG.Rate : Fld := ⟨.shw, 0x200, 8, 8, 16, 0, 0⟩
def SHW.CFG.DumpChannel : Fld := ⟨.shw, 0x200, 16, 8, 0, 0, 0⟩
def SHW.BASE.Base : Fld := ⟨.shw, 0x204, 0, 64, 0, 0, 0⟩
def SHW.COUNT.Count : Fld := ⟨.shw, 0x20c, 0, 24, 0, 0, 0⟩
def SHW.CTL.Cmd : Fld := ⟨.shw, 0x210, 0, 3, 0, 0, 0⟩
def SHW.STAT.Active : Fld := ⟨.shw, 0x214, 0, 1, 0, 0, 0⟩
def SHW.STAT.Done : Fld := ⟨.shw, 0x214, 1, 1, 0, 0, 0⟩
def SHW.STAT.FetchError : Fld := ⟨.shw, 0x214, 2, 1, 0, 0, 0⟩
def SHW.STAT.Surplus : Fld := ⟨.shw, 0x214, 3, 1, 0, 0, 0⟩
def SHW.CHECKED.Checked : Fld := ⟨.shw, 0x218, 0, 24, 0, 0, 0⟩
def SHW.MISMATCH.Mismatch : Fld := ⟨.shw, 0x21c, 0, 24, 0, 0, 0⟩
def SHW.PENDING.Pending : Fld := ⟨.shw, 0x220, 0, 24, 0, 0, 0⟩
def SHW.REPAIRED.Repaired : Fld := ⟨.shw, 0x224, 0, 24, 0, 0, 0⟩
def SHW.DEVCOUNT.DevCount : Fld := ⟨.shw, 0x228, 0, 24, 0, 0, 0⟩
def SHW.EVQ.Queue : Fld := ⟨.shw, 0x22c, 0, 9, 0, 0, 0⟩

/-- The register rows of SHW. -/
def rowsSHW : List RegRow :=
  [⟨SHW.CFG.Table, 1, .rw, false⟩,
   ⟨SHW.CFG.Mode, 1, .rw, false⟩,
   ⟨SHW.CFG.Rate, 1, .rw, false⟩,
   ⟨SHW.CFG.DumpChannel, 1, .rw, false⟩,
   ⟨SHW.BASE.Base, 1, .rw, false⟩,
   ⟨SHW.COUNT.Count, 1, .rw, false⟩,
   ⟨SHW.CTL.Cmd, 1, .wo, false⟩,
   ⟨SHW.STAT.Active, 1, .ro, false⟩,
   ⟨SHW.STAT.Done, 1, .rw1c, false⟩,
   ⟨SHW.STAT.FetchError, 1, .rw1c, false⟩,
   ⟨SHW.STAT.Surplus, 1, .rw1c, false⟩,
   ⟨SHW.CHECKED.Checked, 1, .ro, false⟩,
   ⟨SHW.MISMATCH.Mismatch, 1, .ro, false⟩,
   ⟨SHW.PENDING.Pending, 1, .ro, false⟩,
   ⟨SHW.REPAIRED.Repaired, 1, .ro, false⟩,
   ⟨SHW.DEVCOUNT.DevCount, 1, .ro, false⟩,
   ⟨SHW.EVQ.Queue, 1, .rw, false⟩]

/-! ### ACL -/
def ACL.BANK_CFG.Width : Fld := ⟨.acl, 0x200, 0, 2, 0, 0, 0⟩
def ACL.BANK_CFG.Group : Fld := ⟨.acl, 0x200, 2, 2, 0, 0, 0⟩
def ACL.BANK_CFG.Priority : Fld := ⟨.acl, 0x200, 4, 4, 0, 0, 0⟩
def ACL.PROF_EN.Enable : Fld := ⟨.acl, 0x210, 0, 32, 0, 4, 0⟩
def ACL.KEY_MAP.Offsets : Fld := ⟨.acl, 0x220, 0, 32, 0, 4, 0⟩
def ACL.ENT_SEL.Index : Fld := ⟨.acl, 0x280, 0, 12, 0, 0, 0⟩
def ACL.VALUE.Value : Fld := ⟨.acl, 0x284, 0, 32, 0, 4, 0⟩
def ACL.MASK.Mask : Fld := ⟨.acl, 0x2d4, 0, 32, 0, 4, 0⟩
def ACL.ACTION.Action : Fld := ⟨.acl, 0x328, 0, 64, 0, 0, 0⟩
def ACL.ENT_CMD.Write : Fld := ⟨.acl, 0x330, 0, 1, 0, 0, 0⟩
def ACL.ENT_CMD.Delete : Fld := ⟨.acl, 0x330, 1, 1, 0, 0, 0⟩
def ACL.ENT_CMD.Read : Fld := ⟨.acl, 0x330, 2, 1, 0, 0, 0⟩
def ACL.ENT_CMD.ClearHits : Fld := ⟨.acl, 0x330, 3, 1, 0, 0, 0⟩
def ACL.ENT_STAT.Refused : Fld := ⟨.acl, 0x334, 0, 1, 0, 0, 0⟩
def ACL.ENT_STAT.Reason : Fld := ⟨.acl, 0x334, 1, 3, 0, 0, 0⟩
def ACL.ENT_STAT.ActiveValid : Fld := ⟨.acl, 0x334, 4, 1, 0, 0, 0⟩
def ACL.ENT_STAT.StagedValid : Fld := ⟨.acl, 0x334, 5, 1, 0, 0, 0⟩
def ACL.HIT.Hits : Fld := ⟨.acl, 0x338, 0, 48, 0, 0, 0⟩
def ACL.COUNT.Active : Fld := ⟨.acl, 0x340, 0, 13, 0, 0, 0⟩
def ACL.COUNT.Staged : Fld := ⟨.acl, 0x340, 16, 13, 0, 0, 0⟩
def ACL.REPAIR.Pending : Fld := ⟨.acl, 0x344, 0, 3, 0, 0, 0⟩

/-- The register rows of ACL. -/
def rowsACL : List RegRow :=
  [⟨ACL.BANK_CFG.Width, 1, .rw, true⟩,
   ⟨ACL.BANK_CFG.Group, 1, .rw, true⟩,
   ⟨ACL.BANK_CFG.Priority, 1, .rw, true⟩,
   ⟨ACL.PROF_EN.Enable, 4, .rw, true⟩,
   ⟨ACL.KEY_MAP.Offsets, 20, .rw, true⟩,
   ⟨ACL.ENT_SEL.Index, 1, .rw, false⟩,
   ⟨ACL.VALUE.Value, 20, .rw, false⟩,
   ⟨ACL.MASK.Mask, 20, .rw, false⟩,
   ⟨ACL.ACTION.Action, 1, .rw, false⟩,
   ⟨ACL.ENT_CMD.Write, 1, .wo, false⟩,
   ⟨ACL.ENT_CMD.Delete, 1, .wo, false⟩,
   ⟨ACL.ENT_CMD.Read, 1, .wo, false⟩,
   ⟨ACL.ENT_CMD.ClearHits, 1, .wo, false⟩,
   ⟨ACL.ENT_STAT.Refused, 1, .rw1c, false⟩,
   ⟨ACL.ENT_STAT.Reason, 1, .ro, false⟩,
   ⟨ACL.ENT_STAT.ActiveValid, 1, .ro, false⟩,
   ⟨ACL.ENT_STAT.StagedValid, 1, .ro, false⟩,
   ⟨ACL.HIT.Hits, 1, .ro, false⟩,
   ⟨ACL.COUNT.Active, 1, .ro, false⟩,
   ⟨ACL.COUNT.Staged, 1, .ro, false⟩,
   ⟨ACL.REPAIR.Pending, 1, .ro, false⟩]

/-! ### EGS -/
def EGS.PORT_CFG.Overhead : Fld := ⟨.egs, 0x200, 0, 8, 0, 4, 0⟩
def EGS.PORT_CFG.ForcePackets : Fld := ⟨.egs, 0x200, 8, 1, 1, 4, 0⟩
def EGS.PORT_CFG.PauseEn : Fld := ⟨.egs, 0x200, 9, 1, 0, 4, 0⟩
def EGS.PORT_CFG.PfcEn : Fld := ⟨.egs, 0x200, 10, 1, 0, 4, 0⟩
def EGS.QMAP.Queues : Fld := ⟨.egs, 0x250, 0, 32, 0, 4, 0⟩
def EGS.QSEL.Port : Fld := ⟨.egs, 0x2a0, 0, 5, 0, 0, 0⟩
def EGS.QSEL.Queue : Fld := ⟨.egs, 0x2a0, 8, 4, 0, 0, 0⟩
def EGS.QCFG.Level : Fld := ⟨.egs, 0x2a4, 0, 3, 0, 0, 0⟩
def EGS.QCFG.Weight : Fld := ⟨.egs, 0x2a4, 8, 8, 1, 0, 0⟩
def EGS.QCFG.DefGroup : Fld := ⟨.egs, 0x2a4, 16, 15, 0, 0, 0⟩
def EGS.QCFG.DefValid : Fld := ⟨.egs, 0x2a4, 31, 1, 0, 0, 0⟩
def EGS.QCMD.Cmd : Fld := ⟨.egs, 0x2a8, 0, 2, 0, 0, 0⟩
def EGS.PFC_MAP.Queues : Fld := ⟨.egs, 0x2b0, 0, 16, 0, 4, 0⟩
def EGS.ACCT.PktLen : Fld := ⟨.egs, 0x2d0, 0, 14, 84, 0, 0⟩
def EGS.GRP_SEL.Group : Fld := ⟨.egs, 0x2e0, 0, 15, 0, 0, 0⟩
def EGS.GRP_CFG.Mode : Fld := ⟨.egs, 0x2e4, 0, 2, 0, 0, 0⟩
def EGS.GRP_CFG.Account : Fld := ⟨.egs, 0x2e4, 2, 1, 0, 0, 0⟩
def EGS.GRP_CFG.Overhead : Fld := ⟨.egs, 0x2e4, 8, 8, 0, 0, 0⟩
def EGS.GRP_COST.Cost : Fld := ⟨.egs, 0x2e8, 0, 40, 0, 0, 0⟩
def EGS.GRP_BURST.Burst : Fld := ⟨.egs, 0x2f0, 0, 24, 0, 0, 0⟩
def EGS.GRP_QUANTUM.Quantum : Fld := ⟨.egs, 0x2f4, 0, 20, 0, 0, 0⟩
def EGS.GRP_CMD.Cmd : Fld := ⟨.egs, 0x2f8, 0, 3, 0, 0, 0⟩
def EGS.CMD_STAT.Refused : Fld := ⟨.egs, 0x2fc, 0, 1, 0, 0, 0⟩
def EGS.CMD_STAT.Reason : Fld := ⟨.egs, 0x2fc, 1, 2, 0, 0, 0⟩
def EGS.GRP_STATE.State : Fld := ⟨.egs, 0x300, 0, 64, 0, 0, 0⟩
def EGS.GRP_DEPTH.Waiting : Fld := ⟨.egs, 0x308, 0, 16, 0, 0, 0⟩
def EGS.WHEEL_STAT0.Level0 : Fld := ⟨.egs, 0x310, 0, 16, 0, 0, 0⟩
def EGS.WHEEL_STAT0.Level1 : Fld := ⟨.egs, 0x310, 16, 16, 0, 0, 0⟩
def EGS.WHEEL_STAT1.Level2 : Fld := ⟨.egs, 0x314, 0, 16, 0, 0, 0⟩
def EGS.WHEEL_STAT1.Backlog : Fld := ⟨.egs, 0x314, 16, 16, 0, 0, 0⟩
def EGS.SHAPER_TIME.Time : Fld := ⟨.egs, 0x318, 0, 64, 0, 0, 0⟩
def EGS.PAUSE_STAT.Paused : Fld := ⟨.egs, 0x320, 0, 16, 0, 4, 0⟩

/-- The register rows of EGS. -/
def rowsEGS : List RegRow :=
  [⟨EGS.PORT_CFG.Overhead, 18, .rws, true⟩,
   ⟨EGS.PORT_CFG.ForcePackets, 18, .rws, true⟩,
   ⟨EGS.PORT_CFG.PauseEn, 18, .rws, true⟩,
   ⟨EGS.PORT_CFG.PfcEn, 18, .rws, true⟩,
   ⟨EGS.QMAP.Queues, 18, .rws, true⟩,
   ⟨EGS.QSEL.Port, 1, .rw, false⟩,
   ⟨EGS.QSEL.Queue, 1, .rw, false⟩,
   ⟨EGS.QCFG.Level, 1, .rw, false⟩,
   ⟨EGS.QCFG.Weight, 1, .rw, false⟩,
   ⟨EGS.QCFG.DefGroup, 1, .rw, false⟩,
   ⟨EGS.QCFG.DefValid, 1, .rw, false⟩,
   ⟨EGS.QCMD.Cmd, 1, .wo, false⟩,
   ⟨EGS.PFC_MAP.Queues, 8, .rws, true⟩,
   ⟨EGS.ACCT.PktLen, 1, .rws, true⟩,
   ⟨EGS.GRP_SEL.Group, 1, .rw, false⟩,
   ⟨EGS.GRP_CFG.Mode, 1, .rw, false⟩,
   ⟨EGS.GRP_CFG.Account, 1, .rw, false⟩,
   ⟨EGS.GRP_CFG.Overhead, 1, .rw, false⟩,
   ⟨EGS.GRP_COST.Cost, 1, .rw, false⟩,
   ⟨EGS.GRP_BURST.Burst, 1, .rw, false⟩,
   ⟨EGS.GRP_QUANTUM.Quantum, 1, .rw, false⟩,
   ⟨EGS.GRP_CMD.Cmd, 1, .wo, false⟩,
   ⟨EGS.CMD_STAT.Refused, 1, .rw1c, false⟩,
   ⟨EGS.CMD_STAT.Reason, 1, .ro, false⟩,
   ⟨EGS.GRP_STATE.State, 1, .ro, false⟩,
   ⟨EGS.GRP_DEPTH.Waiting, 1, .ro, false⟩,
   ⟨EGS.WHEEL_STAT0.Level0, 1, .ro, false⟩,
   ⟨EGS.WHEEL_STAT0.Level1, 1, .ro, false⟩,
   ⟨EGS.WHEEL_STAT1.Level2, 1, .ro, false⟩,
   ⟨EGS.WHEEL_STAT1.Backlog, 1, .ro, false⟩] ++
  [⟨EGS.SHAPER_TIME.Time, 1, .ro, false⟩,
   ⟨EGS.PAUSE_STAT.Paused, 18, .ro, false⟩]

/-! ### MTR -/
def MTR.SEL.Meter : Fld := ⟨.mtr, 0x200, 0, 16, 0, 0, 0⟩
def MTR.CIR.Cir : Fld := ⟨.mtr, 0x204, 0, 32, 0, 0, 0⟩
def MTR.PIR.Pir : Fld := ⟨.mtr, 0x208, 0, 32, 0, 0, 0⟩
def MTR.CBS.Cbs : Fld := ⟨.mtr, 0x20c, 0, 32, 0, 0, 0⟩
def MTR.PBS.Pbs : Fld := ⟨.mtr, 0x210, 0, 32, 0, 0, 0⟩
def MTR.CFG.Adj : Fld := ⟨.mtr, 0x214, 0, 8, 0, 0, 0⟩
def MTR.CFG.ColourAware : Fld := ⟨.mtr, 0x214, 8, 1, 0, 0, 0⟩
def MTR.CFG.GreenAct : Fld := ⟨.mtr, 0x214, 9, 2, 0, 0, 0⟩
def MTR.CFG.YellowAct : Fld := ⟨.mtr, 0x214, 11, 2, 0, 0, 0⟩
def MTR.CFG.RedAct : Fld := ⟨.mtr, 0x214, 13, 2, 0, 0, 0⟩
def MTR.CFG.YellowDscp : Fld := ⟨.mtr, 0x214, 15, 6, 0, 0, 0⟩
def MTR.CFG.RedDscp : Fld := ⟨.mtr, 0x214, 21, 6, 0, 0, 0⟩
def MTR.CFG.Valid : Fld := ⟨.mtr, 0x214, 31, 1, 0, 0, 0⟩
def MTR.CMD.Cmd : Fld := ⟨.mtr, 0x218, 0, 4, 0, 0, 0⟩
def MTR.STAT.Refused : Fld := ⟨.mtr, 0x21c, 0, 1, 0, 0, 0⟩
def MTR.TOKENS_C.TokensC : Fld := ⟨.mtr, 0x220, 0, 32, 0, 0, 0⟩
def MTR.TOKENS_P.TokensP : Fld := ⟨.mtr, 0x224, 0, 32, 0, 0, 0⟩
def MTR.GREEN.Green : Fld := ⟨.mtr, 0x228, 0, 48, 0, 0, 0⟩
def MTR.YELLOW.Yellow : Fld := ⟨.mtr, 0x230, 0, 48, 0, 0, 0⟩
def MTR.RED.Red : Fld := ⟨.mtr, 0x238, 0, 48, 0, 0, 0⟩
def MTR.PORT_MTR.Meter : Fld := ⟨.mtr, 0x1000, 0, 16, 0, 4, 0⟩
def MTR.PORT_MTR.Valid : Fld := ⟨.mtr, 0x1000, 31, 1, 0, 4, 0⟩

/-- The register rows of MTR. -/
def rowsMTR : List RegRow :=
  [⟨MTR.SEL.Meter, 1, .rw, false⟩,
   ⟨MTR.CIR.Cir, 1, .rw, false⟩,
   ⟨MTR.PIR.Pir, 1, .rw, false⟩,
   ⟨MTR.CBS.Cbs, 1, .rw, false⟩,
   ⟨MTR.PBS.Pbs, 1, .rw, false⟩,
   ⟨MTR.CFG.Adj, 1, .rw, false⟩,
   ⟨MTR.CFG.ColourAware, 1, .rw, false⟩,
   ⟨MTR.CFG.GreenAct, 1, .rw, false⟩,
   ⟨MTR.CFG.YellowAct, 1, .rw, false⟩,
   ⟨MTR.CFG.RedAct, 1, .rw, false⟩,
   ⟨MTR.CFG.YellowDscp, 1, .rw, false⟩,
   ⟨MTR.CFG.RedDscp, 1, .rw, false⟩,
   ⟨MTR.CFG.Valid, 1, .rw, false⟩,
   ⟨MTR.CMD.Cmd, 1, .wo, false⟩,
   ⟨MTR.STAT.Refused, 1, .rw1c, false⟩,
   ⟨MTR.TOKENS_C.TokensC, 1, .ro, false⟩,
   ⟨MTR.TOKENS_P.TokensP, 1, .ro, false⟩,
   ⟨MTR.GREEN.Green, 1, .ro, false⟩,
   ⟨MTR.YELLOW.Yellow, 1, .ro, false⟩,
   ⟨MTR.RED.Red, 1, .ro, false⟩,
   ⟨MTR.PORT_MTR.Meter, 138, .rw, true⟩,
   ⟨MTR.PORT_MTR.Valid, 138, .rw, true⟩]

/-! ### HBC -/
def HBC.MAP_CFG.TableOrder : Fld := ⟨.hbc, 0x200, 0, 2, 0, 0, 0⟩
def HBC.MAP_CFG.GenOrder : Fld := ⟨.hbc, 0x200, 2, 2, 1, 0, 0⟩
def HBC.REF_CFG.Stagger : Fld := ⟨.hbc, 0x204, 0, 1, 1, 0, 0⟩
def HBC.TEMP_STAT.Case : Fld := ⟨.hbc, 0x208, 0, 8, 0, 0, 0⟩
def HBC.TEMP_STAT.Hot : Fld := ⟨.hbc, 0x208, 8, 1, 0, 0, 0⟩
def HBC.TEMP_STAT.Derate : Fld := ⟨.hbc, 0x208, 9, 1, 0, 0, 0⟩
def HBC.TEMP_STAT.Max : Fld := ⟨.hbc, 0x208, 16, 8, 0, 0, 0⟩
def HBC.CAL_CFG.Enable : Fld := ⟨.hbc, 0x210, 0, 1, 1, 0, 0⟩
def HBC.CAL_CFG.ZqEvery : Fld := ⟨.hbc, 0x210, 4, 12, 1024, 0, 0⟩
def HBC.CAL_CFG.MarginAlarm : Fld := ⟨.hbc, 0x210, 16, 7, 24, 0, 0⟩
def HBC.CAL_STAT.MinWidth : Fld := ⟨.hbc, 0x214, 0, 7, 0, 0, 0⟩
def HBC.CAL_STAT.MinLane : Fld := ⟨.hbc, 0x214, 8, 8, 0, 0, 0⟩
def HBC.CAL_STAT.Steps : Fld := ⟨.hbc, 0x214, 16, 16, 0, 0, 0⟩
def HBC.CAL_SEL.Lane : Fld := ⟨.hbc, 0x218, 0, 8, 0, 0, 0⟩
def HBC.CAL_LANE.Centre : Fld := ⟨.hbc, 0x21c, 0, 8, 0, 0, 0⟩
def HBC.CAL_LANE.Width : Fld := ⟨.hbc, 0x21c, 8, 7, 0, 0, 0⟩
def HBC.CAL_LANE.Vref : Fld := ⟨.hbc, 0x21c, 16, 6, 0, 0, 0⟩
def HBC.CAL_LANE.Strobe : Fld := ⟨.hbc, 0x21c, 24, 6, 0, 0, 0⟩
def HBC.PORT_CFG.Target : Fld := ⟨.hbc, 0x220, 0, 8, 0, 4, 0⟩
def HBC.PORT_CFG.Cap : Fld := ⟨.hbc, 0x220, 8, 8, 0, 4, 0⟩
def HBC.PORT_CFG.Ramp : Fld := ⟨.hbc, 0x220, 16, 1, 1, 4, 0⟩
def HBC.SCRUB_CFG.Enable : Fld := ⟨.hbc, 0x240, 0, 1, 1, 0, 0⟩
def HBC.SCRUB_CFG.Period : Fld := ⟨.hbc, 0x240, 8, 8, 24, 0, 0⟩
def HBC.SCRUB_STAT.Passes : Fld := ⟨.hbc, 0x244, 0, 16, 0, 0, 0⟩
def HBC.SCRUB_POS.Position : Fld := ⟨.hbc, 0x248, 0, 23, 0, 0, 0⟩
def HBC.TIM_STAT0.Trcd : Fld := ⟨.hbc, 0x250, 0, 8, 0, 0, 0⟩
def HBC.TIM_STAT0.Trp : Fld := ⟨.hbc, 0x250, 8, 8, 0, 0, 0⟩
def HBC.TIM_STAT0.Tras : Fld := ⟨.hbc, 0x250, 16, 8, 0, 0, 0⟩
def HBC.TIM_STAT0.Tfaw : Fld := ⟨.hbc, 0x250, 24, 8, 0, 0, 0⟩
def HBC.TIM_STAT1.Trfc : Fld := ⟨.hbc, 0x254, 0, 10, 0, 0, 0⟩
def HBC.TIM_STAT1.Trefi : Fld := ⟨.hbc, 0x254, 12, 12, 0, 0, 0⟩
def HBC.TIM_STAT1.Derated : Fld := ⟨.hbc, 0x254, 24, 1, 0, 0, 0⟩
def HBC.FREQ_CTL.Rate : Fld := ⟨.hbc, 0x280, 0, 2, 0, 0, 0⟩
def HBC.FREQ_CTL.Go : Fld := ⟨.hbc, 0x280, 4, 1, 0, 0, 0⟩
def HBC.FREQ_STAT.Current : Fld := ⟨.hbc, 0x284, 0, 2, 0, 0, 0⟩
def HBC.FREQ_STAT.Busy : Fld := ⟨.hbc, 0x284, 2, 1, 0, 0, 0⟩
def HBC.FREQ_STAT.Done : Fld := ⟨.hbc, 0x284, 3, 1, 0, 0, 0⟩
def HBC.FREQ_STAT.Refused : Fld := ⟨.hbc, 0x284, 4, 1, 0, 0, 0⟩
def HBC.FREQ_STAT.Reason : Fld := ⟨.hbc, 0x284, 5, 3, 0, 0, 0⟩
def HBC.FREQ_STAT.LastHold : Fld := ⟨.hbc, 0x284, 16, 16, 0, 0, 0⟩

/-- The register rows of HBC. -/
def rowsHBC : List RegRow :=
  [⟨HBC.MAP_CFG.TableOrder, 1, .rws, false⟩,
   ⟨HBC.MAP_CFG.GenOrder, 1, .rws, false⟩,
   ⟨HBC.REF_CFG.Stagger, 1, .rws, false⟩,
   ⟨HBC.TEMP_STAT.Case, 1, .ro, false⟩,
   ⟨HBC.TEMP_STAT.Hot, 1, .ro, false⟩,
   ⟨HBC.TEMP_STAT.Derate, 1, .ro, false⟩,
   ⟨HBC.TEMP_STAT.Max, 1, .rc, false⟩,
   ⟨HBC.CAL_CFG.Enable, 1, .rws, false⟩,
   ⟨HBC.CAL_CFG.ZqEvery, 1, .rws, false⟩,
   ⟨HBC.CAL_CFG.MarginAlarm, 1, .rws, false⟩,
   ⟨HBC.CAL_STAT.MinWidth, 1, .ro, false⟩,
   ⟨HBC.CAL_STAT.MinLane, 1, .ro, false⟩,
   ⟨HBC.CAL_STAT.Steps, 1, .rc, false⟩,
   ⟨HBC.CAL_SEL.Lane, 1, .rw, false⟩,
   ⟨HBC.CAL_LANE.Centre, 1, .ro, false⟩,
   ⟨HBC.CAL_LANE.Width, 1, .ro, false⟩,
   ⟨HBC.CAL_LANE.Vref, 1, .ro, false⟩,
   ⟨HBC.CAL_LANE.Strobe, 1, .ro, false⟩,
   ⟨HBC.PORT_CFG.Target, 7, .rws, false⟩,
   ⟨HBC.PORT_CFG.Cap, 7, .rws, false⟩,
   ⟨HBC.PORT_CFG.Ramp, 7, .rws, false⟩,
   ⟨HBC.SCRUB_CFG.Enable, 1, .rws, false⟩,
   ⟨HBC.SCRUB_CFG.Period, 1, .rws, false⟩,
   ⟨HBC.SCRUB_STAT.Passes, 1, .ros, false⟩,
   ⟨HBC.SCRUB_POS.Position, 1, .ros, false⟩,
   ⟨HBC.TIM_STAT0.Trcd, 1, .ro, false⟩,
   ⟨HBC.TIM_STAT0.Trp, 1, .ro, false⟩,
   ⟨HBC.TIM_STAT0.Tras, 1, .ro, false⟩,
   ⟨HBC.TIM_STAT0.Tfaw, 1, .ro, false⟩,
   ⟨HBC.TIM_STAT1.Trfc, 1, .ro, false⟩] ++
  [⟨HBC.TIM_STAT1.Trefi, 1, .ro, false⟩,
   ⟨HBC.TIM_STAT1.Derated, 1, .ro, false⟩,
   ⟨HBC.FREQ_CTL.Rate, 1, .rw, false⟩,
   ⟨HBC.FREQ_CTL.Go, 1, .wo, false⟩,
   ⟨HBC.FREQ_STAT.Current, 1, .ros, false⟩,
   ⟨HBC.FREQ_STAT.Busy, 1, .ro, false⟩,
   ⟨HBC.FREQ_STAT.Done, 1, .rw1c, false⟩,
   ⟨HBC.FREQ_STAT.Refused, 1, .rw1c, false⟩,
   ⟨HBC.FREQ_STAT.Reason, 1, .ro, false⟩,
   ⟨HBC.FREQ_STAT.LastHold, 1, .ro, false⟩]

/-! ### TIM -/
def TIM.TIME_NS.Nanoseconds : Fld := ⟨.tim, 0x200, 0, 30, 0, 0, 0⟩
def TIM.TIME_SEC_LO.SecondsLo : Fld := ⟨.tim, 0x204, 0, 32, 0, 0, 0⟩
def TIM.TIME_SEC_HI.SecondsHi : Fld := ⟨.tim, 0x208, 0, 16, 0, 0, 0⟩
def TIM.TIME_FRAC.Fraction : Fld := ⟨.tim, 0x20c, 0, 16, 0, 0, 0⟩
def TIM.INCR.Incr : Fld := ⟨.tim, 0x210, 0, 48, 879609302221, 0, 0⟩
def TIM.SET_NS.Nanoseconds : Fld := ⟨.tim, 0x218, 0, 30, 0, 0, 0⟩
def TIM.SET_SEC_LO.SecondsLo : Fld := ⟨.tim, 0x21c, 0, 32, 0, 0, 0⟩
def TIM.SET_SEC_HI.SecondsHi : Fld := ⟨.tim, 0x220, 0, 16, 0, 0, 0⟩
def TIM.STEP_NS.Nanoseconds : Fld := ⟨.tim, 0x224, 0, 32, 0, 0, 0⟩
def TIM.STEP_FRAC.Fraction : Fld := ⟨.tim, 0x228, 0, 16, 0, 0, 0⟩
def TIM.TIME_CTL.Set : Fld := ⟨.tim, 0x22c, 0, 1, 0, 0, 0⟩
def TIM.TIME_CTL.Step : Fld := ⟨.tim, 0x22c, 1, 1, 0, 0, 0⟩
def TIM.TIME_STAT.Valid : Fld := ⟨.tim, 0x230, 0, 1, 0, 0, 0⟩
def TIM.TIME_STAT.Stepped : Fld := ⟨.tim, 0x230, 1, 1, 0, 0, 0⟩
def TIM.TIME_STAT.Refused : Fld := ⟨.tim, 0x230, 2, 1, 0, 0, 0⟩
def TIM.TIME_STAT.StepCount : Fld := ⟨.tim, 0x230, 16, 16, 0, 0, 0⟩
def TIM.TIME_QUAL.Quality : Fld := ⟨.tim, 0x234, 0, 8, 0, 0, 0⟩
def TIM.PPS_OUT_OFS.Offset : Fld := ⟨.tim, 0x240, 0, 30, 0, 0, 0⟩
def TIM.PPS_OUT_CFG.Enable : Fld := ⟨.tim, 0x244, 0, 1, 0, 0, 0⟩
def TIM.PPS_OUT_CFG.Width : Fld := ⟨.tim, 0x244, 8, 8, 100, 0, 0⟩
def TIM.PPS_IN_CFG.Enable : Fld := ⟨.tim, 0x248, 0, 1, 0, 0, 0⟩
def TIM.PPS_IN_CFG.Falling : Fld := ⟨.tim, 0x248, 1, 1, 0, 0, 0⟩
def TIM.PPS_IN_STAMP.Stamp : Fld := ⟨.tim, 0x250, 0, 64, 0, 0, 0⟩
def TIM.TEN_CFG.Enable : Fld := ⟨.tim, 0x258, 0, 1, 0, 0, 0⟩
def TIM.TEN_ELAPSED.Elapsed : Fld := ⟨.tim, 0x260, 0, 48, 0, 0, 0⟩
def TIM.TEN_STAT.Count : Fld := ⟨.tim, 0x268, 0, 32, 0, 0, 0⟩
def TIM.SYNCE_OUT.Lane : Fld := ⟨.tim, 0x270, 0, 7, 0, 4, 0⟩
def TIM.SYNCE_OUT.Freq : Fld := ⟨.tim, 0x270, 7, 1, 0, 4, 0⟩
def TIM.SYNCE_OUT.Enable : Fld := ⟨.tim, 0x270, 8, 1, 0, 4, 0⟩
def TIM.SYNCE_OUT.Squelched : Fld := ⟨.tim, 0x270, 9, 1, 1, 4, 0⟩
def TIM.EVT_CFG.Queue : Fld := ⟨.tim, 0x280, 0, 9, 0, 0, 0⟩
def TIM.EVT_CFG.PtpTxEv : Fld := ⟨.tim, 0x280, 16, 1, 0, 0, 0⟩
def TIM.EVT_CFG.PpsEv : Fld := ⟨.tim, 0x280, 17, 1, 0, 0, 0⟩
def TIM.EVT_CFG.StepEv : Fld := ⟨.tim, 0x280, 18, 1, 0, 0, 0⟩
def TIM.EVT_CFG.CalEv : Fld := ⟨.tim, 0x280, 19, 1, 0, 0, 0⟩
def TIM.EVT_CFG.TenEv : Fld := ⟨.tim, 0x280, 20, 1, 0, 0, 0⟩
def TIM.CAL_GEN.Generation : Fld := ⟨.tim, 0x284, 0, 32, 0, 0, 0⟩
def TIM.CAL_CFG.Enable : Fld := ⟨.tim, 0x288, 0, 1, 1, 0, 0⟩
def TIM.CAL_CFG.AvgLog2 : Fld := ⟨.tim, 0x288, 8, 4, 10, 0, 0⟩
def TIM.CAL_SEL.Lane : Fld := ⟨.tim, 0x28c, 0, 7, 0, 0, 0⟩
def TIM.CAL_RX.Rx : Fld := ⟨.tim, 0x290, 0, 20, 0, 0, 0⟩
def TIM.CAL_TX.Tx : Fld := ⟨.tim, 0x294, 0, 20, 0, 0, 0⟩
def TIM.CAL_EST_RX.Estimate : Fld := ⟨.tim, 0x298, 0, 20, 0, 0, 0⟩
def TIM.PTP_CFG.Mode : Fld := ⟨.tim, 0x1000, 0, 2, 0, 8, 0⟩
def TIM.PTP_CFG.L2 : Fld := ⟨.tim, 0x1000, 2, 1, 0, 8, 0⟩
def TIM.PTP_CFG.Udp4 : Fld := ⟨.tim, 0x1000, 3, 1, 0, 8, 0⟩
def TIM.PTP_CFG.Udp6 : Fld := ⟨.tim, 0x1000, 4, 1, 0, 8, 0⟩
def TIM.LINK_DELAY.Delay : Fld := ⟨.tim, 0x1004, 0, 32, 0, 8, 0⟩
def TIM.TRACE.Rx : Fld := ⟨.tim, 0x2000, 0, 16, 0, 4, 0⟩
def TIM.TRACE.Tx : Fld := ⟨.tim, 0x2000, 16, 16, 0, 4, 0⟩

/-- The register rows of TIM. -/
def rowsTIM : List RegRow :=
  [⟨TIM.TIME_NS.Nanoseconds, 1, .ro, false⟩,
   ⟨TIM.TIME_SEC_LO.SecondsLo, 1, .ro, false⟩,
   ⟨TIM.TIME_SEC_HI.SecondsHi, 1, .ro, false⟩,
   ⟨TIM.TIME_FRAC.Fraction, 1, .ro, false⟩,
   ⟨TIM.INCR.Incr, 1, .rws, false⟩,
   ⟨TIM.SET_NS.Nanoseconds, 1, .rw, false⟩,
   ⟨TIM.SET_SEC_LO.SecondsLo, 1, .rw, false⟩,
   ⟨TIM.SET_SEC_HI.SecondsHi, 1, .rw, false⟩,
   ⟨TIM.STEP_NS.Nanoseconds, 1, .rw, false⟩,
   ⟨TIM.STEP_FRAC.Fraction, 1, .rw, false⟩,
   ⟨TIM.TIME_CTL.Set, 1, .wo, false⟩,
   ⟨TIM.TIME_CTL.Step, 1, .wo, false⟩,
   ⟨TIM.TIME_STAT.Valid, 1, .ros, false⟩,
   ⟨TIM.TIME_STAT.Stepped, 1, .rw1c, false⟩,
   ⟨TIM.TIME_STAT.Refused, 1, .rw1c, false⟩,
   ⟨TIM.TIME_STAT.StepCount, 1, .ros, false⟩,
   ⟨TIM.TIME_QUAL.Quality, 1, .rws, false⟩,
   ⟨TIM.PPS_OUT_OFS.Offset, 1, .rws, false⟩,
   ⟨TIM.PPS_OUT_CFG.Enable, 1, .rws, false⟩,
   ⟨TIM.PPS_OUT_CFG.Width, 1, .rws, false⟩,
   ⟨TIM.PPS_IN_CFG.Enable, 1, .rws, false⟩,
   ⟨TIM.PPS_IN_CFG.Falling, 1, .rws, false⟩,
   ⟨TIM.PPS_IN_STAMP.Stamp, 1, .ro, false⟩,
   ⟨TIM.TEN_CFG.Enable, 1, .rws, false⟩,
   ⟨TIM.TEN_ELAPSED.Elapsed, 1, .ro, false⟩,
   ⟨TIM.TEN_STAT.Count, 1, .ro, false⟩,
   ⟨TIM.SYNCE_OUT.Lane, 2, .rws, false⟩,
   ⟨TIM.SYNCE_OUT.Freq, 2, .rws, false⟩,
   ⟨TIM.SYNCE_OUT.Enable, 2, .rws, false⟩,
   ⟨TIM.SYNCE_OUT.Squelched, 2, .ro, false⟩] ++
  [⟨TIM.EVT_CFG.Queue, 1, .rws, false⟩,
   ⟨TIM.EVT_CFG.PtpTxEv, 1, .rws, false⟩,
   ⟨TIM.EVT_CFG.PpsEv, 1, .rws, false⟩,
   ⟨TIM.EVT_CFG.StepEv, 1, .rws, false⟩,
   ⟨TIM.EVT_CFG.CalEv, 1, .rws, false⟩,
   ⟨TIM.EVT_CFG.TenEv, 1, .rws, false⟩,
   ⟨TIM.CAL_GEN.Generation, 1, .ros, false⟩,
   ⟨TIM.CAL_CFG.Enable, 1, .rws, false⟩,
   ⟨TIM.CAL_CFG.AvgLog2, 1, .rws, false⟩,
   ⟨TIM.CAL_SEL.Lane, 1, .rw, false⟩,
   ⟨TIM.CAL_RX.Rx, 1, .ros, false⟩,
   ⟨TIM.CAL_TX.Tx, 1, .ros, false⟩,
   ⟨TIM.CAL_EST_RX.Estimate, 1, .ro, false⟩,
   ⟨TIM.PTP_CFG.Mode, 128, .rws, false⟩,
   ⟨TIM.PTP_CFG.L2, 128, .rws, false⟩,
   ⟨TIM.PTP_CFG.Udp4, 128, .rws, false⟩,
   ⟨TIM.PTP_CFG.Udp6, 128, .rws, false⟩,
   ⟨TIM.LINK_DELAY.Delay, 128, .rws, false⟩,
   ⟨TIM.TRACE.Rx, 128, .rws, false⟩,
   ⟨TIM.TRACE.Tx, 128, .rws, false⟩]

/-! ### SDL -/
def SDL.STREAM_CFG.Enable : Fld := ⟨.sdl, 0x200, 0, 1, 0, 16, 0⟩
def SDL.STREAM_CFG.Strict : Fld := ⟨.sdl, 0x200, 1, 1, 0, 16, 0⟩
def SDL.STREAM_CFG.CaptureOffset : Fld := ⟨.sdl, 0x200, 8, 8, 0, 16, 0⟩
def SDL.STREAM_CFG.EntryChannel : Fld := ⟨.sdl, 0x200, 16, 8, 0, 16, 0⟩
def SDL.STREAM_CFG.SealChannel : Fld := ⟨.sdl, 0x200, 24, 8, 0, 16, 0⟩
def SDL.EPOCH.EpochUs : Fld := ⟨.sdl, 0x204, 0, 20, 1000, 16, 0⟩
def SDL.STREAM_STAT.Active : Fld := ⟨.sdl, 0x208, 0, 1, 0, 16, 0⟩
def SDL.STREAM_STAT.Refused : Fld := ⟨.sdl, 0x208, 1, 1, 0, 16, 0⟩
def SDL.STREAM_STAT.Reason : Fld := ⟨.sdl, 0x208, 2, 3, 0, 16, 0⟩
def SDL.STREAM_STAT.Fill : Fld := ⟨.sdl, 0x208, 16, 13, 0, 16, 0⟩
def SDL.LOST.Lost : Fld := ⟨.sdl, 0x20c, 0, 32, 0, 16, 0⟩
def SDL.MERGE_CFG.Hold : Fld := ⟨.sdl, 0x300, 0, 16, 125, 0, 0⟩
def SDL.STAGE_CFG.Offset : Fld := ⟨.sdl, 0x304, 0, 29, 0, 0, 0⟩
def SDL.STAGE_SLOTS.SlotsLog2 : Fld := ⟨.sdl, 0x308, 0, 5, 0, 0, 0⟩
def SDL.ANCHOR_CFG.Period : Fld := ⟨.sdl, 0x310, 0, 16, 60, 0, 0⟩
def SDL.ANCHOR_CFG.Enable : Fld := ⟨.sdl, 0x310, 16, 1, 1, 0, 0⟩
def SDL.ANCHOR_CFG.Channel : Fld := ⟨.sdl, 0x310, 24, 8, 0, 0, 0⟩
def SDL.ANCHOR_CTL.Now : Fld := ⟨.sdl, 0x314, 0, 1, 0, 0, 0⟩
def SDL.BOOT.Boot : Fld := ⟨.sdl, 0x318, 0, 64, 0, 0, 0⟩
def SDL.ANCHOR_SEQ.Seq : Fld := ⟨.sdl, 0x320, 0, 64, 0, 0, 0⟩
def SDL.KEY_SERIAL.Serial : Fld := ⟨.sdl, 0x328, 0, 32, 0, 0, 0⟩
def SDL.ROT_CTL.Go : Fld := ⟨.sdl, 0x32c, 0, 1, 0, 0, 0⟩
def SDL.ROT_STAT.Busy : Fld := ⟨.sdl, 0x330, 0, 1, 0, 0, 0⟩
def SDL.ROT_STAT.Done : Fld := ⟨.sdl, 0x330, 1, 1, 0, 0, 0⟩
def SDL.ROT_STAT.Refused : Fld := ⟨.sdl, 0x330, 2, 1, 0, 0, 0⟩
def SDL.ROT_STAT.Reason : Fld := ⟨.sdl, 0x330, 3, 2, 0, 0, 0⟩
def SDL.ROT_STAT.Pending : Fld := ⟨.sdl, 0x330, 16, 16, 0, 0, 0⟩
def SDL.SEAL_RATE.SealRate : Fld := ⟨.sdl, 0x334, 0, 16, 0, 0, 0⟩
def SDL.LEDGER_CERT.Cert : Fld := ⟨.sdl, 0x1000, 0, 32, 0, 4, 0⟩
def SDL.ANCHOR.Anchor : Fld := ⟨.sdl, 0x1200, 0, 32, 0, 4, 0⟩

/-- The register rows of SDL. -/
def rowsSDL : List RegRow :=
  [⟨SDL.STREAM_CFG.Enable, 16, .rws, false⟩,
   ⟨SDL.STREAM_CFG.Strict, 16, .rws, false⟩,
   ⟨SDL.STREAM_CFG.CaptureOffset, 16, .rws, false⟩,
   ⟨SDL.STREAM_CFG.EntryChannel, 16, .rws, false⟩,
   ⟨SDL.STREAM_CFG.SealChannel, 16, .rws, false⟩,
   ⟨SDL.EPOCH.EpochUs, 16, .rws, false⟩,
   ⟨SDL.STREAM_STAT.Active, 16, .ro, false⟩,
   ⟨SDL.STREAM_STAT.Refused, 16, .rw1c, false⟩,
   ⟨SDL.STREAM_STAT.Reason, 16, .ro, false⟩,
   ⟨SDL.STREAM_STAT.Fill, 16, .ro, false⟩,
   ⟨SDL.LOST.Lost, 16, .rc, false⟩,
   ⟨SDL.MERGE_CFG.Hold, 1, .rws, false⟩,
   ⟨SDL.STAGE_CFG.Offset, 1, .rws, false⟩,
   ⟨SDL.STAGE_SLOTS.SlotsLog2, 1, .rws, false⟩,
   ⟨SDL.ANCHOR_CFG.Period, 1, .rws, false⟩,
   ⟨SDL.ANCHOR_CFG.Enable, 1, .rws, false⟩,
   ⟨SDL.ANCHOR_CFG.Channel, 1, .rws, false⟩,
   ⟨SDL.ANCHOR_CTL.Now, 1, .wo, false⟩,
   ⟨SDL.BOOT.Boot, 1, .ros, false⟩,
   ⟨SDL.ANCHOR_SEQ.Seq, 1, .ros, false⟩,
   ⟨SDL.KEY_SERIAL.Serial, 1, .ros, false⟩,
   ⟨SDL.ROT_CTL.Go, 1, .wo, false⟩,
   ⟨SDL.ROT_STAT.Busy, 1, .ro, false⟩,
   ⟨SDL.ROT_STAT.Done, 1, .rw1c, false⟩,
   ⟨SDL.ROT_STAT.Refused, 1, .rw1c, false⟩,
   ⟨SDL.ROT_STAT.Reason, 1, .ro, false⟩,
   ⟨SDL.ROT_STAT.Pending, 1, .ro, false⟩,
   ⟨SDL.SEAL_RATE.SealRate, 1, .ro, false⟩,
   ⟨SDL.LEDGER_CERT.Cert, 76, .ro, false⟩,
   ⟨SDL.ANCHOR.Anchor, 60, .ro, false⟩]

/-! ### HIF -/
def HIF.LINK_STAT.Rate : Fld := ⟨.hif, 0x200, 0, 4, 0, 0, 0⟩
def HIF.LINK_STAT.Width : Fld := ⟨.hif, 0x200, 4, 4, 0, 0, 0⟩
def HIF.LINK_STAT.Up : Fld := ⟨.hif, 0x200, 8, 1, 0, 0, 0⟩
def HIF.VF_STAT.NumVfs : Fld := ⟨.hif, 0x204, 0, 7, 0, 0, 0⟩
def HIF.VF_STAT.VfEnable : Fld := ⟨.hif, 0x204, 7, 1, 0, 0, 0⟩
def HIF.BAR_MISS_CNT.Count : Fld := ⟨.hif, 0x208, 0, 32, 0, 0, 0⟩
def HIF.VF_DENY_CNT.Count : Fld := ⟨.hif, 0x20c, 0, 32, 0, 0, 0⟩
def HIF.DENY_LAST_FN.Function : Fld := ⟨.hif, 0x210, 0, 7, 0, 0, 0⟩
def HIF.DENY_LAST_ADDR.Address : Fld := ⟨.hif, 0x214, 0, 26, 0, 0, 0⟩
def HIF.MBX_PEND.Pending : Fld := ⟨.hif, 0x220, 0, 32, 0, 4, 0⟩
def HIF.FLR_ACTIVE.Active : Fld := ⟨.hif, 0x230, 0, 32, 0, 4, 0⟩
def HIF.TAGS.InUse : Fld := ⟨.hif, 0x240, 0, 10, 0, 0, 0⟩
def HIF.TAGS.HighWater : Fld := ⟨.hif, 0x240, 16, 10, 0, 0, 0⟩
def HIF.CPL_TIMEOUT.Count : Fld := ⟨.hif, 0x244, 0, 16, 0, 0, 0⟩

/-- The register rows of HIF. -/
def rowsHIF : List RegRow :=
  [⟨HIF.LINK_STAT.Rate, 1, .ro, false⟩,
   ⟨HIF.LINK_STAT.Width, 1, .ro, false⟩,
   ⟨HIF.LINK_STAT.Up, 1, .ro, false⟩,
   ⟨HIF.VF_STAT.NumVfs, 1, .ro, false⟩,
   ⟨HIF.VF_STAT.VfEnable, 1, .ro, false⟩,
   ⟨HIF.BAR_MISS_CNT.Count, 1, .rc, false⟩,
   ⟨HIF.VF_DENY_CNT.Count, 1, .rc, false⟩,
   ⟨HIF.DENY_LAST_FN.Function, 1, .ro, false⟩,
   ⟨HIF.DENY_LAST_ADDR.Address, 1, .ro, false⟩,
   ⟨HIF.MBX_PEND.Pending, 4, .rw1c, false⟩,
   ⟨HIF.FLR_ACTIVE.Active, 4, .ro, false⟩,
   ⟨HIF.TAGS.InUse, 1, .ro, false⟩,
   ⟨HIF.TAGS.HighWater, 1, .rc, false⟩,
   ⟨HIF.CPL_TIMEOUT.Count, 1, .rc, false⟩]

/-! ### DMA -/
def DMA.STG_CFG.ReadMin : Fld := ⟨.dma, 0x200, 0, 15, 8192, 0, 0⟩
def DMA.STG_CFG.WriteMin : Fld := ⟨.dma, 0x200, 16, 15, 8192, 0, 0⟩
def DMA.STG_STAT.ReadUsed : Fld := ⟨.dma, 0x204, 0, 16, 0, 0, 0⟩
def DMA.STG_STAT.WriteUsed : Fld := ⟨.dma, 0x204, 16, 16, 0, 0, 0⟩
def DMA.INT_CFG.IntTags : Fld := ⟨.dma, 0x208, 0, 6, 32, 0, 0⟩
def DMA.HALTED.Halted : Fld := ⟨.dma, 0x210, 0, 32, 0, 4, 0⟩
def DMA.DB_OVF.Count : Fld := ⟨.dma, 0x230, 0, 16, 0, 0, 0⟩
def DMA.BIND_STAT.Refused : Fld := ⟨.dma, 0x234, 0, 1, 0, 0, 0⟩
def DMA.BIND.Endpoint : Fld := ⟨.dma, 0x400, 0, 4, 0, 4, 0⟩

/-- The register rows of DMA. -/
def rowsDMA : List RegRow :=
  [⟨DMA.STG_CFG.ReadMin, 1, .rws, false⟩,
   ⟨DMA.STG_CFG.WriteMin, 1, .rws, false⟩,
   ⟨DMA.STG_STAT.ReadUsed, 1, .ro, false⟩,
   ⟨DMA.STG_STAT.WriteUsed, 1, .ro, false⟩,
   ⟨DMA.INT_CFG.IntTags, 1, .rws, false⟩,
   ⟨DMA.HALTED.Halted, 8, .ro, false⟩,
   ⟨DMA.DB_OVF.Count, 1, .rc, false⟩,
   ⟨DMA.BIND_STAT.Refused, 1, .rw1c, false⟩,
   ⟨DMA.BIND.Endpoint, 256, .rws, false⟩]

/-! ### DCH -/
def DCH.CFG.Prio : Fld := ⟨.dch, 0x200, 0, 1, 0, 0, 0⟩
def DCH.CFG.RelaxedOrder : Fld := ⟨.dch, 0x200, 1, 1, 1, 0, 0⟩
def DCH.CFG.EvQueue : Fld := ⟨.dch, 0x200, 2, 9, 0, 0, 0⟩
def DCH.CFG.EvHalt : Fld := ⟨.dch, 0x200, 11, 1, 0, 0, 0⟩
def DCH.CFG.HopLimit : Fld := ⟨.dch, 0x200, 16, 13, 4096, 0, 0⟩
def DCH.CTL.Run : Fld := ⟨.dch, 0x204, 0, 1, 0, 0, 0⟩
def DCH.CTL.Resume : Fld := ⟨.dch, 0x204, 1, 1, 0, 0, 0⟩
def DCH.HEAD.Addr : Fld := ⟨.dch, 0x208, 0, 64, 0, 0, 0⟩
def DCH.STAT.State : Fld := ⟨.dch, 0x210, 0, 2, 0, 0, 0⟩
def DCH.STAT.Credit : Fld := ⟨.dch, 0x210, 16, 16, 0, 0, 0⟩
def DCH.HALT.Reason : Fld := ⟨.dch, 0x214, 0, 4, 0, 0, 0⟩
def DCH.HALT.Direction : Fld := ⟨.dch, 0x214, 4, 1, 0, 0, 0⟩
def DCH.HALT.DescAccess : Fld := ⟨.dch, 0x214, 5, 1, 0, 0, 0⟩
def DCH.HALT_ADDR.Addr : Fld := ⟨.dch, 0x218, 0, 64, 0, 0, 0⟩
def DCH.HALT_DESC.Addr : Fld := ⟨.dch, 0x220, 0, 64, 0, 0, 0⟩
def DCH.TRIG.HighMark : Fld := ⟨.dch, 0x228, 0, 12, 16, 0, 0⟩
def DCH.TRIG.LowMark : Fld := ⟨.dch, 0x228, 12, 12, 8, 0, 0⟩
def DCH.TRIG.FlushUs : Fld := ⟨.dch, 0x228, 24, 8, 10, 0, 0⟩
def DCH.BURST.Bytes : Fld := ⟨.dch, 0x22c, 0, 16, 4096, 0, 0⟩
def DCH.STAGE.MaxBlocks : Fld := ⟨.dch, 0x230, 0, 15, 1024, 0, 0⟩
def DCH.DONE.Count : Fld := ⟨.dch, 0x234, 0, 32, 0, 0, 0⟩
def DCH.BYTES.Bytes : Fld := ⟨.dch, 0x238, 0, 48, 0, 0, 0⟩

/-- The register rows of DCH. -/
def rowsDCH : List RegRow :=
  [⟨DCH.CFG.Prio, 1, .rw, false⟩,
   ⟨DCH.CFG.RelaxedOrder, 1, .rw, false⟩,
   ⟨DCH.CFG.EvQueue, 1, .rw, false⟩,
   ⟨DCH.CFG.EvHalt, 1, .rw, false⟩,
   ⟨DCH.CFG.HopLimit, 1, .rw, false⟩,
   ⟨DCH.CTL.Run, 1, .rw, false⟩,
   ⟨DCH.CTL.Resume, 1, .wo, false⟩,
   ⟨DCH.HEAD.Addr, 1, .rw, false⟩,
   ⟨DCH.STAT.State, 1, .ro, false⟩,
   ⟨DCH.STAT.Credit, 1, .ro, false⟩,
   ⟨DCH.HALT.Reason, 1, .ro, false⟩,
   ⟨DCH.HALT.Direction, 1, .ro, false⟩,
   ⟨DCH.HALT.DescAccess, 1, .ro, false⟩,
   ⟨DCH.HALT_ADDR.Addr, 1, .ro, false⟩,
   ⟨DCH.HALT_DESC.Addr, 1, .ro, false⟩,
   ⟨DCH.TRIG.HighMark, 1, .rw, false⟩,
   ⟨DCH.TRIG.LowMark, 1, .rw, false⟩,
   ⟨DCH.TRIG.FlushUs, 1, .rw, false⟩,
   ⟨DCH.BURST.Bytes, 1, .rw, false⟩,
   ⟨DCH.STAGE.MaxBlocks, 1, .rw, false⟩,
   ⟨DCH.DONE.Count, 1, .ro, false⟩,
   ⟨DCH.BYTES.Bytes, 1, .ro, false⟩]

/-! ### CPM -/
def CPM.POOL.Free : Fld := ⟨.cpm, 0x200, 0, 16, 0, 4, 0⟩
def CPM.POOL.Low : Fld := ⟨.cpm, 0x200, 16, 16, 0, 4, 0⟩
def CPM.FREE_CMD.Handle : Fld := ⟨.cpm, 0x210, 0, 24, 0, 0, 0⟩
def CPM.FREE_CMD.Go : Fld := ⟨.cpm, 0x210, 31, 1, 0, 0, 0⟩
def CPM.RECLAIM.Owner : Fld := ⟨.cpm, 0x214, 0, 8, 0, 0, 0⟩
def CPM.RECLAIM.Go : Fld := ⟨.cpm, 0x214, 31, 1, 0, 0, 0⟩
def CPM.CMD_STAT.Busy : Fld := ⟨.cpm, 0x218, 0, 1, 0, 0, 0⟩
def CPM.CMD_STAT.Done : Fld := ⟨.cpm, 0x218, 1, 1, 0, 0, 0⟩
def CPM.CMD_STAT.Refused : Fld := ⟨.cpm, 0x218, 2, 1, 0, 0, 0⟩
def CPM.CMD_STAT.Reason : Fld := ⟨.cpm, 0x218, 3, 2, 0, 0, 0⟩
def CPM.REFUSE_LAST.Handle : Fld := ⟨.cpm, 0x21c, 0, 24, 0, 0, 0⟩
def CPM.REFUSE_LAST.Requester : Fld := ⟨.cpm, 0x21c, 24, 8, 0, 0, 0⟩
def CPM.REFUSE_REASON.Reason : Fld := ⟨.cpm, 0x220, 0, 2, 0, 0, 0⟩
def CPM.EVT_CFG.Queue : Fld := ⟨.cpm, 0x224, 0, 9, 0, 0, 0⟩
def CPM.RECLAIMED.Count : Fld := ⟨.cpm, 0x228, 0, 16, 0, 0, 0⟩

/-- The register rows of CPM. -/
def rowsCPM : List RegRow :=
  [⟨CPM.POOL.Free, 4, .ro, false⟩,
   ⟨CPM.POOL.Low, 4, .rc, false⟩,
   ⟨CPM.FREE_CMD.Handle, 1, .rw, false⟩,
   ⟨CPM.FREE_CMD.Go, 1, .wo, false⟩,
   ⟨CPM.RECLAIM.Owner, 1, .rw, false⟩,
   ⟨CPM.RECLAIM.Go, 1, .wo, false⟩,
   ⟨CPM.CMD_STAT.Busy, 1, .ro, false⟩,
   ⟨CPM.CMD_STAT.Done, 1, .rw1c, false⟩,
   ⟨CPM.CMD_STAT.Refused, 1, .rw1c, false⟩,
   ⟨CPM.CMD_STAT.Reason, 1, .ro, false⟩,
   ⟨CPM.REFUSE_LAST.Handle, 1, .ro, false⟩,
   ⟨CPM.REFUSE_LAST.Requester, 1, .ro, false⟩,
   ⟨CPM.REFUSE_REASON.Reason, 1, .ro, false⟩,
   ⟨CPM.EVT_CFG.Queue, 1, .rws, false⟩,
   ⟨CPM.RECLAIMED.Count, 1, .rc, false⟩]

/-! ### EVQ -/
def EVQ.CFG.SysQueue : Fld := ⟨.evq, 0x200, 0, 9, 0, 0, 0⟩
def EVQ.CFG.StaleUs : Fld := ⟨.evq, 0x200, 16, 16, 64, 0, 0⟩
def EVQ.QMEM_STAT.Refused : Fld := ⟨.evq, 0x204, 0, 1, 0, 0, 0⟩
def EVQ.QMEM_STAT.Reason : Fld := ⟨.evq, 0x204, 1, 2, 0, 0, 0⟩
def EVQ.QMEM.Base : Fld := ⟨.evq, 0x400, 0, 13, 0, 4, 16⟩
def EVQ.QMEM.SizeCode : Fld := ⟨.evq, 0x400, 16, 4, 4, 4, 0⟩

/-- The register rows of EVQ. -/
def rowsEVQ : List RegRow :=
  [⟨EVQ.CFG.SysQueue, 1, .rws, false⟩,
   ⟨EVQ.CFG.StaleUs, 1, .rws, false⟩,
   ⟨EVQ.QMEM_STAT.Refused, 1, .rw1c, false⟩,
   ⟨EVQ.QMEM_STAT.Reason, 1, .ro, false⟩,
   ⟨EVQ.QMEM.Base, 512, .rws, false⟩,
   ⟨EVQ.QMEM.SizeCode, 512, .rws, false⟩]

/-! ### EVP -/
def EVP.CFG.Enable : Fld := ⟨.evp, 0x200, 0, 1, 0, 0, 0⟩
def EVP.CFG.Prio : Fld := ⟨.evp, 0x200, 1, 2, 0, 0, 0⟩
def EVP.CFG.NotifyPkts : Fld := ⟨.evp, 0x200, 8, 8, 1, 0, 0⟩
def EVP.CFG.NotifyUs : Fld := ⟨.evp, 0x200, 16, 16, 0, 0, 0⟩
def EVP.QCMD.DropRemainder : Fld := ⟨.evp, 0x204, 0, 1, 0, 0, 0⟩
def EVP.FILL.Words : Fld := ⟨.evp, 0x208, 0, 17, 0, 0, 0⟩
def EVP.PKTS.Packets : Fld := ⟨.evp, 0x20c, 0, 16, 0, 0, 0⟩
def EVP.PKTS.HeadSeq : Fld := ⟨.evp, 0x20c, 16, 16, 0, 0, 0⟩
def EVP.LOST.Items : Fld := ⟨.evp, 0x210, 0, 32, 0, 0, 0⟩
def EVP.LOST_PKTS.Packets : Fld := ⟨.evp, 0x214, 0, 16, 0, 0, 0⟩
def EVP.REFUSED.Count : Fld := ⟨.evp, 0x218, 0, 16, 0, 0, 0⟩
def EVP.REFUSED.Reason : Fld := ⟨.evp, 0x218, 16, 3, 0, 0, 0⟩
def EVP.CORR.Count : Fld := ⟨.evp, 0x21c, 0, 16, 0, 0, 0⟩
def EVP.STALE.Seq : Fld := ⟨.evp, 0x220, 0, 16, 0, 0, 0⟩
def EVP.STALE.Count : Fld := ⟨.evp, 0x220, 16, 16, 0, 0, 0⟩
def EVP.NEXT.Queue : Fld := ⟨.evp, 0x224, 0, 9, 0, 0, 0⟩
def EVP.NEXT.Valid : Fld := ⟨.evp, 0x224, 15, 1, 0, 0, 0⟩
def EVP.QSTAT.EnableRefused : Fld := ⟨.evp, 0x228, 0, 1, 0, 0, 0⟩
def EVP.ITEM.Word : Fld := ⟨.evp, 0x300, 0, 64, 0, 8, 0⟩

/-- The register rows of EVP. -/
def rowsEVP : List RegRow :=
  [⟨EVP.CFG.Enable, 1, .rws, false⟩,
   ⟨EVP.CFG.Prio, 1, .rws, false⟩,
   ⟨EVP.CFG.NotifyPkts, 1, .rws, false⟩,
   ⟨EVP.CFG.NotifyUs, 1, .rws, false⟩,
   ⟨EVP.QCMD.DropRemainder, 1, .wo, false⟩,
   ⟨EVP.FILL.Words, 1, .ro, false⟩,
   ⟨EVP.PKTS.Packets, 1, .ro, false⟩,
   ⟨EVP.PKTS.HeadSeq, 1, .ro, false⟩,
   ⟨EVP.LOST.Items, 1, .rc, false⟩,
   ⟨EVP.LOST_PKTS.Packets, 1, .rc, false⟩,
   ⟨EVP.REFUSED.Count, 1, .rc, false⟩,
   ⟨EVP.REFUSED.Reason, 1, .ro, false⟩,
   ⟨EVP.CORR.Count, 1, .rc, false⟩,
   ⟨EVP.STALE.Seq, 1, .ro, false⟩,
   ⟨EVP.STALE.Count, 1, .rc, false⟩,
   ⟨EVP.NEXT.Queue, 1, .ro, false⟩,
   ⟨EVP.NEXT.Valid, 1, .ro, false⟩,
   ⟨EVP.QSTAT.EnableRefused, 1, .rw1c, false⟩,
   ⟨EVP.ITEM.Word, 9, .ro, false⟩]

/-! ### GTH -/
def GTH.SNAP_SCOPE_LO.TypesLo : Fld := ⟨.gth, 0x200, 0, 32, 0, 0, 0⟩
def GTH.SNAP_SCOPE_HI.TypesHi : Fld := ⟨.gth, 0x204, 0, 8, 0, 0, 0⟩
def GTH.SNAP_CFG.Clear : Fld := ⟨.gth, 0x208, 0, 1, 0, 0, 0⟩
def GTH.SNAP_CFG.Channel : Fld := ⟨.gth, 0x208, 8, 8, 0, 0, 0⟩
def GTH.SNAP_PERIOD.Period : Fld := ⟨.gth, 0x20c, 0, 32, 0, 0, 0⟩
def GTH.SNAP_TIME_NS.Nanoseconds : Fld := ⟨.gth, 0x210, 0, 30, 0, 0, 0⟩
def GTH.SNAP_TIME_SEC_LO.SecondsLo : Fld := ⟨.gth, 0x214, 0, 32, 0, 0, 0⟩
def GTH.SNAP_TIME_SEC_HI.SecondsHi : Fld := ⟨.gth, 0x218, 0, 16, 0, 0, 0⟩
def GTH.SNAP_CTL.Arm : Fld := ⟨.gth, 0x21c, 0, 1, 0, 0, 0⟩
def GTH.SNAP_CTL.Cancel : Fld := ⟨.gth, 0x21c, 1, 1, 0, 0, 0⟩
def GTH.SNAP_CTL.Go : Fld := ⟨.gth, 0x21c, 2, 1, 0, 0, 0⟩
def GTH.SNAP_STAT.Armed : Fld := ⟨.gth, 0x220, 0, 1, 0, 0, 0⟩
def GTH.SNAP_STAT.Gathering : Fld := ⟨.gth, 0x220, 1, 1, 0, 0, 0⟩
def GTH.SNAP_STAT.Held : Fld := ⟨.gth, 0x220, 2, 1, 0, 0, 0⟩
def GTH.SNAP_STAT.Refused : Fld := ⟨.gth, 0x220, 3, 1, 0, 0, 0⟩
def GTH.SNAP_STAT.Reason : Fld := ⟨.gth, 0x220, 4, 3, 0, 0, 0⟩
def GTH.SNAP_STAT.Skipped : Fld := ⟨.gth, 0x220, 7, 1, 0, 0, 0⟩
def GTH.SNAP_STAT.Seq : Fld := ⟨.gth, 0x220, 16, 16, 0, 0, 0⟩
def GTH.SNAP_SKIPS.Count : Fld := ⟨.gth, 0x224, 0, 16, 0, 0, 0⟩
def GTH.SNAP_LAST_GATHER.Cycles : Fld := ⟨.gth, 0x228, 0, 32, 0, 0, 0⟩

/-- The register rows of GTH. -/
def rowsGTH : List RegRow :=
  [⟨GTH.SNAP_SCOPE_LO.TypesLo, 1, .rw, false⟩,
   ⟨GTH.SNAP_SCOPE_HI.TypesHi, 1, .rw, false⟩,
   ⟨GTH.SNAP_CFG.Clear, 1, .rw, false⟩,
   ⟨GTH.SNAP_CFG.Channel, 1, .rw, false⟩,
   ⟨GTH.SNAP_PERIOD.Period, 1, .rw, false⟩,
   ⟨GTH.SNAP_TIME_NS.Nanoseconds, 1, .rw, false⟩,
   ⟨GTH.SNAP_TIME_SEC_LO.SecondsLo, 1, .rw, false⟩,
   ⟨GTH.SNAP_TIME_SEC_HI.SecondsHi, 1, .rw, false⟩,
   ⟨GTH.SNAP_CTL.Arm, 1, .wo, false⟩,
   ⟨GTH.SNAP_CTL.Cancel, 1, .wo, false⟩,
   ⟨GTH.SNAP_CTL.Go, 1, .wo, false⟩,
   ⟨GTH.SNAP_STAT.Armed, 1, .ro, false⟩,
   ⟨GTH.SNAP_STAT.Gathering, 1, .ro, false⟩,
   ⟨GTH.SNAP_STAT.Held, 1, .ro, false⟩,
   ⟨GTH.SNAP_STAT.Refused, 1, .rw1c, false⟩,
   ⟨GTH.SNAP_STAT.Reason, 1, .ro, false⟩,
   ⟨GTH.SNAP_STAT.Skipped, 1, .rw1c, false⟩,
   ⟨GTH.SNAP_STAT.Seq, 1, .ro, false⟩,
   ⟨GTH.SNAP_SKIPS.Count, 1, .rc, false⟩,
   ⟨GTH.SNAP_LAST_GATHER.Cycles, 1, .ro, false⟩]

/-! ### PMC -/
def PMC.GRANT_SEL.Entry : Fld := ⟨.pmc, 0x200, 0, 8, 0, 0, 0⟩
def PMC.GRANT_DATA.Function : Fld := ⟨.pmc, 0x204, 0, 7, 0, 0, 0⟩
def PMC.GRANT_DATA.Valid : Fld := ⟨.pmc, 0x204, 31, 1, 0, 0, 0⟩
def PMC.GRANT_RANGE.FirstPage : Fld := ⟨.pmc, 0x208, 0, 14, 0, 0, 0⟩
def PMC.GRANT_RANGE.LastPage : Fld := ⟨.pmc, 0x208, 16, 14, 0, 0, 0⟩
def PMC.GRANT_CMD.Cmd : Fld := ⟨.pmc, 0x20c, 0, 2, 0, 0, 0⟩
def PMC.BW_CFG.Window : Fld := ⟨.pmc, 0x300, 0, 20, 1000, 0, 0⟩
def PMC.BW_CFG.Enable : Fld := ⟨.pmc, 0x300, 31, 1, 0, 0, 0⟩
def PMC.BW_SEL.Port : Fld := ⟨.pmc, 0x304, 0, 8, 0, 0, 0⟩
def PMC.BW_RX_BYTES.Bytes : Fld := ⟨.pmc, 0x308, 0, 48, 0, 0, 0⟩
def PMC.BW_TX_BYTES.Bytes : Fld := ⟨.pmc, 0x310, 0, 48, 0, 0, 0⟩
def PMC.BW_RX_FRAMES.Frames : Fld := ⟨.pmc, 0x318, 0, 32, 0, 0, 0⟩
def PMC.BW_TX_FRAMES.Frames : Fld := ⟨.pmc, 0x31c, 0, 32, 0, 0, 0⟩
def PMC.BW_PEAK_RX.Bytes : Fld := ⟨.pmc, 0x320, 0, 48, 0, 0, 0⟩
def PMC.BW_PEAK_TX.Bytes : Fld := ⟨.pmc, 0x328, 0, 48, 0, 0, 0⟩
def PMC.BW_STAT.Windows : Fld := ⟨.pmc, 0x330, 0, 31, 0, 0, 0⟩
def PMC.BW_STAT.Short : Fld := ⟨.pmc, 0x330, 31, 1, 0, 0, 0⟩
def PMC.IPX_CFG.Enable : Fld := ⟨.pmc, 0x400, 0, 1, 0, 0, 0⟩
def PMC.IPX_CFG.ClassMask : Fld := ⟨.pmc, 0x400, 8, 8, 0, 0, 0⟩
def PMC.IPX_CFG.Channel : Fld := ⟨.pmc, 0x400, 16, 8, 0, 0, 0⟩
def PMC.IPX_CFG1.ActivePasses : Fld := ⟨.pmc, 0x404, 0, 16, 0, 0, 0⟩
def PMC.IPX_CFG1.FlushMs : Fld := ⟨.pmc, 0x404, 16, 16, 100, 0, 0⟩
def PMC.IPX_MSG.MaxMessage : Fld := ⟨.pmc, 0x408, 0, 14, 1400, 0, 0⟩
def PMC.IPX_MSG.TemplateEvery : Fld := ⟨.pmc, 0x408, 16, 16, 0, 0, 0⟩
def PMC.IPX_DOMAIN.Domain : Fld := ⟨.pmc, 0x40c, 0, 32, 0, 0, 0⟩
def PMC.IPX_UTC.Offset : Fld := ⟨.pmc, 0x410, 0, 16, 37, 0, 0⟩
def PMC.IPX_RING.Offset : Fld := ⟨.pmc, 0x414, 0, 29, 0, 0, 0⟩
def PMC.IPX_RING_SIZE.SlotsLog2 : Fld := ⟨.pmc, 0x418, 0, 5, 0, 0, 0⟩
def PMC.IPX_CTL.SendTemplates : Fld := ⟨.pmc, 0x41c, 0, 1, 0, 0, 0⟩
def PMC.IPX_STAT.Active : Fld := ⟨.pmc, 0x420, 0, 1, 0, 0, 0⟩
def PMC.IPX_STAT.Refused : Fld := ⟨.pmc, 0x420, 1, 1, 0, 0, 0⟩
def PMC.IPX_LOST.Count : Fld := ⟨.pmc, 0x424, 0, 32, 0, 0, 0⟩
def PMC.IPX_SEQ.Seq : Fld := ⟨.pmc, 0x428, 0, 32, 0, 0, 0⟩
def PMC.IPX_RECORDS.Count : Fld := ⟨.pmc, 0x42c, 0, 32, 0, 0, 0⟩

/-- The register rows of PMC. -/
def rowsPMC : List RegRow :=
  [⟨PMC.GRANT_SEL.Entry, 1, .rw, false⟩,
   ⟨PMC.GRANT_DATA.Function, 1, .rw, false⟩,
   ⟨PMC.GRANT_DATA.Valid, 1, .rw, false⟩,
   ⟨PMC.GRANT_RANGE.FirstPage, 1, .rw, false⟩,
   ⟨PMC.GRANT_RANGE.LastPage, 1, .rw, false⟩,
   ⟨PMC.GRANT_CMD.Cmd, 1, .wo, false⟩,
   ⟨PMC.BW_CFG.Window, 1, .rw, false⟩,
   ⟨PMC.BW_CFG.Enable, 1, .rw, false⟩,
   ⟨PMC.BW_SEL.Port, 1, .rw, false⟩,
   ⟨PMC.BW_RX_BYTES.Bytes, 1, .ro, false⟩,
   ⟨PMC.BW_TX_BYTES.Bytes, 1, .ro, false⟩,
   ⟨PMC.BW_RX_FRAMES.Frames, 1, .ro, false⟩,
   ⟨PMC.BW_TX_FRAMES.Frames, 1, .ro, false⟩,
   ⟨PMC.BW_PEAK_RX.Bytes, 1, .rc, false⟩,
   ⟨PMC.BW_PEAK_TX.Bytes, 1, .rc, false⟩,
   ⟨PMC.BW_STAT.Windows, 1, .ro, false⟩,
   ⟨PMC.BW_STAT.Short, 1, .ro, false⟩,
   ⟨PMC.IPX_CFG.Enable, 1, .rw, false⟩,
   ⟨PMC.IPX_CFG.ClassMask, 1, .rw, false⟩,
   ⟨PMC.IPX_CFG.Channel, 1, .rw, false⟩,
   ⟨PMC.IPX_CFG1.ActivePasses, 1, .rw, false⟩,
   ⟨PMC.IPX_CFG1.FlushMs, 1, .rw, false⟩,
   ⟨PMC.IPX_MSG.MaxMessage, 1, .rw, false⟩,
   ⟨PMC.IPX_MSG.TemplateEvery, 1, .rw, false⟩,
   ⟨PMC.IPX_DOMAIN.Domain, 1, .rw, false⟩,
   ⟨PMC.IPX_UTC.Offset, 1, .rw, false⟩,
   ⟨PMC.IPX_RING.Offset, 1, .rw, false⟩,
   ⟨PMC.IPX_RING_SIZE.SlotsLog2, 1, .rw, false⟩,
   ⟨PMC.IPX_CTL.SendTemplates, 1, .wo, false⟩,
   ⟨PMC.IPX_STAT.Active, 1, .ro, false⟩] ++
  [⟨PMC.IPX_STAT.Refused, 1, .rw1c, false⟩,
   ⟨PMC.IPX_LOST.Count, 1, .rc, false⟩,
   ⟨PMC.IPX_SEQ.Seq, 1, .ro, false⟩,
   ⟨PMC.IPX_RECORDS.Count, 1, .ro, false⟩]

/-! ### BOOT -/
def BOOT.STAT.Stage : Fld := ⟨.boot, 0x200, 0, 4, 0, 0, 0⟩
def BOOT.STAT.Fault : Fld := ⟨.boot, 0x200, 4, 4, 0, 0, 0⟩
def BOOT.STAT.FaultInfo : Fld := ⟨.boot, 0x200, 8, 8, 0, 0, 0⟩
def BOOT.STAT.CustomerFail : Fld := ⟨.boot, 0x200, 16, 1, 0, 0, 0⟩
def BOOT.STAT.BootCounterFail : Fld := ⟨.boot, 0x200, 17, 1, 0, 0, 0⟩
def BOOT.STAT.LaneFail : Fld := ⟨.boot, 0x200, 18, 1, 0, 0, 0⟩
def BOOT.STAT.FlashCopy : Fld := ⟨.boot, 0x200, 19, 1, 0, 0, 0⟩
def BOOT.STAT.Recovery : Fld := ⟨.boot, 0x200, 20, 1, 0, 0, 0⟩
def BOOT.STAGE_US.Us : Fld := ⟨.boot, 0x214, 0, 20, 0, 4, 0⟩
def BOOT.FW_VER.Monitor : Fld := ⟨.boot, 0x230, 0, 32, 0, 0, 0⟩
def BOOT.MGMT_VER.Firmware : Fld := ⟨.boot, 0x234, 0, 32, 0, 0, 0⟩
def BOOT.SECVER.FwFloor : Fld := ⟨.boot, 0x238, 0, 8, 0, 0, 0⟩
def BOOT.SECVER.Monitor : Fld := ⟨.boot, 0x238, 8, 8, 0, 0, 0⟩
def BOOT.SECVER.Firmware : Fld := ⟨.boot, 0x238, 16, 8, 0, 0, 0⟩
def BOOT.FLOOR_CTL.Raise : Fld := ⟨.boot, 0x240, 0, 1, 0, 0, 0⟩
def BOOT.DIR_USED.Entries : Fld := ⟨.boot, 0x244, 0, 32, 522133279, 0, 0⟩
def BOOT.LANE_FAIL.Lanes : Fld := ⟨.boot, 0x250, 0, 32, 0, 4, 0⟩
def BOOT.FLASH_ADDR.Addr : Fld := ⟨.boot, 0x280, 0, 24, 0, 0, 0⟩
def BOOT.FLASH_CMD.Op : Fld := ⟨.boot, 0x284, 0, 2, 0, 0, 0⟩
def BOOT.FLASH_CMD.Go : Fld := ⟨.boot, 0x284, 8, 1, 0, 0, 0⟩
def BOOT.FLASH_STAT.Busy : Fld := ⟨.boot, 0x288, 0, 1, 0, 0, 0⟩
def BOOT.FLASH_STAT.Done : Fld := ⟨.boot, 0x288, 1, 1, 0, 0, 0⟩
def BOOT.FLASH_STAT.Error : Fld := ⟨.boot, 0x288, 2, 1, 0, 0, 0⟩
def BOOT.FLASH_BUF.Buf : Fld := ⟨.boot, 0x300, 0, 32, 0, 4, 0⟩
def BOOT.PCFG.Record : Fld := ⟨.boot, 0x400, 0, 32, 0, 4, 0⟩
def BOOT.PCFG_CTL.Commit : Fld := ⟨.boot, 0x500, 0, 1, 0, 0, 0⟩
def BOOT.PCFG_CTL.Reload : Fld := ⟨.boot, 0x500, 1, 1, 0, 0, 0⟩
def BOOT.PCFG_STAT.Busy : Fld := ⟨.boot, 0x504, 0, 1, 0, 0, 0⟩
def BOOT.PCFG_STAT.Done : Fld := ⟨.boot, 0x504, 1, 1, 0, 0, 0⟩
def BOOT.PCFG_STAT.Refused : Fld := ⟨.boot, 0x504, 2, 1, 0, 0, 0⟩
def BOOT.STORE_ADDR.Addr : Fld := ⟨.boot, 0x600, 0, 64, 0, 0, 0⟩
def BOOT.STORE_LEN.Length : Fld := ⟨.boot, 0x608, 0, 21, 0, 0, 0⟩
def BOOT.STORE_CFG.Slot : Fld := ⟨.boot, 0x60c, 0, 3, 0, 0, 0⟩
def BOOT.STORE_CFG.Go : Fld := ⟨.boot, 0x60c, 8, 1, 0, 0, 0⟩
def BOOT.STORE_STAT.Busy : Fld := ⟨.boot, 0x610, 0, 1, 0, 0, 0⟩
def BOOT.STORE_STAT.Done : Fld := ⟨.boot, 0x610, 1, 1, 0, 0, 0⟩
def BOOT.STORE_STAT.Result : Fld := ⟨.boot, 0x610, 2, 4, 0, 0, 0⟩

/-- The register rows of BOOT. -/
def rowsBOOT : List RegRow :=
  [⟨BOOT.STAT.Stage, 1, .ro, false⟩,
   ⟨BOOT.STAT.Fault, 1, .ro, false⟩,
   ⟨BOOT.STAT.FaultInfo, 1, .ro, false⟩,
   ⟨BOOT.STAT.CustomerFail, 1, .ro, false⟩,
   ⟨BOOT.STAT.BootCounterFail, 1, .ro, false⟩,
   ⟨BOOT.STAT.LaneFail, 1, .ro, false⟩,
   ⟨BOOT.STAT.FlashCopy, 1, .ro, false⟩,
   ⟨BOOT.STAT.Recovery, 1, .ro, false⟩,
   ⟨BOOT.STAGE_US.Us, 6, .ro, false⟩,
   ⟨BOOT.FW_VER.Monitor, 1, .ro, false⟩,
   ⟨BOOT.MGMT_VER.Firmware, 1, .ro, false⟩,
   ⟨BOOT.SECVER.FwFloor, 1, .ro, false⟩,
   ⟨BOOT.SECVER.Monitor, 1, .ro, false⟩,
   ⟨BOOT.SECVER.Firmware, 1, .ro, false⟩,
   ⟨BOOT.FLOOR_CTL.Raise, 1, .wo, false⟩,
   ⟨BOOT.DIR_USED.Entries, 1, .ro, false⟩,
   ⟨BOOT.LANE_FAIL.Lanes, 4, .ro, false⟩,
   ⟨BOOT.FLASH_ADDR.Addr, 1, .rw, false⟩,
   ⟨BOOT.FLASH_CMD.Op, 1, .rw, false⟩,
   ⟨BOOT.FLASH_CMD.Go, 1, .wo, false⟩,
   ⟨BOOT.FLASH_STAT.Busy, 1, .ro, false⟩,
   ⟨BOOT.FLASH_STAT.Done, 1, .rw1c, false⟩,
   ⟨BOOT.FLASH_STAT.Error, 1, .rw1c, false⟩,
   ⟨BOOT.FLASH_BUF.Buf, 64, .rw, false⟩,
   ⟨BOOT.PCFG.Record, 64, .rw, false⟩,
   ⟨BOOT.PCFG_CTL.Commit, 1, .wo, false⟩,
   ⟨BOOT.PCFG_CTL.Reload, 1, .wo, false⟩,
   ⟨BOOT.PCFG_STAT.Busy, 1, .ro, false⟩,
   ⟨BOOT.PCFG_STAT.Done, 1, .rw1c, false⟩,
   ⟨BOOT.PCFG_STAT.Refused, 1, .rw1c, false⟩] ++
  [⟨BOOT.STORE_ADDR.Addr, 1, .rw, false⟩,
   ⟨BOOT.STORE_LEN.Length, 1, .rw, false⟩,
   ⟨BOOT.STORE_CFG.Slot, 1, .rw, false⟩,
   ⟨BOOT.STORE_CFG.Go, 1, .wo, false⟩,
   ⟨BOOT.STORE_STAT.Busy, 1, .ro, false⟩,
   ⟨BOOT.STORE_STAT.Done, 1, .rw1c, false⟩,
   ⟨BOOT.STORE_STAT.Result, 1, .ro, false⟩]

/-! ### SEC -/
def SEC.SERIAL.Serial : Fld := ⟨.sec, 0x200, 0, 64, 0, 0, 0⟩
def SEC.DBG_NONCE.Nonce : Fld := ⟨.sec, 0x208, 0, 64, 0, 0, 0⟩
def SEC.DBG_STAT.Scope : Fld := ⟨.sec, 0x210, 0, 3, 0, 0, 0⟩
def SEC.DBG_STAT.Refused : Fld := ⟨.sec, 0x210, 8, 1, 0, 0, 0⟩
def SEC.DBG_STAT.Reason : Fld := ⟨.sec, 0x210, 9, 3, 0, 0, 0⟩
def SEC.DBG_CTL.Submit : Fld := ⟨.sec, 0x214, 0, 1, 0, 0, 0⟩
def SEC.DBG_TOKEN.Token : Fld := ⟨.sec, 0x300, 0, 32, 0, 4, 0⟩
def SEC.CERT_SEL.Cert : Fld := ⟨.sec, 0x380, 0, 2, 0, 0, 0⟩
def SEC.CERT_LEN.Length : Fld := ⟨.sec, 0x384, 0, 14, 0, 0, 0⟩
def SEC.CERT_DER.Der : Fld := ⟨.sec, 0x1000, 0, 32, 0, 4, 0⟩

/-- The register rows of SEC. -/
def rowsSEC : List RegRow :=
  [⟨SEC.SERIAL.Serial, 1, .ros, false⟩,
   ⟨SEC.DBG_NONCE.Nonce, 1, .ro, false⟩,
   ⟨SEC.DBG_STAT.Scope, 1, .ro, false⟩,
   ⟨SEC.DBG_STAT.Refused, 1, .rw1c, false⟩,
   ⟨SEC.DBG_STAT.Reason, 1, .ro, false⟩,
   ⟨SEC.DBG_CTL.Submit, 1, .wo, false⟩,
   ⟨SEC.DBG_TOKEN.Token, 32, .rw, false⟩,
   ⟨SEC.CERT_SEL.Cert, 1, .rw, false⟩,
   ⟨SEC.CERT_LEN.Length, 1, .ro, false⟩,
   ⟨SEC.CERT_DER.Der, 3072, .ro, false⟩]

/-! ### MON -/
def MON.CTL.HostLock : Fld := ⟨.mon, 0x200, 0, 1, 0, 0, 0⟩
def MON.STAT.Level : Fld := ⟨.mon, 0x204, 0, 2, 0, 0, 0⟩
def MON.CFG.IdleS : Fld := ⟨.mon, 0x208, 0, 16, 600, 0, 0⟩
def MON.LOGIN_FAIL.Count : Fld := ⟨.mon, 0x20c, 0, 16, 0, 0, 0⟩

/-- The register rows of MON. -/
def rowsMON : List RegRow :=
  [⟨MON.CTL.HostLock, 1, .rw, false⟩,
   ⟨MON.STAT.Level, 1, .ro, false⟩,
   ⟨MON.CFG.IdleS, 1, .rw, false⟩,
   ⟨MON.LOGIN_FAIL.Count, 1, .rc, false⟩]

/-! ### TMP -/
def TMP.SENSOR_SEL.Sensor : Fld := ⟨.tmp, 0x200, 0, 5, 0, 0, 0⟩
def TMP.SENSOR_DATA.Temp : Fld := ⟨.tmp, 0x204, 0, 10, 0, 0, 0⟩
def TMP.SENSOR_DATA.Faulty : Fld := ⟨.tmp, 0x204, 16, 1, 0, 0, 0⟩
def TMP.DIE_MAX.DieMax : Fld := ⟨.tmp, 0x208, 0, 10, 0, 0, 0⟩
def TMP.DIE_MAX.Sensor : Fld := ⟨.tmp, 0x208, 16, 5, 0, 0, 0⟩
def TMP.DIE_PEAK.Peak : Fld := ⟨.tmp, 0x20c, 0, 10, 0, 0, 0⟩
def TMP.WARN.Warn : Fld := ⟨.tmp, 0x210, 0, 8, 110, 0, 0⟩
def TMP.VMON.Millivolts : Fld := ⟨.tmp, 0x220, 0, 16, 0, 4, 0⟩
def TMP.VMON_WIN.Low : Fld := ⟨.tmp, 0x260, 0, 16, 0, 4, 0⟩
def TMP.VMON_WIN.High : Fld := ⟨.tmp, 0x260, 16, 16, 0, 4, 0⟩
def TMP.VMON_LAST.Rail : Fld := ⟨.tmp, 0x290, 0, 4, 0, 0, 0⟩
def TMP.VMON_LAST.Millivolts : Fld := ⟨.tmp, 0x290, 4, 16, 0, 0, 0⟩

/-- The register rows of TMP. -/
def rowsTMP : List RegRow :=
  [⟨TMP.SENSOR_SEL.Sensor, 1, .rw, false⟩,
   ⟨TMP.SENSOR_DATA.Temp, 1, .ro, false⟩,
   ⟨TMP.SENSOR_DATA.Faulty, 1, .ro, false⟩,
   ⟨TMP.DIE_MAX.DieMax, 1, .ro, false⟩,
   ⟨TMP.DIE_MAX.Sensor, 1, .ro, false⟩,
   ⟨TMP.DIE_PEAK.Peak, 1, .rc, false⟩,
   ⟨TMP.WARN.Warn, 1, .rws, false⟩,
   ⟨TMP.VMON.Millivolts, 9, .ro, false⟩,
   ⟨TMP.VMON_WIN.Low, 9, .rws, false⟩,
   ⟨TMP.VMON_WIN.High, 9, .rws, false⟩,
   ⟨TMP.VMON_LAST.Rail, 1, .ro, false⟩,
   ⟨TMP.VMON_LAST.Millivolts, 1, .ro, false⟩]

/-- The register rows of a block, from offset 0x200 on. CLK, SER and SLC have none. -/
def blkRows : Blk → List RegRow
  | .glb => rowsGLB
  | .clk => []
  | .boot => rowsBOOT
  | .mon => rowsMON
  | .tmp => rowsTMP
  | .err => rowsERR
  | .sec => rowsSEC
  | .hif => rowsHIF
  | .pmc => rowsPMC
  | .gth => rowsGTH
  | .tim => rowsTIM
  | .sdl => rowsSDL
  | .ftb => rowsFTB
  | .bsn => rowsBSN
  | .adm => rowsADM
  | .fsc => rowsFSC
  | .lpm => rowsLPM
  | .l2t => rowsL2T
  | .ecm => rowsECM
  | .nat => rowsNAT
  | .shw => rowsSHW
  | .mtr => rowsMTR
  | .dma => rowsDMA
  | .cpm => rowsCPM
  | .evq => rowsEVQ
  | .ser => []
  | .mac => rowsMAC
  | .prs => rowsPRS
  | .slc => []
  | .rsq => rowsRSQ
  | .egs => rowsEGS
  | .hbc => rowsHBC
  | .acl => rowsACL
  | .fen => rowsFEN
  | .ucs => rowsUCS
  | .ruu => rowsRUU
  | .rcc => rowsRCC
  | .dch => rowsDCH
  | .evp => rowsEVP

/-! ### The common page header of R34 and R37. Each is a field of the block named. -/
def HDR.CTL.Enable (b : Blk) : Fld := ⟨b, 0x008, 0, 1, 0, 0, 0⟩
def HDR.CTL.QuiesceReq (b : Blk) : Fld := ⟨b, 0x008, 2, 1, 0, 0, 0⟩
def HDR.STAT.Quiesced (b : Blk) : Fld := ⟨b, 0x00C, 0, 1, 0, 0, 0⟩
def HDR.STAT.Busy (b : Blk) : Fld := ⟨b, 0x00C, 1, 1, 0, 0, 0⟩
def HDR.STAT.ResetRefused (b : Blk) : Fld := ⟨b, 0x00C, 3, 1, 0, 0, 0⟩
def HDR.IRQ_STATUS (b : Blk) : Fld := ⟨b, 0x010, 0, 32, 0, 0, 0⟩
def HDR.IRQ_ENABLE (b : Blk) : Fld := ⟨b, 0x014, 0, 32, 0, 0, 0⟩
def HDR.IRQ_FIRST.Bit (b : Blk) : Fld := ⟨b, 0x01C, 0, 5, 0, 0, 0⟩
def HDR.IRQ_FIRST.Forced (b : Blk) : Fld := ⟨b, 0x01C, 30, 1, 0, 0, 0⟩
def HDR.IRQ_FIRST.Valid (b : Blk) : Fld := ⟨b, 0x01C, 31, 1, 0, 0, 0⟩
def HDR.ERR_INJ.Detector (b : Blk) : Fld := ⟨b, 0x020, 0, 8, 0, 0, 0⟩
def HDR.ERR_INJ.Mode (b : Blk) : Fld := ⟨b, 0x020, 8, 1, 0, 0, 0⟩
def HDR.ERR_INJ.Arm (b : Blk) : Fld := ⟨b, 0x020, 9, 1, 0, 0, 0⟩
def HDR.ERR_INJ.Fired (b : Blk) : Fld := ⟨b, 0x020, 10, 1, 0, 0, 0⟩
def HDR.ERR_INJ_DATA.Pattern (b : Blk) : Fld := ⟨b, 0x024, 0, 32, 0, 0, 0⟩
def HDR.ERR_ADDR.Addr (b : Blk) : Fld := ⟨b, 0x028, 0, 32, 0, 0, 0⟩
def HDR.ERR_COUNT.Count (b : Blk) : Fld := ⟨b, 0x02C, 0, 24, 0, 0, 0⟩
def HDR.ERR_COUNT.LastDetector (b : Blk) : Fld := ⟨b, 0x02C, 24, 8, 0, 0, 0⟩
def HDR.FENCE.WriteSeq (b : Blk) : Fld := ⟨b, 0x040, 0, 16, 0, 0, 0⟩
def HDR.FENCE.Stall (b : Blk) : Fld := ⟨b, 0x040, 31, 1, 0, 0, 0⟩
def HDR.OWNER.Function (b : Blk) : Fld := ⟨b, 0x044, 0, 7, 0, 0, 0⟩
def HDR.CSEL.Event (b : Blk) : Fld := ⟨b, 0x100, 0, 12, 0, 16, 0⟩
def HDR.CSEL.Threshold (b : Blk) : Fld := ⟨b, 0x100, 12, 16, 0, 16, 0⟩
def HDR.CSEL.Chain (b : Blk) : Fld := ⟨b, 0x100, 28, 1, 0, 16, 0⟩
def HDR.CSEL.UserRead (b : Blk) : Fld := ⟨b, 0x100, 29, 1, 0, 16, 0⟩
def HDR.CSEL.Enable (b : Blk) : Fld := ⟨b, 0x100, 31, 1, 0, 16, 0⟩

/-- The register rows of the common page header. ID, CAPS, ResetActive and the counter values are computed, not stored. -/
def hdrRows (b : Blk) : List RegRow :=
  [⟨HDR.CTL.Enable b, 1, .rws, false⟩, ⟨HDR.CTL.QuiesceReq b, 1, .rw, false⟩,
   ⟨HDR.STAT.Quiesced b, 1, .ro, false⟩, ⟨HDR.STAT.Busy b, 1, .ro, false⟩,
   ⟨HDR.STAT.ResetRefused b, 1, .rw1c, false⟩, ⟨HDR.IRQ_STATUS b, 1, .rw1c, false⟩,
   ⟨HDR.IRQ_ENABLE b, 1, .rws, false⟩, ⟨HDR.IRQ_FIRST.Bit b, 1, .ro, false⟩,
   ⟨HDR.IRQ_FIRST.Forced b, 1, .ro, false⟩, ⟨HDR.IRQ_FIRST.Valid b, 1, .ro, false⟩,
   ⟨HDR.ERR_INJ.Detector b, 1, .rw, false⟩, ⟨HDR.ERR_INJ.Mode b, 1, .rw, false⟩,
   ⟨HDR.ERR_INJ.Arm b, 1, .rw, false⟩, ⟨HDR.ERR_INJ.Fired b, 1, .ro, false⟩] ++
  [⟨HDR.ERR_INJ_DATA.Pattern b, 1, .rw, false⟩, ⟨HDR.ERR_ADDR.Addr b, 1, .ro, false⟩,
   ⟨HDR.ERR_COUNT.Count b, 1, .rc, false⟩, ⟨HDR.ERR_COUNT.LastDetector b, 1, .ro, false⟩,
   ⟨HDR.FENCE.WriteSeq b, 1, .ro, false⟩, ⟨HDR.FENCE.Stall b, 1, .ro, false⟩,
   ⟨HDR.OWNER.Function b, 1, .rws, false⟩, ⟨HDR.CSEL.Event b, 16, .rw, false⟩,
   ⟨HDR.CSEL.Threshold b, 16, .rw, false⟩, ⟨HDR.CSEL.Chain b, 16, .rw, false⟩,
   ⟨HDR.CSEL.UserRead b, 16, .rw, false⟩, ⟨HDR.CSEL.Enable b, 16, .rw, false⟩]

/-- The row of the block table for a block. -/
def blkRow : Blk → BlkRow

  | .glb => ⟨.glb, 0x0001, 0x0000_0000, 0x0, 1, 4, 5, false⟩
  | .clk => ⟨.clk, 0x0002, 0x0000_4000, 0x0, 1, 1, 5, false⟩
  | .boot => ⟨.boot, 0x0003, 0x0000_5000, 0x0, 1, 1, 5, false⟩
  | .mon => ⟨.mon, 0x0004, 0x0000_6000, 0x0, 1, 1, 5, false⟩
  | .tmp => ⟨.tmp, 0x0005, 0x0000_7000, 0x0, 1, 1, 5, false⟩
  | .err => ⟨.err, 0x0006, 0x0000_8000, 0x0, 1, 8, 5, false⟩
  | .sec => ⟨.sec, 0x0007, 0x0001_0000, 0x0, 1, 4, 6, false⟩
  | .hif => ⟨.hif, 0x0008, 0x0001_4000, 0x0, 1, 4, 5, false⟩
  | .pmc => ⟨.pmc, 0x0009, 0x0001_8000, 0x0, 1, 1, 5, false⟩
  | .gth => ⟨.gth, 0x000A, 0x0001_9000, 0x0, 1, 1, 5, false⟩
  | .tim => ⟨.tim, 0x000B, 0x0001_A000, 0x0, 1, 4, 5, false⟩
  | .sdl => ⟨.sdl, 0x000C, 0x0001_E000, 0x0, 1, 2, 5, false⟩
  | .ftb => ⟨.ftb, 0x000D, 0x0002_0000, 0x0, 1, 4, 5, false⟩
  | .bsn => ⟨.bsn, 0x000E, 0x0002_4000, 0x0, 1, 1, 5, false⟩
  | .adm => ⟨.adm, 0x000F, 0x0002_5000, 0x0, 1, 2, 5, false⟩
  | .fsc => ⟨.fsc, 0x0010, 0x0002_7000, 0x0, 1, 1, 5, false⟩
  | .lpm => ⟨.lpm, 0x0011, 0x0002_8000, 0x0, 1, 4, 5, false⟩
  | .l2t => ⟨.l2t, 0x0012, 0x0002_C000, 0x0, 1, 1, 5, false⟩
  | .ecm => ⟨.ecm, 0x0013, 0x0002_D000, 0x0, 1, 1, 5, false⟩
  | .nat => ⟨.nat, 0x0014, 0x0002_E000, 0x0, 1, 1, 5, false⟩
  | .shw => ⟨.shw, 0x0015, 0x0002_F000, 0x0, 1, 1, 5, false⟩
  | .mtr => ⟨.mtr, 0x0016, 0x0003_0000, 0x0, 1, 2, 5, false⟩
  | .dma => ⟨.dma, 0x0017, 0x0003_2000, 0x0, 1, 1, 5, false⟩
  | .cpm => ⟨.cpm, 0x0018, 0x0003_3000, 0x0, 1, 1, 5, false⟩
  | .evq => ⟨.evq, 0x0019, 0x0003_4000, 0x0, 1, 1, 5, false⟩
  | .ser => ⟨.ser, 0x001A, 0x0010_0000, 0x1000, 128, 1, 0, false⟩
  | .mac => ⟨.mac, 0x001B, 0x0018_0000, 0x2000, 16, 2, 2, false⟩
  | .prs => ⟨.prs, 0x001C, 0x001A_0000, 0x2000, 8, 2, 3, false⟩
  | .slc => ⟨.slc, 0x001D, 0x001B_0000, 0x1000, 8, 1, 3, false⟩
  | .rsq => ⟨.rsq, 0x001E, 0x001B_8000, 0x1000, 8, 1, 3, false⟩
  | .egs => ⟨.egs, 0x001F, 0x001C_0000, 0x2000, 8, 2, 3, false⟩
  | .hbc => ⟨.hbc, 0x0020, 0x001D_0000, 0x2000, 6, 2, 5, false⟩
  | .acl => ⟨.acl, 0x0021, 0x001E_0000, 0x1000, 16, 1, 5, false⟩
  | .fen => ⟨.fen, 0x0022, 0x0020_0000, 0x2000, 16, 2, 4, false⟩
  | .ucs => ⟨.ucs, 0x0023, 0x0022_0000, 0x1000, 16, 1, 4, false⟩
  | .ruu => ⟨.ruu, 0x0024, 0x0040_0000, 0x1000, 384, 1, 5, false⟩
  | .rcc => ⟨.rcc, 0x0025, 0x0060_0000, 0x1000, 384, 1, 5, false⟩
  | .dch => ⟨.dch, 0x0026, 0x0080_0000, 0x1000, 256, 1, 5, true⟩
  | .evp => ⟨.evp, 0x0027, 0x0090_0000, 0x1000, 512, 1, 5, true⟩

/-- Every register row of a block: header and block registers. -/
def allRows (b : Blk) : List RegRow := hdrRows b ++ blkRows b

/-- The block table of R30 (levels from R10; assignable pages from R38). -/
def blkTable : List BlkRow :=
  [blkRow .glb, blkRow .clk, blkRow .boot, blkRow .mon, blkRow .tmp, blkRow .err, blkRow .sec, blkRow .hif, blkRow .pmc, blkRow .gth, blkRow .tim, blkRow .sdl, blkRow .ftb, blkRow .bsn, blkRow .adm, blkRow .fsc, blkRow .lpm, blkRow .l2t, blkRow .ecm, blkRow .nat] ++
  [blkRow .shw, blkRow .mtr, blkRow .dma, blkRow .cpm, blkRow .evq, blkRow .ser, blkRow .mac, blkRow .prs, blkRow .slc, blkRow .rsq, blkRow .egs, blkRow .hbc, blkRow .acl, blkRow .fen, blkRow .ucs, blkRow .ruu, blkRow .rcc, blkRow .dch, blkRow .evp]

end Sys2Proof.Machine
end

