-- ==== Sys2Proof/Machine/State.lean ====
section
/-! DEFINITION. The state of the block, as plain data, and the state after reset. `Dev` holds everything but the
command queue and the HBM contents; `Chip` adds HBM; `State` adds the queue of waiting commands. Each block's part is a
structure of its own. Register fields that software reads and writes are in `Dev.regs`, by bit address
(`Machine/RegMap.lean` lists them); state that is not a register field is in the block's structure. -/

namespace Sys2Proof.Machine

/-- A fault stops the machine. The block has none: every condition the manual names is an effect on the state. -/
inductive Fault where
  /-- Raised by nothing: the block stops for no command. -/
  | none
  deriving DecidableEq, Repr

/-- A refusal: the model gives the command no meaning. -/
inductive Refusal where
  /-- A command whose meaning the model does not hold. Safe: nothing can be proved of its effect. -/
  | notModelled (mnemonic : String)
  deriving DecidableEq, Repr

/-! ### The register fabric, the host functions and interrupts (02, 14) -/

/-- One counter of a page's bank (R37): the 48-bit count and the wrap flag of R474. -/
structure Ctr where
  value : Nat := 0
  wrap  : Bool := false
  deriving DecidableEq, Repr

/-- An interrupt route of R55. -/
structure Route where
  vector : Nat := 0
  enable : Bool := false
  deriving DecidableEq, Repr

/-- One MSI-X table entry with its Pending bit (R400). -/
structure MsixVec where
  addr : Nat := 0
  data : Nat := 0
  mask : Bool := true
  pend : Bool := false
  deriving DecidableEq, Repr

/-- A mailbox of R403: both areas, the busy and full flags, the length and MbxCfg. -/
structure Mailbox where
  toPf   : List Byte := List.replicate 448 0
  fromPf : List Byte := List.replicate 448 0
  toPfLen : Nat := 0
  busy   : Bool := false
  full   : Bool := false
  fromPfLen : Nat := 0
  vector : Nat := 0
  enable : Bool := false
  deriving DecidableEq, Repr

/-- What a function's configuration space holds that the block acts on: PF0's Memory Space Enable and a function's Bus Master Enable
(R396), the power state (R392), the MSI-X Function Mask (R400), whether an FLR is in progress (R406), Max Payload Size and Max
Read Request Size in bytes (R392), the Completion Timeout Value (R436), and whether AER has reported an internal error, which an FLR leaves
as PCIe makes it sticky (R405, R414). -/
structure Fn where
  mse   : Bool := false
  bme   : Bool := false
  d3    : Bool := false
  fmask : Bool := false
  flr   : Bool := false
  mps   : Nat := 128
  mrrs  : Nat := 512
  cto   : Nat := 0
  mbx   : Mailbox := {}
  aer   : Bool := false
  deriving DecidableEq, Repr

/-- The fabric's own state: the counter banks, the per-function latches of split 64-bit accesses, the write counts of
the FENCE registers, the routes, the MSI-X tables, the pages that Dawn has released and the instances in reset. -/
structure Fabric where
  /-- Counters, by first page index × 16 + counter number. -/
  ctr : Tab Ctr := []
  /-- Upper words latched by a lower-word read of a counter (R475), by function, page and counter. -/
  latchHi : Tab Nat := []
  /-- Lower words of the upper counter of a pair latched with it (R475). -/
  latchLo : Tab Nat := []
  /-- Lower words of 64-bit registers waiting for their upper word (R45), by byte address. -/
  hold : Tab Nat := []
  /-- Routes, by first page index (R55). -/
  routes : Tab Route := []
  /-- MSI-X table entries, by function × 2,048 + vector (R400). -/
  msix : Tab MsixVec := []
  /-- Functions, by number. -/
  fns : Tab Fn := []
  /-- SR-IOV NumVFs and VF Enable in force (R397), the change in progress (R398): the count and VF Enable it leads to; and a VF Enable
  write that waits for it. -/
  numVfs : Nat := 0
  vfEnable : Bool := false
  /-- VF MSE, one bit of PF0's SR-IOV capability for all VFs (R396). -/
  vfMse : Bool := false
  vfChange : Option (Nat × Bool) := none
  vfWait : Option Nat := none
  /-- Blocks that Dawn has released (R507). -/
  released : List Blk := []
  /-- First page indices of the instances in reset (R35). -/
  inReset : List Nat := []
  deriving DecidableEq, Repr

/-! ### Event queues (16) -/

/-- A packet in an event queue: reserved, and complete once its header is written (R455, R456). -/
structure EvPkt where
  items : Nat
  typ   : Nat
  src   : Nat
  seq   : Nat
  payload : List Nat
  complete : Bool := false
  void  : Bool := false
  lost  : Bool := false
  poisoned : Bool := false
  /-- Bits [25:10] of the nanoseconds at completion. -/
  postTime : Nat := 0
  /-- CLK_CORE cycle of the reservation (R460) and of the completion (R465). -/
  at0 : Nat := 0
  at1 : Nat := 0
  /-- First page index of the posting instance. -/
  writer : Nat := 0
  deriving DecidableEq, Repr

/-- An event queue: its packets in reservation order, the next Seq, the flag that the next packet at the read pointer
reads with Lost = 1 (R458), and the packet latched for each function (R461). -/
structure EvQueue where
  pkts : List EvPkt := []
  nextSeq : Nat := 0
  lostNext : Bool := false
  latch : Tab (List Nat) := []
  /-- CLK_CORE cycle of the latest reservation asked for, made or refused for want of room (R459). -/
  tried : Option Nat := none
  deriving DecidableEq, Repr

/-- EVQ: the queues, and the queue last returned by NEXT to each function (R463). -/
structure EvqSt where
  queues : Tab EvQueue := []
  rr : Tab Nat := []
  /-- Completions by a writer whose packet EVQ has completed already (R460). -/
  late : Nat := 0
  deriving DecidableEq, Repr

/-! ### Errors and time-triggered operations (18, 02, 17) -/

/-- An ERR_LOG entry (R502). -/
structure LogEntry where
  time : Nat
  secHi : Nat
  page : Nat
  det : Nat
  cls : Nat
  injected : Bool
  forced : Bool
  seq : Nat
  addr : Nat
  repeats : Nat := 0
  action : Nat := 0
  deriving DecidableEq, Repr

/-- ERR: the log ring, newest last (R502); the time of the last MRAM critical write and the report held for the next
(R503); the last automatic reset of each instance (R497). -/
structure ErrSt where
  log : List LogEntry := []
  critAt : Option Nat := none
  critHeld : Option LogEntry := none
  critSlot : Nat := 0
  lastAuto : Tab Nat := []
  /-- Arbiters stopped by a class 3 report with DeviceAuto = 0 (R498), or by CLK detectors. -/
  stopped : Bool := false
  deriving DecidableEq, Repr

/-- A staged or armed commit: its mask and its act time (R48). -/
structure Armed where
  mask : Nat
  act  : Nat
  deriving DecidableEq, Repr

/-- The phase of a datapath soft reset (R499). -/
inductive DprPhase where
  | idle | begun | refreshed
  deriving DecidableEq, Repr

/-- GLB: the armed commit, the previous act time (R50), the armed port reconfigurations, and the soft reset. -/
structure GlbSt where
  armed : Option Armed := none
  prevAct : Option Nat := none
  dpr : DprPhase := .idle
  /-- CLK_CORE cycle in which the soft reset in progress began. -/
  dprAt : Nat := 0
  /-- What holds the data path: 0 nothing, 1 an HBM frequency change (R28), 2 the loss of a PLL's lock (R495). -/
  hold : Nat := 0
  /-- A soft reset asked for during a frequency-change hold (R500), with its cause. -/
  dprWait : Option Nat := none
  /-- DPR_CTL.Hold was set for a thermal report, so that ERR clears it (R501). -/
  hotHold : Bool := false
  deriving DecidableEq, Repr

/-! ### Counters and snapshots (17) -/

/-- A counter read grant (R476). -/
structure Grant where
  fn : Nat := 0
  valid : Bool := false
  first : Nat := 0
  last : Nat := 0
  deriving DecidableEq, Repr

/-- Per-port bandwidth counts of one window (R484). -/
structure Bw where
  rxB : Nat := 0
  txB : Nat := 0
  rxF : Nat := 0
  txF : Nat := 0
  deriving DecidableEq, Repr

/-- A captured page result (R482). -/
structure PageResult where
  page : Nat
  words : List Nat
  deriving DecidableEq, Repr

/-- A snapshot captured and not yet delivered: what its header needs, the page results, the CLK_CORE cycle of the act, the
gather bound of R481, and, once GTH has every page result, the CLK_MGMT cycles the gather took. -/
structure SnapBuf where
  seq : Nat
  clear : Bool
  act : Nat
  gen : Nat
  results : List PageResult
  at0 : Nat
  bound : Nat
  gathered : Option Nat := none
  /-- The channel it waits at as a Stream entry, and the entries ahead of it there (R482, R483). -/
  sent : Option (Nat × Nat) := none
  deriving DecidableEq, Repr

/-- PMC and GTH. -/
structure PmcSt where
  grants : Tab Grant := []
  /-- Counts of the window in progress and of the latched window, by port; peaks by port (R484). -/
  cur : Tab Bw := []
  latched : Tab Bw := []
  peak : Tab Bw := []
  /-- Values latched per function by a read of BW_RX_BYTES (R485). -/
  bwLatch : Tab Bw := []
  /-- The armed snapshot's act time (R477). -/
  snapArm : Option Nat := none
  snap : Option SnapBuf := none
  /-- The number of the last snapshot, 32 bits (R482). -/
  snapSeq : Nat := 0
  /-- IPFIX ring: next slot to write, and staged entries not yet in a Message, oldest first, with the cycle of staging. -/
  ipxHead : Nat := 0
  ipxRing : List (Nat × Nat) := []
  /-- Data records of the open Message under templates 256 and 257, and the cycle the first was added. -/
  msg256 : List (List Byte) := []
  msg257 : List (List Byte) := []
  msgSince : Nat := 0
  /-- The next Message carries the Template Set, whether the open one does, and Messages written since Enable (R490). -/
  tplNext : Bool := false
  msgTpl : Bool := false
  msgCount : Nat := 0
  /-- P of R486: the record clock at the start of the previous exporting pass, or at Enable. -/
  ipxP : Nat := 0
  /-- The record clock at the start of the pass in progress (R486). -/
  ipxPassStart : Nat := 0
  /-- Device time at the last record clock tick, T_c of R489. -/
  tickTime : Nat := 0
  deriving DecidableEq, Repr

/-! ### Packets (03) -/

/-- What the parser reads of one IP header and what follows it (R59). -/
structure L3 where
  v6   : Bool := false
  src  : List Byte := []
  dst  : List Byte := []
  proto : Nat := 0
  tos  : Nat := 0
  ttl  : Nat := 0
  frag : Bool := false
  /-- Byte offsets of the IP header and of the header after it. -/
  off  : Nat := 0
  l4off : Nat := 0
  sport : Nat := 0
  dport : Nat := 0
  tcpFlags : Nat := 0
  echo : Option Nat := none
  icmpType : Nat := 0
  deriving DecidableEq, Repr

/-- The parser's result (R59 to R62). -/
structure Parsed where
  cls  : Nat := 14
  dmac : List Byte := []
  smac : List Byte := []
  /-- Outer and second VLAN tag control information. -/
  tags : List Nat := []
  etype : Nat := 0
  mpls : Bool := false
  label : Nat := 0
  outer : Option L3 := none
  /-- Tunnel parsed: 0 none, 1 VXLAN, 2 GENEVE, 3 GRE (R65). -/
  tun  : Nat := 0
  tunId : Nat := 0
  idmac : List Byte := []
  ismac : List Byte := []
  inner : Option L3 := none
  /-- Offset of the PTP header in the outer headers, with its carriage: 0 Ethernet, 1 UDP/IPv4, 2 UDP/IPv6 (R366). -/
  ptp  : Option (Nat × Nat) := none
  deriving DecidableEq, Repr


/-! ### Forwarding tables (08), filters (09), queues, groups and meters (10) -/

/-- The key of a route (R235): family (1 IPv6), Vrf, length, and the address masked to the length, as a number. -/
structure RouteKey where
  v6  : Bool
  vrf : Nat
  len : Nat
  pfx : Nat
  deriving DecidableEq, Repr

/-- A next hop (R234). -/
structure NextHop where
  dmac : Nat := 0
  vlan : Nat := 0
  port : Nat := 0
  smac : Nat := 0
  decTtl : Bool := false
  valid : Bool := false
  deriving DecidableEq, Repr

/-- A multipath group (R245). -/
structure EcmGroup where
  slotBase : Nat := 0
  slotCount : Nat := 0
  bucketBase : Nat := 0
  bucketLog2 : Nat := 0
  resilient : Bool := false
  staleDrop : Bool := false
  deriving DecidableEq, Repr

/-- A member slot: next hop and State 0 Empty, 1 Active, 2 Draining (R245). -/
structure MSlot where
  nextHop : Nat := 0
  state : Nat := 0
  deriving DecidableEq, Repr

/-- A NAT address entry (R249). -/
structure NatAddr where
  address : Nat := 0
  portBase : Nat := 0
  blockLog2 : Nat := 0
  nat64 : Bool := false
  pfx64 : Nat := 0
  valid : Bool := false
  deriving DecidableEq, Repr

/-- A NAT64 prefix: 96 bits and its length code (R252). -/
structure NatPfx where
  bits : Nat := 0
  len  : Nat := 0
  deriving DecidableEq, Repr

/-- One generation of the tables of LPM, ECM and NAT (R47). -/
structure Fwd where
  routes : List (RouteKey × Nat) := []
  nhs    : Tab NextHop := []
  groups : Tab EcmGroup := []
  slots  : Tab MSlot := []
  bkts   : Tab Nat := []
  natAddr : Tab NatAddr := []
  natPfx : Tab NatPfx := []
  deriving DecidableEq, Repr

/-- An L2 entry (R240): its commit time in µs. -/
structure L2Entry where
  mac  : Nat
  vlan : Nat
  port : Nat
  static : Bool
  router : Bool
  learned : Bool
  hit  : Bool
  at0  : Nat
  deriving DecidableEq, Repr

/-- L2T: entries by slot (4 × bucket + way), the hash seed, VLAN entries (FloodGroup and LearnEn), and the packets whose
learn requests wait for the engine. -/
structure L2St where
  ents : Tab L2Entry := []
  seed : Nat := 0
  vlans : Tab (Nat × Bool) := []
  reqs : List Nat := []
  /-- The CLK_CORE cycle of the ager's last visit to each slot (R244). -/
  aged : Tab Nat := []
  /-- Learned entries replaced by host entries at commits (R243): the manual counts them and names no register. -/
  replaced : Nat := 0
  deriving DecidableEq, Repr

/-- A block map entry (R250): four block slots as MAP_DATA words, and the cursor. -/
structure MapEntry where
  slots : List Nat := [0, 0, 0, 0]
  cursor : Nat := 0
  deriving DecidableEq, Repr

/-- NAT: the overlay of committed map entries not yet in HBM, in commit order. -/
structure NatSt where
  overlay : List (Nat × MapEntry) := []
  deriving DecidableEq, Repr

/-- A filter entry (R259): V and M as numbers of their little-endian bytes, the action, the hit counter, its valid bit in
each plane, and what its search-array units hold where they differ from the stored copy. -/
structure AclEnt where
  v : Nat := 0
  m : Nat := 0
  act : Nat := 0
  hits : Nat := 0
  plane0 : Bool := false
  plane1 : Bool := false
  arr : Option (Nat × Nat) := none
  deriving DecidableEq, Repr

/-- A Write or Delete that waits for retirement (R275). -/
structure AclOp where
  write : Bool
  idx : Nat
  v : Nat
  m : Nat
  act : Nat
  deriving DecidableEq, Repr

/-- A filter bank: the Width by which its units are laid out as entries, the entries, queued repairs, deferred operations. -/
structure AclBank where
  width : Nat := 0
  ents : Tab AclEnt := []
  repair : List Nat := []
  deferred : List AclOp := []
  deriving DecidableEq, Repr

/-- ACL: the banks, the active plane, and the plane of the previous generation (R273). -/
structure AclSt where
  banks : Tab AclBank := []
  plane : Nat := 0
  prevPlane : Nat := 0
  deriving DecidableEq, Repr

/-- SHW: the next shadow entry of a pass, and what a dump still has to write. -/
structure ShwSt where
  idx : Nat := 0
  /-- Entries of a Dump that its channel has not had room for (R256, R407). -/
  dump : List (List Byte) := []
  deriving DecidableEq, Repr

/-- Queue configuration (R300). -/
structure QCfg where
  level : Nat := 0
  weight : Nat := 1
  defGroup : Nat := 0
  defValid : Bool := false
  deriving DecidableEq, Repr

/-- Shaper group configuration (R300). -/
structure GrpCfg where
  mode : Nat := 0
  packets : Bool := false
  overhead : Nat := 0
  cost : Nat := 0
  burst : Nat := 0
  quantum : Nat := 0
  deriving DecidableEq, Repr

/-- Meter configuration (R301), the CFG register as a word. -/
structure MtrCfg where
  cir : Nat := 0
  pir : Nat := 0
  cbs : Nat := 0
  pbs : Nat := 0
  cfg : Nat := 0
  deriving DecidableEq, Repr

/-- Meter state (R297): buckets, the meter clock at the last update, and the colour counts. -/
structure MtrState where
  tokC : Nat := 0
  tokP : Nat := 0
  time : Nat := 0
  green : Nat := 0
  yellow : Nat := 0
  red : Nat := 0
  deriving DecidableEq, Repr

/-- MTR: configuration and state by meter; a meter with no state of its own holds no tokens and no counts, and stands at the meter clock
of the last refill of R297. -/
structure MtrSt where
  cfg : Tab MtrCfg := []
  st : Tab MtrState := []
  refilled : Nat := 0
  deriving DecidableEq, Repr

/-- A cell's link entry (R68): the next cell of its packet, and the ingress port and class it is charged to. The reference count of a
packet's first cell is `Pkt.refs`. -/
structure Link where
  next : Option (BitVec 20) := none
  port : Nat
  cls  : Nat
  deriving DecidableEq, Repr

/-- ADM and BSN (R70, R79): guarantee and limit by entry (kind × 4,096 + port × 16 + index), cells charged by port-class
and cells of each egress queue, cells in use, SharedUsed, the multicast groups (port bitmap with Hairpin as bit 138), and whether a
recount leaves reserve-only admission in force (R495). -/
structure BasinSt where
  lim : Tab (Nat × Nat) := []
  used : Tab Nat := []
  cells : Nat := 0
  shared : Nat := 0
  /-- Least free cells since the last read of FREE_LOW. -/
  freeLow : Nat := 786432
  mcast : Tab Nat := []
  reserveOnly : Bool := false
  /-- Cells withdrawn by an uncorrectable link error (18). -/
  withdrawn : Nat := 0
  /-- Link entries of the cells in use, by cell number, and the first cell of each packet (R68). -/
  links : Tab Link := []
  heads : Tab Nat := []
  /-- The free list (R69): the next cell never used since it was rebuilt, and the freed cells, oldest first. -/
  fresh : Nat := 0
  freed : List Nat := []
  deriving DecidableEq, Repr


/-! ### Flow table and record update units (04, 05) -/

/-- A slot location: home RUU, table set, way, index (R100, R104). -/
structure Loc where
  ruu : Nat
  set : Nat
  way : Nat
  idx : Nat
  deriving DecidableEq, Repr

/-- How an engine request names its record (R145). -/
inductive EngTgt where
  | digest (dg : Nat)
  | loc (l : Loc) (epoch : Nat)
  | key (k : List Byte)
  deriving DecidableEq, Repr

/-- The engine request kinds of R145. -/
inductive EngKind where
  | read
  | ops (words : List Nat)
  | write (mask : Nat) (image : Nat)
  | insert (image : Nat)
  | delete
  deriving DecidableEq, Repr

/-- The thread, its run number, and the result slot that a request came from; whether the record goes into the record buffer;
an entry sent at a seal also has its journal index. -/
structure EngSrc where
  cluster : Nat
  thread : Nat
  run : Nat
  slot : Nat
  load : Bool := false
  sealed : Option Nat := none
  deriving DecidableEq, Repr

/-- The operands of a host command, taken at its Go (R125). -/
structure HostCmd where
  op : Nat
  key : List Byte
  image : Nat
  mask : Nat
  loc : Loc
  epoch : Nat
  deriving DecidableEq, Repr

/-- A request of a home RUU's queue (R111, R142, R145). -/
inductive ReqKind where
  | packet (pid : Nat)
  | pin (l : Loc) (handle member : Nat)
  | engine (src : EngSrc) (tgt : EngTgt) (kind : EngKind)
  | sweep (k : Nat)
  | migrate (k : Nat)
  | exportRead (k walk : Nat)
  | host (c : HostCmd)
  | poison (l : Loc)
  deriving DecidableEq, Repr

/-- A memory request a home RUU has sent to a target RUU (R146). -/
inductive MemReqState where
  | sent | performed | returned
  deriving DecidableEq, Repr

/-- A memory request (R146, R147): the RUU whose port carries it out, whether it writes, the slot it is made for, the cycle it was sent, and
its state. -/
structure MemReq where
  target : Nat
  write : Bool
  loc : Loc
  at0 : Nat := 0
  state : MemReqState := .sent
  deriving DecidableEq, Repr

/-- A request in service (R143): the request, the rows it needs, the cycle it left the head, its memory requests, and whether they are
those of its slot reads (0) or those that its evaluation makes (1), slots that its reads have found uncorrectable, the cache mode and the
table generation that it found at the head (R150, R154), whether it waits for earlier requests, and the slots whose image they leave for
it (R143). -/
structure Service where
  req : ReqKind
  row : List Loc
  at0 : Nat
  mem : List MemReq := []
  round : Nat := 0
  lost : List Loc := []
  mode : Nat := 0
  gen : Nat := 0
  behind : Bool := false
  left : List Loc := []
  deriving DecidableEq, Repr

/-- A line of the record cache (R148): its tag, its image, whether it is dirty, the cycle until which it is young (R149),
and its use stamp. -/
structure Line where
  set : Nat
  way : Nat
  idx : Nat
  image : Nat
  dirty : Bool
  young : Option Nat
  used : Nat
  deriving DecidableEq, Repr

/-- One RUU with its cache partition. -/
structure Ruu where
  /-- Requests waiting at their sources, in order of arrival (R142). -/
  waiting : List ReqKind := []
  queue : List ReqKind := []
  service : List Service := []
  /-- Admissions since the last class B and the last class C admission (R142). -/
  sinceB : Nat := 0
  sinceC : Nat := 0
  lines : List Line := []
  useTick : Nat := 0
  /-- The cache mode of the request last taken at the head or carried out, and whether a change to Mode 2 is still to invalidate the
  partition (R150). -/
  mode : Nat := 0
  emptying : Bool := false
  /-- Packet hits served, for the verify interval of R123. -/
  hits : Nat := 0
  /-- The last 8 removed digests with the cycle of removal, newest first (R120). -/
  recent : List (Nat × Nat) := []
  stock : List Nat := []
  /-- The migration cursor K and whether the RUU is finished (R133). -/
  cursor : Nat := 0
  sweepPos : Nat := 0
  exportPos : Nat := 0
  deriving DecidableEq, Repr

/-- A bank's result for one search: its matching entries in order, and entries masked by false hits. -/
structure BankHit where
  bank : Nat
  /-- Entry and Count of the search, where one matched. -/
  hit : Option (Nat × Nat)
  /-- The entry that verify refuted in the first pass, where one was. -/
  masked : Option Nat := none
  /-- A second pass is due (R267). -/
  again : Bool := false
  deriving DecidableEq, Repr

/-- A routine's filter search under way (R277): generation, group and FILTER_KEY, and what its banks have found. -/
structure AclSearch where
  gen : Nat
  group : Nat
  fkey : List Byte
  banks : List BankHit
  deriving DecidableEq, Repr

/-- The result of an engine request on its way to its result slot (R145, R180). -/
structure EngResult where
  src : EngSrc
  status : Nat
  data : List Byte := []
  loc : Option Loc := none
  handle : Nat := 0
  flag : Bool := false
  colour : Nat := 3
  /-- The 16 bytes of the slot, for a lookup or a general-region read. -/
  raw : Option (List Byte) := none
  /-- The source address of a NAT lookup whose map entry has been read from HBM, so that its result can be made (R251). -/
  nat : Option Nat := none
  /-- The ReqSub of a lookup (R255, R277). -/
  look : Option Nat := none
  /-- A filter search whose result is made as it arrives, once no error has been met in it. -/
  search : Option AclSearch := none
  deriving DecidableEq, Repr

/-- FTB: everything beside its registers. -/
structure FtbSt where
  /-- Handles out of the pool: in a stock, in use, or withheld until the next SetGeom (R114, R170, R172). -/
  taken : List Nat := []
  /-- Capacity below which the pool issues handles (R135). -/
  issueCap : Nat := 0
  /-- Log2 of the capacity a Resize leads to (R132). -/
  target : Nat := 0
  digestKey : Nat := 0
  /-- Failure counts by slice, profile and reason (R115), as slice × 128 + profile × 8 + reason. -/
  fails : Tab Nat := []
  /-- The host command in progress and its result when the RUU has answered (R125). -/
  cmd : Option HostCmd := none
  cmdDone : Option Nat := none
  /-- The sweep pass in progress: RUUs that have finished it. -/
  sweepDone : List Nat := []
  exportDone : List Nat := []
  /-- The number of the export walk (R129), and the cycle in which ResizeClear or Move began (R136). -/
  walk : Nat := 0
  since : Nat := 0
  /-- Migration has stopped until cold reset (R495, detector 0). -/
  stuck : Bool := false
  deriving DecidableEq, Repr

/-- A table of template words and meter profiles, one generation of it (R153, R162). -/
structure TplTable where
  words : Tab Nat := []
  profiles : Tab Nat := []
  deriving DecidableEq, Repr

/-- A group winner (R266) with what verify needs. -/
structure Winner where
  group : Nat
  bank : Nat
  idx : Nat
  act : Nat
  count : Nat
  deriving DecidableEq, Repr

/-- The lookup results a packet carries to its merge (R15, R231, R237, R265). -/
structure Lookups where
  /-- Route result of R232, where a route was found. -/
  route : Option Nat := none
  /-- L2 result: found, its port, and Router. -/
  l2hit : Bool := false
  l2port : Nat := 0
  l2router : Bool := false
  /-- The learn outcome: 0 none due or decided, 1 waiting, 2 failed and flooded (R241, R242). -/
  learn : Nat := 0
  /-- An uncorrectable error met by the packet's multipath or NAT lookup (R257). -/
  ecmBad : Bool := false
  natBad : Bool := false
  fkey : List Byte := []
  banks : List BankHit := []
  deriving DecidableEq, Repr


/-- A next hop's rewrite (R234): its MAC addresses, VLAN, and whether the TTL falls. -/
structure Hop where
  dmac : Nat
  smac : Nat
  vlan : Nat
  decTtl : Bool
  deriving DecidableEq, Repr

/-- A NAT rewrite (R252): new source and destination addresses and ports where they change, and, between IPv4 and IPv6, the
Identification an IPv4 header takes. -/
structure NatEdit where
  src : Option (List Byte) := none
  dst : Option (List Byte) := none
  sport : Option Nat := none
  dport : Option Nat := none
  /-- 0 same family, 1 IPv6 to IPv4, 2 IPv4 to IPv6. -/
  xlat : Nat := 0
  ident : Nat := 0
  deriving DecidableEq, Repr

/-- What the merge rewrites in a packet: next hop, NAT, DSCP, DEI (R234, R252, R271, R299). -/
structure Edits where
  /-- The packet is sent unrewritten: its TTL would not survive the next hop (R234). -/
  raw : Bool := false
  hop : Option Hop := none
  nat : Option NatEdit := none
  dscp : Option Nat := none
  dei : Bool := false
  deriving DecidableEq, Repr

/-- A packet: what arrived, what its lookups found, and what the merge and a routine decided. -/
structure Pkt where
  slice : Nat := 0
  port  : Nat := 0
  /-- Port index of R63. -/
  pidx  : Nat := 0
  lane  : Nat := 255
  /-- The frame from its destination address on, without its FCS, as it arrived and as it leaves. -/
  bytes : List Byte := []
  outB  : List Byte := []
  /-- Frame length with its FCS. -/
  len   : Nat := 0
  /-- The FCS and length of the frame as it came, where a routine has rewritten its head before its end (R186). -/
  asCame : Option (Nat × Nat) := none
  cls   : Nat := 0
  parsed : Parsed := {}
  profile : Nat := 0
  key   : List Byte := []
  digest : Nat := 0
  gen   : Nat := 0
  /-- The FCS field with which the frame ended (R372). -/
  tail : Option Nat := none
  /-- Ingress stamp as full device time (R360), CAL_GEN and TIME_QUAL at the stamp. -/
  stamp : Nat := 0
  calGen : Nat := 0
  quality : Nat := 0
  /-- Ingress order: the CLK_CORE cycle of acceptance and the cycle of the first cell. -/
  at0   : Nat := 0
  /-- Cells stored, cells still to come, and all the frame's cells. -/
  cells : Nat := 0
  due   : Nat := 0
  total : Nat := 0
  /-- The frame has ended; its FCS was good (0), bad (1) or stomped (2); it was truncated by admission or length. -/
  ended : Bool := false
  fcs   : Nat := 0
  trunc : Bool := false
  /-- Reference count of the first cell (R80). -/
  refs  : Nat := 0
  /-- The descriptor has gone to the home RUU, and the ACTION returned (R165). -/
  sent  : Bool := false
  action : Option Nat := none
  loc   : Option Loc := none
  handle : Nat := 0
  /-- The record as it stood after the template ran (R175). -/
  recB  : Nat := 0
  /-- The merge of step 7 has been made. -/
  merged : Bool := false
  dropped : Bool := false
  /-- On the slow path, and taken into FSC. The member that a pin update carries if the packet is forwarded (R168). -/
  punted : Bool := false
  inFsc : Bool := false
  pin : Option Nat := none
  /-- A punt was made of it at some time (R75). -/
  slow  : Bool := false
  /-- A NAT64 annex read is due before it leaves the slice (R253). -/
  annexDue : Bool := false
  /-- Order domain and the numbers assigned: egress slice, number, reset tag (R85, R87, R96). -/
  domain : Option Nat := none
  seqs  : List (Nat × Nat × Nat) := []
  /-- Egress ports of the copies not yet enqueued, the egress slices whose Rill the packet has reached, and those that have
  released it. -/
  targets : List Nat := []
  arrived : List Nat := []
  released : List Nat := []
  /-- Copies of a multicast packet: more than one target at the merge (R81). -/
  multi : Bool := false
  edits : Edits := {}
  /-- Explicit egress queue, and the shaper group of its ACTION. -/
  queueSel : Option Nat := none
  group : Option Nat := none
  look  : Lookups := {}
  /-- Host transmit metadata: OneStep, StampReq and the Pdelay_Req ingress stamp (R367). -/
  oneStep : Bool := false
  stampReq : Bool := false
  reqStamp : Nat := 0
  deriving DecidableEq, Repr

/-! ### Rill and egress (03, 10) -/

/-- A packet held in a Rill: domain, number, packet, and the cycle it began to wait. -/
structure Held where
  domain : Nat
  num : Nat
  pid : Nat
  at0 : Nat
  deriving DecidableEq, Repr

/-- The Rill of an egress slice: next expected numbers by domain, held packets, voided numbers not yet reached, and the
reset tags in force by domain. -/
structure RillSt where
  next : Tab Nat := []
  held : List Held := []
  voids : List (Nat × Nat) := []
  /-- Packets released whose copies to this slice are not all enqueued, in order of release. -/
  order : List Nat := []
  deriving DecidableEq, Repr

/-- A copy in a queue or group: its packet, egress port, queue and group, length as it will be transmitted, whether it cuts
through, and its enqueue order; and what its enqueue looks up in the packet's generation (R47): its queue's Level and Weight, its charge at
the port (R292), and the charge that its group makes where ForcePackets or the group's Account says so (R288). -/
structure Copy where
  pid : Nat
  port : Nat
  queue : Nat
  group : Option Nat
  len : Nat
  cells : Nat
  cut : Bool
  ord : Nat
  level : Nat := 0
  weight : Nat := 1
  charge : Nat := 0
  forced : Bool := false
  pktLen : Nat := 0
  deriving DecidableEq, Repr

/-- A shaper group (R288 to R290): its waiting copies, when the first became head, the head's eligible time once evaluated,
TAT in Mode 1, and Credit with the last boundary in Mode 2. -/
structure GrpState where
  list : List Copy := []
  headAt : Nat := 0
  eval : Option Nat := none
  tat : Nat := 0
  credit : Int := 0
  k : Nat := 0
  deriving DecidableEq, Repr

/-- An entry of the timing wheel (R285): a group, its due tick, and its level. -/
structure WheelEnt where
  grp : Nat
  due : Nat
  level : Nat
  deriving DecidableEq, Repr

/-- An egress queue: ready list, cells queued, virtual-time tags, and the end of its pause. -/
structure EgQueue where
  ready : List Copy := []
  cells : Nat := 0
  start : Nat := 0
  finish : Nat := 0
  pauseTo : Option Nat := none
  deriving DecidableEq, Repr

/-- A port (R82, R83): its state, its link, the end of a hold, the DownHold of the hold, and what it is transmitting. -/
structure PortSt where
  state : Nat := 0
  link : Bool := false
  holdTo : Option Nat := none
  tx : Option Copy := none
  /-- The bytes of the copy in transmission, without FCS. -/
  txB : List Byte := []
  /-- Set by a lane, port or MAC block reset until its lanes have retrained. -/
  held : Bool := false
  flushLeft : Nat := 0
  deriving DecidableEq, Repr

/-- The egress side: queues by port × 16 + queue, virtual times by port × 8 + level, groups by group number, queue and group
configuration by the same keys, the wheels by slice, Rills by slice, ports, and the sequence counters. -/
structure EgSt where
  queues : Tab EgQueue := []
  vtime : Tab Nat := []
  qcfg : Tab QCfg := []
  grps : Tab GrpState := []
  gcfg : Tab GrpCfg := []
  wheel : Tab (List WheelEnt) := []
  rill : Tab RillSt := []
  ports : Tab PortSt := []
  /-- Lane count of the port at each lane that begins one and the rate of a lane in Gb/s, by lane; unlisted: a port of one
  lane at 200; 0 lanes: a lane that belongs to the port of a lower lane (R14). -/
  width : Tab (Nat × Nat) := []
  /-- Numbers to void: egress slice, domain, number, tag (R92). -/
  voidQ : List (Nat × Nat × Nat × Nat) := []
  /-- Sequence counters by domain × 8 + egress slice (R87), reset tags by ingress slice × 8 + egress slice (R96). -/
  seq : Tab Nat := []
  tag : Tab Nat := []
  ordNext : Nat := 0
  /-- Frames that recirculation ports have taken, by slice, oldest first (R15). -/
  recirc : Tab (List (List Byte)) := []
  deriving DecidableEq, Repr


/-! ### Staging (R46) -/

/-- One staged write: what it makes active at its commit. -/
inductive StgWrite where
  /-- A staged register field, by bit address. -/
  | reg (key val : Nat)
  /-- A template word and a meter profile (R169). -/
  | tpl (idx word val : Nat)
  | mpf (idx val : Nat)
  /-- A route added or replaced (`some` result) or deleted (R235). -/
  | route (k : RouteKey) (res : Option Nat)
  | nextHop (idx : Nat) (v : NextHop)
  /-- A host L2 entry, with port, Static and Router, or a deletion (R243). -/
  | l2 (mac vlan : Nat) (v : Option (Nat × Bool × Bool))
  | vlan (vid group : Nat) (learn : Bool)
  | ecmGroup (idx : Nat) (v : EcmGroup)
  | ecmSlot (idx : Nat) (v : MSlot)
  | ecmBucket (idx slot : Nat)
  | natAddr (idx : Nat) (v : NatAddr)
  | natPfx (idx : Nat) (v : NatPfx)
  | natMap (idx : Nat) (slots : List Nat)
  /-- Admission and queue limits (R74): entry key, guarantee, limit. -/
  | limit (key guarantee lim : Nat)
  | queue (key : Nat) (v : QCfg)
  | group (grp : Nat) (v : GrpCfg)
  | meter (idx : Nat) (v : MtrCfg)
  deriving DecidableEq, Repr

/-- A staged write with the COMMIT_MASK bit and instance of its block and its share of the staging capacity. -/
structure StgEntry where
  blk : Nat
  inst : Nat
  cost : Nat
  w : StgWrite
  deriving DecidableEq, Repr

/-- What the previous generation holds of ADM, EGS and MTR (R47): limits, queue configuration, meters. Shaper groups have one
configuration, which takes effect at the commit (R291). -/
structure OldCfg where
  lim : Tab (Nat × Nat) := []
  qcfg : Tab QCfg := []
  mtr : Tab MtrCfg := []
  deriving DecidableEq, Repr

/-! ### DMA and Cistern (15) -/

/-- A fetched Data descriptor that is not yet written back (R419), with its progress. -/
structure DmaDesc where
  /-- The channel's number of it: addresses repeat in a ring. -/
  id   : Nat
  addr : Nat
  host : Nat
  len  : Nat
  flush  : Bool
  notify : Bool
  sop  : Bool
  eop  : Bool
  aux  : Nat
  /-- The Meta descriptor before it: its address and its two metadata words. -/
  metaW : Option (Nat × Nat × Nat) := none
  /-- Bytes asked of the host, and bytes moved. -/
  asked : Nat := 0
  moved : Nat := 0
  /-- Read data by offset, as it arrives. -/
  data : List (Nat × List Byte) := []
  /-- Write-back: Status, Info bits below Flushed, Stamp. -/
  status : Nat := 0
  info : Nat := 0
  stamp : Nat := 0
  /-- It has completed (R430); the Cistern buffer freed at its write-back; its flush read is issued; and complete. -/
  whole : Bool := false
  frees : Option Nat := none
  flushSent : Bool := false
  flushed : Bool := false
  deriving DecidableEq, Repr

/-- What an outstanding read of the read engine is for: descriptors, a flush, or bytes of a descriptor's data. -/
inductive DmaWhy where
  | desc
  | flush
  | data (desc off : Nat)
  deriving DecidableEq, Repr

/-- An outstanding read: it holds a tag, and data reads hold staging blocks. -/
structure DmaRead where
  why : DmaWhy
  /-- The address of the request as it was issued, and of what is still to be answered of it. -/
  base : Nat
  addr : Nat
  len : Nat
  at0 : Nat
  drop : Bool := false
  deriving DecidableEq, Repr

/-- A DMA channel's state beside its page's registers. -/
structure DmaChan where
  hops : Nat := 0
  descs : List DmaDesc := []
  nextId : Nat := 0
  /-- A Meta descriptor waiting for its Sop: its address and words; and whether the last descriptor fetched leaves a frame open. -/
  metaW : Option (Nat × Nat × Nat) := none
  inFrame : Bool := false
  /-- Bytes of the frame or message at the head of its source already written to the host. -/
  off : Nat := 0
  /-- Bytes still to move of the burst in progress. -/
  burst : Option Nat := none
  /-- Since when the level has been above 0 in Idle, as a CLK_CORE cycle (R427). -/
  since : Option Nat := none
  reads : List DmaRead := []
  /-- Entries waiting at the Stream source, oldest first. -/
  stream : List (List Byte) := []
  /-- Messages queued for a Deliver channel: sending core and handle. -/
  msgs : List (Nat × Nat) := []
  /-- The Cistern buffer of the Submit message in progress, and when an empty response was given. -/
  buf : Option Nat := none
  retryAt : Option Nat := none
  /-- An HbmOut read has been issued; and the burst it has taken, with whether that is poisoned (R421, R330). -/
  asking : Bool := false
  got : Option (List Byte × Bool) := none
  /-- Staging blocks that the burst in progress of a write engine's channel holds (R440). -/
  staged : Nat := 0
  /-- Run = 0 was written and issued requests are still to complete (R439). -/
  stopping : Bool := false
  deriving DecidableEq, Repr

/-- A copy that a host port has taken off its queues for its Rx channel (R434), by packet and queue. -/
structure HostCopy where
  pid : Nat
  queue : Nat
  /-- The frame as it leaves, without FCS, and its stamp, InPort and classes. -/
  bytes : List Byte
  stamp : Nat
  info : Nat
  deriving DecidableEq, Repr

/-- A frame that a Tx channel has delivered whole and that has not yet entered its host port (R435). -/
structure TxFrame where
  chan : Nat
  bytes : List Byte
  metaW : Option (Nat × Nat)
  deriving DecidableEq, Repr

/-- A Cistern buffer (R445). -/
structure CistBuf where
  held : Bool := false
  gen  : Nat := 0
  refs : Nat := 0
  owner : Nat := 0
  holder : Nat := 0
  data : List Byte := []
  /-- Withdrawn until cold reset (R451, detector 1). -/
  gone : Bool := false
  /-- Its data has an uncorrectable error (R451, detector 0). -/
  bad : Bool := false
  deriving DecidableEq, Repr

/-- CPM: buffers by pool × 65,536 + number; for each pool the buffers never yet issued come first in number order, then
freed ones in the order they were freed; the port after which the next contest starts; the command in progress. -/
structure CpmSt where
  bufs : Tab CistBuf := []
  /-- Next never-issued buffer number of each pool, and the freed buffers. -/
  fresh : Tab Nat := []
  freed : Tab (List Nat) := []
  /-- Low watermark of each pool since its last read; unlisted: the pool's Free at that moment. -/
  low : Tab Nat := []
  lastPort : Nat := 4
  rebuilding : List Nat := []
  /-- AddRefs refused beyond 15 (R445): the manual counts them and names no register. -/
  addRefs : Nat := 0
  /-- The command in progress: 0 FREE_CMD with its handle, 1 RECLAIM with its owner tag. -/
  cmd : Option (Nat × Nat) := none
  deriving DecidableEq, Repr

/-- An outstanding read of the UCS loader, or with `walker` of the shadow walker, which hold tags and staging of their own (R418); `drop`: its
completion is discarded. -/
structure IntRead where
  walker : Bool
  base : Nat
  len : Nat
  at0 : Nat
  drop : Bool := false
  deriving DecidableEq, Repr

/-- DMA: the channels, the host ports' frames, and what the engines keep. -/
structure DmaSt where
  chans : Tab DmaChan := []
  /-- Outstanding reads of the loader and the shadow walker, oldest first. -/
  ints : List IntRead := []
  /-- Copies taken for host ports 128 and 129, and transmit frames waiting to enter them. -/
  hostRx : Tab (List HostCopy) := []
  hostTx : Tab (List TxFrame) := []
  /-- Round-robin position of each engine's two priority classes. -/
  rr : Tab Nat := []
  deriving DecidableEq, Repr


/-! ### Flow engines, their scheduler and the microcode stores (06, 07) -/

/-- A host command as FSC holds it (R191): the submitting function, its message's handle, and the header. -/
structure HostMsg where
  fn : Nat
  handle : Nat
  opcode : Nat
  prio : Nat
  replyQ : Nat
  tag : Nat
  operands : List Byte
  /-- The function has been reset since the command was submitted (R194). -/
  stale : Bool := false
  deriving DecidableEq, Repr

/-- What a punt entry or a thread works on. -/
inductive Work where
  | pkt (pid : Nat)
  | cmd (m : HostMsg)
  deriving DecidableEq, Repr

/-- A punt entry (R176) and when it joined its level. -/
structure FscEntry where
  work : Work
  at0 : Nat
  deriving DecidableEq, Repr

/-- A journal entry (R180, R207). -/
inductive Journal where
  | ops (tgt : EngTgt) (words : List Nat) (slot : Nat)
  | write (tgt : EngTgt) (mask image slot : Nat)
  | insert (tgt : EngTgt) (image slot : Nat)
  | delete (tgt : EngTgt) (slot : Nat)
  | gen (addr data : Nat)
  | event (queue : Nat) (items : List Nat)
  | forward (kind port queue group headLen : Nat)
  | drop
  | reply (items : List Nat) (value : Nat)
  | fence
  deriving DecidableEq, Repr

/-- A seal in progress: the entries still to be admitted with their index, and whether the word was the end microword. -/
structure Seal where
  left : List (Nat × Journal)
  fin : Bool
  /-- The entries have been sent (R181). -/
  sent : Bool := false
  deriving DecidableEq, Repr

/-- What the descriptor area of a packet's thread holds beside ACTION and FLOW_KEY (R175): ingress port, ingress class, ingress compact
stamp, sequence numbers by egress slice with their reset tags, and copy targets. ACTION and FLOW_KEY fill the area's 64 bytes, and the
manual gives these no place in them (log entry 97). -/
structure PktDesc where
  port : Nat
  cls : Nat
  stamp : Nat
  seqs : List (Nat × Nat × Nat)
  targets : List Nat
  deriving DecidableEq, Repr

/-- The context of a running thread (R175). -/
structure Thread where
  /-- Its run number: every dispatch takes the next one. -/
  run : Nat
  work : Work
  level : Nat
  bank : Nat
  pc : Nat
  gp : List Nat := List.replicate 16 0
  z : Bool := false
  n : Bool := false
  c : Bool := false
  stack : List Nat := []
  desc : List Byte := List.replicate 64 0
  pktDesc : Option PktDesc := none
  head : List Byte := List.replicate 512 0
  recB : List Byte := List.replicate 64 0
  slots : List Byte := List.replicate 256 0
  /-- Result slots whose result has not arrived, and whether the record buffer is to be loaded with it. -/
  wait : List Nat := []
  scratch : List Byte := List.replicate 512 0
  journal : List Journal := []
  sealing : Option Seal := none
  at0 : Nat := 0
  kill : Bool := false
  deriving DecidableEq, Repr

/-- What a thread that has aborted had sealed and has not sent, behind a fence that has not completed (R189, R311), with its last context. -/
structure Orphan where
  cluster : Nat
  thread : Nat
  ctx : Thread
  left : List (Nat × Journal)
  deriving DecidableEq, Repr

/-- FSC: handles of the HOST_CMD messages handed to it and not yet taken (R191), punt entries by level, oldest first, whether
dispatch pauses for a recount (R190), and the run number of the next dispatch; for the engines (R174, R197), by cluster × 8 + engine,
the thread that issued last and the CLK_FE cycle after its issue, and by cluster the CLK_FE cycle after the last one counted; and the sealed
entries of threads that have aborted. -/
structure FscSt where
  inbox : List Nat := []
  levels : Tab (List FscEntry) := []
  recount : Bool := false
  nextRun : Nat := 0
  rotor : Tab Nat := []
  feNext : Tab Nat := []
  feSeen : Tab Nat := []
  orphans : List Orphan := []
  deriving DecidableEq, Repr

/-- A bank of a microcode store (R198, R200): microwords and dispatch entries, the image versions and security versions of
each part present, the vendor version the customer part requires, the customer key slot, and the signed hash of each part (R412). -/
structure Bank where
  words : Tab Nat := []
  disp : Tab Nat := []
  vendor : Option (Nat × Nat) := none
  cust : Option (Nat × Nat) := none
  requires : Nat := 0
  key : Nat := 0
  vendorHash : List Byte := List.replicate 48 0
  custHash : List Byte := List.replicate 48 0
  deriving DecidableEq, Repr

/-- A microcode store: its banks, the poisoned words (bank × 32,768 + address), whether the drain in progress is an automatic
rollback, the end of the trial and its aborts, the scrub position and the words with a single-bit error. -/
structure UcsSt where
  a : Bank := {}
  b : Bank := {}
  poison : List Nat := []
  rollback : Bool := false
  /-- The swap in progress was written during a trial, so it starts none (R224). -/
  back : Bool := false
  trialEnd : Option Nat := none
  trialAborts : Nat := 0
  scrub : Nat := 0
  deriving DecidableEq, Repr

/-- A load, clone or enrolment in progress (R218): the operation, its targets, its outcome, the targets that failed with the
result, and the image once fetched and accepted. -/
structure LoadSt where
  op : Nat
  targets : List Nat
  result : Nat
  fail : List Nat := []
  image : List Byte := []
  self : Bool := false
  src : Nat := 0
  /-- The clusters that a Load or Clone names, whether it is to be accepted or not. -/
  asked : List Nat := []
  /-- The host address and the number of the bytes that are still to be asked for (R218, R418). -/
  ask : Nat × Nat := (0, 0)
  deriving DecidableEq, Repr

/-- An elliptic-curve public key as 97 bytes, with its Admin flag (R214). -/
structure KeySlot where
  key : List Byte
  admin : Bool
  deriving DecidableEq, Repr



/-! ### Time base and Sundial (13) -/

/-- A change of TIM (R355, R364, R365, R372): the CLK_CORE cycle from which it holds, what device time gained by it beside its rate, the lane
whose receive constant it changed with the constant before it, and CAL_GEN and TIME_QUAL before it. -/
structure TimPast where
  at0 : Nat
  jump : Int := 0
  rx : Option (Nat × Nat) := none
  calGen : Nat
  quality : Nat
  deriving DecidableEq, Repr

/-- TIM: path-delay constants by lane, receive and transmit (R364), the last receive measurement, and their Dawn values; the
cycle of the last accepted PPS_IN edge; the device time of the last 10,000,000th 10 MHz edge; the level of PPS_OUT with the
cycle of its last rise. -/
structure TimSt where
  /-- What TIM has changed, latest first: what the stamp of a frame whose delimiter was detected before a change still has. -/
  past : List TimPast := []
  rx : Tab Nat := []
  tx : Tab Nat := []
  est : Tab Nat := []
  dawnRx : Tab Nat := []
  dawnTx : Tab Nat := []
  ppsInAt : Option Nat := none
  tenAt : Option Nat := none
  ppsOut : Bool := false
  ppsAt : Nat := 0
  /-- The two adders of the time base have differed, and no Set has been made since (R390 detector 0). -/
  fault : Bool := false
  deriving DecidableEq, Repr

/-- An entry in a stream's buffer (R372, R373): its Stamp as full device time, cut to the quarter nanoseconds of a compact stamp; its
port; whether it was below the horizon on arrival; its bytes with Index 0; and for a gap entry that stands for one lost, the entries not
recorded (R390). -/
structure LedEnt where
  stamp : Nat
  port : Nat
  late : Bool
  bytes : List Byte
  lost : Nat := 0
  deriving DecidableEq, Repr

/-- A run of entries not recorded (R385). -/
structure LedGap where
  count : Nat
  first : Nat
  last : Nat
  refused : Bool
  error : Bool
  calGen : Nat
  quality : Nat
  deriving DecidableEq, Repr

/-- What a stream's hash unit does regardless of the horizon, in order, once a step, a disable or a fault has closed the epoch (R375,
R380, R390): chain an entry, with the losses it stands for, or close the epoch: extra flags, whether the run ends, the closing
time with CAL_GEN then, the start of the next epoch and its boundary. -/
inductive LedJob where
  | entry (bytes : List Byte) (lost : Nat)
  | close (flags : Nat) (fin : Bool) (stop calGen start bound : Nat)
  deriving DecidableEq, Repr

/-- A closed epoch whose seal is still to be signed (R376), with the entries of all runs that must have left for the host before
the seal. -/
structure SealReq where
  kind : Nat
  flags : Nat
  index : Nat
  start : Nat
  stop : Nat
  calGen : Nat
  first : Nat
  count : Nat
  lost : Nat
  key : Nat
  run : Nat
  chain : List Byte
  aux : List Byte
  after : Nat
  deriving DecidableEq, Repr

/-- A stream (R373 to R386). -/
structure Stream where
  active : Bool := false
  /-- Enable has been cleared, or a fault of TIM ends the run, and the final seal is still to be signed. -/
  ending : Bool := false
  /-- The current run and the number of the next. -/
  run : Nat := 0
  nextRun : Nat := 0
  h : List Byte := []
  /-- Entries chained in the run. -/
  index : Nat := 0
  jobs : List LedJob := []
  buf : List LedEnt := []
  /-- The buffer has been full and has not drained to 2,048 entries since; the run of entries not recorded meanwhile (R385). -/
  full : Bool := false
  gap : Option LedGap := none
  /-- The open epoch: its start, first index, lost count, flags, and the next boundary. -/
  start : Nat := 0
  first : Nat := 0
  lost : Nat := 0
  flags : Nat := 0
  bound : Nat := 0
  /-- Epochs closed and not yet signed; seals signed and not yet delivered, with the entries that go first; the SealIndex of the
  next seal. -/
  seals : List SealReq := []
  signed : List (Nat × List Byte) := []
  sealIndex : Nat := 0
  /-- SHA-384 of the last seal signed, of the run or of the previous run, and its SealIndex. -/
  prevSeal : List Byte := []
  lastIndex : Nat := 0
  key : Nat := 0
  /-- A rotation seal is still due (R384). -/
  rotate : Bool := false
  /-- Entries of all runs written to the staging ring, and delivered to the entry channel. -/
  put : Nat := 0
  got : Nat := 0
  deriving DecidableEq, Repr

/-- SDL: streams, the horizon while a frequency-change hold stops it, and after (R373); the cycles of the last anchor and of the
next periodic one; whether this boot's counter is committed (R381); the serial that a rotation in progress leads to (R384). -/
structure SdlSt where
  streams : Tab Stream := []
  holdAt : Option Nat := none
  holdEnd : Option (Nat × Nat) := none
  /-- The frequency-change holds since the last step, in device time: beginning and end (R375). -/
  holds : List (Nat × Option Nat) := []
  anchorAt : Option Nat := none
  anchorDue : Option Nat := none
  bootOk : Bool := false
  rotKey : Option Nat := none
  deriving DecidableEq, Repr



/-! ### SEC and its MRAM (19) -/

/-- The latest of a two-slot critical record (R503), and the one before it. -/
structure CritRec where
  slotA : Option LogEntry := none
  slotB : Option LogEntry := none
  /-- Slot written last: 0 A, 1 B. -/
  last : Nat := 1
  deriving DecidableEq, Repr

/-- MRAM: what survives every reset (R518). The factory region never changes and is in `Config`. -/
structure MramSt where
  /-- Customer key slots 1 to 4 (R214). -/
  keys : Tab KeySlot := []
  /-- Vendor, customer and firmware floors (R215, R513). -/
  vendorFloor : Nat := 0
  custFloor : Nat := 0
  fwFloor : Nat := 0
  /-- Microcode images stored in slots 0 to 7 (R515). -/
  images : Tab (List Byte) := []
  /-- The boot counter and the ring record that holds it (R381). -/
  boot : Nat := 0
  bootRec : Nat := 255
  /-- The two ANCHOR slots, and the slot written last: 0 A, 1 B (R382). -/
  anchorA : List Byte := []
  anchorB : List Byte := []
  anchorLast : Nat := 1
  /-- Ledger private keys by serial, the LEDGER_CERT history by serial, and the current serial, 0 before the first Dawn (R383,
  R384). -/
  ledgerKeys : Tab Nat := []
  ledgerCerts : Tab (List Byte) := []
  ledgerSerial : Nat := 0
  /-- The attestation private key, made in the first Dawn (R516). -/
  attest : Option Nat := none
  crit : CritRec := {}
  /-- The two PCFG slots, and the slot written last: 0 A, 1 B (R521). -/
  pcfgA : List Byte := []
  pcfgB : List Byte := []
  pcfgLast : Nat := 1
  deriving DecidableEq, Repr

/-- SEC: the CLK_CORE cycles of the last MRAM writes that R520 limits: 0 the security region, 1 the persistent configuration,
2 + n image slot n; whether the signing and verify engines have stopped (detector 1), and whether the TRNG tests fail (detector
2). -/
structure SecSt where
  wrote : Tab Nat := []
  stopped : Bool := false
  trngBad : Bool := false
  deriving DecidableEq, Repr



/-! ### HBM controllers (11) -/

/-- A request at a pseudo-channel (R309, R313 to R316): its client port and source there, its place in the order of issue, whether it
writes, its burst, whether it is an internal merge, the urgency that its source marks it with (0 background, 1 raised), whether it is
part of a read-modify-write of a slot, whether it is a repair write, the cycle it was accepted, and whether it has had its first
command, had its column command, been counted at urgency 3, and been counted as held by a Cap. A write that later reads see only
from its acceptance on carries its bytes by local address; a thread's read carries the result slot and local address that its data
goes to, or the source address of its NAT lookup; an HbmOut channel's read names the channel that takes the burst; `taken` says that the
client has taken the data already. -/
structure HbmReq where
  port : Nat
  src : Nat := 0
  ord : Nat := 0
  write : Bool
  t : Nat
  merge : Bool := false
  mark : Option Nat := none
  rmw : Bool := false
  repair : Bool := false
  at0 : Nat := 0
  act : Bool := false
  col : Bool := false
  urgent : Bool := false
  capped : Bool := false
  put : List (Nat × Byte) := []
  eng : Option (EngSrc × Nat) := none
  nat : Option Nat := none
  chan : Option Nat := none
  taken : Bool := false
  deriving DecidableEq, Repr

/-- A bank: its open row with the cycle that closes it, whether it is held open for a write-back, the row of its last access, and its
close predictor (R316). -/
structure HbmBank where
  row : Option Nat := none
  openTo : Option Nat := none
  held : Bool := false
  last : Option Nat := none
  pred : Nat := 2
  deriving DecidableEq, Repr

/-- A command to DRAM (R315). Banks are numbered SID × 16 + bank group × 4 + bank; `auto` is auto-precharge. -/
inductive DramCmd where
  | activate (bank row : Nat)
  | precharge (bank : Nat)
  | read (bank column : Nat) (auto : Bool)
  | write (bank column : Nat) (auto : Bool)
  deriving DecidableEq, Repr

/-- A pseudo-channel: requests at its ports not yet accepted, its queue, its banks, the command issued last, the end of a
refresh window, windows and ZQ latches so far, the last command's request with its retries, quarters (burst × 4 + quarter)
written with the check pattern of R331, quarters stored with injected errors and their patterns (R333), whether the Hot interval and
the derated timing set are in force (R321), and the calibration rows: the patterns written, by SID × 4 + bank group, and the bank
group that is next (R304, R323). -/
structure HbmPc where
  waiting : List HbmReq := []
  queue : List HbmReq := []
  banks : Tab HbmBank := []
  issued : Option DramCmd := none
  winEnd : Nat := 0
  windows : Nat := 0
  zq : Nat := 0
  lastCmd : Option HbmReq := none
  retries : Nat := 0
  bad : List Nat := []
  flips : Tab Nat := []
  hot : Bool := false
  derated : Bool := false
  cal : Tab Nat := []
  calNext : Nat := 0
  deriving DecidableEq, Repr

/-- Calibration of a byte lane (R322 to R324): signed values as numbers of their field's width. The main sampler, VREF and strobe; and
the shadow sampler: its phase offset plus 32, the samples it has taken, and its estimate of the read eye (left and right edge, centre,
width), with the VREF code that its sweep finds widest. -/
structure HbmLane where
  centre : Nat := 0
  width : Nat := 0
  vref : Nat := 0
  strobe : Nat := 0
  alarm : Bool := false
  phase : Nat := 0
  samples : Nat := 0
  left : Int := 0
  right : Int := 0
  mid : Int := 0
  widest : Nat := 0
  deriving DecidableEq, Repr

/-- A stack's controller: bytes accepted by port in the cap window, whether the stack is in self-refresh, the mapping in force
(R308), lanes, the calibration stored for each rate (rate × 256 + lane), the pseudo-channel that the scrubber reads next, and the
cycle in which its pass began. -/
structure HbmStack where
  capBytes : Tab Nat := []
  selfRef : Bool := false
  tableOrder : Nat := 0
  genOrder : Nat := 1
  lanes : Tab HbmLane := []
  stored : Tab HbmLane := []
  scrubPc : Nat := 0
  scrubAt : Nat := 0
  deriving DecidableEq, Repr

/-- The controllers: requests issued so far, pseudo-channels, stacks, and the frequency change: its start, the rate it leads to, and
the end of the last. -/
structure HbmSt where
  ord : Nat := 0
  pcs : Tab HbmPc := []
  stackTab : Tab HbmStack := []
  freqAt : Option Nat := none
  freqRate : Nat := 0
  freqEnd : Option Nat := none
  deriving DecidableEq, Repr




/-! ### Boot, monitor, sensors, SPDM (14, 19, 20) -/

/-- BOOT: the flash contents (R510; unlisted bytes are 0xFF, erased), the cycle of reset release, the recovery strap at it
(R511), whether a fault has stopped Dawn (R508), whether configuration requests are answered normally (R507), the flash operation in
progress with its address, the persistent configuration in force (R521), the digest of the firmware images accepted in this Dawn
(R412), the image store in progress (slot, image, result), and the record that a PCFG commit is writing. -/
structure BootSt where
  flash : Tab Nat := []
  relAt : Option Nat := none
  rcv : Bool := false
  stopped : Bool := false
  hostUp : Bool := false
  op : Option (Nat × Nat) := none
  pcfg : List Byte := []
  fwHash : List Byte := []
  storing : Option (Nat × List Byte × Nat) := none
  commit : Option (List Byte) := none
  deriving DecidableEq, Repr

/-- The monitor (R524 to R526): characters of the line so far, the line that has ended and not yet been carried out, whether the last
character was CR, what it prompts for (0 a command, 1 and 2 a password for Operate and Debug, 3 a confirmation), consecutive failed
logins with the end of a lockout and its length in seconds, the cycle of the last input, the baud index, the management cores it has
halted, and the cycle in which the soft reset it waits for began. -/
structure MonSt where
  line : List Byte := []
  ready : Option (List Byte) := none
  cr : Bool := false
  dp : Option Nat := none
  ask : Nat := 0
  fails : Nat := 0
  lockTo : Option Nat := none
  wait : Nat := 0
  inputAt : Nat := 0
  baud : Nat := 0
  halted : List Nat := []
  deriving DecidableEq, Repr

/-- TMP: readings of the 24 die sensors in 0.25 °C as numbers of 10 bits, the excluded sensors, and THERMTRIP# (R543, R544). -/
structure TmpSt where
  die : Tab Nat := []
  faulty : List Nat := []
  trip : Bool := false
  deriving DecidableEq, Repr

/-- The SPDM responder (R409, R410): how far negotiation has come (0 nothing, 1 VERSION, 2 CAPABILITIES, 3 ALGORITHMS), the
messages of negotiation, of digests and certificates, and of measurements, which signatures cover, and the response object in the
mailbox. -/
structure DoeSt where
  phase : Nat := 0
  msgA : List Byte := []
  msgB : List Byte := []
  msgM : List Byte := []
  resp : List Byte := []
  /-- DOE Interrupt Enable (R401). -/
  intOn : Bool := false
  deriving DecidableEq, Repr


/-- What the block hands to its surroundings, in order: read data, MSI-X messages, frames, host-memory accesses, UART
text, and pins. -/
inductive Out where
  /-- The answer to a read by a function (128: the monitor). -/
  | readData (fn : Nat) (data : List Byte)
  /-- A memory request completed with Unsupported Request (R396). -/
  | unsupported (fn : Nat)
  /-- A configuration request completed with Configuration Request Retry Status (R405, R507). -/
  | retryStatus (fn : Nat)
  /-- An MSI-X message (R401). -/
  | msix (fn vector addr data : Nat)
  /-- A frame sent on a port; stomped frames end with an inverted FCS (R78). -/
  | frame (port : Nat) (bytes : List Byte) (stomped : Bool)
  /-- A PAUSE or PFC frame, or other MAC output, is not generated by the block. A write to an endpoint of a DMA channel. -/
  | write (chan : Nat) (fn addr : Nat) (data : List Byte) (relaxed : Bool)
  /-- A read request of host memory: channel, function, address, length. -/
  | read (chan : Nat) (fn addr len : Nat)
  /-- A Cistern handle given, or a message handed, to a party by its tag (R445 to R447). -/
  | cistern (tag handle : Nat)
  /-- Text on the monitor UART. -/
  | uart (text : List Byte)
  /-- PPS_OUT, THERMTRIP#, or a SYNCE output changed level. -/
  | pin (name : String) (level : Bool)
  deriving DecidableEq, Repr

/-- Everything the block holds but HBM contents and the command queue. -/
structure Dev where
  /-- Register fields by bit address; an unlisted field is at its Reset value. For a staged field this is the staged
  value (R46). -/
  regs : Tab Nat := []
  /-- Active values of the staged register fields, and those of the previous generation (R47). -/
  act  : Tab Nat := []
  prev : Tab Nat := []
  /-- CLK_CORE cycles since cold reset. -/
  cyc  : Nat := 0
  /-- Device time in units of 2^−40 ns (R352), modulo 2^48 s. -/
  dt   : Nat := 0
  fab  : Fabric := {}
  evq  : EvqSt := {}
  err  : ErrSt := {}
  glb  : GlbSt := {}
  pmc  : PmcSt := {}
  /-- The cycle in which the main PLL locked: the record clock, the meter clock and shaper time start there (R107, R161,
  R284). -/
  pllAt : Option Nat := none
  ruus : Tab Ruu := []
  ftb  : FtbSt := {}
  tpl  : TplTable := {}
  tplPrev : TplTable := {}
  /-- Results on their way to flow-engine threads (R180). -/
  results : List EngResult := []
  pkts : Tab Pkt := []
  nextPid : Nat := 0
  /-- Writes staged and not yet committed, oldest first, and the mask bits of blocks with staging overflow (R46, R50). -/
  stg  : List StgEntry := []
  overflow : List Nat := []
  /-- How many of them, the latest, took effect in or after the act cycle of the armed commit (R51). -/
  stgLate : Nat := 0
  old  : OldCfg := {}
  /-- Work that one CLK_CORE cycle orders by a key (R86, R298): by kind, the cycle and the key of the last taken. -/
  turn : Tab (Nat × Nat) := []
  fwd  : Fwd := {}
  fwdPrev : Fwd := {}
  l2   : L2St := {}
  nat  : NatSt := {}
  acl  : AclSt := {}
  shw  : ShwSt := {}
  mtr  : MtrSt := {}
  bsn  : BasinSt := {}
  eg   : EgSt := {}
  /-- Short-table expansions in progress (R239), and the generation that made each host table entry active, by SHADOW_ENTRY
  table code and key (R256). -/
  expand : Nat := 0
  madeGen : List ((Nat × Nat) × Nat) := []
  dma  : DmaSt := {}
  cpm  : CpmSt := {}
  fsc  : FscSt := {}
  /-- Running threads by cluster × 256 + thread. -/
  threads : Tab Thread := []
  ucs  : Tab UcsSt := []
  load : Option LoadSt := none
  tim  : TimSt := {}
  sdl  : SdlSt := {}
  mram : MramSt := {}
  sec  : SecSt := {}
  hbc  : HbmSt := {}
  boot : BootSt := {}
  mon  : MonSt := {}
  tmp  : TmpSt := {}
  doe  : DoeSt := {}
  /-- What the block has handed to its surroundings, oldest first. -/
  out  : List Out := []
  /-- The model's own field: how many free values have been drawn. -/
  free : Nat := 0
  deriving DecidableEq, Repr

/-- The device with its HBM contents. -/
structure Chip where
  hbm : Mem
  dev : Dev
  deriving DecidableEq, Repr

/-- The machine: the commands that are waiting, first in first out, and the chip. -/
structure State where
  pending : List Instr
  chip : Chip
  deriving DecidableEq, Repr

/-- The Reset windows of TMP.VMON_WIN by rail: the rail's minimum and maximum of R534 in whole mV (R537). -/
def vmonWindows : List (Nat × Nat) :=
  [(1710, 1890), (1710, 1890), (1019, 1081), (728, 772), (735, 765), (735, 765), (728, 772), (728, 772), (1164, 1236)]

/-- The device as cold reset leaves it: every register field at its Reset value (R9, R25), nothing released, MRAM as it leaves the
factory. -/
def Dev.reset : Dev :=
  { regs := vmonWindows.zipIdx.flatMap fun (w : (Nat × Nat) × Nat) =>
      let a := ((blkRow .tmp).base + 0x260 + 4 * w.2) * 8
      [(a, w.1.1), (a + 16, w.1.2)] }

/-- The machine right after cold reset, PERST# still asserted (R25, R506): no command waits and HBM lists nothing. -/
def State.reset : State := { pending := [], chip := { hbm := [], dev := Dev.reset } }

end Sys2Proof.Machine
end

