-- ==== Sys2Proof/Machine/Ops.lean ====
section
/-! DEFINITION. The named operations every family uses: register fields, counters, interrupts and MSI-X, event-queue
posts, refusals, error reports, and device time. -/

namespace Sys2Proof.Machine

/-! ### Addresses and register fields -/

/-- BAR0 byte address of an instance (R29). -/
def Blk.base (b : Blk) (i : Nat) : Nat := (blkRow b).base + (blkRow b).stride * i

/-- First page index of an instance (R29). -/
def Blk.page (b : Blk) (i : Nat) : Nat := b.base i / 4096

/-- The bit address a field of an instance and element is held under. -/
def Fld.key (f : Fld) (i j : Nat) : Nat := (f.blk.base i + f.off + f.step * j) * 8 + f.lo

/-- The Reset value of an element of a field. -/
def Fld.reset (f : Fld) (j : Nat) : Nat := f.rst + f.rstStep * j

/-- The value of a register field of instance `i`, element `j`. -/
def Dev.get (d : Dev) (f : Fld) (i : Nat := 0) (j : Nat := 0) : Nat := Tab.get (f.reset j) d.regs (f.key i j)

/-- Whether a one-bit field is 1. -/
def Dev.flag (d : Dev) (f : Fld) (i : Nat := 0) (j : Nat := 0) : Bool := d.get f i j != 0

/-- The device with a register field set, cut to its width. -/
def Dev.set (d : Dev) (f : Fld) (v : Nat) (i : Nat := 0) (j : Nat := 0) : Dev :=
  { d with regs := Tab.put (f.reset j) d.regs (f.key i j) (v % 2 ^ f.w) }

/-- The device with `n` added to a counting field, wrapping at its width. -/
def Dev.bump (d : Dev) (f : Fld) (n : Nat := 1) (i : Nat := 0) (j : Nat := 0) : Dev := d.set f (d.get f i j + n) i j

/-- The device with `n` added to a field that stops at its largest value. -/
def Dev.bumpSat (d : Dev) (f : Fld) (n : Nat := 1) (i : Nat := 0) (j : Nat := 0) : Dev :=
  d.set f (min (d.get f i j + n) (2 ^ f.w - 1)) i j

/-- The device with a high-water field raised to at least `v`. -/
def Dev.raise (d : Dev) (f : Fld) (v : Nat) (i : Nat := 0) (j : Nat := 0) : Dev :=
  if d.get f i j < v then d.set f v i j else d

/-- The active value of a staged register field (R46). -/
def Dev.cfg (d : Dev) (f : Fld) (i : Nat := 0) (j : Nat := 0) : Nat := Tab.get (f.reset j) d.act (f.key i j)

/-- The active value of a staged field in a packet's generation. -/
def Dev.cfgOf (d : Dev) (gen : Nat) (f : Fld) (i : Nat := 0) (j : Nat := 0) : Nat :=
  if gen = d.get GLB.COMMIT_STAT.Gen then d.cfg f i j else Tab.get (f.reset j) d.prev (f.key i j)

/-- What the block hands out. -/
def Dev.emit (d : Dev) (o : Out) : Dev := { d with out := d.out ++ [o] }

/-- One free 32-bit value and the device with the draw counted. -/
def Dev.draw32 (d : Dev) : Nat × Dev := ((Config.trng d.free).toNat, { d with free := d.free + 1 })

/-- `n` 32-bit draws as one number, first draw lowest. -/
def Dev.draw : Nat → Dev → Nat × Dev
  | 0, d => (0, d)
  | n + 1, d =>
    let (a, d) := d.draw32
    let (b, d) := Dev.draw n d
    (a + 2 ^ 32 * b, d)

/-- Whether a block has been released by Dawn and its instance is not in reset: `STAT.ResetActive` is 0 (R35, R507). -/
def Dev.live (d : Dev) (b : Blk) (i : Nat := 0) : Bool :=
  d.fab.released.contains b && !d.fab.inReset.contains (b.page i)

/-- Whether the instance accepts new work: live, enabled, and not quiesced (R34, R36). -/
def Dev.accepts (d : Dev) (b : Blk) (i : Nat := 0) : Bool :=
  d.live b i && d.flag (HDR.CTL.Enable b) i && !d.flag (HDR.CTL.QuiesceReq b) i

/-! ### Device time -/

/-- Units of 2^−40 ns in a second. -/
def secUnits : Nat := 1000000000 * 2 ^ 40

/-- TAI seconds of a device time. -/
def dtSec (t : Nat) : Nat := t / secUnits

/-- Nanoseconds within the second. -/
def dtNs (t : Nat) : Nat := t % secUnits / 2 ^ 40

/-- The fraction of a nanosecond in units of 2^−16 ns (R352). -/
def dtFrac (t : Nat) : Nat := t % 2 ^ 40 / 2 ^ 24

/-- The compact stamp of a device time (R361). -/
def compact (t : Nat) : Nat := dtSec t % 2 ^ 32 * 2 ^ 32 + dtNs t * 4 + t % 2 ^ 40 / 2 ^ 38

/-- A device time from seconds and nanoseconds. -/
def dtOf (sec ns : Nat) : Nat := sec * secUnits + ns * 2 ^ 40

/-- Device time wraps at 2^48 seconds (R352). -/
def dtWrap (t : Nat) : Nat := t % (2 ^ 48 * secUnits)

/-- A device time cut to quarter nanoseconds, as a compact stamp shows it (R361). -/
def dtQuarter (t : Nat) : Nat := t / 2 ^ 38 * 2 ^ 38

/-- A device time less an amount. -/
def dtLess (t n : Nat) : Nat := dtWrap (t + 2 ^ 48 * secUnits - dtWrap n)

/-- Nanoseconds as device-time units. -/
def nsU (n : Nat) : Nat := n * 2 ^ 40

/-- CLK_CORE cycles in `n` nanoseconds, at 0.8 ns a cycle, rounded up (R19). -/
def nsCyc (n : Nat) : Nat := ceilDiv (n * 5) 4

/-! ### Counters (R472 to R474) -/

/-- A counter of a page's bank. -/
def Dev.ctr (d : Dev) (page k : Nat) : Ctr := Tab.get {} d.fab.ctr (page * 16 + k)

/-- The device with a counter of a page's bank replaced. -/
def Dev.setCtr (d : Dev) (page k : Nat) (c : Ctr) : Dev :=
  { d with fab := { d.fab with ctr := Tab.put {} d.fab.ctr (page * 16 + k) c } }

/-- The alarm value of R473 for an edge event; `none` where Threshold is 0. -/
def alarmValue (t : Nat) : Option Nat :=
  if t = 0 then none else some (t % 4096 * 2 ^ (4 * (t / 4096)))

/-- One counter of instance `i` counts `n` occurrences of event `code` (R472 to R474); the Boolean says that
`IRQ_STATUS.Counter` must be set. `level` says the event is a level event, which has no alarm. -/
def Dev.ctrStep (d : Dev) (b : Blk) (i code n : Nat) (level : Bool) (k : Nat) : Dev × Bool :=
  if (k % 2 = 1 ∧ d.flag (HDR.CSEL.Chain b) i (k - 1)) ∨ !d.flag (HDR.CSEL.Enable b) i k
      ∨ d.get (HDR.CSEL.Event b) i k ≠ code ∨ n = 0 then (d, false)
  else
    let p := b.page i
    let c := d.ctr p k
    let pair := k % 2 = 0 ∧ d.flag (HDR.CSEL.Chain b) i k
    let hi := d.ctr p (k + 1)
    let old := if pair then c.value + 2 ^ 48 * hi.value else c.value
    let new := old + n
    let top := if pair then 2 ^ 96 else 2 ^ 48
    let wrapped := decide (top ≤ new)
    let alarm := !level && match alarmValue (d.get (HDR.CSEL.Threshold b) i k) with
      | none => false
      | some a => decide (old < a ∧ a ≤ new)
    let d := d.setCtr p k ⟨new % 2 ^ 48, c.wrap || decide (2 ^ 48 ≤ c.value + n)⟩
    let d := if pair then d.setCtr p (k + 1) ⟨new % top / 2 ^ 48, hi.wrap || wrapped⟩ else d
    (d, alarm || wrapped)

/-- The bank of an instance counts `n` occurrences of event `code`, counter by counter. -/
def Dev.ctrAdd (d : Dev) (b : Blk) (i code n : Nat) (level : Bool := false) : Dev × Bool :=
  (List.range 16).foldl (fun (p : Dev × Bool) k =>
    let (d, a) := p.1.ctrStep b i code n level k
    (d, p.2 || a)) (d, false)

/-! ### Interrupts (R53 to R56) -/

/-- The summary of a page: IRQ_STATUS AND IRQ_ENABLE over bits [29:0] and [31] (R53). -/
def Dev.summary (d : Dev) (b : Blk) (i : Nat) : Bool :=
  (d.get (HDR.IRQ_STATUS b) i &&& d.get (HDR.IRQ_ENABLE b) i) &&& 0xBFFFFFFF != 0

/-- A function's block-side configuration state. Function 128, the monitor, is not a PCIe function. -/
def Dev.fn (d : Dev) (f : Nat) : Fn := Tab.get {} d.fab.fns f

/-- The device with a function's state replaced. -/
def Dev.setFn (d : Dev) (f : Nat) (x : Fn) : Dev := { d with fab := { d.fab with fns := Tab.put {} d.fab.fns f x } }

/-- An MSI-X table entry. -/
def Dev.vec (d : Dev) (f v : Nat) : MsixVec := Tab.get {} d.fab.msix (f * 2048 + v)

/-- The device with an MSI-X table entry replaced. -/
def Dev.setVec (d : Dev) (f v : Nat) (x : MsixVec) : Dev :=
  { d with fab := { d.fab with msix := Tab.put {} d.fab.msix (f * 2048 + v) x } }

/-- Status bits set in a page, with IRQ_FIRST taking the lowest of them while its Valid is 0 (R34, R56). -/
def Dev.orStatus (d : Dev) (b : Blk) (i m : Nat) (forced : Bool) : Dev :=
  let d1 := d.set (HDR.IRQ_STATUS b) (d.get (HDR.IRQ_STATUS b) i ||| m) i
  if m % 2 ^ 32 = 0 ∨ d.flag (HDR.IRQ_FIRST.Valid b) i then d1
  else
    let low := ((List.range 32).find? (fun k => bit m k)).getD 0
    ((d1.set (HDR.IRQ_FIRST.Bit b) low i).set (HDR.IRQ_FIRST.Forced b) (b2n forced) i).set (HDR.IRQ_FIRST.Valid b) 1 i

/-- One MSI-X message of a function's vector is sent, or held pending while the vector or the function is masked or Bus
Master Enable is 0 (R54, R396, R401). Counting the message may set HIF's own Counter bit and so signal HIF's page; the
fuel bounds that, since a page signals only when its summary rises. -/
def Dev.sendMsix : Nat → Dev → Nat → Nat → Dev
  | 0, d, f, v =>
    let e := d.vec f v
    d.emit (.msix f v e.addr e.data)
  | k + 1, d, f, v =>
    let e := d.vec f v
    if e.mask || (d.fn f).fmask || !(d.fn f).bme then d.setVec f v { e with pend := true }
    else
      let d := (d.emit (.msix f v e.addr e.data)).setVec f v { e with pend := false }
      let (d, a) := d.ctrAdd .hif 0 0x1B1 1
      if a then
        let was := d.summary .hif 0
        let d := d.orStatus .hif 0 0x80000000 false
        let r := Tab.get {} d.fab.routes (Blk.hif.page 0)
        if !was && d.summary .hif 0 && r.enable then Dev.sendMsix k d (d.get (HDR.OWNER.Function .hif)) r.vector else d
      else d

/-- A page signals the vector of its route at its owner (R53, R55). -/
def Dev.signal (d : Dev) (b : Blk) (i : Nat) : Dev :=
  let r := Tab.get {} d.fab.routes (b.page i)
  if r.enable then Dev.sendMsix 2 d (d.get (HDR.OWNER.Function b) i) r.vector else d

/-- Status bits are set in a page; the page signals when its summary changes from 0 to 1 (R54). -/
def Dev.raiseIrq (d : Dev) (b : Blk) (i m : Nat) (forced : Bool := false) : Dev :=
  let was := d.summary b i
  let d := d.orStatus b i m forced
  if !was && d.summary b i then d.signal b i else d

/-- Block event bit `e` of a page is set. -/
def Dev.event (d : Dev) (b : Blk) (i e : Nat) : Dev := d.raiseIrq b i (2 ^ e)

/-- A bank counts `n` occurrences of an event code and raises its Counter bit where R473 or R474 says so. -/
def Dev.count (d : Dev) (b : Blk) (i code : Nat) (n : Nat := 1) : Dev :=
  let (d, a) := d.ctrAdd b i code n
  if a then d.raiseIrq b i 0x80000000 else d

/-- Each counter of event `code` whose Threshold, in units of `unit`, the occupancy `occ` reaches adds `n`. -/
def Dev.countAt (d : Dev) (b : Blk) (i code occ unit n : Nat) (level : Bool) : Dev :=
  let (d, a) := (List.range 16).foldl (fun (p : Dev × Bool) k =>
    if p.1.get (HDR.CSEL.Threshold b) i k * unit ≤ occ then
      let (d, a) := p.1.ctrStep b i code n level k
      (d, p.2 || a)
    else p) (d, false)
  if a then d.raiseIrq b i 0x80000000 else d

/-! ### Event queue posts (R455 to R465) -/

/-- An event queue. -/
def Dev.queue (d : Dev) (q : Nat) : EvQueue := Tab.get {} d.evq.queues q

/-- The device with an event queue replaced. -/
def Dev.setQueue (d : Dev) (q : Nat) (x : EvQueue) : Dev :=
  { d with evq := { d.evq with queues := Tab.put {} d.evq.queues q x } }

/-- Words a packet takes: header and payload. -/
def EvPkt.words (p : EvPkt) : Nat := 1 + p.items

/-- Words of a queue's memory: 64 × 2^SizeCode (R453). -/
def Dev.queueSize (d : Dev) (q : Nat) : Nat := 64 * 2 ^ d.get EVQ.QMEM.SizeCode 0 q

/-- Words reserved or held in a queue. -/
def EvQueue.fill (x : EvQueue) : Nat := (x.pkts.map EvPkt.words).foldl (· + ·) 0

/-- Complete packets held in a queue that a reader can reach in reservation order. -/
def EvQueue.held (x : EvQueue) : List EvPkt := x.pkts.takeWhile (·.complete)

/-- Complete packets of a queue, in reservation order: those that PKTS counts (R465, R469). -/
def EvQueue.complete (x : EvQueue) : List EvPkt := x.pkts.filter (·.complete)

/-- The first packet at the read pointer is read with Lost = 1 after an overwrite (R458). -/
def EvQueue.markLost (x : EvQueue) : EvQueue :=
  match x.pkts with
  | [] => x
  | p :: t => { x with pkts := (if x.lostNext then { p with lost := true } else p) :: t, lostNext := false }

/-- Discard complete packets from the read pointer until `need` words are free; fuel is the packet count (R458). -/
def EvQueue.overwrite (size need : Nat) : Nat → EvQueue → EvQueue × List EvPkt
  | 0, x => (x, [])
  | k + 1, x =>
    if x.fill + need ≤ size then (x, [])
    else match x.pkts with
      | [] => (x, [])
      | p :: t =>
        let (y, l) := EvQueue.overwrite size need k { x with pkts := t, lostNext := true }
        (y, p :: l)

/-- A refused post: it counts in REFUSED with its reason and sets the Refused event bit (R457). -/
def Dev.refusePost (d : Dev) (q reason : Nat) : Dev :=
  let d := (d.bump EVP.REFUSED.Count 1 q).set EVP.REFUSED.Reason reason q
  ((d.event .evp q 3).count .evp q 0x1E2).count .evq 0 0x1E2

/-- Reservations of the instance with first page index `w` that are not complete, over all queues. -/
def Dev.openPosts (d : Dev) (w : Nat) : Nat :=
  (d.evq.queues.map fun (e : Nat × EvQueue) => (e.2.pkts.filter fun p => p.writer = w && !p.complete).length).foldl (· + ·) 0

/-- A post reserves its words at the tail and takes the next Seq, or is refused (R456 to R458): as NoRoom where the complete packets ahead of
the first incomplete one do not free enough words; as Disabled also while CTL of the queue or
of EVQ stops new work (R34, R36; DEDUCED, log entry 16). `owner` is the function
the post requires as the queue's owner, where it requires one. The answer is the Seq reserved. -/
def Dev.reserve (d : Dev) (src : Blk) (inst typ q n : Nat) (owner : Option Nat := none) : Dev × Option Nat :=
  let x := d.queue q
  let w := src.page inst
  let foreign := match owner with
    | none => false
    | some f => d.get (HDR.OWNER.Function .evp) q != f
  if !d.flag EVP.CFG.Enable q || !d.accepts .evp q || !d.accepts .evq then (d.refusePost q 1, none)
  else if foreign then (d.refusePost q 2, none)
  else
    let size := d.queueSize q
    let old := (x.held.map EvPkt.words).foldl (· + ·) 0
    if size < 1 + n ∨ size + old < x.fill + (1 + n) then ((d.setQueue q { x with tried := some d.cyc }).refusePost q 3, none)
    else if 64 ≤ d.openPosts w then (d.refusePost q 4, none)
    else
      let (y, gone) := EvQueue.overwrite size (1 + n) x.pkts.length x
      let d := if gone.isEmpty then d else
        let items := (gone.map (·.items)).foldl (· + ·) 0
        let d := (d.bump EVP.LOST.Items items q).bump EVP.LOST_PKTS.Packets gone.length q
        ((d.event .evp q 1).count .evp q 0x1E3 gone.length).count .evq 0 0x1E3 gone.length
      let p : EvPkt :=
        { items := n, typ := typ, src := (blkRow src).type % 256, seq := y.nextSeq,
          payload := List.replicate n 0, at0 := d.cyc, writer := w }
      let y := { y with pkts := y.pkts ++ [p], nextSeq := (y.nextSeq + 1) % 65536, tried := some d.cyc }
      (d.setQueue q y.markLost, some p.seq)

/-- Ready is set when a completion leaves at least NotifyPkts complete packets (R465). -/
def Dev.notify (d : Dev) (q : Nat) : Dev :=
  if max 1 (d.get EVP.CFG.NotifyPkts q) ≤ (d.queue q).complete.length then d.event .evp q 0 else d

/-- The reservation with the given Seq is completed: payload, then header (R456). Where EVQ has completed it already, its writer's words
are discarded and counted (R460; no register or event code shows the count, log entry 59). -/
def Dev.complete (d : Dev) (q seq : Nat) (payload : List Nat) (void : Bool := false) : Dev :=
  let x := d.queue q
  match x.pkts.find? fun p => p.seq = seq && !p.complete with
  | none => { d with evq := { d.evq with late := d.evq.late + 1 } }
  | some p =>
    let p' := { p with complete := true, void := void, postTime := dtNs d.dt / 2 ^ 10 % 2 ^ 16, at1 := d.cyc,
                       payload := if void then List.replicate p.items 0 else (payload.take p.items) }
    let d := d.setQueue q { x with pkts := x.pkts.map fun e => if e.seq = seq && !e.complete then p' else e }
    let d := ((d.count .evp q 0x1E0).count .evq 0 0x1E0)
    let d := ((d.count .evp q 0x1E1 (1 + p.items)).count .evq 0 0x1E1 (1 + p.items))
    d.notify q

/-- A block's own post: reservation, payload and header in one step of the model. -/
def Dev.post (d : Dev) (src : Blk) (inst typ q : Nat) (items : List Nat) (owner : Option Nat := none) : Dev :=
  match d.reserve src inst typ q items.length owner with
  | (d, none) => d
  | (d, some seq) => d.complete q seq items

/-- A post to the system queue of `EVQ.CFG.SysQueue` (R467). -/
def Dev.postSys (d : Dev) (src : Blk) (inst typ : Nat) (items : List Nat) : Dev :=
  d.post src inst typ (d.get EVQ.CFG.SysQueue) items

/-! ### Entries for DMA Stream channels (R416, R426, R429) -/

/-- A DMA channel. -/
def Dev.chan (d : Dev) (c : Nat) : DmaChan := Tab.get {} d.dma.chans c

/-- The device with a DMA channel replaced. -/
def Dev.setChan (d : Dev) (c : Nat) (x : DmaChan) : Dev := { d with dma := { d.dma with chans := Tab.put {} d.dma.chans c x } }

/-- The level of a channel is above 0 from now on, where it was not before (R427). -/
def Dev.touchLevel (d : Dev) (c : Nat) : Dev :=
  let x := d.chan c
  d.setChan c { x with since := x.since.orElse fun _ => some d.cyc }

/-- An entry waits at its source for a Stream channel. -/
def Dev.streamPut (d : Dev) (c : Nat) (bytes : List Byte) : Dev :=
  let x := d.chan c
  (d.setChan c { x with stream := x.stream ++ [bytes] }).touchLevel c

/-- Whether a Stream channel has room for a source's next entry: it is bound to Stream, runs, is not halted, has descriptors
or credit, and fewer bytes wait than one burst (log entry 30). -/
def Dev.streamRoom (d : Dev) (c : Nat) : Bool :=
  let x := d.chan c
  d.get DMA.BIND.Endpoint 0 c == 9 && (d.get DCH.STAT.State c == 1 || d.get DCH.STAT.State c == 2) &&
    (d.get DCH.STAT.Credit c != 0 || !x.descs.isEmpty) &&
    decide ((x.stream.map List.length).foldl (· + ·) 0 < d.get DCH.BURST.Bytes c)

/-! ### Refusals of the fabric (R32, R40) -/

/-- A discarded write, a read answered with 0, or a reserved access is counted in BAR_MISS_CNT (R32). -/
def Dev.miss (d : Dev) : Dev := d.bump HIF.BAR_MISS_CNT.Count

/-- A refused access is counted in VF_DENY_CNT, recorded and posted (R40). The monitor's refusals carry function 0. -/
def Dev.deny (d : Dev) (f : Nat) (bar2 : Bool) (off : Nat) : Dev :=
  let f := if f = 128 then 0 else f
  let d := ((d.bump HIF.VF_DENY_CNT.Count).set HIF.DENY_LAST_FN.Function f).set HIF.DENY_LAST_ADDR.Address off
  d.postSys .hif 0 1 [f + 2 ^ 7 * b2n bar2 + 2 ^ 8 * off]

/-- Whether the function's memory requests are served: the monitor always; PF0 and the VFs in force in D0 with Memory
Space Enable set (VF MSE for VFs) and no FLR in progress (R392, R396, R397, R405). -/
def Dev.reachable (d : Dev) (f : Nat) : Bool :=
  f = 128 || (let x := d.fn f
              !x.d3 && !x.flr && (if f = 0 then x.mse else f < 128 && d.fab.vfMse && d.fab.vfEnable && f ≤ d.fab.numVfs))

/-- Whether the function has PF0's permissions: PF0 itself, and the monitor (R528). -/
def isPf (f : Nat) : Bool := f = 0 || f = 128

/-- A memory request of a function is counted (R415); the monitor's are none. -/
def Dev.request (d : Dev) (f : Nat) : Dev := if f = 128 then d else d.count .hif 0 0x1B0

/-- A PF0-only write of a block register at offset `off` of an instance: answered with Unsupported Request where the
function is not reachable, counted as a miss while the instance is in reset (R35), refused for a VF (R39, R40), and
otherwise carried out, the run's WriteSeq advancing (R34). -/
def Dev.gate (d : Dev) (f : Nat) (b : Blk) (i off : Nat) (k : Dev → Dev) : Dev :=
  let d := d.request f
  if !d.reachable f then d.emit (.unsupported f)
  else if !d.live b i && 0x200 ≤ off then d.miss
  else if !isPf f then d.deny f false (b.base i + off)
  else
    let d := d.bump (HDR.FENCE.WriteSeq b) 1 i
    k d

/-- The device as a register write of a run finds it once the fabric has let it through: the request is counted (R415) and the run's
WriteSeq has advanced (R34). -/
def Dev.opened (d : Dev) (f : Nat) (b : Blk) (i : Nat) : Dev := (d.request f).bump (HDR.FENCE.WriteSeq b) 1 i

/-- As `Dev.gate`, for a register of an assignable page: the page's owner may write too (R39). -/
def Dev.gateOwn (d : Dev) (f : Nat) (b : Blk) (i off : Nat) (k : Dev → Dev) : Dev :=
  let d := d.request f
  if !d.reachable f then d.emit (.unsupported f)
  else if !d.live b i && 0x200 ≤ off then d.miss
  else if !isPf f && d.get (HDR.OWNER.Function b) i != f then d.deny f false (b.base i + off)
  else
    let d := d.bump (HDR.FENCE.WriteSeq b) 1 i
    k d

/-- A read of a block register by the page's owner or PF0 (R39): Unsupported Request where the function is not reachable,
refused with 0 for another VF (R40), 0 and a miss while the instance is in reset (R35). -/
def Dev.readOwn (d : Dev) (f : Nat) (b : Blk) (i off len : Nat) (k : Dev → Dev × Nat) : Dev :=
  let d := d.request f
  let zero := List.replicate len (0 : Byte)
  if !d.reachable f then d.emit (.unsupported f)
  else if !d.live b i && 0x200 ≤ off then (d.miss).emit (.readData f zero)
  else if !isPf f && d.get (HDR.OWNER.Function b) i != f then (d.deny f false (b.base i + off)).emit (.readData f zero)
  else
    let (d, v) := k d
    d.emit (.readData f (toLE len v))

/-- A doorbell write to window `w` of BAR2, at an offset of it (R33): a VF reaches its own window only; windows above 127 are
reserved; the owner of the window must own the page. -/
def Dev.doorbell (d : Dev) (f w : Nat) (b : Blk) (i off : Nat) (k : Dev → Dev) : Dev :=
  let w := if f = 0 then w else f
  if f = 128 ∨ !d.reachable f then d.emit (.unsupported f)
  else if 128 ≤ w ∨ (blkRow b).inst ≤ i then d.miss
  else if d.get (HDR.OWNER.Function b) i ≠ w then d.deny f true (w * 4096 + off)
  else k d

/-! ### Error reports (R34, R493, R502) -/

/-- ERR signals a severity class on its vector of PF0 (R493). -/
def Dev.signalClass (d : Dev) (cls : Nat) : Dev :=
  if d.flag ERR.SEV_VEC.Enable 0 cls then Dev.sendMsix 2 d 0 (d.get ERR.SEV_VEC.Vector 0 cls) else d

/-- A report enters ERR's log, merged into an entry of the same page and detector within 1 ms for class 0, and is
counted and signalled by its class (R493, R502). The answer tells whether a new entry was made. -/
def Dev.logReport (d : Dev) (b : Blk) (i det cls addr : Nat) (injected forced : Bool) (action : Nat := 0) : Dev :=
  let page := b.page i
  let same := fun (e : LogEntry) => e.page = page && e.det = det && e.cls = 0
  let recent := fun (e : LogEntry) =>
    decide (compact d.dt / 2 ^ 32 * 1000000000 + compact d.dt % 2 ^ 32 / 4
      < e.time / 2 ^ 32 * 1000000000 + e.time % 2 ^ 32 / 4 + 1000000)
  let d := if cls = 0 && d.err.log.any (fun e => same e && recent e) then
      let merged := d.err.log.map fun e => if same e && recent e then { e with repeats := e.repeats + 1 } else e
      { d with err := { d.err with log := merged } }
    else
      let seq := d.get ERR.LOG_HEAD.Seq
      let e : LogEntry :=
        { time := compact d.dt, secHi := dtSec d.dt / 2 ^ 32, page := page, det := det, cls := cls,
          injected := injected, forced := forced, seq := seq, addr := addr, action := action }
      let full := 512 ≤ d.err.log.length
      let d := { d with err := { d.err with log := (if full then d.err.log.drop 1 else d.err.log) ++ [e] } }
      let d := if full then d.bump ERR.LOG_LOST.Count else d
      d.set ERR.LOG_HEAD.Seq (seq + 1)
  let d := d.bump ERR.CLASS_CNT.Count 1 0 cls
  let d := d.count .err 0 0x210
  let d := if injected then d.count .err 0 0x213 else d
  d.signalClass cls

/-- The page-level view of a report: ERR_ADDR, ERR_COUNT with LastDetector, and the Detect bit (R34). -/
def Dev.pageReport (d : Dev) (b : Blk) (i det addr : Nat) : Dev :=
  let d := (d.set (HDR.ERR_ADDR.Addr b) addr i).bumpSat (HDR.ERR_COUNT.Count b) 1 i
  (d.set (HDR.ERR_COUNT.LastDetector b) det i).orStatus b i 0x40000000 false

end Sys2Proof.Machine
end

