-- ==== Sys2Proof/Machine/Level.lean ====
section
/-! DEFINITION. Counter events that are counted by the cycle (R472): occupancies that the level events of the chapters measure, and
the counting of the cycles that pass. -/

namespace Sys2Proof.Machine

/-! ### Places of instances -/

/-- The block, instance and offset of a BAR0 byte address (R29, R30). -/
def locate (a : Nat) : Option (Blk × Nat × Nat) :=
  blkTable.findSome? fun (r : BlkRow) =>
    let step := if r.stride = 0 then 4096 * r.pages else r.stride
    if r.base ≤ a ∧ a < r.base + step * r.inst ∧ (a - r.base) % step < 4096 * r.pages then
      some (r.blk, (a - r.base) / step, (a - r.base) % step)
    else none

/-- The block and instance whose first page has a page index. -/
def pageBlk (p : Nat) : Option (Blk × Nat) :=
  match locate (p * 4096) with
  | some (b, i, 0) => some (b, i)
  | _ => none

/-- The slice a port belongs to, on ingress and on egress (R13, R280). -/
def portSlice (p : Nat) : Nat := if p < 128 then p / 16 else if p = 128 then 0 else if p = 129 then 4 else p - 130

/-! ### Occupancies -/

/-- Free cells of Basin. -/
def Dev.freeCells (d : Dev) : Nat := 786432 - d.bsn.cells - d.bsn.withdrawn

/-- Punt entries in use. -/
def Dev.fscUsed (d : Dev) : Nat := (d.fsc.levels.map fun (e : Nat × List FscEntry) => e.2.length).foldl (· + ·) 0

/-- Number of buffers of a pool (R443). -/
def poolCount : Nat → Nat
  | 0 => 32768
  | 1 => 8192
  | 2 => 2048
  | _ => 409

/-- Free buffers of a pool: those not held and not withdrawn. -/
def Dev.poolFree' (d : Dev) (p : Nat) : Nat :=
  poolCount p - (d.cpm.bufs.filter fun e => e.1 / 65536 == p && (e.2.held || e.2.gone)).length

/-- A microcode store, its banks by number, and the active one (R198, R200). -/
def Dev.store (d : Dev) (c : Nat) : UcsSt := Tab.get {} d.ucs c
def Dev.setStore (d : Dev) (c : Nat) (x : UcsSt) : Dev := { d with ucs := Tab.put {} d.ucs c x }
def UcsSt.bank (x : UcsSt) (b : Nat) : Bank := if b = 0 then x.a else x.b
def Dev.activeBank (d : Dev) (c : Nat) : Nat := d.get UCS.STAT.ActiveBank c

/-- A microword of a bank; words that nothing has loaded read 0 (log entry 41). -/
def Dev.microword (d : Dev) (c b a : Nat) : Nat := Tab.get 0 ((d.store c).bank b).words a

/-- The result slots a word uses: the one it loads from and the one its request names. -/
def wordSlots (w : Nat) : List Nat :=
  let cop := bits w 76 3
  let op := bits w 97 4
  (if (cop == 1 || cop == 3) && bits w 79 3 == 3 then [bits w 82 9 / 16] else []) ++
    (if op != 0 && decide (op ≤ 7) then [bits w 105 4] else [])

/-- Threads of a cluster that wait for a result slot their next word uses; one at a safe point waits for its seal. -/
def Dev.slotWaits (d : Dev) (c : Nat) : Nat :=
  (d.threads.filter fun (e : Nat × Thread) => e.1 / 256 == c && e.2.sealing.isNone &&
    (wordSlots (d.microword c e.2.bank e.2.pc)).any e.2.wait.contains).length

/-- The longest pause still to run of a queue of an egress slice, in CLK_CORE cycles. -/
def Dev.pauseLeft (d : Dev) (slice : Nat) : Nat :=
  (d.eg.queues.map fun (e : Nat × EgQueue) =>
    if portSlice (e.1 / 16) = slice then (e.2.pauseTo.getD 0) - d.cyc else 0).foldl max 0

/-- The longest queue of a stack's pseudo-channels. -/
def Dev.hbmDepth (d : Dev) (k : Nat) : Nat :=
  (d.hbc.pcs.map fun (e : Nat × HbmPc) => if e.1 / 64 = k then e.2.queue.length else 0).foldl max 0

/-! ### Cycles (R19, R472) -/

/-- Cycles of a clock of `num` ÷ `den` times the frequency of CLK_CORE that end in the `n` CLK_CORE cycles from cycle `c`. -/
def ticks (num den c n : Nat) : Nat := (c + n) * num / den - c * num / den

/-- CLK_MEM in MHz at a rate (R304). -/
def memMHz : Nat → Nat
  | 1 => 800
  | 2 => 600
  | _ => 1000

/-- What an event counted by the cycle adds in the `n` CLK_CORE cycles that begin now, for a counter of instance `i` with a
Threshold of `t`, and whether it is a level event; `none` for every other code. The entries with "below" or without a Threshold are
edge events by the words of R472. -/
def Dev.cycleEvent (d : Dev) (b : Blk) (i code t n : Nat) : Option (Nat × Bool) :=
  let lvl := fun (on : Bool) (k : Nat) => some (if on then k else 0, true)
  let edge := fun (on : Bool) (k : Nat) => some (if on then k else 0, false)
  let fe := ticks 4 3 d.cyc n
  let mgmt := ticks 8 25 d.cyc n
  match b, code with
  | .adm, 0x023 => lvl (decide (t ≤ d.bsn.shared)) n
  | .bsn, 0x030 => edge (decide (d.freeCells < t)) n
  | .rsq, 0x055 => lvl (decide (t ≤ d.get RSQ.STAT.Used i)) n
  | .ftb, 0x07A => lvl (decide (t * 2 ^ 14 ≤ d.get FTB.RECORDS.Records)) n
  | .ruu, 0x08F => lvl (decide (t ≤ d.get RUU.QSTAT.Used i)) n
  | .fsc, 0x0C3 => lvl (decide (t ≤ d.fscUsed)) n
  | .fen, 0x0DF => edge true (d.slotWaits i * fe)
  | .ucs, 0x0E6 => edge (d.flag UCS.STAT.Draining i) fe
  | .egs, 0x136 => edge true (min n (d.pauseLeft i))
  | .egs, 0x137 => lvl (decide (t ≤ (Tab.get [] d.eg.wheel i).length)) n
  | .hbc, 0x15E => lvl (decide (t ≤ d.hbmDepth i)) (ticks (memMHz (d.get HBC.FREQ_STAT.Current)) 1250 d.cyc n)
  | .sdl, 0x1A3 => lvl ((List.range 16).any fun k => decide (t ≤ d.get SDL.STREAM_STAT.Fill 0 k)) n
  | .hif, 0x1B5 => lvl (decide (t ≤ d.get HIF.TAGS.InUse)) mgmt
  | .dma, 0x1C8 => lvl (decide (t ≤ d.get DMA.STG_STAT.ReadUsed + d.get DMA.STG_STAT.WriteUsed)) n
  | .dch, 0x1C8 =>
    let x : DmaChan := Tab.get {} d.dma.chans i
    lvl (decide (t ≤ (x.reads.map fun r => ceilDiv r.len 64).foldl (· + ·) x.staged)) n
  | .cpm, 0x1D6 => edge ((List.range 4).any fun p => decide (d.poolFree' p ≤ t)) n
  | .evp, 0x1E8 => lvl (decide (t ≤ (d.queue i).fill)) n
  | .evq, 0x1E8 => lvl true (n * ((List.range 512).filter fun q => decide (t ≤ (d.queue q).fill)).length)
  | .gth, 0x1FA =>
    let words := match d.pmc.snap with
      | none => 0
      | some x => (x.results.map fun p => p.words.length).foldl (· + ·) 0
    lvl (decide (t * 256 ≤ words)) mgmt
  | _, _ => none

/-- The counter whose Enable field has a bit address, as block, instance and counter. -/
def counterAt (key : Nat) : Option (Blk × Nat × Nat) :=
  let off := key / 8 % 4096
  if key % 128 = 31 ∧ 0x100 ≤ off ∧ off < 0x200 then
    (pageBlk (key / 8 / 4096)).map fun (b, i) => (b, i, (off - 0x100) / 16)
  else none

/-- One counter counts the `n` cycles that begin now. -/
def Dev.cycleCount (d : Dev) (n : Nat) (b : Blk) (i k : Nat) : Dev :=
  let code := d.get (HDR.CSEL.Event b) i k
  match d.cycleEvent b i code (d.get (HDR.CSEL.Threshold b) i k) n with
  | none => d
  | some (m, level) =>
    let (d, a) := d.ctrStep b i code m level k
    if a then d.raiseIrq b i 0x80000000 else d

/-- Every enabled counter of an event counted by the cycle counts the `n` CLK_CORE cycles that begin now. -/
def Dev.cycles (d : Dev) (n : Nat) : Dev :=
  (d.regs.filterMap fun (e : Nat × Nat) => counterAt e.1).foldl
    (fun (d : Dev) (x : Blk × Nat × Nat) => d.cycleCount n x.1 x.2.1 x.2.2) d

end Sys2Proof.Machine
end

