-- ==== Sys2Proof/Machine/Clock.lean ====
section
/-! DEFINITION. The passing of time: device time (R352), and the clocks counted from main PLL lock: the record clock (R107),
the meter clock (R161) and shaper time (R284). An event that happens at a time of its own moves the block on to that time
first; an idle step is one CLK_TIME cycle (log entry 2). -/

namespace Sys2Proof.Machine

/-- CLK_TIME cycles since the main PLL locked; 0 before. -/
def Dev.sincePll (d : Dev) : Nat :=
  match d.pllAt with
  | none => 0
  | some c => d.cyc - c

/-- The record clock (R107): one tick every 81,920 CLK_TIME cycles, 32 bits. -/
def Dev.rclk (d : Dev) : Nat := d.sincePll / 81920 % 2 ^ 32

/-- The meter clock (R161): one tick every 128 CLK_TIME cycles, 32 bits. -/
def Dev.mclk (d : Dev) : Nat := d.sincePll / 128 % 2 ^ 32

/-- The device `n` CLK_TIME cycles later: device time has advanced by `n` × INCR (R352). CLK_CORE has the same
frequency (R19). Counters of events by the cycle count them (R472). The device time of the latest record clock tick passed is kept
for R489. -/
def Dev.later (d : Dev) (n : Nat) : Dev :=
  let d := d.cycles n
  let incr := d.get TIM.INCR.Incr
  let back := (d.sincePll + n) % 81920
  let tick := if d.pllAt.isSome && decide (back < n) then dtWrap (d.dt + (n - back) * incr) else d.pmc.tickTime
  { d with cyc := d.cyc + n, dt := dtWrap (d.dt + n * incr), pmc := { d.pmc with tickTime := tick } }

/-- The device moved on until at least CLK_CORE cycle `c`. -/
def Dev.until (d : Dev) (c : Nat) : Dev := d.later (c - d.cyc)

/-- The device moved on to the first CLK_TIME cycle whose device time is at or past `t`. -/
def Dev.untilDt (d : Dev) (t : Nat) : Dev := d.later (ceilDiv (t - d.dt) (d.get TIM.INCR.Incr))

/-- The device moved on to the CLK_TIME cycle that contains act time `t`, where that lies ahead (R26). -/
def Dev.untilAct (d : Dev) (t : Nat) : Dev := d.later ((t - d.dt) / d.get TIM.INCR.Incr)

/-! ### What TIM was (R355, R364, R365, R372) -/

/-- A change of TIM that holds from the present cycle is noted, before it is made. -/
def Dev.notePast (d : Dev) (jump : Int := 0) (rx : Option (Nat × Nat) := none) : Dev :=
  let e : TimPast := ⟨d.cyc, jump, rx, d.get TIM.CAL_GEN.Generation, d.get TIM.TIME_QUAL.Quality⟩
  { d with tim := { d.tim with past := e :: d.tim.past } }

/-- The changes of TIM that came after the instant `ago` units of device time before the present one, latest first. -/
def Dev.changesSince (d : Dev) (ago : Nat) : List TimPast :=
  d.tim.past.takeWhile fun e => decide ((d.cyc - e.at0) * d.get TIM.INCR.Incr < ago)

/-- CAL_GEN and TIME_QUAL as they stood `ago` units of device time before the present instant. -/
def Dev.genAgo (d : Dev) (ago : Nat) : Nat × Nat :=
  match (d.changesSince ago).getLast? with
  | none => (d.get TIM.CAL_GEN.Generation, d.get TIM.TIME_QUAL.Quality)
  | some e => (e.calGen, e.quality)

/-- The stamp of a frame whose delimiter was detected on `lane` `ago` units of device time before the present instant: in the time that ran
then, with the lane's receive constant of then (R355, R360, R365). -/
def Dev.stampAgo (d : Dev) (lane ago : Nat) : Nat :=
  let l := d.changesSince ago
  let jump := (l.map (·.jump)).foldl (· + ·) 0
  let rx := ((l.filterMap (·.rx)).filter (·.1 == lane)).getLast?.map (·.2)
  (((d.dt : Int) - jump - ago - (rx.getD (Tab.get 0 d.tim.rx lane) * 2 ^ 32 : Nat)) % ((2 ^ 48 * secUnits : Nat) : Int)).toNat

/-- Whether work of key `key` would come, in the present cycle, after work of kind `k` that ranks behind it. -/
def Dev.outOfTurn (d : Dev) (k key : Nat) : Bool :=
  match Tab.find d.turn k with
  | some (c, x) => c == d.cyc && decide (key < x)
  | none => false

/-- Work of kind `k` is taken in the order of keys within a cycle: what ranks before the work taken last is taken in the next cycle. -/
def Dev.inTurn (d : Dev) (k key : Nat) : Dev :=
  let d := if d.outOfTurn k key then d.later 1 else d
  { d with turn := Tab.set d.turn k (d.cyc, key) }

/-- Kinds of work that a cycle orders: acceptance by the arbiter of a slice (R86), updates of a meter (R298), and the actions on an event
queue (R459). -/
def turnAccept (s : Nat) : Nat := 2 * s
def turnMeter (m : Nat) : Nat := 16 + 2 * m
def turnQueue (q : Nat) : Nat := 2 * q + 1

/-- An action on a queue, 0 a release, 1 DropRemainder, 2 a void: all of them come before the cycle's reservations (R459). -/
def Dev.queueTurn (d : Dev) (q key : Nat) : Dev :=
  let d := if (d.queue q).tried == some d.cyc then d.later 1 else d
  d.inTurn (turnQueue q) key

/-- Whether the data path moves: no soft reset and no hold (R28, R499). -/
def Dev.pathMoves (d : Dev) : Bool := d.glb.dpr == .idle && d.glb.hold == 0

/-- The chip with its device changed. -/
def Chip.upd (c : Chip) (f : Dev → Dev) : Chip := { c with dev := f c.dev }

/-- The state with its device changed. -/
def State.upd (s : State) (f : Dev → Dev) : State := { s with chip := { s.chip with dev := f s.chip.dev } }

/-- The state with its chip changed. -/
def State.updC (s : State) (f : Chip → Chip) : State := { s with chip := f s.chip }

/-- A meaning that changes only the device: it always completes. -/
def nextD (s : State) (f : Dev → Dev) : Host.Outcome State Fault Refusal := .next (s.upd f)

/-- A meaning that may change HBM too: it always completes. -/
def nextC (s : State) (f : Chip → Chip) : Host.Outcome State Fault Refusal := .next (s.updC f)

end Sys2Proof.Machine
end

