-- ==== Sys2Proof/Machine/Crypto.lean ====
section
/-! DEFINITION. The standard algorithms the manual names: AES-128-CMAC for digests (R66, R109), SHA-384 for the Sundial
chain, seals and images (R212, R374), and CRC-32 of IEEE 802.3 for FCS and FLASH_DIR (R510). They follow FIPS 197,
RFC 4493, FIPS 180-4 and IEEE 802.3; a block of AES is held as one 128-bit number whose byte 0 is its most significant. -/

namespace Sys2Proof.Machine

/-- The AES S-box as one number: byte `i` is the substitute of `i`. -/
def aesSboxWord : Nat := 0x16bb54b00f2d99416842e6bf0d89a18cdf2855cee9871e9b948ed9691198f8e19e1dc186b95735610ef6034866b53e708a8bbd4b1f74dde8c6b4a61c2e2578ba08ae7a65eaf4566ca94ed58d6d37c8e779e4959162acd3c25c2406490a3a32e0db0b5ede14b8ee4688902a22dc4f816073195d643d7ea7c41744975fec130ccdd2f3ff1021dab6bcf5389d928f40a351a89f3c507f02f94585334d43fbaaefd0cf584c4a39becb6a5bb1fc20ed00d153842fe329b3d63b52a05a6e1b1a2c830975b227ebe28012079a059618c323c7041531d871f1e5a534ccf73f362693fdb7c072a49cafa2d4adf04759fa7dc982ca76abd7fe2b670130c56f6bf27b777c63

/-- The AES substitution of a byte. -/
def aesSbox (x : Nat) : Nat := bits aesSboxWord (8 * x) 8

/-- Byte `i` of a 128-bit block, byte 0 first. -/
def blkByte (b i : Nat) : Nat := bits b (8 * (15 - i)) 8

/-- A block from its bytes, byte 0 first. -/
def blkOf (l : List Nat) : Nat := l.foldl (fun a x => a * 256 + x) 0

/-- Multiplication by x in the AES field. -/
def aesX (a : Nat) : Nat := if a < 128 then 2 * a else (2 * a) ^^^ 0x11b

/-- One column of MixColumns. -/
def aesMixCol (a b c d : Nat) : List Nat :=
  [aesX a ^^^ (aesX b ^^^ b) ^^^ c ^^^ d, a ^^^ aesX b ^^^ (aesX c ^^^ c) ^^^ d,
   a ^^^ b ^^^ aesX c ^^^ (aesX d ^^^ d), (aesX a ^^^ a) ^^^ b ^^^ c ^^^ aesX d]

/-- SubBytes and ShiftRows: byte `4c + r` of the result comes from column `c + r`. -/
def aesSubShift (s : Nat) : List Nat :=
  (List.range 16).map fun i => aesSbox (blkByte s (4 * ((i / 4 + i % 4) % 4) + i % 4))

/-- MixColumns of a block given as 16 bytes. -/
def aesMix : List Nat → List Nat
  | a :: b :: c :: d :: t => aesMixCol a b c d ++ aesMix t
  | _ => []

/-- The next round key from the last. -/
def aesNextKey (k rcon : Nat) : Nat :=
  let w := fun i => bits k (32 * (3 - i)) 32
  let r := bits (w 3) 0 24 * 256 + bits (w 3) 24 8
  let s := aesSbox (bits r 24 8) * 2 ^ 24 + aesSbox (bits r 16 8) * 2 ^ 16 + aesSbox (bits r 8 8) * 2 ^ 8 +
    aesSbox (bits r 0 8)
  let a := w 0 ^^^ s ^^^ (rcon * 2 ^ 24)
  let b := w 1 ^^^ a
  let c := w 2 ^^^ b
  let d := w 3 ^^^ c
  ((a * 2 ^ 32 + b) * 2 ^ 32 + c) * 2 ^ 32 + d

/-- The remaining rounds of AES-128: `n` full rounds are left before the last. -/
def aesRounds : Nat → Nat → Nat → Nat → Nat
  | 0, s, k, rcon => blkOf (aesSubShift s) ^^^ aesNextKey k rcon
  | n + 1, s, k, rcon =>
    let k' := aesNextKey k rcon
    aesRounds n (blkOf (aesMix (aesSubShift s)) ^^^ k') k' (aesX rcon)

/-- AES-128 encryption of a block (FIPS 197). -/
def aes128 (key block : Nat) : Nat := aesRounds 9 (block ^^^ key) key 1

/-- Doubling in GF(2^128) as RFC 4493 uses it for its subkeys. -/
def cmacDouble (x : Nat) : Nat :=
  if bit x 127 then (2 * x % 2 ^ 128) ^^^ 0x87 else 2 * x

/-- CBC over whole blocks, the last one exclusive-ored with a subkey. -/
def cmacBlocks (key sub : Nat) : Nat → List Byte → Nat → Nat
  | 0, _, x => x
  | n + 1, m, x =>
    let b := ofBE (m.take 16)
    let b := if n = 0 then b ^^^ sub else b
    cmacBlocks key sub n (m.drop 16) (aes128 key (x ^^^ b))

/-- AES-128-CMAC (RFC 4493) of a message of `n` whole blocks, `n` at least 1. -/
def cmacWhole (key n : Nat) (m : List Byte) : Nat :=
  cmacBlocks key (cmacDouble (aes128 key 0)) n m 0

/-- The 80 round constants of SHA-384 as one number, the constant of round 0 in its lowest 64 bits: each holds the first 64 bits of the
fractional part of the cube root of a prime, in ascending order of the primes (FIPS 180-4, section 4.2.3). -/
def shaCubes : Nat := 0x6c44198c4a4758175fcb6fab3ad6faec597f299cfc657e2a4cc5d4becb3e42b6431d67c49c100d4c3c9ebe0a15c9bebc32caab7b40c7249328db77f523047d841b710b35131c471b113f9804bef90dae0a637dc5a2c898a606f067aa72176fbaf57d4f7fee6ed178eada7dd6cde0eb1ed186b8c721c0c207ca273eceea26619cc67178f2e372532bbef9a3f7b2c67915a4506cebde82bde990befffa23631e288cc702081a6439ec84c87814a1f0ab7278a5636f43172f60748f82ee5defb2fc682e6ff3d6b2b8a35b9cca4f7763e3734ed8aa4ae3418acb391c0cb3c5c95a6334b0bcb5e19b48a82748774cdf8eeb991e376c085141ab5319a4c116b8d2d0c8106aa07032bbd1b8f40e35855771202ad69906245565a910d192e819d6ef5218c76c51a30654be30c24b8b70d0f89791a81a664bbc423001a2bfe8a14cf1036492722c851482353b81c2c92e47edaee6766a0abb3c77b2a8650a73548baf63de53380d139d95b3df4d2c6dfc5ac42aed2e1b21385c26c92627b70a8546d22ffc142929670a0e6e7006ca6351e003826fd5a79147930aa725c6e00bf33da88fc2bf597fc7beef0ee4b00327c898fb213fa831c66d2db43210983e5152ee66dfab76f988da831153b55cb0a9dcbd41fbd44a7484aa6ea6e4832de92c6f592b0275240ca1cc77ac9c650fc19dc68b8cd5b5efbe4786384f25e3e49b69c19ef14ad2c19bf174cf6926949bdc06a725c7123580deb1fe3b1696b172be5d74f27b896f550c7dc3d5ffb4e2243185be4ee4b28c12835b0145706fbed807aa98a3030242ab1c5ed5da6d8118923f82a4af194f9b59f111f1b605d0193956c25bf348b538e9b5dba58189dbbcb5c0fbcfec4d3b2f7137449123ef65cd428a2f98d728ae22

/-- The constant of round `i`. -/
def shaK (i : Nat) : Nat := bits shaCubes (64 * i) 64

/-- The initial hash value of SHA-384 in the same form: the fractional parts of the square roots of the ninth to the sixteenth prime
(FIPS 180-4, section 5.3.4). -/
def shaSquares : Nat := 0x47b5481dbefa4fa4db0c2e0d64f98fa78eb44a876858151167332667ffc00b31152fecd8f70e59399159015a3070dd17629a292a367cd507cbbb9d5dc1059ed8

/-- Right rotation of a 64-bit word. -/
def rotr64 (x n : Nat) : Nat := x / 2 ^ n + x % 2 ^ n * 2 ^ (64 - n)

/-- The message schedule: `n` further words from the last sixteen, newest first. -/
def shaSchedule : Nat → List Nat → List Nat
  | 0, w => w
  | n + 1, w =>
    let g := fun i => w.getD i 0
    let s0 := rotr64 (g 14) 1 ^^^ rotr64 (g 14) 8 ^^^ (g 14 / 2 ^ 7)
    let s1 := rotr64 (g 1) 19 ^^^ rotr64 (g 1) 61 ^^^ (g 1 / 2 ^ 6)
    shaSchedule n (((g 15 + s0 + g 6 + s1) % 2 ^ 64) :: w)

/-- One round of SHA-384 over the eight working variables, the first of the list the variable a; `x` is the round's constant and message
word together. -/
def shaRound (v : List Nat) (x : Nat) : List Nat :=
  let at_ := fun (i : Nat) => v.getD i 0
  let mix := fun (w p q r : Nat) => rotr64 w p ^^^ rotr64 w q ^^^ rotr64 w r
  let choice := (at_ 4 &&& at_ 5) + ((2 ^ 64 - 1 - at_ 4) &&& at_ 6)
  let most := (at_ 0 &&& (at_ 1 ||| at_ 2)) ||| (at_ 1 &&& at_ 2)
  let sum := at_ 7 + mix (at_ 4) 14 18 41 + choice + x
  (sum + mix (at_ 0) 28 34 39 + most) % 2 ^ 64 :: v.take 3 ++ (at_ 3 + sum) % 2 ^ 64 :: (v.drop 4).take 3

/-- The compression of one 128-byte block. -/
def shaBlock (h : List Nat) (blk : List Byte) : List Nat :=
  let first := (List.range 16).map fun i => ofBE (sliceB blk (8 * i) 8)
  let words := (shaSchedule 64 first.reverse).reverse
  let v := words.zipIdx.foldl (fun v w => shaRound v (shaK w.2 + w.1)) h
  (h.zip v).map fun e => (e.1 + e.2) % 2 ^ 64

/-- The compression of `n` blocks in turn. -/
def shaBlocks : Nat → List Nat → List Byte → List Nat
  | 0, h, _ => h
  | n + 1, h, m => shaBlocks n (shaBlock h m) (m.drop 128)

/-- SHA-384 (FIPS 180-4): 48 bytes. -/
def sha384 (m : List Byte) : List Byte :=
  let l := m.length
  let z := (128 - (l + 17) % 128) % 128
  let p := m ++ [0x80] ++ List.replicate z 0 ++ toBE 16 (8 * l)
  ((shaBlocks (p.length / 128) ((List.range 8).map fun i => bits shaSquares (64 * i) 64) p).take 6).flatMap (toBE 8)

/-- One bit step of the reflected CRC-32. -/
def crcBit (c : Nat) : Nat := if c % 2 = 1 then (c / 2) ^^^ 0xEDB88320 else c / 2

/-- `n` bit steps. -/
def crcBits : Nat → Nat → Nat
  | 0, c => c
  | n + 1, c => crcBits n (crcBit c)

/-- CRC-32 of IEEE 802.3 over a byte list, as the number whose little-endian bytes follow a frame as its FCS. -/
def crc32 (m : List Byte) : Nat :=
  (m.foldl (fun c b => crcBits 8 (c ^^^ b.toNat)) 0xFFFFFFFF) ^^^ 0xFFFFFFFF

end Sys2Proof.Machine
end

