-- ==== Sys2Proof/Machine/Record.lean ====
section
/-! DEFINITION. The flow table's geometry (R100 to R105), the FLOW_RECORD (R106), its handles (R114, R135), its events
(R128), and the staging of IPFIX records (R486, R487). -/

namespace Sys2Proof.Machine

/-! ### Addresses -/

/-- The HBM address of local address `a` of the pseudo-channel that RUU `r` serves: each has its own 2^29 range. -/
def hbmAddr (r a : Nat) : Nat := r * 2 ^ 29 + a

/-- Rounded up to a multiple of 4 KiB (R102). -/
def up4k (n : Nat) : Nat := ceilDiv n 4096 * 4096

/-- A of R102: the annex size for an applied MaxLog2 `x`; 0 while no table is laid out. -/
def annexSize (x : Nat) : Nat := if x = 0 then 0 else up4k (ceilDiv (2 ^ x) 384 * 48)

/-- Z of R102: the size of one set. -/
def setSize (x : Nat) : Nat := if x = 0 then 0 else up4k (2 * ceilDiv (5 * 2 ^ min x 29) (8 * 384) * 64)

/-- The start of the general region (R102). -/
def generalBase (x : Nat) : Nat := annexSize x + 2 * setSize x

/-- The end of the general region: the hardware reserve starts here (R103). -/
def generalEnd : Nat := 0x17000000

/-- Slots of one way over all RUUs at capacity 2^n: 0.625 × 2^n. -/
def waySlots (n : Nat) : Nat := 5 * 2 ^ n / 8

/-- Q of RUU `m` at capacity 2^n (R100); 0 without a table. -/
def slotsOf (n m : Nat) : Nat :=
  if n = 0 then 0 else waySlots n / 384 + (if m < waySlots n % 384 then 1 else 0)

/-- The home RUU of a digest (R100). -/
def homeRuu (dg : Nat) : Nat := bits dg 96 32 * 384 / 2 ^ 32

/-- The slot index of a digest in a way (R100). -/
def slotIdx (n dg way : Nat) : Nat := bits dg (if way = 0 then 64 else 32) 32 * slotsOf n (homeRuu dg) / 2 ^ 32

/-- The RUU whose pseudo-channel holds a slot (R101). -/
def Loc.channel (l : Loc) : Nat := if l.way = 0 then l.ruu else (l.ruu + 192) % 384

/-- The HBM address of a slot, for applied MaxLog2 `x` and a set at capacity 2^n (R104). -/
def slotAddr (x n : Nat) (l : Loc) : Nat :=
  let z := setSize x
  let base := if n = 30 then annexSize x else annexSize x + l.set * z
  let h := if n = 30 then z else z / 2
  hbmAddr l.channel (base + l.way * h + 64 * l.idx)

/-- The HBM address of the annex entry of a handle (R105). -/
def annexAddr (h : Nat) : Nat := hbmAddr (h % 384) (48 * (h / 384))

/-! ### The record (R106). A record is held as the number its 64 little-endian bytes spell. -/

def recDigest (r : Nat) : Nat := bits r 0 128
def recHandle (r : Nat) : Nat := bits r 128 30
def recValid (r : Nat) : Bool := bit r 158
def recStatic (r : Nat) : Bool := bit r 159
def recAge (r : Nat) : Nat := bits r 160 3
def recLedger (r : Nat) : Bool := bit r 163
def recStream (r : Nat) : Nat := bits r 164 4
def recHost (r : Nat) : Bool := bit r 168
def recRebirth (r : Nat) : Bool := bit r 169
def recTemplate (r : Nat) : Nat := bits r 170 10
def recUserFlags (r : Nat) : Nat := bits r 180 12
def recFirst (r : Nat) : Nat := bits r 192 32
def recLast (r : Nat) : Nat := bits r 224 32
def recPackets (r : Nat) : Nat := bits r 256 40
def recBytes (r : Nat) : Nat := bits r 296 56
def recMeterProfile (r : Nat) : Nat := bits r 352 16
def recMeterTime (r : Nat) : Nat := bits r 368 32
def recTokensC (r : Nat) : Nat := bits r 400 24
def recTokensP (r : Nat) : Nat := bits r 424 24
def recAct (r : Nat) : Nat := bits r 448 32
def recState (r : Nat) : Nat := bits r 480 32

/-- The phase of the table (R130): 0 Unconfigured, 1 Clear, 2 Ready, 3 ResizeClear, 4 Move, 5 Retire. -/
def Dev.phase (d : Dev) : Nat := d.get FTB.GEOM_STAT.Phase

/-- The phase of the table set. -/
def Dev.setPhase (d : Dev) (p : Nat) : Dev := d.set FTB.GEOM_STAT.Phase p

/-- An RUU with its cache partition. -/
def Dev.ruu (d : Dev) (r : Nat) : Ruu := Tab.get {} d.ruus r

/-- The device with an RUU replaced. -/
def Dev.setRuu (d : Dev) (r : Nat) (x : Ruu) : Dev := { d with ruus := Tab.put {} d.ruus r x }

/-- The set and log2 capacity that new records go to: the new set from Move on (R130). -/
def Dev.newSet (d : Dev) : Nat × Nat :=
  if d.phase = 4 ∨ d.phase = 5 then (1 - d.get FTB.GEOM_STAT.ActiveSet, d.ftb.target)
  else (d.get FTB.GEOM_STAT.ActiveSet, d.get FTB.GEOM_STAT.CapLog2)

/-- The capacity of a set in the current phase; 0 where it holds no table (R145). -/
def Dev.setCap (d : Dev) (set : Nat) : Nat :=
  if d.phase < 2 then 0
  else if set = d.get FTB.GEOM_STAT.ActiveSet then (if d.phase = 5 then 0 else d.get FTB.GEOM_STAT.CapLog2)
  else if d.phase = 4 ∨ d.phase = 5 then d.ftb.target else 0

/-- The slot locations a lookup of a digest reads in the current phase (R130, R134): the home row of the new set, and in
Move the old slots that the RUU's cursor has not passed. -/
def Dev.lookupLocs (d : Dev) (dg : Nat) : List Loc :=
  let m := homeRuu dg
  let row := fun (set n : Nat) => [(⟨m, set, 0, slotIdx n dg 0⟩ : Loc), ⟨m, set, 1, slotIdx n dg 1⟩]
  if d.phase < 2 then []
  else
    let (s, n) := d.newSet
    let old := if d.phase = 4 then
        (row (d.get FTB.GEOM_STAT.ActiveSet) (d.get FTB.GEOM_STAT.CapLog2)).filter fun l => (d.ruu m).cursor ≤ l.idx
      else []
    row s n ++ old

/-- The new home row of a digest: where an insert goes (R113, R130). -/
def Dev.insertLocs (d : Dev) (dg : Nat) : List Loc :=
  let m := homeRuu dg
  let (s, n) := d.newSet
  [⟨m, s, 0, slotIdx n dg 0⟩, ⟨m, s, 1, slotIdx n dg 1⟩]

/-- The HBM address of a location in the current geometry. -/
def Dev.locAddr (d : Dev) (l : Loc) : Nat := slotAddr (d.get FTB.GEOM_STAT.MaxLog2) (d.setCap l.set) l

/-- CMD_LOC layout of a location (R127). -/
def Loc.word (l : Loc) : Nat := l.idx + 2 ^ 21 * l.ruu + 2 ^ 30 * l.way + 2 ^ 31 * l.set

/-- A location from its CMD_LOC layout. -/
def locOfWord (w : Nat) : Loc := ⟨bits w 21 9, bits w 31 1, bits w 30 1, bits w 0 21⟩

/-! ### Handles (R114, R135) -/

/-- The pool's free handles: those below the issuing capacity that are not taken. -/
def Dev.poolFree (d : Dev) : Nat := d.ftb.issueCap - (d.ftb.taken.filter (· < d.ftb.issueCap)).length

/-- HANDLE_FREE brought up to date (R114). -/
def Dev.syncFree (d : Dev) : Dev := d.set FTB.HANDLE_FREE.Free d.poolFree

/-- The next handle from `h` on, cyclically below `cap`, that is not taken; the fuel is one more than the taken ones. -/
def nextFree (taken : List Nat) (cap : Nat) : Nat → Nat → Nat
  | 0, h => h
  | n + 1, h => if taken.contains h then nextFree taken cap n ((h + 1) % cap) else h

/-- `n` handles leave the pool for the stock of an RUU; which ones is a free choice (R114). -/
def Dev.refill (r : Nat) : Nat → Dev → Dev
  | 0, d => d
  | n + 1, d =>
    if d.poolFree = 0 then d
    else
      let h := nextFree d.ftb.taken d.ftb.issueCap (d.ftb.taken.length + 1) (Config.handlePick d.free % d.ftb.issueCap)
      let d := { d with free := d.free + 1, ftb := { d.ftb with taken := h :: d.ftb.taken } }
      let x := d.ruu r
      Dev.refill r n (d.setRuu r { x with stock := h :: x.stock })

/-- STOCK of an RUU brought up to date. -/
def Dev.syncStock (d : Dev) (r : Nat) : Dev := d.set RUU.STOCK.Stock (d.ruu r).stock.length r

/-- A handle is issued from an RUU's stock; which one is a free choice (R114). -/
def Dev.issue (d : Dev) (r : Nat) : Option (Nat × Dev) :=
  let x := d.ruu r
  match x.stock[Config.stockPick d.free % x.stock.length]? with
  | none => none
  | some h =>
    let d := { d.setRuu r { x with stock := x.stock.erase h } with free := d.free + 1 }
    some (h, d.syncStock r)

/-- A freed handle returns to the stock of its home RUU, or leaves the pool where a shrink has ended its range (R114,
R135). -/
def Dev.giveBack (d : Dev) (r h : Nat) : Dev :=
  if h < d.ftb.issueCap then
    let x := d.ruu r
    (d.setRuu r { x with stock := h :: x.stock }).syncStock r
  else { d with ftb := { d.ftb with taken := d.ftb.taken.filter (· ≠ h) } }

/-- A removed digest enters the RUU's list of its last 8 removals (R120). -/
def Dev.remember (d : Dev) (r dg : Nat) : Dev :=
  let x := d.ruu r
  d.setRuu r { x with recent := ((dg, d.cyc) :: x.recent).take 8 }

/-- Whether a digest is on the recent list within the rebirth window (R120). -/
def Dev.reborn (d : Dev) (r dg : Nat) : Bool :=
  (d.ruu r).recent.any fun e => e.1 == dg && decide (d.cyc < e.2 + nsCyc (1000 * d.get FTB.REBIRTH_CFG.Window))

/-- A digest taken off the recent list (R120). -/
def Dev.forget (d : Dev) (r dg : Nat) : Dev :=
  let x := d.ruu r
  d.setRuu r { x with recent := x.recent.filter fun e => e.1 != dg }

/-! ### Events and counts -/

/-- A FLOW_EVT is posted when its type is enabled (R128): 1 Insert, 2 AgeOut, 3 Delete, 4 Collision, 5 MigrateLoss. -/
def Dev.flowEvent (d : Dev) (typ : Nat) (host : Bool) (l : Loc) (img : Nat) : Dev :=
  let en := match typ with
    | 1 => d.flag FTB.EVT_CFG.InsertEv
    | 2 => d.flag FTB.EVT_CFG.AgeOutEv
    | 3 => d.flag FTB.EVT_CFG.DeleteEv
    | 4 => d.flag FTB.EVT_CFG.CollisionEv
    | _ => d.flag FTB.EVT_CFG.MigrateLossEv
  if !en then d
  else
    let i0 := typ + 2 ^ 8 * b2n (recRebirth img) + 2 ^ 9 * b2n host + 2 ^ 10 * b2n (recStatic img) +
      2 ^ 11 * recAge img + 2 ^ 14 * l.way + 2 ^ 15 * l.set + 2 ^ 16 * l.ruu + 2 ^ 25 * l.idx +
      2 ^ 46 * d.get FTB.EPOCH.Epoch
    let items := [i0, recHandle img + 2 ^ 32 * d.rclk, bits img 0 64, bits img 64 64, bits img 192 64, bits img 256 64,
      bits img 320 64, bits img 448 64]
    d.post .ftb 0 1 (d.get FTB.EVT_CFG.Queue) items

/-- An insert failure is counted for the packet's slice, profile and reason, saturating (R115). -/
def Dev.countFail (d : Dev) (slice profile reason : Nat) : Dev :=
  let k := slice * 128 + profile * 8 + reason
  let n := min (Tab.get 0 d.ftb.fails k + 1) (2 ^ 48 - 1)
  ({ d with ftb := { d.ftb with fails := Tab.put 0 d.ftb.fails k n } }).count .ftb 0 0x07B

/-- RECORDS changed by one up or down. -/
def Dev.addRecord (d : Dev) : Dev := d.bump FTB.RECORDS.Records
def Dev.dropRecord (d : Dev) : Dev := d.set FTB.RECORDS.Records (d.get FTB.RECORDS.Records - 1)

/-- The IPFIX ring's slot count: 384 × 2^SlotsLog2 (R487). -/
def Dev.ipxSlots (d : Dev) : Nat := 384 * 2 ^ d.get PMC.IPX_RING_SIZE.SlotsLog2

/-- The HBM address of an entry of a ring in the general region that spreads over all pseudo-channels (R386, R487). -/
def ringAddr (offset log2 j : Nat) : Nat := hbmAddr (j % 384) (offset + 128 * (j / 384 % 2 ^ log2))

end Sys2Proof.Machine
end

