-- ==== Sys2Proof/Machine/Report.lean ====
section
/-! DEFINITION. Detector reports (R493 to R495, R502, R503): the class of a report, its log entry, and the MRAM record of class
4. Containment of classes 2 to 4 is carried out by the commands that meet them (`Machine/Err.lean`). -/

namespace Sys2Proof.Machine

/-- The class of a detector's report; `unc` says that the error is uncorrectable (R494, R495, R531). -/
def detClass (b : Blk) (det : Nat) (unc : Bool) : Nat :=
  if !unc then 0
  else match b, det with
  | .egs, 1 => 2
  | .hbc, 4 => 4
  | .hbc, 5 => 0
  | .clk, _ => 4
  | .ser, 0 => 2
  | .mac, 2 => 2
  | .bsn, 1 => 3
  | .ftb, 0 => 4
  | .sec, _ => 4
  | .tmp, 0 => 4
  | _, _ => 1

/-- CLK_CORE cycles in a second and in a millisecond (R19). -/
def secCyc : Nat := 1250000000
def msCyc : Nat := 1250000

/-- MRAM words written: the bytes of a record and its commit word (R519, R532). -/
def Dev.mramWords (d : Dev) (bytes : Nat) : Dev := d.count .sec 0 0x228 (ceilDiv bytes 8 + 1)

/-- A class 4 entry is written to the MRAM slot opposite the latest (R503, R519). -/
def Dev.critWrite (d : Dev) (e : LogEntry) : Dev :=
  let c := d.mram.crit
  let c := if c.last = 1 then { c with slotA := some e, last := 0 } else { c with slotB := some e, last := 1 }
  let d := { d with mram := { d.mram with crit := c }, err := { d.err with critAt := some d.cyc, critHeld := none } }
  d.mramWords 32

/-- The latest log entry of a class 4 report goes to MRAM, at once or once the second since the last write has passed (R503). -/
def Dev.critNote (d : Dev) : Dev :=
  match d.err.log.getLast? with
  | none => d
  | some e => match d.err.critAt with
    | none => d.critWrite e
    | some t => if t + secCyc ≤ d.cyc then d.critWrite e else { d with err := { d.err with critHeld := some e } }

/-- A detector's report, its page-level view and its log entry (R34, R493, R502). -/
def Dev.report (d : Dev) (b : Blk) (i det addr : Nat) (unc : Bool) (injected : Bool := false) (action : Nat := 0) : Dev :=
  let cls := detClass b det unc
  let d := (d.pageReport b i det addr).logReport b i det cls addr injected false action
  if cls = 4 then d.critNote else d

/-! ### Injection (R57) -/

/-- Whether a detector is a single-error-correcting code, so that a one-bit pattern gives a corrected error (R57). -/
def detCorrects : Blk → Nat → Bool
  | .ruu, k => k ≤ 2 || k == 4
  | .rcc, k => k == 0
  | .fen, k => k == 0 || k == 2 || k == 3
  | .fsc, k => k == 0
  | .ucs, k => k != 2
  | .lpm, _ | .l2t, _ | .ecm, _ | .nat, _ => true
  | .acl, k => k == 1 || k == 2
  | .egs, k => k != 2
  | .mtr, k => k != 2
  | .hbc, k => k == 0 || k == 6
  | .tim, k => k == 1
  | .sdl, k => k != 1
  | .hif, _ => true
  | .dma, k => k != 2
  | .cpm, k => k != 2
  | .evq, k | .evp, k => k == 0
  | .gth, _ | .pmc, _ => true
  | .ser, _ => true
  | .mac, k => k != 2
  | .prs, _ | .slc, _ | .bsn, _ | .err, _ => true
  | .rsq, k => k == 0
  | .ftb, _ => true
  | .sec, k => k == 0 || k == 3
  | .boot, k => k == 0
  | _, _ => false

/-- Whether the page's armed injection is this detector's: ERR_INJ acts while GLB.ERR_INJ_EN is 1, and on CLK and SEC only while
Inject is unlocked (R57, R496). -/
def Dev.injects (d : Dev) (b : Blk) (i det : Nat) : Bool :=
  d.flag GLB.ERR_INJ_EN.Enable && d.flag (HDR.ERR_INJ.Arm b) i && d.get (HDR.ERR_INJ.Detector b) i == det &&
    ((b != .clk && b != .sec) || bit (d.get SEC.DBG_STAT.Scope) 1)

/-- The injection has corrupted an access: Fired is set, and in once mode Arm clears (R57). -/
def Dev.injected (d : Dev) (b : Blk) (i : Nat) : Dev :=
  let d := d.set (HDR.ERR_INJ.Fired b) 1 i
  if d.flag (HDR.ERR_INJ.Mode b) i then d else d.set (HDR.ERR_INJ.Arm b) 0 i

/-- Whether a detector is a parity check over data, which finds an odd number of changed bits (R170, R190, R227, R278, R302, R451, R470,
R495). -/
def detParity : Blk → Nat → Bool
  | .ruu, k => k == 5
  | .rcc, k | .fen, k | .fsc, k => k == 1
  | .ucs, k | .egs, k | .mtr, k | .dma, k | .cpm, k => k == 2
  | .acl, k => k == 0 || k == 3
  | .evq, k | .evp, k => k == 1 || k == 2
  | .glb, k | .adm, k | .shw, k | .mon, k => k == 0
  | .rsq, k => k == 1
  | _, _ => false

/-- Whether an error pattern lies within one aligned 4-bit symbol, which the code corrects (R329). A pattern over more symbols counts as
uncorrectable, also over three or more, of which the manual says nothing (DESIGN CHOICE, log entry 90). -/
def oneSymbol (pat : Nat) : Bool := (List.range 8).any fun k => pat / 16 ^ k * 16 ^ k == pat && decide (pat / 16 ^ k < 16)

/-- What a detector finds in a word that a pattern has been XORed into (R57): 0 nothing, 1 an error that the code corrects, 2 an
uncorrectable one. HBC detector 0 checks 4-bit symbols (R329); detectors that watch conditions ignore the pattern. -/
def patternFinds (b : Blk) (det pat : Nat) : Nat :=
  let ones := ((List.range 32).filter (bit pat)).length
  if b = .hbc ∧ det = 0 then if pat = 0 then 0 else if oneSymbol pat then 1 else 2
  else if detCorrects b det then min 2 ones
  else if detParity b det then 2 * (ones % 2)
  else 2

/-- An access that a detector protects: corrupted where the detector's injection is armed. 0: no error, 1: one that the code corrects,
2: an uncorrectable one. -/
def Dev.inject (d : Dev) (b : Blk) (i det : Nat) : Dev × Nat :=
  if !d.injects b i det then (d, 0) else (d.injected b i, patternFinds b det (d.get (HDR.ERR_INJ_DATA.Pattern b) i))

/-- An access that a detector protects, which an armed injection corrupts and the detector then reports (R57, R58); `false` where the error
is uncorrectable. -/
def Dev.protect (d : Dev) (b : Blk) (i det addr : Nat) : Dev × Bool :=
  match d.inject b i det with
  | (d, 0) => (d, true)
  | (d, 1) => (d.report b i det addr false true, true)
  | (d, _) => (d.report b i det addr true true, false)

end Sys2Proof.Machine
end

