-- ==== Sys2Proof/Machine/Burst.lean ====
section
/-! DEFINITION. Accesses to HBM (R305 to R313, R317, R331, R333): bursts, the mapping, and how a client's reads and writes enter the
queue of a pseudo-channel. -/

namespace Sys2Proof.Machine

/-! ### Pseudo-channels and stacks -/

/-- A pseudo-channel. -/
def Dev.hpc (d : Dev) (r : Nat) : HbmPc := Tab.get {} d.hbc.pcs r

/-- The device with a pseudo-channel replaced. -/
def Dev.setHpc (d : Dev) (r : Nat) (x : HbmPc) : Dev := { d with hbc := { d.hbc with pcs := Tab.put {} d.hbc.pcs r x } }

/-- A stack's controller. -/
def Dev.stack (d : Dev) (k : Nat) : HbmStack := Tab.get {} d.hbc.stackTab k

/-- The device with a stack's controller replaced. -/
def Dev.setStack (d : Dev) (k : Nat) (x : HbmStack) : Dev := { d with hbc := { d.hbc with stackTab := Tab.put {} d.hbc.stackTab k x } }

/-- Bank group, bank, column and row of `u` under a mapping order (R307). -/
def mapOrder (order u : Nat) : Nat × Nat × Nat × Nat :=
  match order with
  | 1 => (bits u 4 2, bits u 6 2, bits u 0 4, bits u 8 13)
  | 2 => (bits u 0 2 ^^^ bits u 8 2, bits u 2 2 ^^^ bits u 10 2, bits u 4 4, bits u 8 13)
  | _ => (bits u 0 2, bits u 2 2, bits u 4 4, bits u 8 13)

/-- The mapping order of a burst of pseudo-channel `r` (R308). -/
def Dev.orderOf (d : Dev) (r t : Nat) : Nat :=
  let x := d.stack (r / 64)
  if t * 64 < generalBase (d.get FTB.GEOM_STAT.MaxLog2) then x.tableOrder else x.genOrder

/-- The bank, as SID × 16 + bank group × 4 + bank, and the row of a burst of pseudo-channel `r` (R306, R308). -/
def Dev.bankRow (d : Dev) (r t : Nat) : Nat × Nat :=
  let (g, b, _, row) := mapOrder (d.orderOf r t) (t / 3)
  (t % 3 * 16 + g * 4 + b, row)

/-- The column of a burst of pseudo-channel `r` in its row (R306, R308). -/
def Dev.column (d : Dev) (r t : Nat) : Nat := (mapOrder (d.orderOf r t) (t / 3)).2.2.1

/-! ### Check bits (R329 to R333) -/

/-- Whether a read of burst `t` finds an uncorrectable error: a lost write left the check pattern there (R331), or an injected error
spans more than one symbol (R333). -/
def HbmPc.spoiled (p : HbmPc) (t : Nat) : Bool :=
  (p.bad.any fun q => q / 4 == t) || p.flips.any fun (e : Nat × Nat) => e.1 / 4 == t && !oneSymbol e.2

/-- Whether a read of burst `t` finds an error that the code corrects. -/
def HbmPc.weak (p : HbmPc) (t : Nat) : Bool := !p.spoiled t && p.flips.any fun (e : Nat × Nat) => e.1 / 4 == t

/-- Whether a read of the burst at an HBM address is uncorrectable. -/
def Dev.burstBad (d : Dev) (a : Nat) : Bool := (d.hpc (a / 2 ^ 29)).spoiled (a % 2 ^ 29 / 64)

/-- Whether a read of `n` bytes from an HBM address meets an uncorrectable burst; `n` is at most 64. -/
def Dev.spanBad (d : Dev) (a n : Nat) : Bool := d.burstBad a || d.burstBad (a + n - 1)

/-- The quarters that a write's bytes lie in, and those it writes whole. -/
def quartersOf (put : List (Nat × Byte)) : List Nat := (put.map (·.1 / 16)).eraseDups
def wholeQuarter (put : List (Nat × Byte)) (q : Nat) : Bool := (List.range 16).all fun i => put.any (·.1 == 16 * q + i)

/-- Whether a write has a partly enabled quarter, so that it is an internal merge (R305). -/
def putMerges (put : List (Nat × Byte)) : Bool := (quartersOf put).any fun q => !wholeQuarter put q

/-- Bytes written one by one. -/
def Mem.writeAll (m : Mem) (l : List (Nat × Byte)) : Mem := l.foldl (fun m e => Mem.write m e.1 e.2) m

/-- The check bits of a write (R330, R331, R333): a whole quarter written loses its error, a merge corrects what the code can, and an
armed detector 0 spoils the low 32 bits of the first quarter written. -/
def Dev.checkBits (d : Dev) (r : Nat) (put : List (Nat × Byte)) : Dev :=
  let p := d.hpc r
  let qs := quartersOf put
  let whole := qs.filter (wholeQuarter put)
  let merged := (qs.filter fun q => !wholeQuarter put q).map (· / 4)
  let flips := p.flips.filter fun (e : Nat × Nat) => !(whole.contains e.1 || (merged.contains (e.1 / 4) && oneSymbol e.2))
  let d := d.setHpc r { p with bad := p.bad.filter (fun q => !whole.contains q), flips := flips }
  match d.injects .hbc (r / 64) 0, qs.head? with
  | true, some q =>
    let pat := d.get (HDR.ERR_INJ_DATA.Pattern .hbc) (r / 64)
    let p := d.hpc r
    (d.setHpc r { p with flips := Tab.put 0 p.flips q pat }).injected .hbc (r / 64)
  | _, _ => d

/-- A write's bytes stored in a pseudo-channel's memory. -/
def Chip.hbmStored (c : Chip) (r : Nat) (put : List (Nat × Byte)) : Chip :=
  { hbm := Mem.writeAll c.hbm (put.map fun e => (hbmAddr r e.1, e.2)), dev := c.dev.checkBits r put }

/-! ### The queue (R309, R310, R313, R317) -/

/-- Bytes a request counts against a Cap. -/
def HbmReq.bytes (x : HbmReq) : Nat := if x.merge then 128 else 64

/-- Whether a pseudo-channel's ports accept requests: its controller accepts work, and its stack is not in self-refresh for a
frequency change or a soft reset (R327, R336). A refresh window stops commands, not acceptance (DEDUCED, log entry 91). -/
def Dev.hbmTakes (d : Dev) (r : Nat) : Bool :=
  d.accepts .hbc (r / 64) && !(d.stack (r / 64)).selfRef && d.glb.hold == 0

/-- Whether the queue has room for a request beside what `q` holds. -/
def hbmFits (q : List HbmReq) (x : HbmReq) : Bool :=
  decide (q.length < 32) && (x.port == 0 || decide ((q.filter (·.port != 0)).length < 8))

/-- Whether the queue has room for a request, and whether its port's Cap holds it back. -/
def Dev.hbmRoom (d : Dev) (r : Nat) (x : HbmReq) : Bool := hbmFits (d.hpc r).queue x
def Dev.hbmCapped (d : Dev) (r : Nat) (x : HbmReq) : Bool :=
  let cap := d.get HBC.PORT_CFG.Cap (r / 64) x.port
  decide (1 ≤ x.port) && decide (x.port ≤ 5) && cap != 0 &&
    decide (cap * 1000 < Tab.get 0 (d.stack (r / 64)).capBytes x.port + x.bytes)

/-- Whether a request of a port is accepted as soon as it is issued: nothing of its port waits ahead of it (R309), and there is room for
it beside all that waits. -/
def Dev.hbmFree (d : Dev) (r : Nat) (x : HbmReq) : Bool :=
  let p := d.hpc r
  d.hbmTakes r && !(p.waiting.any fun y => y.port == x.port) && hbmFits (p.queue ++ p.waiting) x && !d.hbmCapped r x

/-- A read of one burst by a port. -/
def readOf (port src a : Nat) : HbmReq := { port := port, src := src, write := false, t := a % 2 ^ 29 / 64 }

/-- Whether a port's read at an HBM address would be accepted as soon as it is issued. -/
def Dev.hbmMayRead (d : Dev) (port a : Nat) : Bool := d.hbmFree (a / 2 ^ 29) (readOf port 0 a)

/-- Whether a port's write of whole quarters of one burst at an HBM address would be accepted as soon as it is issued. -/
def Dev.hbmMayPut (d : Dev) (port a : Nat) : Bool := d.hbmFree (a / 2 ^ 29) { readOf port 0 a with write := true }

/-- A request enters the queue. -/
def Dev.hbmEnter (d : Dev) (r : Nat) (x : HbmReq) : Dev :=
  let p := d.hpc r
  let s := d.stack (r / 64)
  let d := d.setHpc r { p with queue := p.queue ++ [{ x with at0 := d.cyc }] }
  let d := if x.merge then d.count .hbc (r / 64) 0x152 else d
  d.setStack (r / 64) { s with capBytes := Tab.put 0 s.capBytes x.port (Tab.get 0 s.capBytes x.port + x.bytes) }

/-- The 16 bytes of a general-region read's result slot (R207). -/
def Chip.genBytes (c : Chip) (a : Nat) : List Byte :=
  if c.dev.burstBad a then toLE 8 (2 ^ 4 * 8) ++ toLE 8 0 else toLE 8 1 ++ Mem.readN c.hbm a 8

/-- A request is accepted (R310): a write becomes visible to later reads and cancels a repair write of its burst that has not issued
(R330); the read of a thread or of an HbmOut channel takes its data, and a NAT lookup can be made. -/
def Chip.hbmAccept (c : Chip) (r : Nat) (x : HbmReq) : Chip :=
  let c := if x.write && !x.repair then (c.hbmStored r x.put).upd fun d =>
      let p := d.hpc r
      let old := fun (y : HbmReq) => y.repair && y.t == x.t
      d.setHpc r { p with queue := p.queue.filter (!old ·), waiting := p.waiting.filter (!old ·) } else c
  let c := c.upd (·.hbmEnter r x)
  let c := match x.chan with
    | none => c
    | some n =>
      let a := hbmAddr r (64 * x.t)
      c.upd fun d => d.setChan n { d.chan n with got := some (Mem.readN c.hbm a 64, d.burstBad a) }
  match x.eng, x.nat with
  | none, _ => c
  | some (src, _), some a => c.upd fun d => { d with results := d.results ++ [{ src := src, status := 0, nat := some a, look := some 3 }] }
  | some (src, a), none =>
    let b := c.genBytes (hbmAddr r a)
    c.upd fun d => { d with results := d.results ++ [{ src := src, status := 0, flag := true, raw := some b }] }

/-- Requests that wait at their ports are accepted in order as far as there is room; a port whose head is held back holds its later
ones. The fuel is how many wait. -/
def Chip.hbmAdmit (r : Nat) : Nat → List Nat → Chip → Chip
  | 0, _, c => c
  | n + 1, blocked, c =>
    if !c.dev.hbmTakes r then c
    else match (c.dev.hpc r).waiting.find? fun x => !blocked.contains x.port with
    | none => c
    | some x =>
      if c.dev.hbmCapped r x then
        let c := if x.capped then c else c.upd fun d =>
          let p := d.hpc r
          (d.setHpc r { p with waiting := p.waiting.map fun y => if y == x then { y with capped := true } else y }).count .hbc (r / 64) 0x157
        Chip.hbmAdmit r n (x.port :: blocked) c
      else if !c.dev.hbmRoom r x then Chip.hbmAdmit r n (x.port :: blocked) c
      else
        let c := c.upd fun d =>
          let p := d.hpc r
          d.setHpc r { p with waiting := p.waiting.erase x }
        Chip.hbmAdmit r n blocked (c.hbmAccept r x)

/-- Every request that waits at a pseudo-channel is accepted as far as there is room. -/
def Chip.admitPc (c : Chip) (r : Nat) : Chip := Chip.hbmAdmit r (c.dev.hpc r).waiting.length [] c

/-- A source issues a request: it waits at its port, and is accepted where nothing holds it back. -/
def Chip.hbmIssue (c : Chip) (r : Nat) (x : HbmReq) : Chip :=
  let c := c.upd fun d =>
    let p := d.hpc r
    let d := d.setHpc r { p with waiting := p.waiting ++ [{ x with ord := d.hbc.ord }] }
    { d with hbc := { d.hbc with ord := d.hbc.ord + 1 } }
  c.admitPc r

/-- The parts of a run of bytes that lie in one burst each. The fuel is the number of bytes. -/
def burstsOf : Nat → Nat → List Byte → List (Nat × List Byte)
  | 0, _, _ => []
  | n + 1, a, b =>
    if b.isEmpty then []
    else (a, b.take (64 - a % 64)) :: burstsOf n (a + (64 - a % 64)) (b.drop (64 - a % 64))

/-- A source writes bytes at an HBM address, burst by burst. What an RUU writes through port 0 only RUUs read, through the same port in
order, so it is stored as it is issued (DEDUCED, log entry 91); what other ports write is stored at its acceptance. -/
def Chip.hbmWrite (c : Chip) (port src a : Nat) (b : List Byte) (rmw : Bool := false) : Chip :=
  (burstsOf b.length a b).foldl (fun c e =>
    let r := e.1 / 2 ^ 29
    let lo := e.1 % 2 ^ 29
    let put := e.2.zipIdx.map fun x => (lo + x.2, x.1)
    let c := if port = 0 then c.hbmStored r put else c
    c.hbmIssue r { port := port, src := src, write := true, t := lo / 64, merge := putMerges put, rmw := rmw,
                   put := if port = 0 then [] else put }) c

/-- A source reads the burst at an HBM address. -/
def Chip.hbmRead (c : Chip) (port src a : Nat) (mark : Option Nat := none) (rmw : Bool := false) : Chip :=
  c.hbmIssue (a / 2 ^ 29) { readOf port src a with mark := mark, rmw := rmw }

/-- Whether a write of a source still waits at its port anywhere: what its fence waits for (R311). -/
def Dev.unaccepted (d : Dev) (port src : Nat) : Bool :=
  d.hbc.pcs.any fun (p : Nat × HbmPc) => p.2.waiting.any fun x => x.write && x.port == port && x.src == src

/-- The source number of a thread at port 1, whose sources are the threads (R309, R311). -/
def threadSrc (cl t : Nat) : Nat := 256 * cl + t

end Sys2Proof.Machine
end

