-- ==== Sys2Proof/Machine/Serve.lean ====
section
/-! DEFINITION. The service of accepted requests (R304, R314 to R316, R329 to R333): urgency, the commands to DRAM, what reads find, and
the completion of everything a pseudo-channel has accepted. -/

namespace Sys2Proof.Machine

/-- CLK_CORE cycles of `n` CLK_MEM cycles at the rate in force (R19, R304). -/
def Dev.memCyc (d : Dev) (n : Nat) : Nat :=
  ceilDiv (n * 1250) (memMHz (d.get HBC.FREQ_STAT.Current))

/-- ERR_ADDR of a burst (R333). -/
def burstAddr (r t : Nat) : Nat := r + 2 ^ 9 * (t % 2 ^ 23)

/-! ### Urgency and commands (R314 to R316) -/

/-- The urgency of a request (R313, R314): as its source marked it, else by its age against its port's Target, which is in units of
8 ns, 10 CLK_CORE cycles. -/
def Dev.urgency (d : Dev) (r : Nat) (x : HbmReq) : Nat :=
  let t := 10 * d.get HBC.PORT_CFG.Target (r / 64) x.port
  let age := d.cyc - x.at0
  match x.mark with
  | some u => u
  | none =>
    if x.repair || !d.flag HBC.PORT_CFG.Ramp (r / 64) x.port then 0
    else if 2 * t ≤ age then 3
    else if t ≤ age then 2
    else if t ≤ 2 * age then 1
    else 0

/-- The row a bank has open in this cycle. -/
def HbmBank.openRow (b : HbmBank) (cyc : Nat) : Option Nat :=
  match b.openTo with
  | some t => if t ≤ cyc then none else b.row
  | none => b.row

/-- A bank of a pseudo-channel. -/
def HbmPc.bank (p : HbmPc) (k : Nat) : HbmBank := Tab.get {} p.banks k

/-- The predictor after the next access to a bank (R316). -/
def HbmBank.predict (b : HbmBank) (row cyc : Nat) : Nat :=
  match b.openRow cyc with
  | some x => if x = row then min 3 (b.pred + 1) else b.pred - 1
  | none => match b.last with
    | none => b.pred
    | some x => if x = row then min 3 (b.pred + 1) else b.pred - 1

/-- The requests that may be served next: of each source of a port, its earliest without its column command (R309). -/
def heads : List HbmReq → List HbmReq
  | [] => []
  | x :: q => x :: (heads q).filter fun y => !(y.port == x.port && y.src == x.src)

/-- Whether a request of urgency 3 waits for a bank (R315). -/
def Dev.bankUrgent (d : Dev) (r bk : Nat) (q : List HbmReq) : Bool :=
  q.any fun z => !z.col && (d.bankRow r z.t).1 == bk && d.urgency r z == 3

/-- Whether a request has a command that may issue: another row of its bank is not held open for a write-back, unless a request of
urgency 3 waits for the bank (R315, R316). -/
def Dev.mayIssueHbm (d : Dev) (r : Nat) (x : HbmReq) : Bool :=
  let p := d.hpc r
  let (bk, row) := d.bankRow r x.t
  let b := p.bank bk
  match b.openRow d.cyc with
  | some o => o == row || !b.held || d.bankUrgent r bk p.queue
  | none => true

/-- The request the controller serves next: highest urgency, then a row hit, then the oldest (R315). -/
def Dev.hbmChoose (d : Dev) (r : Nat) : Option HbmReq :=
  let p := d.hpc r
  let key : HbmReq → Nat := fun x =>
    let (k, row) := d.bankRow r x.t
    2 * d.urgency r x + b2n ((p.bank k).openRow d.cyc == some row)
  ((heads (p.queue.filter (!·.col))).filter (d.mayIssueHbm r)).foldl (fun (b : Option HbmReq) x => match b with
    | none => some x
    | some y => if key y < key x then some x else b) none

/-- A bank after the column command of a request to its open row (R315, R316): a read-modify-write read holds the row for its
write-back, a row so held stays held, and otherwise the predictor decides, unless a request of urgency 3 waits for the bank. -/
def HbmBank.after (b : HbmBank) (x : HbmReq) (row pred cyc rmwTo idleTo : Nat) (urgent : Bool) : HbmBank :=
  let holds := x.rmw && !x.write
  let held := b.held && !(x.rmw && x.write)
  let keep := !urgent && (holds || held || decide (2 ≤ pred))
  { row := if keep then some row else none, last := some row, pred := pred, held := keep && (holds || held)
    openTo := if !keep then none else if holds then some (cyc + rmwTo) else if held then b.openTo else some (cyc + idleTo) }

/-- A repair write that has been carried out leaves no error that the code corrects in its burst (R330). -/
def Dev.repaired (d : Dev) (r t : Nat) : Dev :=
  let p := d.hpc r
  d.setHpc r { p with flips := p.flips.filter fun (e : Nat × Nat) => !(e.1 / 4 == t && oneSymbol e.2) }

/-- The next command of a pseudo-channel. -/
def Dev.hbmCommand (d : Dev) (pc : Nat) : Dev :=
  let k := pc / 64
  match d.hbmChoose pc with
  | none => d
  | some x =>
    let p := d.hpc pc
    let (bk, row) := d.bankRow pc x.t
    let b := p.bank bk
    let pred := if x.act then b.pred else b.predict row d.cyc
    let y := { x with act := true }
    let put := fun (d : Dev) (b : HbmBank) (q : List HbmReq) (cmd : DramCmd) =>
      d.setHpc pc { d.hpc pc with banks := Tab.put {} p.banks bk b, queue := q, lastCmd := some y, retries := 0, issued := some cmd }
    let mark := p.queue.map fun z => if z == x then y else z
    match b.openRow d.cyc with
    | some o =>
      if o ≠ row then put d { b with row := none, openTo := none, held := false, pred := pred } mark (.precharge bk)
      else
        let rest := p.queue.erase x
        let b' := b.after x row pred d.cyc (d.memCyc 64) (d.memCyc 32) (d.bankUrgent pc bk rest)
        let auto := b'.row.isNone
        let col := d.column pc x.t
        let d := if x.write then put d b' rest (.write bk col auto)
          else put d b' (p.queue.map fun z => if z == x then { y with col := true } else z) (.read bk col auto)
        let d := d.count .hbc k 0x154
        let d := if x.write then d.count .hbc k 0x151 else d.count .hbc k 0x150
        let d := if x.merge then d.count .hbc k 0x150 else d
        if x.repair then (d.repaired pc x.t).count .hbc k 0x15B else d
    | none =>
      let d := put d { b with row := some row, openTo := none, held := false, pred := pred } mark (.activate bk row)
      let d := d.count .hbc k 0x153
      if x.write && x.rmw then d.count .hbc k 0x155 else d

/-! ### What reads find (R330, R331) -/

/-- An error of stored data: 1 corrected, 2 uncorrectable (R330, R333). -/
def Dev.hbmData (d : Dev) (pc t outcome : Nat) (injected : Bool) : Dev :=
  let k := pc / 64
  match outcome with
  | 1 =>
    let p := d.hpc pc
    let x : HbmReq := { port := 6, src := 1, ord := d.hbc.ord, write := true, t := t, repair := true }
    let d := d.setHpc pc { p with waiting := p.waiting ++ [x] }
    let d := { d with hbc := { d.hbc with ord := d.hbc.ord + 1 } }
    (d.count .hbc k 0x159).report .hbc k 0 (burstAddr pc t) false injected
  | 2 => (d.count .hbc k 0x15A).report .hbc k 0 (burstAddr pc t) true injected
  | _ => d

/-- What a read of a burst finds: `outcome`, but at least what is known to be stored there. -/
def HbmPc.finds (p : HbmPc) (t outcome : Nat) : Nat :=
  if p.spoiled t then 2 else if p.weak t then max 1 outcome else outcome

/-- The client of a read takes MemError in place of the data it was given (R330): a thread's result, or the descriptor that a DMA channel
moves. An RUU's is the outcome of its own commands (R170). -/
def Dev.poisonClient (d : Dev) (x : HbmReq) : Dev :=
  let d := match x.eng with
    | none => d
    | some (src, _) =>
      { d with results := d.results.map fun e => if e.src = src ∧ e.raw.isSome then { e with raw := some (toLE 8 (2 ^ 4 * 8) ++ toLE 8 0) } else e }
  match x.chan with
  | none => d
  | some c =>
    let y := d.chan c
    let descs := match (y.descs.filter fun e => e.moved != 0).getLast? with
      | none => y.descs
      | some z => y.descs.map fun e => if e.id = z.id then { e with status := 2 } else e
    d.setChan c { y with descs := descs, got := y.got.map fun g => (g.1, true) }

/-- A read completes with what HBC finds: `outcome` (R330). -/
def Dev.readEnds (d : Dev) (pc : Nat) (x : HbmReq) (outcome : Nat) (injected : Bool) : Dev :=
  let o := (d.hpc pc).finds x.t outcome
  let d := if o = 2 then d.poisonClient x else d
  if x.taken then d else d.hbmData pc x.t o injected

/-- What a lost request leaves (R331): a write, the check pattern over its burst; a read, poisoned data for its client. -/
def Dev.requestLost (d : Dev) (pc : Nat) (x : HbmReq) : Dev :=
  let p := d.hpc pc
  let same := fun (y : HbmReq) => y.ord == x.ord
  let bad := if x.write then p.bad ++ (List.range 4).map fun q => x.t * 4 + q else p.bad
  let d := d.setHpc pc { p with queue := p.queue.filter (!same ·), lastCmd := none, retries := 0, bad := bad }
  if x.write then d else (d.poisonClient x).count .hbc (pc / 64) 0x15A

/-- The stack reports a parity error (detector 1) or a CRC error (detector 2) on the last command: it is reissued, up to 3 times; then the
request is lost, and the detector reports (R331, R333). -/
def Dev.retryLast (d : Dev) (pc det : Nat) (injected : Bool) : Dev :=
  let p := d.hpc pc
  match p.lastCmd with
  | none => d
  | some x =>
    if p.retries < 3 then (d.setHpc pc { p with retries := p.retries + 1 }).count .hbc (pc / 64) 0x15C
    else (d.requestLost pc x).report .hbc (pc / 64) det (burstAddr pc x.t) true injected

/-- The last command, where a detector's injection is armed, is corrupted, as is every reissue of it while the injection stays armed (R57,
R333); a CRC is a write's. The fuel is the first issue and its 3 reissues. -/
def Dev.corrupted (pc det : Nat) : Nat → Dev → Dev
  | 0, d => d
  | n + 1, d =>
    let hit := match (d.hpc pc).lastCmd with
      | none => false
      | some x => det == 1 || x.write
    if hit && d.injects .hbc (pc / 64) det then Dev.corrupted pc det n ((d.injected .hbc (pc / 64)).retryLast pc det true) else d

/-- Commands issue until every accepted request of a pseudo-channel has had its column command; the fuel is three a request (R315). -/
def Dev.serveAll (pc : Nat) : Nat → Dev → Dev
  | 0, d => d
  | n + 1, d => if (d.hpc pc).queue.all (·.col) then d else Dev.serveAll pc n (d.hbmCommand pc)

/-- Every accepted request of a pseudo-channel completes (R327, R336): rows held open are let go, commands issue, and reads return. With
`drop` reads that have not returned are discarded instead (R336). -/
def Dev.completeAll (d : Dev) (pc : Nat) (drop : Bool) : Dev :=
  let p := d.hpc pc
  let free := p.banks.map fun (b : Nat × HbmBank) => (b.1, { b.2 with held := false })
  let d := d.setHpc pc { p with queue := if drop then p.queue.filter (·.write) else p.queue, banks := free }
  let d := Dev.serveAll pc (3 * (d.hpc pc).queue.length) d
  let left := (d.hpc pc).queue
  let d := left.foldl (fun d x => if x.write then d else d.readEnds pc x 0 false) d
  let p := d.hpc pc
  let banks := p.banks.map fun (b : Nat × HbmBank) => (b.1, { b.2 with row := none, openTo := none, held := false })
  d.setHpc pc { p with queue := [], lastCmd := none, retries := 0, banks := banks }

/-- Every request that a pseudo-channel has accepted, and every write that waits there, completes (R336): what is accepted is carried out, then
what waits is accepted as far as there is room, a Cap holding no write beyond its window. The fuel is how many wait. -/
def Chip.drainPc (r : Nat) : Nat → Chip → Chip
  | 0, c => c.upd (·.completeAll r true)
  | n + 1, c =>
    let c := c.upd fun d =>
      let d := d.completeAll r true
      d.setStack (r / 64) { d.stack (r / 64) with capBytes := [] }
    if (c.dev.hpc r).waiting.isEmpty then c else Chip.drainPc r n (c.admitPc r)

end Sys2Proof.Machine
end

