-- ==== Sys2Proof/Machine/Template.lean ====
section
/-! DEFINITION. Action templates and meter profiles: what a template word may hold (R153, R156), the operations (R155 to
R164), the ACTION (R165), and the template and profile registers (R169). -/

namespace Sys2Proof.Machine

/-! ### Staging in general (R46) -/

/-- Staged writes of a block instance that count against its capacity. -/
def Dev.stgUsed (d : Dev) (blk inst : Nat) : Nat :=
  ((d.stg.filter fun e => e.blk == blk && e.inst == inst).map (·.cost)).foldl (· + ·) 0

/-- Whether the act cycle of the armed commit has come, so that a staged write belongs to the next commit (R51). A commit that waits
for the previous generation acts in a later cycle (R52), and takes what is staged until then. -/
def Dev.actDue (d : Dev) : Bool :=
  !d.flag GLB.COMMIT_STAT.Busy && match d.glb.armed with
    | some a => decide (a.act < d.dt + d.get TIM.INCR.Incr)
    | none => false

/-- Staged writes take effect: those in or after the act cycle of the armed commit are counted as late (R51). -/
def Dev.putStaged (d : Dev) (es : List StgEntry) : Dev :=
  { d with stg := d.stg ++ es, stgLate := if d.actDue || decide (0 < d.stgLate) then d.stgLate + es.length else d.stgLate }

/-- A staged write within the capacity; `none`, with the overflow status set, beyond it (R46). -/
def Dev.stage (d : Dev) (blk inst cost cap : Nat) (w : StgWrite) : Option Dev :=
  if cap < d.stgUsed blk inst + cost then none else some (d.putStaged [⟨blk, inst, cost, w⟩])

/-- The staging-overflow status of a block is set. -/
def Dev.overflows (d : Dev) (blk : Nat) : Dev :=
  { d with overflow := if d.overflow.contains blk then d.overflow else blk :: d.overflow }

/-! ### Template words -/

/-- Whether an operation word is accepted at write: its opcode, lane, function and action are assigned, and no bit is set
outside its fields (R156). -/
def opValid (w : Nat) : Bool :=
  let m := bits w 8 8
  let o := bits w 16 48
  match w % 32 with
  | 0 => m == 0 && o == 0
  | 1 => decide (m < 2) && decide (o < 2 ^ 8)
  | 2 => decide (m < 4) && decide (o < 2 ^ 32)
  | 3 => decide (m < 7) && decide (o < 2 ^ 16)
  | 4 => decide (m < 24) && m % 8 != 7 && decide (o < 2 ^ 16)
  | 5 => decide (m < 7)
  | 6 => decide (m < 8) && o == 0
  | 7 => m == 0 && o == 0
  | 8 => m == 0 && decide (o < 2 ^ 8)
  | 9 => decide (m < 32) && m % 4 != 3 && o == 0
  | _ => false

/-- Whether a template header is accepted at write: OpCount at most 8, BaseAction assigned, reserved bits 0 (R153). -/
def headerValid (w : Nat) : Bool := decide (w % 16 ≤ 8) && bits w 27 2 != 3 && bits w 59 5 == 0

/-- Whether a word of a template is accepted at write. -/
def tplWordValid (word v : Nat) : Bool :=
  if word = 0 then headerValid v else decide (word ≤ 8) && opValid v

/-- A word of a template. -/
def TplTable.word (t : TplTable) (i w : Nat) : Nat := Tab.get 0 t.words (i * 16 + w)

/-- A meter profile as the number its 16 bytes spell. -/
def TplTable.profile (t : TplTable) (i : Nat) : Nat := Tab.get 0 t.profiles i

/-- The template table of a packet's generation (R154): the previous copy for a packet accepted before the act. -/
def Dev.tplOf (d : Dev) (gen : Nat) : TplTable :=
  if gen = d.get GLB.COMMIT_STAT.Gen then d.tpl else d.tplPrev

/-! ### Operations -/

/-- What a template runs on: the working image, the registers of R155, and the request's inputs. -/
structure OpState where
  img : Nat
  flag : Bool := false
  /-- 0 Green, 1 Yellow, 2 Red, 3 None. -/
  colour : Nat := 3
  action : Nat
  prio : Nat
  wraps : Nat := 0
  inserted : Bool
  hasPkt : Bool
  len : Nat
  stamp : Nat
  tcpFlags : Nat
  dei : Bool
  rclk : Nat
  mclk : Nat
  /-- LastSeen as it stood before this request (R164). -/
  lastSeen : Nat
  tables : TplTable

/-- Low bit and width of a lane (R157). -/
def laneField : Nat → Nat × Nat
  | 0 => (448, 16)
  | 1 => (464, 16)
  | 2 => (480, 16)
  | 3 => (496, 16)
  | 4 => (352, 16)
  | 5 => (180, 12)
  | _ => (160, 3)

/-- Whether an operation's condition holds (R157). -/
def condHolds (s : OpState) : Nat → Bool
  | 0 => true
  | 1 => s.flag
  | 2 => !s.flag
  | 3 => s.colour == 0
  | 4 => s.colour == 1
  | 5 => s.colour == 2
  | 6 => s.inserted
  | _ => !s.inserted

/-- An addition to a field that saturates or wraps: the new value and whether it wrapped (R158). -/
def addField (w old n : Nat) (sat : Bool) : Nat × Nat :=
  if old + n < 2 ^ w then (old + n, 0)
  else if sat then (2 ^ w - 1, 0) else ((old + n) % 2 ^ w, 1)

/-- COUNT (R158). -/
def opCount (s : OpState) (w : Nat) : OpState :=
  let sat := bit w 8
  let (p, wp) := addField 40 (recPackets s.img) 1 sat
  let n := ((s.len : Int) + sint 8 (bits w 16 8)).toNat
  let (b, wb) := addField 56 (recBytes s.img) n sat
  { s with img := putBits (putBits s.img 256 40 p) 296 56 b, wraps := s.wraps + wp + wb }

/-- ADD (R159). -/
def opAdd (s : OpState) (w : Nat) : OpState :=
  let lo := if bit w 9 then 480 else 448
  let sum : Int := (bits s.img lo 32 : Int) + sint 32 (bits w 16 32)
  let v := if bit w 8 then (min (max sum 0) (2 ^ 32 - 1)).toNat else uint 32 sum
  { s with img := putBits s.img lo 32 v }

/-- SET (R156, R157). -/
def opSet (s : OpState) (w : Nat) : OpState :=
  let (lo, n) := laneField (bits w 8 3)
  { s with img := putBits s.img lo n (bits w 16 16) }

/-- BITS (R156): Flag is 1 when no masked bit of the old lane was set. -/
def opBits (s : OpState) (w : Nat) : OpState :=
  let (lo, n) := laneField (bits w 8 3)
  let old := bits s.img lo n
  let m := bits w 16 16 % 2 ^ n
  let v := match bits w 11 2 with
    | 0 => old ||| m
    | 1 => old &&& (2 ^ n - 1 - m)
    | _ => old ^^^ m
  { s with img := putBits s.img lo n v, flag := (old &&& m) == 0 }

/-- CAS (R159). -/
def opCas (s : OpState) (w : Nat) : OpState :=
  let (lo, n) := laneField (bits w 8 3)
  let old := bits s.img lo n
  let m := bits w 16 16 % 2 ^ n
  if old &&& m = (bits w 32 16 % 2 ^ n) &&& m then
    { s with flag := true, img := putBits s.img lo n ((old &&& (2 ^ n - 1 - m)) ||| ((bits w 48 16 % 2 ^ n) &&& m)) }
  else { s with flag := false }

/-- STAMP (R160). -/
def opStamp (s : OpState) (w : Nat) : OpState :=
  let lo := if bit w 8 then 480 else 448
  let v := match bits w 9 2 with
    | 0 => s.stamp % 2 ^ 32
    | 1 => s.stamp / 2 ^ 32
    | 2 => s.rclk
    | _ => s.mclk
  { s with img := putBits s.img lo 32 v }

/-- METER: the trTCM update of R163, with the fill of R164. -/
def opMeter (s : OpState) : OpState :=
  let sel := recMeterProfile s.img
  let p := s.tables.profile (sel % 4096)
  let cir := bits p 0 32
  let pir := bits p 32 32
  let cbs := bits p 64 24
  let pbs := bits p 88 24
  let fill := s.inserted || decide (2 ^ 22 ≤ (s.rclk + 2 ^ 32 - s.lastSeen) % 2 ^ 32)
  let t := if fill then s.mclk else recMeterTime s.img
  let c0 := if fill then cbs else recTokensC s.img
  let p0 := if fill then pbs else recTokensP s.img
  let e := (s.mclk + 2 ^ 32 - t) % 2 ^ 32
  let tc := min cbs (c0 + (t + e) * cir / 65536 - t * cir / 65536)
  let tp := min pbs (p0 + (t + e) * pir / 65536 - t * pir / 65536)
  let b := ((s.len : Int) + sint 8 (bits p 112 8)).toNat
  let preYellow := bit sel 12 && s.dei
  let (col, tc', tp') :=
    if tp < b then (2, tc, tp)
    else if preYellow || decide (tc < b) then (1, tc, tp - b)
    else (0, tc - b, tp - b)
  { s with img := putBits (putBits (putBits s.img 368 32 s.mclk) 400 24 tc') 424 24 tp', colour := col }

/-- One operation word (R156). `actOff` leaves ACT operations out, for an engine Ops request (R145). -/
def runOp (actOff : Bool) (s : OpState) (w : Nat) : OpState :=
  if !condHolds s (bits w 5 3) then s
  else match w % 32 with
    | 1 => opCount s w
    | 2 => opAdd s w
    | 3 => opSet s w
    | 4 => opBits s w
    | 5 => opCas s w
    | 6 => opStamp s w
    | 7 => opMeter s
    | 8 => { s with flag := (s.tcpFlags &&& bits w 16 8) != 0 }
    | 9 => if actOff then s else
        { s with action := bits w 8 2, prio := if bits w 8 2 = 2 then bits w 10 3 else s.prio }
    | _ => s

/-- The operations of a template run in order: the first OpCount words (R153, R155). -/
def runTemplate (t : TplTable) (i : Nat) (s : OpState) : OpState :=
  ((List.range (min (t.word i 0 % 16) 8)).map fun k => t.word i (k + 1)).foldl (runOp false) s

/-- The 128-bit ACTION (R165). -/
def actionWord (action : Nat) (record inserted : Bool) (colour actFmt prio : Nat) (flag : Bool) (entry : Nat) (img : Nat)
    (l : Option Loc) : Nat :=
  let pin := actFmt == 1 && record && !bit (recAct img) 31
  action + 2 ^ 2 * b2n record + 2 ^ 3 * b2n inserted + 2 ^ 4 * b2n (record && recRebirth img) + 2 ^ 5 * colour +
    2 ^ 7 * b2n (record && recLedger img) + (if record then 2 ^ 8 * recStream img else 0) + 2 ^ 12 * actFmt +
    2 ^ 14 * prio + 2 ^ 17 * b2n pin + 2 ^ 18 * b2n flag + (if record then 2 ^ 20 * recUserFlags img else 0) +
    (if record then 2 ^ 32 * recAct img + 2 ^ 64 * recState img else 0) + 2 ^ 96 * entry +
    2 ^ 111 * ((l.map (·.way)).getD 0) + 2 ^ 112 * ((l.map (·.set)).getD 0)

/-! ### The template and profile registers (R169) -/

/-- COMMIT_MASK bit of the action templates (R48) and their staging capacity in words (R169). -/
def tplBit : Nat := 9
def tplCap : Nat := 16384

/-- A refused Write: TPL_STAT reports the reason. -/
def Dev.tplRefuse (d : Dev) (r reason : Nat) : Dev :=
  (d.set RUU.TPL_STAT.Refused 1 r).set RUU.TPL_STAT.Reason reason r

/-- TPL_STAT.Staged of RUU0: word writes pending (R169). -/
def Dev.syncTplStaged (d : Dev) : Dev := d.set RUU.TPL_STAT.Staged (d.stgUsed tplBit 0) 0

/-- TPL_CMD Write (R169). -/
def Dev.tplWrite (d : Dev) (r : Nat) : Dev :=
  let i := d.get RUU.TPL_SEL.Index r
  let w := d.get RUU.TPL_SEL.Word r
  let v := d.get RUU.TPL_DATA.Data r
  if r ≠ 0 then d.tplRefuse r 3
  else if !tplWordValid w v then d.tplRefuse r 1
  else match d.stage tplBit 0 1 tplCap (.tpl i w v) with
    | none => (d.tplRefuse r 2).overflows tplBit
    | some d => (d.syncTplStaged).set RUU.TPL_STAT.Refused 0 r

/-- The staged value of a template word: the latest staged write of it, else the active one. -/
def Dev.tplStaged (d : Dev) (i w : Nat) : Nat :=
  match (d.stg.filterMap fun e => match e.w with
      | .tpl i' w' v => if i' = i ∧ w' = w then some v else none
      | _ => none).getLast? with
  | some v => v
  | none => d.tpl.word i w

/-- The staged value of a meter profile. -/
def Dev.mpfStaged (d : Dev) (i : Nat) : Nat :=
  match (d.stg.filterMap fun e => match e.w with
      | .mpf i' v => if i' = i then some v else none
      | _ => none).getLast? with
  | some v => v
  | none => d.tpl.profile i

/-- MPF_CMD Write: both words of a profile (R169). One whose byte 15, which R162 gives as 0, is not 0 is refused as an invalid word: R169
names only words that break R153 or R156 (DESIGN CHOICE, log entry 114). -/
def Dev.mpfWrite (d : Dev) (r : Nat) : Dev :=
  let v := d.get RUU.MPF_DATA_LO.Lo r + 2 ^ 64 * d.get RUU.MPF_DATA_HI.Hi r
  if r ≠ 0 then d.tplRefuse r 3
  else if bits v 120 8 ≠ 0 then d.tplRefuse r 1
  else match d.stage tplBit 0 2 tplCap (.mpf (d.get RUU.MPF_SEL.Profile r) v) with
    | none => (d.tplRefuse r 2).overflows tplBit
    | some d => (d.syncTplStaged).set RUU.TPL_STAT.Refused 0 r

/-- A profile is loaded into MPF_DATA. -/
def Dev.mpfLoad (d : Dev) (r v : Nat) : Dev :=
  (d.set RUU.MPF_DATA_LO.Lo v r).set RUU.MPF_DATA_HI.Hi (v / 2 ^ 64) r

/-- TPL_CMD Write (R169). -/
def execTplCmdWrite (fn ruu : Nat) (s : State) : Host.Outcome State Fault Refusal :=
  nextD s fun d => d.gate fn .ruu ruu 0x250 (·.tplWrite ruu)

/-- TPL_CMD Read: the active word into TPL_DATA (R169). -/
def execTplCmdRead (fn ruu : Nat) (s : State) : Host.Outcome State Fault Refusal :=
  nextD s fun d => d.gate fn .ruu ruu 0x250 fun d =>
    d.set RUU.TPL_DATA.Data (d.tpl.word (d.get RUU.TPL_SEL.Index ruu) (d.get RUU.TPL_SEL.Word ruu)) ruu

/-- TPL_CMD ReadStaged: the staged word into TPL_DATA, through RUU0 only (R169); through another page it loads nothing. -/
def execTplCmdReadStaged (fn ruu : Nat) (s : State) : Host.Outcome State Fault Refusal :=
  nextD s fun d => d.gate fn .ruu ruu 0x250 fun d =>
    if ruu ≠ 0 then d
    else d.set RUU.TPL_DATA.Data (d.tplStaged (d.get RUU.TPL_SEL.Index 0) (d.get RUU.TPL_SEL.Word 0)) 0

/-- MPF_CMD Write (R169). -/
def execMpfCmdWrite (fn ruu : Nat) (s : State) : Host.Outcome State Fault Refusal :=
  nextD s fun d => d.gate fn .ruu ruu 0x278 (·.mpfWrite ruu)

/-- MPF_CMD Read: the active profile into MPF_DATA (R169). -/
def execMpfCmdRead (fn ruu : Nat) (s : State) : Host.Outcome State Fault Refusal :=
  nextD s fun d => d.gate fn .ruu ruu 0x278 fun d => d.mpfLoad ruu (d.tpl.profile (d.get RUU.MPF_SEL.Profile ruu))

/-- MPF_CMD ReadStaged: the staged profile into MPF_DATA, through RUU0 only (R169). -/
def execMpfCmdReadStaged (fn ruu : Nat) (s : State) : Host.Outcome State Fault Refusal :=
  nextD s fun d => d.gate fn .ruu ruu 0x278 fun d =>
    if ruu ≠ 0 then d else d.mpfLoad 0 (d.mpfStaged (d.get RUU.MPF_SEL.Profile 0))

end Sys2Proof.Machine
end

