-- ==== Sys2Proof/Machine/Ruu.lean ====
section
/-! DEFINITION. The record update units: the request queue (R142, R143), the record cache (R148 to R150), the evaluation of
every kind of request against the record as earlier requests left it (R111 to R134, R144 to R147, R151 to R155, R168,
R172), and their commands. -/

namespace Sys2Proof.Machine

/-! ### The record cache (R148 to R150) -/

/-- The cache mode of the request that an RUU is taking at its head or carrying out: off while its partition is being reset (R171);
Mode 3 acts as 2 (R150). -/
def Dev.rccMode (d : Dev) (r : Nat) : Nat :=
  if d.fab.inReset.contains (Blk.rcc.page r) then 2 else min 2 (d.ruu r).mode

/-- A request at the head of the queue finds the cache mode in RCC.CFG (R150); one that is carried out runs under the mode it found. -/
def Dev.underMode (d : Dev) (r m : Nat) : Dev := d.setRuu r { d.ruu r with mode := m }

/-- The set of a line (R148). -/
def lineSet (way idx : Nat) : Nat := (idx % 64) ^^^ (32 * way)

/-- Whether a line caches a location. -/
def Line.at (x : Line) (l : Loc) : Bool := x.set == l.set && x.way == l.way && x.idx == l.idx

/-- The cached line of a location, where the mode uses the cache. -/
def Dev.cached (d : Dev) (l : Loc) : Option Line :=
  if d.rccMode l.ruu = 2 then none else (d.ruu l.ruu).lines.find? (·.at l)

/-- The record image of a slot: the cached line's, else HBM's. -/
def Chip.slot (c : Chip) (l : Loc) : Nat :=
  match c.dev.cached l with
  | some x => x.image
  | none => ofLE (Mem.readN c.hbm (c.dev.locAddr l) 64)

/-- STAT_C brought up to date (R150). -/
def Dev.syncRcc (d : Dev) (r : Nat) : Dev :=
  let x := d.ruu r
  (d.set RCC.STAT_C.Lines x.lines.length r).set RCC.STAT_C.Dirty (x.lines.filter (·.dirty)).length r

/-- A record image written to HBM through the port of the slot's pseudo-channel (R146); `rmw` says that it follows the read of the same
slot (R148, R316). -/
def Chip.hbmSlot (c : Chip) (l : Loc) (img : Nat) (rmw : Bool := false) : Chip :=
  c.hbmWrite 0 l.ruu (c.dev.locAddr l) (toLE 64 img) rmw

/-- Whether a line is in service: a request of its row is (R148). -/
def Ruu.inService (x : Ruu) (r : Nat) (ln : Line) : Bool :=
  x.service.any fun s => s.row.any fun l => l.ruu == r && ln.at l

/-- The victim of an allocation: the least recently used line of the set that is neither in service nor young (R148). -/
def Ruu.victim (x : Ruu) (r cyc : Nat) (set : Nat) : Option Line :=
  let ok := x.lines.filter fun ln =>
    lineSet ln.way ln.idx == set && !x.inService r ln &&
      (match ln.young with
       | none => true
       | some t => decide (t ≤ cyc))
  ok.foldl (fun (best : Option Line) ln =>
    match best with
    | none => some ln
    | some b => if ln.used < b.used then some ln else best) none

/-- A line is allocated for a location, clean, evicting a victim if the set is full; a dirty victim is written back; with
no eligible victim nothing is allocated (R148). -/
def Chip.allocate (c : Chip) (l : Loc) (img : Nat) (young : Option Nat) : Chip :=
  let r := l.ruu
  let x := c.dev.ruu r
  let set := lineSet l.way l.idx
  let ln : Line := ⟨l.set, l.way, l.idx, img, false, young, x.useTick⟩
  let add := fun (c : Chip) (drop : Option Line) => c.upd fun d =>
    let x := d.ruu r
    let keep := match drop with
      | none => x.lines
      | some v => x.lines.filter (· ≠ v)
    (d.setRuu r { x with lines := ln :: keep, useTick := x.useTick + 1 }).syncRcc r
  if (x.lines.filter fun e => lineSet e.way e.idx == set).length < 16 then add c none
  else match x.victim r c.dev.cyc set with
    | none => c.upd (·.count .rcc r 0x0A3)
    | some v =>
      let c := if v.dirty then
          (c.hbmSlot ⟨r, v.set, v.way, v.idx⟩ v.image).upd (·.count .rcc r 0x0A2)
        else c
      add c (some v)

/-- The cached line of a location marked used now. -/
def Dev.touch (d : Dev) (l : Loc) : Dev :=
  let x := d.ruu l.ruu
  let lines := x.lines.map fun e => if e.at l then { e with used := x.useTick } else e
  d.setRuu l.ruu { x with lines := lines, useTick := x.useTick + 1 }

/-- A slot is left with the image `img`, which differs from the one read if `changed`. `alloc` says the request hits or
inserts into the slot; `young` is the young time of an inserted line. The cache mode decides what is written (R148,
R150, R155). -/
def Chip.putSlot (c : Chip) (l : Loc) (img : Nat) (changed alloc : Bool) (young : Option Nat) : Chip :=
  match c.dev.rccMode l.ruu with
  | 2 => if changed then c.hbmSlot l img true else c
  | m =>
    let c := if changed && m == 1 then c.hbmSlot l img (c.dev.cached l).isNone else c
    match c.dev.cached l with
    | some _ =>
      c.upd fun d =>
        let x := d.ruu l.ruu
        let lines := x.lines.map fun e =>
          if e.at l then
            { e with image := img, dirty := e.dirty || (changed && m == 0), young := young.orElse fun _ => e.young }
          else e
        ((d.setRuu l.ruu { x with lines := lines }).touch l).syncRcc l.ruu
    | none =>
      let c := if changed && m == 0 then c.hbmSlot l img true else c
      if alloc then c.allocate l img young else c

/-- Every dirty line of a partition written back; the lines stay, clean (R150). -/
def Chip.writeBack (c : Chip) (r : Nat) : Chip :=
  let dirty := (c.dev.ruu r).lines.filter (·.dirty)
  let c := dirty.foldl (fun c v => (c.hbmSlot ⟨r, v.set, v.way, v.idx⟩ v.image).upd (·.count .rcc r 0x0A2)) c
  c.upd fun d =>
    let x := d.ruu r
    (d.setRuu r { x with lines := x.lines.map fun e => { e with dirty := false } }).syncRcc r

/-- Every line of a partition invalidated. -/
def Dev.invalidate (d : Dev) (r : Nat) : Dev :=
  (d.setRuu r { d.ruu r with lines := [] }).syncRcc r

/-! ### Removal and insertion -/

/-- A read of the annex entry of a handle by RUU `r`, through the port of the entry's pseudo-channel (R105, R146), and whether it is
uncorrectable. An entry may lie in two bursts. -/
def Chip.readAnnex (c : Chip) (r h : Nat) : Chip × List Byte × Bool :=
  let a := annexAddr h
  let c' := c.hbmRead 0 r a
  let c' := if a / 64 = (a + 47) / 64 then c' else c'.hbmRead 0 r (a + 47)
  (c', Mem.readN c.hbm a 48, c.dev.spanBad a 48)

/-- An IPFIX record is lost: it counts, and the sequence number advances, so that a collector sees the gap (R487). -/
def Dev.ipxLose (d : Dev) : Dev := ((d.bump PMC.IPX_LOST.Count).bump PMC.IPX_SEQ.Seq).count .pmc 0 0x1F1

/-- A record of RUU `r` that ends, or an interim record, is staged for IPFIX export when its class is selected and the ring has a
slot: the key, the record and the reason, through client port 4 (R486, R487); otherwise it is lost, and the sequence number still
advances. -/
def Chip.ipxStage (c : Chip) (r img reason : Nat) : Chip :=
  let d := c.dev
  if !d.flag PMC.IPX_CFG.Enable || !bit (d.get PMC.IPX_CFG.ClassMask) (recAge img) then c
  else if d.ipxSlots ≤ d.pmc.ipxRing.length then
    c.upd (·.ipxLose)
  else
    let (c, key, _) := c.readAnnex r (recHandle img)
    let j := d.pmc.ipxHead
    let a := ringAddr (d.get PMC.IPX_RING.Offset) (d.get PMC.IPX_RING_SIZE.SlotsLog2) j
    let bytes := key ++ toLE 64 img ++ [BitVec.ofNat 8 reason] ++ List.replicate 15 0
    (c.hbmWrite 4 0 a bytes).upd fun d => { d with pmc := { d.pmc with ipxHead := j + 1, ipxRing := d.pmc.ipxRing ++ [(j, d.cyc)] } }

/-- The record of a slot is removed: the slot is emptied, the handle returned, the event posted (R118, R133, R145).
`typ` is the event type; `why` the IPFIX reason; `alloc`: a Delete that hits, whose slot is allocated (R148). -/
def Chip.removeRec (c : Chip) (l : Loc) (img typ : Nat) (host : Bool) (why : Nat) (alloc : Bool := false) : Chip :=
  let c := c.ipxStage l.ruu img why
  let e := putBits (Config.emptied c.dev.free).toNat 158 1 0
  let c := c.upd fun d => { d with free := d.free + 1 }
  let c := c.putSlot l e true alloc none
  c.upd fun d =>
    let d := d.flowEvent typ host l img
    let d := d.giveBack l.ruu (recHandle img)
    let d := if typ = 5 then d else d.remember l.ruu (recDigest img)
    let d := d.dropRecord
    match typ with
    | 2 => d.count .ftb 0 0x072
    | 3 => d.count .ftb 0 0x073
    | _ => d.count .ftb 0 0x078

/-- Why an insert cannot be made: the failure reason of R115 in the order RowFull, PoolEmpty, StockEmpty (log entry 21),
or the slot it takes (R113). -/
def Chip.insertSlot (c : Chip) (dg : Nat) : Except Nat Loc :=
  match (c.dev.insertLocs dg).find? fun l => !recValid (c.slot l) with
  | none => .error 0
  | some l =>
    if (c.dev.ruu l.ruu).stock.isEmpty then .error (if c.dev.poolFree = 0 then 1 else 2) else .ok l

/-- A record is inserted (R113, R126, R152): annex entry, then the slot. `mk` makes the image from the handle and the
rebirth flag; the event and count of a host insert differ from those of the data path. `aerr`: the annex write reports an uncorrectable
error, which is reason 5 of R115; no slot is written then. -/
def Chip.insertRec (c : Chip) (dg : Nat) (key : List Byte) (mk : Nat → Bool → Nat) (host aerr : Bool) : Except Nat (Chip × Loc × Nat) :=
  match c.insertSlot dg with
  | .error e => .error e
  | .ok l =>
    if aerr then .error 5 else
    match c.dev.issue l.ruu with
    | none => .error 2
    | some (h, d) =>
      let reb := d.reborn l.ruu dg
      let img := mk h reb
      let d := if reb then (d.forget l.ruu dg).count .ftb 0 0x074 else d
      let c := Chip.hbmWrite { c with dev := d } 0 l.ruu (annexAddr h) (sliceB key 0 48)
      let c := c.putSlot l img true true (some (d.cyc + 4096))
      let c := c.upd fun d => (d.addRecord).count .ftb 0 (if host then 0x071 else 0x070)
      .ok (c, l, img)

/-- The hit of a digest: the first of its slots that is Valid and holds it, way 0 first, and whether another one does too
(R112). -/
def Chip.hit (c : Chip) (dg : Nat) : Option (Loc × Nat) × Bool :=
  let all := (c.dev.lookupLocs dg).filterMap fun l =>
    let img := c.slot l
    if recValid img && recDigest img == dg then some (l, img) else none
  (all.head?, decide (1 < all.length))

/-- A duplicate digest in one row is counted and posted (R112). -/
def Chip.noteDup (c : Chip) (l : Loc) (img : Nat) (dup : Bool) (host : Bool := false) : Chip :=
  if dup then c.upd fun d => (d.flowEvent 4 host l img).count .ftb 0 0x076 else c

/-- RUU detector 4 reports a slot, or the annex entry of the record in it, that cannot be read (R170). -/
def Dev.slotError (d : Dev) (r : Nat) (l : Loc) (injected : Bool := false) : Dev :=
  (d.report .ruu r 4 l.word true injected).postSys .ruu r 1 [l.word, d.get FTB.EPOCH.Epoch + 2 ^ 16]

/-- Whether a hit record's annex holds a key (R122); none where it cannot be read, which is reported (R170). `aerr`: HBC says that
it cannot. -/
def Chip.annexIs (c : Chip) (l : Loc) (img : Nat) (key : List Byte) (aerr : Bool) : Chip × Option Bool :=
  let (c, b, bad) := c.readAnnex l.ruu (recHandle img)
  if bad || aerr then (c.upd (·.slotError l.ruu l), none) else (c, some (b == sliceB key 0 48))

/-- A request that hits a slot and leaves its record as it is allocates the slot or marks its line used (R148). -/
def Chip.hitSlot (c : Chip) (l : Loc) (img : Nat) : Chip := c.putSlot l img false true none

/-- A collision is counted and posted (R122, R123, R127, R141). -/
def Chip.collision (c : Chip) (l : Loc) (img : Nat) (host : Bool) : Chip :=
  c.upd fun d => (d.flowEvent 4 host l img).count .ftb 0 0x075

/-- A collision that a flow engine's request by key or Insert meets is posted; 0x075 does not count it (R141). The manual gives that
request no event of its own (DESIGN CHOICE, log entry 92). -/
def Chip.engCollision (c : Chip) (l : Loc) (img : Nat) : Chip := (c.hitSlot l img).upd (·.flowEvent 4 false l img)

/-- An insert that fails is counted under 0x07B (R141). -/
def Chip.insertFails (c : Chip) : Chip := c.upd fun d => d.count .ftb 0 0x07B

/-! ### Packets -/

/-- A packet. -/
def Dev.pkt (d : Dev) (pid : Nat) : Pkt := Tab.get {} d.pkts pid

/-- The device with a packet replaced. -/
def Dev.setPkt (d : Dev) (pid : Nat) (p : Pkt) : Dev := { d with pkts := Tab.set d.pkts pid p }

/-- The headers a packet's flow key uses (R65). -/
def Dev.keyL3 (d : Dev) (p : Pkt) : Option L3 :=
  if d.cfgOf p.gen PRS.KP_SEL.Inner p.slice p.profile != 0 && p.parsed.tun != 0 then p.parsed.inner else p.parsed.outer

/-- The state operations start from for a packet's request (R155). -/
def Dev.opStart (d : Dev) (p : Pkt) (t : TplTable) (tpl img lastSeen : Nat) (inserted : Bool) : OpState :=
  let h := t.word tpl 0
  let l3 := d.keyL3 p
  { img := img, action := bits h 27 2, prio := bits h 29 3, inserted := inserted, hasPkt := true, len := p.len,
    stamp := compact p.stamp,
    tcpFlags := (l3.map fun x => if x.proto = 6 && !x.frag then x.tcpFlags else 0).getD 0,
    dei := bit (p.parsed.tags.headD 0) 12, rclk := d.rclk, mclk := d.mclk, lastSeen := lastSeen, tables := t }

/-- The ACTION returned to the slice with its counts (R165, R173). -/
def Dev.returnAction (d : Dev) (r pid act : Nat) (l : Option Loc) (handle : Nat) (img : Nat := 0) : Dev :=
  let d := d.setPkt pid { d.pkt pid with action := some act, loc := l, handle := handle, recB := img }
  let d := match act % 4 with
    | 1 => d.count .ruu r 0x085
    | 2 => d.count .ruu r 0x084
    | 3 => d.count .ruu r 0x086
    | _ => d
  match bits act 5 2 with
    | 0 => d.count .ruu r 0x087
    | 1 => d.count .ruu r 0x088
    | 2 => d.count .ruu r 0x089
    | _ => d

/-- The Spillway action: no record, Colour None (R115, R165). -/
def spillAction : Nat := actionWord 3 false false 3 0 0 false 0 0 none

/-- Whether a packet whose slots `bad` cannot be read is inserting: its miss template inserts, and no slot that can be read holds its
digest (R115, R147, R170). -/
def Chip.inserting (c : Chip) (pid : Nat) (bad : List Loc) : Bool :=
  let p := c.dev.pkt pid
  let mh := (c.dev.tplOf p.gen).word (c.dev.cfgOf p.gen PRS.KP_TPL.TplSel p.slice p.profile) 0
  bits mh 4 2 == 1 && !((c.dev.lookupLocs p.digest).any fun l =>
    !bad.contains l && recValid (c.slot l) && recDigest (c.slot l) == p.digest)

/-- A packet takes Spillway, counted by a reason of R115 where it fails to insert. -/
def Chip.spill (c : Chip) (r pid : Nat) (reason : Option Nat) : Chip := c.upd fun d =>
  let p := d.pkt pid
  let d := match reason with
    | none => d
    | some k => d.countFail p.slice p.profile k
  d.returnAction r pid spillAction none 0

/-- A packet's hit: the template runs on the record (R151, R155), and the verify read of R123 falls due; `aerr` says that HBC
reported the annex read. -/
def Chip.packetHit (c : Chip) (r pid : Nat) (l : Loc) (img : Nat) (aerr : Bool) : Chip :=
  let p := c.dev.pkt pid
  let t := c.dev.tplOf p.gen
  let c := c.upd (·.count .ruu r 0x081)
  let x := c.dev.ruu r
  let n := c.dev.get FTB.VERIFY_CFG.Interval
  let verify := n != 0 && (x.hits + 1) % max 256 n == 0
  let c := c.upd fun d => d.setRuu r { d.ruu r with hits := x.hits + 1 }
  let (c, same) := if verify then c.annexIs l img p.key aerr else (c, some true)
  match same with
  | none => c.spill r pid none
  | some false => ((c.hitSlot l img).collision l img false).spill r pid (some 4)
  | some true =>
    let tpl := recTemplate img
    let o := runTemplate t tpl (c.dev.opStart p t tpl (putBits img 224 32 c.dev.rclk) (recLast img) false)
    let c := c.putSlot l o.img (o.img != img) true none
    let h := t.word tpl 0
    c.upd fun d =>
      let d := if 0 < o.wraps then d.count .ruu r 0x08A o.wraps else d
      d.returnAction r pid (actionWord o.action true false o.colour (bits h 16 2) (if o.action = 2 then o.prio else 0)
        o.flag (if o.action = 2 then bits h 32 15 else 0) o.img (some l)) (some l) (recHandle o.img) o.img

/-- A packet's miss under MissMode 1: the insert, and the miss template on the new record (R113, R115, R151, R152). -/
def Chip.packetInsert (c : Chip) (r pid : Nat) (aerr : Bool) : Chip :=
  let d := c.dev
  let p := d.pkt pid
  let t := d.tplOf p.gen
  let tplSel := d.cfgOf p.gen PRS.KP_TPL.TplSel p.slice p.profile
  let mh := t.word tplSel 0
  if !d.flag FTB.CTL_FT.InsertEnable || decide (d.phase < 2) then c.spill r pid (some 3)
  else
    let mk := fun (h : Nat) (reb : Bool) =>
      p.digest + 2 ^ 128 * h + 2 ^ 158 + 2 ^ 159 * bits mh 21 1 + 2 ^ 160 * bits mh 18 3 + 2 ^ 163 * bits mh 22 1 +
        2 ^ 164 * bits mh 23 4 + 2 ^ 169 * b2n reb + 2 ^ 170 * bits mh 6 10 + 2 ^ 180 * bits mh 47 12 +
        2 ^ 192 * d.rclk + 2 ^ 224 * d.rclk
    let run := fun (img : Nat) => runTemplate t tplSel (d.opStart p t tplSel img d.rclk true)
    match c.insertRec p.digest p.key (fun h reb => (run (mk h reb)).img) false aerr with
    | .error e => c.spill r pid (some e)
    | .ok (c, l, img) =>
      let o := run (mk (recHandle img) (recRebirth img))
      c.upd fun d =>
        let d := (d.flowEvent 1 false l img).count .ruu r 0x083
        let d := if 0 < o.wraps then d.count .ruu r 0x08A o.wraps else d
        d.returnAction r pid (actionWord o.action true true o.colour (bits mh 16 2) (if o.action = 2 then o.prio else 0)
          o.flag (if o.action = 2 then bits mh 32 15 else 0) img (some l)) (some l) (recHandle img) img

/-- A packet's request at its turn (R112, R113, R115, R123, R151, R152, R155). `bad` are slots that cannot be read (R170); `aerr` says
that HBC reported its annex access. On a miss without a record no template runs, so ActFmt is 0 (R151, R165). -/
def Chip.evalPacket (c : Chip) (r pid : Nat) (bad : List Loc) (aerr : Bool) : Chip :=
  let d := c.dev
  let p := d.pkt pid
  let mh := (d.tplOf p.gen).word (d.cfgOf p.gen PRS.KP_TPL.TplSel p.slice p.profile) 0
  if !bad.isEmpty then c.spill r pid (if c.inserting pid bad then some 5 else none)
  else match c.hit p.digest with
    | (some (l, img), dup) => (c.noteDup l img dup).packetHit r pid l img aerr
    | (none, _) =>
      let c := c.upd (·.count .ruu r 0x082)
      match bits mh 4 2 with
      | 1 => c.packetInsert r pid aerr
      | 2 => c.upd (·.returnAction r pid (actionWord 2 false false 3 0 (bits mh 29 3) false (bits mh 32 15) 0 none) none 0)
      | 3 => c.upd (·.returnAction r pid (actionWord 1 false false 3 0 0 false 0 0 none) none 0)
      | _ => c.upd (·.returnAction r pid (actionWord 0 false false 3 0 0 false 0 0 none) none 0)

/-! ### Pin updates, engine requests, host commands -/

/-- A pin update at its turn (R149, R168). -/
def Chip.evalPin (c : Chip) (l : Loc) (handle member : Nat) : Chip :=
  match c.dev.cached l with
  | none => c.upd (·.count .ruu l.ruu 0x08C)
  | some x =>
    if recValid x.image && recHandle x.image == handle && !bit (recAct x.image) 31 then
      let img := putBits (putBits x.image 448 12 member) 479 1 1
      let through := c.dev.rccMode l.ruu == 1
      let c := if through then c.hbmSlot l img else c
      c.upd fun d =>
        let y := d.ruu l.ruu
        let lines := y.lines.map fun e => if e.at l then { e with image := img, dirty := !through, young := none } else e
        (((d.setRuu l.ruu { y with lines := lines }).touch l).syncRcc l.ruu).count .ruu l.ruu 0x08B
    else c.upd (·.count .ruu l.ruu 0x08C)

/-- The image of a host or engine insert (R126, R145): CMD_REC with the fields the hardware writes. -/
def insertImage (dg rclk image : Nat) (host : Bool) (h : Nat) (reb : Bool) : Nat :=
  let i := putBits (putBits image 0 128 dg) 128 30 h
  let i := putBits (putBits i 158 1 1) 168 1 (b2n host)
  let i := putBits (putBits (putBits i 169 1 (b2n reb)) 192 32 rclk) 224 32 rclk
  putBits (putBits i 256 40 0) 296 56 0

/-- The groups of CMD_MASK written into a record (R126). -/
def writeGroups (img new mask : Nat) : Nat :=
  let i := if bit mask 0 then
      putBits (putBits img 159 9 (bits new 159 9)) 170 22 (bits new 170 22) else img
  let i := if bit mask 1 then putBits i 352 96 (bits new 352 96) else i
  let i := if bit mask 2 then putBits i 448 32 (recAct new) else i
  let i := if bit mask 3 then putBits i 480 32 (recState new) else i
  if bit mask 4 then putBits (putBits i 256 40 0) 296 56 0 else i

/-- The command result of a failed insert (R127). -/
def insertResult : Nat → Nat
  | 0 => 3
  | 5 => 8
  | _ => 4

/-- An engine request is answered (R145, R180). -/
def Chip.answer (c : Chip) (x : EngResult) : Chip := c.upd fun d => { d with results := d.results ++ [x] }

/-- Whether a slot is an old one that its RUU's cursor has passed in Move: no request reads it (R134). -/
def Dev.passed (d : Dev) (l : Loc) : Bool :=
  d.phase == 4 && l.set == d.get FTB.GEOM_STAT.ActiveSet && decide (l.idx < (d.ruu l.ruu).cursor)

/-- Whether a location names a slot of a table set in the present phase (R127, R145). A location that its RUU's cursor has passed in Move
names none (DESIGN CHOICE, log entry 93: R134 forbids the read and gives no result). -/
def Dev.hasSlot (d : Dev) (l : Loc) : Bool :=
  decide (l.ruu < 384) && d.setCap l.set != 0 && decide (l.idx < slotsOf (d.setCap l.set) l.ruu) && !d.passed l

/-- The digest of a key (R127). -/
def Dev.keyDigest (d : Dev) (k : List Byte) : Nat := cmacWhole d.ftb.digestKey 3 (sliceB k 0 48)

/-- The record an engine request names, or the status it ends with; a duplicate and a collision that it meets are counted and
posted (R112, R127, R145). -/
def Chip.target (c : Chip) (aerr : Bool) : EngTgt → Chip × Except Nat (Loc × Nat)
  | .digest dg => match c.hit dg with
    | (some (l, img), dup) => (c.noteDup l img dup, .ok (l, img))
    | (none, _) => (c, .error 2)
  | .key k => match c.hit (c.dev.keyDigest k) with
    | (some (l, img), dup) => match (c.noteDup l img dup).annexIs l img k aerr with
      | (c, none) => (c, .error 8)
      | (c, some true) => (c, .ok (l, img))
      | (c, some false) => (c.engCollision l img, .error 5)
    | (none, _) => (c, .error 2)
  | .loc l ep =>
    if !c.dev.hasSlot l then (c, .error 7)
    else if ep ≠ c.dev.get FTB.EPOCH.Epoch then (c, .error 6)
    else
      let img := c.slot l
      (c, if recValid img then .ok (l, img) else .error 2)

/-- An empty stock filled before a command or an engine takes from it: the result NoHandle means that pool and stock are both empty
(R127), so the insert waits for the refill of R114 (DEDUCED; log entry 24). -/
def Dev.stockUp (d : Dev) (r : Nat) : Dev :=
  if (d.ruu r).stock.isEmpty && d.poolFree != 0 then (((d.refill r 128).syncStock r).syncFree).count .ftb 0 0x079 else d

/-- An insert by host command or engine (R126, R127, R145): the result of a failed one is counted under 0x07B. -/
def Chip.cmdInsert (c : Chip) (dg : Nat) (key : List Byte) (image : Nat) (host aerr : Bool) : Chip × Except Nat (Loc × Nat) :=
  let c := match c.insertSlot dg with
    | .error 2 => c.upd (·.stockUp (homeRuu dg))
    | _ => c
  match c.insertRec dg key (insertImage dg c.dev.rclk image host) host aerr with
  | .error e => (c.insertFails, .error (insertResult e))
  | .ok (c, l, img) => (c.upd (·.flowEvent 1 host l img), .ok (l, img))

/-- An engine Insert at its turn (R145). -/
def Chip.engInsert (c : Chip) (src : EngSrc) (k : List Byte) (image : Nat) (aerr : Bool) : Chip :=
  let fail := fun (c : Chip) (st : Nat) => c.answer { src := src, status := st }
  let dg := c.dev.keyDigest k
  if c.dev.phase < 2 then fail c.insertFails 7
  else match c.hit dg with
    | (some (l, img), dup) => match (c.noteDup l img dup).annexIs l img k aerr with
      | (c, none) => fail c.insertFails 8
      | (c, some true) => fail (c.hitSlot l img) 1
      | (c, some false) => fail (c.engCollision l img).insertFails 5
    | (none, _) => match c.cmdInsert dg k image false aerr with
      | (c, .error e) => fail c e
      | (c, .ok (l, img)) => c.answer { src := src, status := 0, data := toLE 64 img, loc := some l, handle := recHandle img }

/-- An engine request other than Insert, on the record it names (R145). `gen` is the generation of the tables that it found at the head
of the queue (R154). -/
def Chip.engRecord (c : Chip) (r gen : Nat) (src : EngSrc) (l : Loc) (img : Nat) : EngKind → Chip
  | .read => (c.putSlot l img false true none).answer
      { src := src, status := 0, data := toLE 64 img, loc := some l, handle := recHandle img }
  | .ops words =>
    let o := words.foldl (runOp true)
      { img := img, action := 0, prio := 0, inserted := false, hasPkt := false, len := 0,
        stamp := compact c.dev.dt, tcpFlags := 0, dei := false, rclk := c.dev.rclk, mclk := c.dev.mclk,
        lastSeen := recLast img, tables := c.dev.tplOf gen }
    let c := if 0 < o.wraps then c.upd (·.count .ruu r 0x08A o.wraps) else c
    (c.putSlot l o.img (o.img != img) true none).answer
      { src := src, status := 0, data := toLE 64 o.img, loc := some l, handle := recHandle img, flag := o.flag, colour := o.colour }
  | .write mask image =>
    let i := writeGroups img image mask
    (c.putSlot l i (i != img) true none).answer { src := src, status := 0, data := toLE 64 i, loc := some l, handle := recHandle img }
  | .delete => (c.removeRec l img 3 false 4 true).answer { src := src, status := 0, loc := some l, handle := recHandle img }
  | .insert _ => c

/-- Whether an engine request inserts. -/
def EngKind.inserts : EngKind → Bool
  | .insert _ => true
  | _ => false

/-- An engine request at its turn (R145). -/
def Chip.evalEngine (c : Chip) (r gen : Nat) (src : EngSrc) (tgt : EngTgt) (kind : EngKind) (bad : List Loc) (aerr : Bool) : Chip :=
  let fail := fun (c : Chip) (st : Nat) => c.answer { src := src, status := st }
  if !bad.isEmpty then fail (if kind.inserts then c.insertFails else c) 8
  else match kind, tgt with
    | .insert image, .key k => c.engInsert src k image aerr
    | .insert _, _ => fail c 7
    | _, _ => match c.target aerr tgt with
      | (c, .error e) => fail c e
      | (c, .ok (l, img)) => c.engRecord r gen src l img kind

/-- A host command's outcome is ready for its completion (R125). -/
def Chip.cmdResult (c : Chip) (res : Nat) : Chip := c.upd fun d => { d with ftb := { d.ftb with cmdDone := some res } }

/-- CMD_REC, CMD_HANDLE and CMD_LOC loaded with a record (R125). -/
def Dev.loadRec (d : Dev) (img : Nat) : Dev :=
  (List.range 16).foldl (fun d j => d.set FTB.CMD_REC.Rec (bits img (32 * j) 32) 0 j) d

/-- CMD_HANDLE and CMD_LOC loaded. -/
def Dev.loadLoc (d : Dev) (h : Nat) (l : Loc) : Dev :=
  ((((d.set FTB.CMD_HANDLE.Handle h).set FTB.CMD_LOC.Index l.idx).set FTB.CMD_LOC.Ruu l.ruu).set FTB.CMD_LOC.Way l.way).set
    FTB.CMD_LOC.Set l.set

/-- A host location command at its turn (R127). -/
def Chip.hostLoc (c : Chip) (x : HostCmd) : Chip :=
  if c.dev.phase < 2 then c.cmdResult 7
  else if x.epoch ≠ c.dev.get FTB.EPOCH.Epoch then c.cmdResult 6
  else if !c.dev.hasSlot x.loc then c.cmdResult 7
  else
    let img := c.slot x.loc
    if x.op = 5 then ((c.putSlot x.loc img false (recValid img) none).upd (·.loadRec img)).cmdResult 0
    else if recValid img then (c.removeRec x.loc img 3 true 4 true).cmdResult 0
    else c.cmdResult 2

/-- A host command by key that hits (R122, R125 to R127). A Replace whose key is equal writes the masked fields and ends Ok, as the
table of operations of R125 and the result table of R127 have it; the prose of R122 gives it Exists (DESIGN CHOICE, log entry 94). -/
def Chip.hostHit (c : Chip) (x : HostCmd) (l : Loc) (img : Nat) : Chip :=
  match x.op with
  | 1 => (c.hitSlot l img).cmdResult 1
  | 2 =>
    let i := writeGroups img x.image x.mask
    (c.putSlot l i (i != img) true none).cmdResult 0
  | 3 => ((c.putSlot l img false true none).upd fun d => (d.loadRec img).loadLoc (recHandle img) l).cmdResult 0
  | _ => (c.removeRec l img 3 true 4 true).cmdResult 0

/-- Whether a host command that ends with MemError was inserting, for the count of R141: an Insert, or a Replace whose digest no slot
holds that can be read. -/
def Chip.hostInserting (c : Chip) (x : HostCmd) (bad : List Loc) : Bool :=
  let dg := c.dev.keyDigest x.key
  x.op == 1 || (x.op == 2 && !((c.dev.lookupLocs dg).any fun l =>
    !bad.contains l && recValid (c.slot l) && recDigest (c.slot l) == dg))

/-- A host command ends with MemError. -/
def Chip.hostMemError (c : Chip) (x : HostCmd) (bad : List Loc) : Chip :=
  (if c.hostInserting x bad then c.insertFails else c).cmdResult 8

/-- A host command at its turn (R122, R125 to R127). -/
def Chip.evalHost (c : Chip) (x : HostCmd) (bad : List Loc) (aerr : Bool) : Chip :=
  let dg := c.dev.keyDigest x.key
  if !bad.isEmpty then c.hostMemError x bad
  else if x.op = 5 ∨ x.op = 6 then c.hostLoc x
  else if c.dev.phase < 2 then if x.op = 1 ∨ x.op = 2 then c.insertFails.cmdResult 7 else c.cmdResult 2
  else match c.hit dg with
    | (none, _) =>
      if x.op = 1 ∨ x.op = 2 then
        match c.cmdInsert dg x.key x.image true aerr with
        | (c, .error e) => c.cmdResult e
        | (c, .ok (l, img)) => (c.upd (·.loadLoc (recHandle img) l)).cmdResult 0
      else c.cmdResult 2
    | (some (l, img), dup) => match (c.noteDup l img dup true).annexIs l img x.key aerr with
      | (c, none) => c.hostMemError x []
      | (c, some false) =>
        let c := (c.hitSlot l img).collision l img true
        (if x.op = 1 then c.insertFails else c).cmdResult 5
      | (c, some true) => c.hostHit x l img

/-! ### Sweep, migration, export, poison -/

/-- Whether a record is expired at its turn (R117). -/
def Dev.expired (d : Dev) (img : Nat) : Bool :=
  let t := d.get FTB.AGE_TIMEOUT.Timeout 0 (recAge img)
  recValid img && !recStatic img && t != 0 && decide (t ≤ (d.rclk + 2 ^ 32 - recLast img) % 2 ^ 32)

/-- Whether an interim IPFIX record is due for a record in this pass (R486). -/
def Dev.interim (d : Dev) (img : Nat) : Bool :=
  let n := d.get PMC.IPX_CFG1.ActivePasses
  recValid img && n != 0 && d.get FTB.SWEEP_PASS.Passes % n == 0 &&
    decide ((recLast img + 2 ^ 32 - d.pmc.ipxP) % 2 ^ 32 < 2 ^ 31)

/-- A sweep step of an RUU is over: its position moves on; a pass that all 384 RUUs have finished counts in SWEEP_PASS, and
the next pass starts (R118, R486). -/
def Dev.sweepNext (d : Dev) (r k : Nat) : Dev :=
  let d := d.setRuu r { d.ruu r with sweepPos := k + 1 }
  if k + 1 < slotsOf d.newSet.2 r then d
  else
    let done := r :: d.ftb.sweepDone
    if done.length < 384 then { d with ftb := { d.ftb with sweepDone := done } }
    else
      let n := d.get PMC.IPX_CFG1.ActivePasses
      let exporting := n != 0 && d.get FTB.SWEEP_PASS.Passes % n == 0
      let pmc := { d.pmc with ipxP := if exporting then d.pmc.ipxPassStart else d.pmc.ipxP, ipxPassStart := d.rclk }
      let d := { d with ftb := { d.ftb with sweepDone := [] }, pmc := pmc }
      let d := (List.range 384).foldl (fun d m => d.setRuu m { d.ruu m with sweepPos := 0 }) d
      d.bump FTB.SWEEP_PASS.Passes

/-- A sweep step at its turn: both slots of position `k` of the set being swept, but for one that cannot be read (R118, R134, R172). -/
def Chip.evalSweep (c : Chip) (r k : Nat) (bad : List Loc) : Chip :=
  let set := c.dev.newSet.1
  let c := [0, 1].foldl (fun c w =>
    let l : Loc := ⟨r, set, w, k⟩
    let img := c.slot l
    if bad.contains l then c
    else if c.dev.expired img then c.removeRec l img 2 false 1
    else if c.dev.interim img then c.ipxStage r img 2 else c) c
  c.upd (·.sweepNext r k)

/-- Slots that the cache does not hold are read from HBM by an RUU, for a write-back, and counted (R144, R148). -/
def Chip.fetch (c : Chip) (r : Nat) (mark : Option Nat) (ls : List Loc) : Chip :=
  ls.foldl (fun c l => c.hbmRead 0 r (c.dev.locAddr l) mark true) (c.upd (·.count .rcc r 0x0A1 ls.length))

/-- The slots of a list that the cache does not hold, and those of them that HBM reports uncorrectable. -/
def Dev.uncached (d : Dev) (ls : List Loc) : List Loc := ls.filter fun l => (d.cached l).isNone
def Dev.badSlots (d : Dev) (ls : List Loc) : List Loc := (d.uncached ls).filter fun l => d.burstBad (d.locAddr l)

/-- The urgency that FTB marks the accesses of a resize with (R313): background, but raised where the RUU has made fewer positions than
MinRate asks for since the phase began (R136), or a stack is above 95 °C in Move (R137). -/
def Dev.migMark (d : Dev) (done : Nat) : Nat :=
  let hot := (List.range 6).any fun k => decide (95 < sint 8 (d.get HBC.TEMP_STAT.Case k))
  if (d.phase == 4 && hot) || decide (done < d.get FTB.MIG_CFG.MinRate * ((d.cyc - d.ftb.since) / msCyc)) then 1 else 0

/-- One record moved, aged out or lost by a migration step (R133). With a slot of its new row unreadable it stays where it is (R170). -/
def Chip.migrateSlot (c : Chip) (l : Loc) : Chip :=
  let img := c.slot l
  if !recValid img then c
  else if c.dev.expired img then c.removeRec l img 2 false 1
  else
  let row := c.dev.insertLocs (recDigest img)
  let bad := c.dev.badSlots row
  let c := c.fetch l.ruu (some (c.dev.migMark (c.dev.ruu l.ruu).cursor)) (c.dev.uncached row)
  if !bad.isEmpty then bad.foldl (fun c n => c.upd (·.slotError l.ruu n)) c
  else match row.find? fun n => !recValid (c.slot n) with
    | none => c.removeRec l img 5 false 5
    | some n =>
      let c := c.putSlot n img true false none
      let e := putBits (Config.emptied c.dev.free).toNat 158 1 0
      let c := c.upd fun d => { d with free := d.free + 1 }
      (c.putSlot l e true false none).upd (·.count .ftb 0 0x077)

/-- A migration step at its turn: the two old slots of position `k`, but for one that cannot be read, then the cursor moves on (R133,
R170). -/
def Chip.evalMigrate (c : Chip) (r k : Nat) (bad : List Loc) : Chip :=
  let set := c.dev.get FTB.GEOM_STAT.ActiveSet
  let c := [0, 1].foldl (fun c w =>
    let l : Loc := ⟨r, set, w, k⟩
    if bad.contains l then c else c.migrateSlot l) c
  c.upd fun d => d.setRuu r { d.ruu r with cursor := k + 1 }

/-- A poison clear at its turn: the slot as 64 zero bytes, in HBM, which takes the error away, and in a line that caches it (R172). -/
def Chip.evalPoison (c : Chip) (r : Nat) (l : Loc) : Chip :=
  (c.hbmSlot l 0).upd fun d =>
    let x := d.ruu r
    let lines := x.lines.map fun e => if e.at l then { e with image := 0, dirty := false } else e
    (((d.setRuu r { x with lines := lines }).syncRcc r).set RUU.POISON_STAT.Busy 0 r).set RUU.POISON_STAT.Done 1 r

/-- An EXPORT_ENTRY (R129): key, record, location with Type 6, clock, flags. The Boolean says that the digest of the annex key
differs (R124). -/
def Chip.exportEntry (c : Chip) (l : Loc) (img : Nat) (key : List Byte) : List Byte × Bool :=
  let bad := c.dev.keyDigest key != recDigest img
  let i0 := 6 + 2 ^ 8 * b2n (recRebirth img) + 2 ^ 10 * b2n (recStatic img) + 2 ^ 11 * recAge img + 2 ^ 14 * l.way +
    2 ^ 15 * l.set + 2 ^ 16 * l.ruu + 2 ^ 25 * l.idx + 2 ^ 46 * c.dev.get FTB.EPOCH.Epoch
  (key ++ toLE 64 img ++ toLE 8 i0 ++ toLE 4 c.dev.rclk ++ toLE 4 (b2n bad), bad)

/-- An export read of an RUU is over: its walk moves on; with all 384 RUUs walked the export is complete (R129). -/
def Dev.exportNext (d : Dev) (r k : Nat) : Dev :=
  let d := d.setRuu r { d.ruu r with exportPos := k + 1 }
  if k + 1 < slotsOf (d.get FTB.GEOM_STAT.CapLog2) r then d
  else
    let done := r :: d.ftb.exportDone
    let d := { d with ftb := { d.ftb with exportDone := done } }
    if done.length < 384 then d else (d.set FTB.EXPORT_STAT.Active 0).set FTB.EXPORT_STAT.Complete 1

/-- An export read at its turn: each Valid record of position `k` that can be read, with its annex, yields one EXPORT_ENTRY for the
channel (R124, R129, R170); `aerr` says that HBC reported the first of their annex reads. A read of a walk that has ended does nothing. -/
def Chip.evalExport (c : Chip) (r k walk : Nat) (bad : List Loc) (aerr : Bool) : Chip :=
  let set := c.dev.get FTB.GEOM_STAT.ActiveSet
  if !c.dev.flag FTB.EXPORT_STAT.Active || walk != c.dev.ftb.walk then c
  else
    let (c, _) := [0, 1].foldl (fun (s : Chip × Bool) w =>
      let (c, aerr) := s
      let l : Loc := ⟨r, set, w, k⟩
      let img := c.slot l
      if bad.contains l || !recValid img then s
      else match c.readAnnex r (recHandle img) with
        | (c, key, err) =>
          if err || aerr then (c.upd (·.slotError r l), false)
          else
            let (bytes, bad) := c.exportEntry l img key
            let c := if bad then c.collision l img false else c
            (c.upd fun d => (d.bump FTB.EXPORT_COUNT.Entries).streamPut (d.get FTB.EXPORT_CFG.Channel) bytes, false)) (c, aerr)
    c.upd (·.exportNext r k)

/-! ### The queue (R142 to R144) -/

/-- The slot of a location request of an epoch, where it is one that is carried out: no other is read (R127, R134, R145). -/
def Dev.locRow (d : Dev) (l : Loc) (ep : Nat) : List Loc := if d.hasSlot l ∧ ep = d.get FTB.EPOCH.Epoch then [l] else []

/-- The slots a request needs (R143). -/
def Dev.reqRow (d : Dev) (r : Nat) : ReqKind → List Loc
  | .packet pid => d.lookupLocs (d.pkt pid).digest
  | .pin l _ _ => [l]
  | .engine _ (.digest dg) _ => d.lookupLocs dg
  | .engine _ (.key k) _ => d.lookupLocs (d.keyDigest k)
  | .engine _ (.loc l ep) _ => d.locRow l ep
  | .sweep k => [⟨r, d.newSet.1, 0, k⟩, ⟨r, d.newSet.1, 1, k⟩]
  | .migrate k => [⟨r, d.get FTB.GEOM_STAT.ActiveSet, 0, k⟩, ⟨r, d.get FTB.GEOM_STAT.ActiveSet, 1, k⟩]
  | .exportRead k _ => [⟨r, d.get FTB.GEOM_STAT.ActiveSet, 0, k⟩, ⟨r, d.get FTB.GEOM_STAT.ActiveSet, 1, k⟩]
  | .host c => if c.op = 5 ∨ c.op = 6 then d.locRow c.loc c.epoch else d.lookupLocs (d.keyDigest c.key)
  | .poison l => [l]

/-- Whether a request reads its slots; a pin update and a poison clear never read HBM (R168, R172). -/
def ReqKind.reads : ReqKind → Bool
  | .pin .. => false
  | .poison _ => false
  | _ => true

/-- What a request does at its turn, with the generation `gen` of the tables that it found at the head; `bad`: slots that it cannot
read; `aerr`: HBC reports its annex access (R170). -/
def Chip.carryOut (c : Chip) (r gen : Nat) (q : ReqKind) (bad : List Loc) (aerr : Bool) : Chip :=
  match q with
  | .packet pid => c.evalPacket r pid bad aerr
  | .pin l h m => c.evalPin l h m
  | .engine s t k => c.evalEngine r gen s t k bad aerr
  | .sweep k => c.evalSweep r k bad
  | .migrate k => c.evalMigrate r k bad
  | .exportRead k w => c.evalExport r k w bad aerr
  | .host x => c.evalHost x bad aerr
  | .poison l => c.evalPoison r l

/-- The slots that a request's reads find uncorrectable, but for those whose image an earlier request has left (R143). `err`: HBC reports
one; where none is known to be spoiled, it is the first slot read. -/
def Dev.badReads (d : Dev) (r : Nat) (q : ReqKind) (left : List Loc) (err : Bool) : List Loc :=
  let need := if q.reads then (d.reqRow r q).filter (!left.contains ·) else []
  let known := d.badSlots need
  if err && known.isEmpty then
    match d.uncached need with
    | l :: _ => [l]
    | [] => need.take 1
  else known

/-- The admission class of a request (R142): 0 A, 1 B, 2 C. -/
def ReqKind.cls : ReqKind → Nat
  | .packet _ => 0
  | .pin .. => 0
  | .engine .. => 1
  | _ => 2

/-- The class admitted next (R142): A first, then B, then C, but B at least once in 8 admissions while one waits and C at
least once in 32; when both fall due B takes the admission. -/
def Ruu.nextClass (x : Ruu) : Option Nat :=
  let has := fun k => x.waiting.any fun q => q.cls == k
  if has 1 && decide (7 ≤ x.sinceB) then some 1
  else if has 2 && decide (31 ≤ x.sinceC) then some 2
  else if has 0 then some 0
  else if has 1 then some 1
  else if has 2 then some 2
  else none

/-- Rows in service (R143): a request that waits behind one of its row adds none. -/
def Ruu.rows (x : Ruu) : Nat := (x.service.filter (!·.behind)).length

/-- QSTAT and QHWM brought up to date. -/
def Dev.syncQueue (d : Dev) (r : Nat) : Dev :=
  let x := d.ruu r
  ((d.set RUU.QSTAT.Used x.queue.length r).set RUU.QSTAT.Rows x.rows r).raise RUU.QHWM.HighWater x.queue.length r

/-- One request enters the home RUU's queue by admission class, and is counted; with 256 entries in use it waits at its source (R142,
R173). The guarantees of classes B and C count every admission, also those made while no request of the class waits, so that one can
fall due on arrival (DESIGN CHOICE, log entry 95: the manual does not say where the count starts). -/
def Dev.enterOne (d : Dev) (r : Nat) : Dev :=
  let x := d.ruu r
  if 256 ≤ x.queue.length then d
  else match x.nextClass with
    | none => d
    | some k =>
      match x.waiting.find? fun q => q.cls == k with
      | none => d
      | some q =>
        let x := { x with
          waiting := x.waiting.erase q
          queue := x.queue ++ [q]
          sinceB := if k = 1 then 0 else x.sinceB + 1
          sinceC := if k = 2 then 0 else x.sinceC + 1 }
        ((d.setRuu r x).syncQueue r).count .ruu r 0x080

/-- Whether a request is a migration step. -/
def ReqKind.migrates : ReqKind → Bool
  | .migrate _ => true
  | _ => false

/-- The rows that a request works on (R143): the slots it needs, and, of a migration step, the new rows of the records it would move. -/
def Chip.rowOf (c : Chip) (r : Nat) (q : ReqKind) : List Loc :=
  let own := c.dev.reqRow r q
  if q.migrates then own ++ (own.filter fun l => recValid (c.slot l)).flatMap fun l => c.dev.insertLocs (recDigest (c.slot l)) else own

/-- Whether a request with the given rows waits for an earlier one: their rows meet, or the earlier is a migration step that waits itself, so
that its rows are not yet known (R143). -/
def conflicts (row : List Loc) (s : Service) : Bool := (s.behind && s.req.migrates) || s.row.any row.contains

/-- The slots that a request needs and its RUU's cache does not hold. -/
def Dev.missing (d : Dev) (r : Nat) (q : ReqKind) : List Loc :=
  if q.reads then d.uncached (d.reqRow r q) else []

/-- A request looks its slots up in the cache and asks HBM for `m`, those it does not hold (R144, R148, R313). -/
def Chip.askSlots (c : Chip) (r : Nat) (q : ReqKind) (m : List Loc) : Chip :=
  let mark := match q with
    | .migrate k => some (c.dev.migMark k)
    | _ => none
  let c := if (c.dev.uncached (c.dev.reqRow r q)).isEmpty then c.upd (·.count .rcc r 0x0A0) else c
  if m.isEmpty then c else c.fetch r mark m

/-- The memory requests of slot reads sent in cycle `now`: those of slots that another RUU's pseudo-channel holds (R146). -/
def memReads (r now : Nat) (ls : List Loc) : List MemReq :=
  (ls.filter (·.channel != r)).map fun l => { target := l.channel, write := false, loc := l, at0 := now }

/-- A chip with nothing in the queues of HBM, so that what is asked of HBM from there on stands alone in them. -/
def Chip.unasked (c : Chip) : Chip := c.upd fun d =>
  { d with hbc := { d.hbc with pcs := d.hbc.pcs.map fun (p : Nat × HbmPc) => (p.1, { p.2 with waiting := [], queue := [] }) } }

/-- The reads of RUU `r` that stand at other RUUs' ports, with the pseudo-channel of each: the memory requests that a request's evaluation
waits for, where the queues held nothing before it (R144, R146). -/
def farReads (c : Chip) (r : Nat) : List (Nat × HbmReq) :=
  c.dev.hbc.pcs.flatMap fun (p : Nat × HbmPc) =>
    if p.1 = r then []
    else ((p.2.waiting ++ p.2.queue).filter fun x => x.port == 0 && x.src == r && !x.write).map fun x => (p.1, x)

/-- The memory request of such a read; `row` names the request's slots, and a read of no slot of it is one of an annex entry. -/
def Dev.memOf (d : Dev) (r : Nat) (row : List Loc) (p : Nat × HbmReq) : MemReq :=
  let at_ := fun (l : Loc) => d.locAddr l == hbmAddr p.1 (64 * p.2.t)
  { target := p.1, write := false, loc := (row.find? at_).getD (row.headD ⟨r, 0, 0, 0⟩), at0 := d.cyc }

/-- The accesses of RUU `r` since number `n` in the order of issue take an urgency mark (R313). -/
def Dev.markSince (d : Dev) (r n u : Nat) : Dev :=
  let mark := fun (x : HbmReq) => if x.port == 0 && x.src == r && decide (n ≤ x.ord) then { x with mark := some u } else x
  { d with hbc := { d.hbc with pcs := d.hbc.pcs.map fun (p : Nat × HbmPc) =>
      (p.1, { p.2 with waiting := p.2.waiting.map mark, queue := p.2.queue.map mark }) } }

/-- The reads that RUU `r` has asked of other pseudo-channels since number `n` in the order of issue are taken back: their data has come
already. -/
def Dev.unread (d : Dev) (r n : Nat) : Dev :=
  let again := fun (x : HbmReq) => x.port == 0 && x.src == r && !x.write && decide (n ≤ x.ord)
  { d with hbc := { d.hbc with pcs := d.hbc.pcs.map fun (p : Nat × HbmPc) =>
      if p.1 = r then p else (p.1, { p.2 with waiting := p.2.waiting.filter (!again ·), queue := p.2.queue.filter (!again ·) }) } }

/-- A request in service is carried out. A line that one of Mode 0 dirties after the mode has changed goes back at once: a change to Mode 1
or 2 writes back every dirty line (R150). -/
def Chip.runService (c : Chip) (r : Nat) (s : Service) (bad : List Loc) (aerr : Bool) : Chip :=
  let n := c.dev.hbc.ord
  let c := c.carryOut r s.gen s.req bad aerr
  let c := if s.round = 1 then c.upd (·.unread r n) else c
  let c := match s.req with
    | .migrate k => c.upd fun d => d.markSince r n (d.migMark k)
    | _ => c
  if s.mode = 0 ∧ c.dev.get RCC.CFG.Mode r ≠ 0 then c.writeBack r else c

/-- A request leaves service. -/
def Dev.endService (d : Dev) (r : Nat) (s : Service) : Dev :=
  let x := d.ruu r
  (d.setRuu r { x with service := x.service.erase s }).syncQueue r

/-- A request in service changed to `y`. -/
def Dev.setService (d : Dev) (r : Nat) (s y : Service) : Dev :=
  let x := d.ruu r
  d.setRuu r { x with service := x.service.map fun z => if z = s then y else z }

/-- A request in service whose slot data is there has its turn, under the mode and generation that it found at the head: slots that cannot
be read are reported; where its evaluation reads other pseudo-channels, it sends those reads and first waits for them (round 1); then it is
carried out and leaves, its writes issued and not awaited (R144, R146, R150, R154, R170). Its row counts as in service until then (R148).
`err`: HBC reports a slot read in round 0, an annex access in round 1. -/
def Chip.turn (c : Chip) (r : Nat) (s : Service) (err : Bool) : Chip :=
  let c := c.upd (·.underMode r s.mode)
  let bad := if s.round = 1 then s.lost else c.dev.badReads r s.req s.left err
  let c := if s.round = 1 then c else bad.foldl (fun c l => c.upd (·.slotError r l)) c
  let far := if s.round = 0 then farReads (c.unasked.runService r s bad false) r else []
  if !far.isEmpty then
    let c := far.foldl (fun (c : Chip) p => c.hbmIssue p.1 p.2) c
    c.upd fun d => d.setService r s { s with mem := far.map (d.memOf r s.row), round := 1, lost := bad }
  else (c.runService r s bad (err && s.round == 1)).upd (·.endService r s)

/-- A request in service that waits for no earlier one looks its slots up: those that an earlier request leaves are not read; with every
other slot cached it has its turn, otherwise it stalls for HBM data, its way-1 reads going to the target RUU (R143, R144, R146). -/
def Chip.begin (c : Chip) (r : Nat) (s : Service) : Chip :=
  let c := c.upd (·.underMode r s.mode)
  let m := (c.dev.missing r s.req).filter (!s.left.contains ·)
  let y := { s with mem := memReads r c.dev.cyc m }
  let c := (c.upd fun d => (d.setService r s y).syncQueue r).askSlots r s.req m
  if m.isEmpty then c.turn r y false else c

/-- The request at the head of the queue finds the cache mode and the generation of the tables (R150, R154), and is checked for row
hazards (R143): it waits behind those in service that work on its rows, or begins. At most 32 rows are in service. -/
def Chip.service (c : Chip) (r : Nat) : Chip :=
  match (c.dev.ruu r).queue with
  | [] => c
  | q :: rest =>
    let mode := c.dev.get RCC.CFG.Mode r
    let row := (c.upd (·.underMode r mode)).rowOf r q
    let s : Service := { req := q, row := row, at0 := c.dev.cyc, mode := mode, gen := c.dev.get GLB.COMMIT_STAT.Gen }
    let enter := fun (c : Chip) (s : Service) => c.upd fun d =>
      let x := d.ruu r
      (d.setRuu r { x with queue := rest, service := x.service ++ [s] }).syncQueue r
    let ahead := (c.dev.ruu r).service.filter (conflicts row)
    if !ahead.isEmpty then enter c { s with behind := true, left := row.filter fun l => ahead.any (·.row.contains l) }
    else if 32 ≤ (c.dev.ruu r).rows then c
    else (enter c s).begin r s

/-- Requests that waited behind earlier ones and now do not: those whose rows they share take the image left without reading HBM, and count
as bypass; one that waited only for a migration step whose rows were not known begins as at the head, where a row is free (R143). The fuel
is the number in service. -/
def Chip.release (r : Nat) : Nat → Chip → Chip
  | 0, c => c
  | n + 1, c =>
    let x := c.dev.ruu r
    let rowNow := fun (s : Service) => (c.upd (·.underMode r s.mode)).rowOf r s.req
    match x.service.zipIdx.find? fun p => p.1.behind && (!p.1.left.isEmpty || decide (x.rows < 32)) &&
        !(x.service.take p.2).any (conflicts (rowNow p.1)) with
    | none => c
    | some (s, i) =>
      let y := { s with behind := false, row := rowNow s }
      let c := c.upd fun d => (d.setRuu r { d.ruu r with service := x.service.set i y }).syncQueue r
      let c := if s.left.isEmpty then c else c.upd (·.count .ruu r 0x08E)
      Chip.release r n (c.begin r y)

/-- The oldest stalled request whose data has all arrived has its turn (R144). -/
def Chip.resume (c : Chip) (r : Nat) (err : Bool) : Chip :=
  let sv := (c.dev.ruu r).service
  match sv.find? fun s => !s.behind && s.mem.all (·.state == .returned) with
  | none => c
  | some s => Chip.release r sv.length (c.turn r s err)

/-- Whether an RUU holds a request of a kind, in any stage before its turn. -/
def Ruu.holds (x : Ruu) (p : ReqKind → Bool) : Bool :=
  x.waiting.any p || x.queue.any p || x.service.any fun s => p s.req

/-- A request goes to its home RUU and waits there for its admission and turn (R142). -/
def Dev.sendReq (d : Dev) (r : Nat) (q : ReqKind) : Dev :=
  let x := d.ruu r
  d.setRuu r { x with waiting := x.waiting ++ [q] }

/-- A request goes to its home RUU: it waits at its source for admission (R142). With the RUU idle and nothing ahead, and its slot
reads accepted at once where HBM needs to be read, it passes the queue and has its turn, its memory requests carried out with it
(DEDUCED, log entry 7). -/
def Chip.issueReq (c : Chip) (r : Nat) (q : ReqKind) : Chip :=
  let x := c.dev.ruu r
  let mode := c.dev.get RCC.CFG.Mode r
  let d := c.dev.underMode r mode
  let s : Service :=
    { req := q, row := Chip.rowOf { c with dev := d } r q, at0 := c.dev.cyc, mode := mode, round := 2, gen := c.dev.get GLB.COMMIT_STAT.Gen }
  if x.waiting.isEmpty && x.queue.isEmpty && x.service.isEmpty && c.dev.pathMoves && c.dev.accepts .ruu r &&
      (d.missing r q).all (fun l => d.hbmMayRead 0 (d.locAddr l)) then
    let c : Chip := { c with dev := ((d.setRuu r { d.ruu r with service := [s] }).syncQueue r).count .ruu r 0x080 }
    (c.askSlots r q (c.dev.missing r q)).turn r s false
  else c.upd (·.sendReq r q)

/-! ### Commands -/

/-- A waiting request enters the queue (R142). -/
def execRuuRequestEnter (ruu : Nat) (s : State) : Host.Outcome State Fault Refusal := nextD s fun d =>
  if d.pathMoves && d.accepts .ruu ruu then d.enterOne ruu else d

/-- The request at the queue head is taken into service (R143, R144). -/
def execRuuService (ruu : Nat) (s : State) : Host.Outcome State Fault Refusal := nextC s fun c => if c.dev.pathMoves then c.service ruu else c

/-- The last slot data of a stalled request arrives; `err` says HBC reported a slot read uncorrectable (R144, R170). -/
def execRuuServiceResume (ruu : Nat) (err : Bool) (s : State) : Host.Outcome State Fault Refusal :=
  nextC s fun c => if c.dev.pathMoves then c.resume ruu err else c

/-- The first memory request of a service to a target in state `a` moved on to state `b`. -/
def moveMem (target : Nat) (a b : MemReqState) : List MemReq → List MemReq
  | [] => []
  | m :: rest => if m.state = a ∧ m.target = target then { m with state := b } :: rest else m :: moveMem target a b rest

/-- The first memory request from `home` to `target` in state `a` moved on to state `b` (R146). -/
def Dev.memStep (d : Dev) (home target : Nat) (a b : MemReqState) : Dev :=
  let x := d.ruu home
  match x.service.zipIdx.find? fun p => p.1.mem.any fun m => m.state == a && m.target == target with
  | none => d
  | some (s, i) => d.setRuu home { x with service := x.service.set i { s with mem := moveMem target a b s.mem } }

/-- A memory request from a home RUU enters the target RUU's memory port, which performs it (R146). -/
def execMemoryRequest (home target : Nat) (s : State) : Host.Outcome State Fault Refusal :=
  nextD s fun d => if d.pathMoves then d.memStep home target .sent .performed else d

/-- The data of a memory request returns to its home RUU (R146). -/
def execMemoryRequestDone (home target : Nat) (s : State) : Host.Outcome State Fault Refusal :=
  nextD s fun d => if d.pathMoves then d.memStep home target .performed .returned else d

/-- A request ends without its memory access (R147) or its tables (R170): a packet takes Spillway, counted with reason MemError where `ins`
says so and it was inserting; a pin update is discarded and counted so; any other request completes with MemError, counted under 0x07B where
it was inserting (R141, R173). A migration step of which this is so leaves its slots and moves on. -/
def Chip.abandon (c : Chip) (r : Nat) (ins : Bool) (bad : List Loc) : ReqKind → Chip
  | .packet pid => c.spill r pid (if ins && c.inserting pid bad then some 5 else none)
  | .engine src _ k => (if k.inserts then c.insertFails else c).answer { src := src, status := 8 }
  | .host x => c.hostMemError x bad
  | .poison _ => c.upd (·.set RUU.POISON_STAT.Busy 0 r)
  | .migrate k => c.upd fun d => d.setRuu r { d.ruu r with cursor := k + 1 }
  | .sweep k => c.upd (·.sweepNext r k)
  | .exportRead k w => if c.dev.flag FTB.EXPORT_STAT.Active && w == c.dev.ftb.walk then c.upd (·.exportNext r k) else c
  | .pin .. => c.upd (·.count .ruu r 0x08C)

/-- A memory request of an RUU is abandoned (R147, R170 detector 3), and the location it was made for is posted; `wait`: once WayTimeout
has passed. -/
def Chip.wayTimeout (c : Chip) (r : Nat) (wait injected : Bool) : Chip :=
  let sv := (c.dev.ruu r).service
  match sv.find? fun s => !s.behind && s.mem.any (·.state != .returned) with
  | none => c
  | some v =>
    let m := (v.mem.find? (·.state != .returned)).getD { target := r, write := false, loc := v.row.headD ⟨r, 0, 0, 0⟩ }
    let l := m.loc
    let c := c.upd fun d =>
      let d := if wait then d.until (m.at0 + 64 * max 1 (d.get RUU.CFG.WayTimeout r)) else d
      let d := d.endService r v
      ((d.count .ruu r 0x08D).report .ruu r 3 l.word true injected).postSys .ruu r 1 [l.word, d.get FTB.EPOCH.Epoch]
    Chip.release r sv.length (c.abandon r true (if v.round = 0 then [l] else []) v.req)

/-- WAY_TIMEOUT: a memory request of an RUU has not completed within WayTimeout (R147). -/
def execWayTimeout (ruu : Nat) (s : State) : Host.Outcome State Fault Refusal :=
  nextC s fun c => if c.dev.pathMoves then c.wayTimeout ruu true false else c

/-- A pin update at its turn: it has its turn when it heads the queue, or nothing is ahead of it (R142, R168). -/
def execPinUpdate (ruu : Nat) (s : State) : Host.Outcome State Fault Refusal :=
  nextC s fun c => if !c.dev.pathMoves then c else
    let c := if (c.dev.ruu ruu).queue.isEmpty && c.dev.accepts .ruu ruu then c.upd (·.enterOne ruu) else c
    match (c.dev.ruu ruu).queue with
    | .pin .. :: _ => c.service ruu
    | _ => c

/-- Lines whose young time has run out stop being young: the block moves on to the earliest such time (R149). -/
def execYoungExpire (ruu : Nat) (s : State) : Host.Outcome State Fault Refusal :=
  nextD s fun d =>
    match ((d.ruu ruu).lines.filterMap (·.young)).min? with
    | none => d
    | some t =>
      let d := d.until t
      let x := d.ruu ruu
      let lines := x.lines.map fun e => if (e.young.map fun u => decide (u ≤ d.cyc)).getD false then { e with young := none } else e
      d.setRuu ruu { x with lines := lines }

/-- A partition that a change to Mode 2 is to empty: what requests of the earlier mode have left dirty goes back, and every line is
invalid (R150). -/
def Chip.empty (c : Chip) (r : Nat) : Chip :=
  if !(c.dev.ruu r).emptying then c
  else ((c.writeBack r).upd (·.invalidate r)).upd fun d => d.setRuu r { d.ruu r with emptying := false }

/-- A write of RCC.CFG.Mode (R150): a change to Mode 1 or 2 writes back every dirty line first, and one to Mode 2 then empties the
partition, at the latest before a return to Mode 0 or 1. -/
def execRccModeWrite (fn ruu mode : Nat) (s : State) : Host.Outcome State Fault Refusal :=
  nextC s fun c =>
    let old := min 2 (c.dev.get RCC.CFG.Mode ruu)
    let new := min 2 (mode % 4)
    let ok := c.dev.reachable fn && isPf fn && c.dev.live .rcc ruu
    let change := ok && new != old && new != 0
    let c := if ok && decide (new < 2) then c.empty ruu else c
    let c := if change then c.writeBack ruu else c
    let c := if change && new == 2 then c.upd fun d => d.setRuu ruu { d.ruu ruu with emptying := true } else c
    c.upd fun d => d.gate fn .rcc ruu 0x200 fun d =>
      let d := d.set RCC.CFG.Mode mode ruu
      if change then d.set RCC.STAT_C.Flushing 1 ruu else d

/-- A write of RCC.CTL_C.Flush (R150). -/
def execRccFlush (fn ruu : Nat) (s : State) : Host.Outcome State Fault Refusal :=
  nextC s fun c =>
    let ok := c.dev.reachable fn && isPf fn && c.dev.live .rcc ruu
    let c := if ok then c.writeBack ruu else c
    c.upd fun d => d.gate fn .rcc ruu 0x204 (·.set RCC.STAT_C.Flushing 1 ruu)

/-- A flush or mode change finishes writing back: Flushing clears, and a change to Mode 2 invalidates every line (R150). -/
def execRccFlushDone (ruu : Nat) (s : State) : Host.Outcome State Fault Refusal :=
  nextC s fun c => if c.dev.flag RCC.STAT_C.Flushing ruu then (c.empty ruu).upd (·.set RCC.STAT_C.Flushing 0 ruu) else c

/-- A POISON_CMD Clear (R172): ignored and counted while busy; refused for an epoch mismatch or another RUU's location. A location
whose set holds no table or whose Index is beyond its slots is carried out like any other: the manual gives it no outcome (DESIGN
CHOICE, log entry 96). -/
def execPoisonClear (fn ruu : Nat) (s : State) : Host.Outcome State Fault Refusal :=
  nextC s fun c =>
    let ok := c.dev.reachable fn && isPf fn && c.dev.live .ruu ruu
    let l := locOfWord (c.dev.get RUU.POISON_LOC.Loc ruu)
    let busy := c.dev.flag RUU.POISON_STAT.Busy ruu
    let bad := c.dev.get RUU.POISON_EPOCH.Epoch ruu != c.dev.get FTB.EPOCH.Epoch || l.ruu != ruu
    let c := c.upd fun d => d.gate fn .ruu ruu 0x288 fun d =>
      if busy then d.miss
      else if bad then d.set RUU.POISON_STAT.Refused 1 ruu
      else (d.set RUU.POISON_STAT.Refused 0 ruu).set RUU.POISON_STAT.Busy 1 ruu
    if ok && !busy && !bad then c.issueReq ruu (.poison l) else c

end Sys2Proof.Machine
end

