-- ==== Sys2Proof/Machine/FlowTable.lean ====
section
/-! DEFINITION. The flow table's own commands and events: the host commands (R125 to R127, R131, R132, R110), the phases of a
resize (R130 to R135), the sweeper (R118), the handle stocks (R114), the recent-removal lists (R120), the record and meter
clocks (R107, R161), and export (R129). A host command that goes to a home RUU has its turn there; its completion is the
event FTB_CMD_DONE. -/

namespace Sys2Proof.Machine

/-! ### Host commands -/

/-- CMD_KEY as the 48 bytes of a FLOW_KEY (R127). -/
def Dev.cmdKey (d : Dev) : List Byte := (List.range 12).flatMap fun j => toLE 4 (d.get FTB.CMD_KEY.Key 0 j)

/-- CMD_REC as a record image. -/
def Dev.cmdRec (d : Dev) : Nat := ofLE ((List.range 16).flatMap fun j => toLE 4 (d.get FTB.CMD_REC.Rec 0 j))

/-- The operands of a host command at its Go (R125). -/
def Dev.hostCmd (d : Dev) (op : Nat) : HostCmd :=
  { op := op, key := d.cmdKey, image := d.cmdRec, mask := d.get FTB.CMD_MASK.Groups,
    loc := ⟨d.get FTB.CMD_LOC.Ruu, d.get FTB.CMD_LOC.Set, d.get FTB.CMD_LOC.Way, d.get FTB.CMD_LOC.Index⟩,
    epoch := d.get FTB.CMD_EPOCH.Epoch }

/-- Whether a Go starts a command: none is busy (R125), and CTL of FTB does not stop new work (R34, R36; log entry 16). -/
def Dev.takesGo (d : Dev) : Bool := !d.flag FTB.CMD_STAT.Busy && d.accepts .ftb

/-- A write of CMD_CTL with Go = 1 by a function, at its gate: a Go while busy is ignored and sets Done with Result Refused
(R125), as does one while CTL of FTB stops new work (R34, R36; DEDUCED, log entry 16); otherwise the command starts. -/
def Chip.hostGo (c : Chip) (fn op : Nat) (start : Chip → Chip) : Chip :=
  let ok := c.dev.reachable fn && isPf fn && c.dev.live .ftb
  let busy := !c.dev.takesGo
  let c := c.upd fun d => d.gate fn .ftb 0 0x280 fun d =>
    if busy then (d.set FTB.CMD_STAT.Done 1).set FTB.CMD_STAT.Result 7
    else
      let d := (d.set FTB.CMD_CTL.Op op).set FTB.CMD_STAT.Busy 1
      { d with ftb := { d.ftb with cmd := some (d.hostCmd op), cmdDone := none } }
  if ok && !busy then start c else c

/-- A record command goes to its home RUU (R125, R127); a location outside the RUUs is refused. -/
def Chip.recordCmd (c : Chip) (fn op : Nat) : Chip :=
  c.hostGo fn op fun c =>
    let x := c.dev.hostCmd op
    if op = 5 ∨ op = 6 then
      if 383 < x.loc.ruu then c.hostLoc x else c.issueReq x.loc.ruu (.host x)
    else c.issueReq (homeRuu (cmacWhole c.dev.ftb.digestKey 3 (sliceB x.key 0 48))) (.host x)

def execFtbInsert (fn : Nat) (s : State) : Host.Outcome State Fault Refusal := nextC s (·.recordCmd fn 1)
def execFtbReplace (fn : Nat) (s : State) : Host.Outcome State Fault Refusal := nextC s (·.recordCmd fn 2)
def execFtbLookup (fn : Nat) (s : State) : Host.Outcome State Fault Refusal := nextC s (·.recordCmd fn 3)
def execFtbDelete (fn : Nat) (s : State) : Host.Outcome State Fault Refusal := nextC s (·.recordCmd fn 4)
def execFtbReadloc (fn : Nat) (s : State) : Host.Outcome State Fault Refusal := nextC s (·.recordCmd fn 5)
def execFtbDeleteloc (fn : Nat) (s : State) : Host.Outcome State Fault Refusal := nextC s (·.recordCmd fn 6)

/-- Whether a handle is in use: out of the pool and in no stock (R127). -/
def Dev.handleUsed (d : Dev) (h : Nat) : Bool :=
  d.ftb.taken.contains h && !d.ruus.any fun e => e.2.stock.contains h

/-- ReadAnnex (R127), outside the RUU queues; `err` says the annex read was uncorrectable. -/
def execFtbReadannex (fn : Nat) (err : Bool) (s : State) : Host.Outcome State Fault Refusal :=
  nextC s fun c => c.hostGo fn 7 fun c =>
    let h := c.dev.get FTB.CMD_HANDLE.Handle
    if c.dev.phase < 2 || !c.dev.handleUsed h then c.cmdResult 2
    else if err || c.dev.spanBad (annexAddr h) 48 then c.cmdResult 8
    else
      let (c, key, _) := c.readAnnex (h % 384) h
      (c.upd fun d => (List.range 12).foldl (fun d j => d.set FTB.CMD_KEY.Key (ofLE ((key.drop (4 * j)).take 4)) 0 j) d).cmdResult 0

/-- Every handle stock emptied, its handles back in the pool. -/
def Dev.emptyStocks (d : Dev) : Dev :=
  (List.range 384).foldl (fun d r => (d.setRuu r { d.ruu r with stock := [] }).syncStock r) d

/-- General-region contents that a change of the table layout does not preserve (R102): below the new start of the region, or between the
old and the new start. What a byte held that was not 0 becomes a free value; bytes that read 0 stay so (DESIGN CHOICE, log entry 100).
The annex and the target set are zeroed by Clear. -/
def Chip.loseGeneral (c : Chip) (old new : Nat) : Chip :=
  let lo := min (generalBase old) (generalBase new)
  let hi := max (generalBase old) (generalBase new)
  let n := c.dev.free
  let gone := c.hbm.filter fun x => decide (lo ≤ x.1 % 2 ^ 29) && decide (x.1 % 2 ^ 29 < hi)
  { hbm := gone.foldl (fun m x => Mem.write m x.1 (Config.lostByte n x.1)) c.hbm
    dev := { c.dev with free := n + 1 } }

/-- SetGeom (R131): an empty table, no export, phase Unconfigured or Ready, and 24 ≤ TargetLog2 ≤ MaxLog2 ≤ 30. The applied
values and the active set (0: log entry 22) show from acceptance on. -/
def execFtbSetgeom (fn : Nat) (s : State) : Host.Outcome State Fault Refusal :=
  nextC s fun c => c.hostGo fn 8 fun c =>
    let d := c.dev
    let t := d.get FTB.GEOM_CFG.TargetLog2
    let x := d.get FTB.GEOM_CFG.MaxLog2
    if d.get FTB.RECORDS.Records ≠ 0 ∨ d.flag FTB.EXPORT_STAT.Active ∨ (d.phase ≠ 0 ∧ d.phase ≠ 2) ∨ t < 24 ∨ x < t ∨ 30 < x then
      c.cmdResult 7
    else
      ((if d.get FTB.GEOM_STAT.MaxLog2 = x then c else c.loseGeneral (d.get FTB.GEOM_STAT.MaxLog2) x).upd fun d =>
        let d := (((d.set FTB.GEOM_STAT.MaxLog2 x).set FTB.GEOM_STAT.CapLog2 t).set FTB.GEOM_STAT.ActiveSet 0).setPhase 1
        let d := { d with ftb := { d.ftb with target := t, taken := [], issueCap := 0 } }
        (d.emptyStocks).syncFree).cmdResult 0

/-- The signed case temperature a stack reports (R321). -/
def Dev.caseTemp (d : Dev) (k : Nat) : Int := sint 8 (d.get HBC.TEMP_STAT.Case k)

/-- Resize (R132). -/
def execFtbResize (fn : Nat) (s : State) : Host.Outcome State Fault Refusal :=
  nextC s fun c => c.hostGo fn 9 fun c =>
    let d := c.dev
    let t := d.get FTB.GEOM_CFG.TargetLog2
    let n := d.get FTB.GEOM_STAT.CapLog2
    let top := min (d.get FTB.GEOM_STAT.MaxLog2) 29
    if d.phase ≠ 2 ∨ d.flag FTB.EXPORT_STAT.Active ∨ t = n ∨ t < 24 ∨ top < t ∨ n < 24 ∨ top < n ∨
        2 ^ t < d.get FTB.RECORDS.Records ∨ (List.range 6).any (fun k => decide (95 < d.caseTemp k)) then c.cmdResult 7
    else
      (c.upd fun d =>
        let d := d.setPhase 3
        { d with ftb := { d.ftb with target := t, since := d.cyc } }).cmdResult 0

/-- Rekey (R110). -/
def execFtbRekey (fn : Nat) (s : State) : Host.Outcome State Fault Refusal :=
  nextC s fun c => c.hostGo fn 10 fun c =>
    if c.dev.get FTB.RECORDS.Records ≠ 0 ∨ c.dev.phase ≠ 2 then c.cmdResult 7
    else
      (c.upd fun d =>
        let (k, d) := d.draw 4
        { d with ftb := { d.ftb with digestKey := k } }).cmdResult 0

/-- A host command completes (R125). -/
def execFtbCmdDone (s : State) : Host.Outcome State Fault Refusal :=
  nextD s fun d =>
    match d.ftb.cmdDone with
    | none => d
    | some r =>
      let d := { d with ftb := { d.ftb with cmd := none, cmdDone := none } }
      (((d.set FTB.CMD_STAT.Busy 0).set FTB.CMD_STAT.Done 1).set FTB.CMD_STAT.Result r).event .ftb 0 0

/-! ### Geometry phases -/

/-- Zeros over a range of local addresses of every pseudo-channel: an unlisted byte of HBM reads 0. -/
def zeroLocal (m : Mem) (lo hi : Nat) : Mem := m.filter fun x => !(decide (lo ≤ x.1 % 2 ^ 29) && decide (x.1 % 2 ^ 29 < hi))

/-- The check bits of a range of local addresses that FTB has written with zeros: no error is left there (R330). -/
def Dev.freshRange (d : Dev) (lo hi : Nat) : Dev :=
  let out := fun (q : Nat) => !(decide (lo ≤ 16 * q) && decide (16 * q < hi))
  { d with hbc := { d.hbc with pcs := d.hbc.pcs.map fun (p : Nat × HbmPc) =>
      (p.1, { p.2 with bad := p.2.bad.filter out, flips := p.2.flips.filter fun (e : Nat × Nat) => out e.1 }) } }

/-- The local range of a table set (R102); at a capacity of 2^30 one set takes the room of both. -/
def setRange (x n set : Nat) : Nat × Nat :=
  if n = 30 then (annexSize x, generalBase x) else (annexSize x + set * setSize x, annexSize x + (set + 1) * setSize x)

/-- Every cached line of a table set dropped: its slots have been zeroed (DEDUCED; log entry 23). -/
def Dev.dropLines (d : Dev) (set : Nat) : Dev :=
  (List.range 384).foldl (fun d r =>
    (d.setRuu r { d.ruu r with lines := (d.ruu r).lines.filter fun e => e.set != set }).syncRcc r) d

/-- Clear is done (R131): annex and target set zeroed, every handle below the capacity unused, phase Ready. -/
def execClearDone (s : State) : Host.Outcome State Fault Refusal :=
  nextC s fun c =>
    if c.dev.phase ≠ 1 then c
    else
      let x := c.dev.get FTB.GEOM_STAT.MaxLog2
      let n := c.dev.get FTB.GEOM_STAT.CapLog2
      let (lo, hi) := setRange x n 0
      let hbm := zeroLocal (zeroLocal c.hbm 0 (annexSize x)) lo hi
      { hbm := hbm
        dev :=
          let d := { c.dev with ftb := { c.dev.ftb with taken := [], issueCap := 2 ^ n } }
          ((((d.dropLines 0).dropLines 1).freshRange 0 (annexSize x)).freshRange lo hi).syncFree.setPhase 2 }

/-- MIG_MIN and the selected MIG_CURSOR are computed from the cursors: the least cursor of the RUUs whose cursor has not passed the slots of
the capacity in force; with none, 0. R139 gives the field no value outside Move, where the cursors stand as the last migration left them:
after a growth that is the slot count of the old geometry (DESIGN CHOICE, log entry 113). -/
def Dev.minCursor (d : Dev) : Nat :=
  let q := d.get FTB.GEOM_STAT.CapLog2
  (((List.range 384).map fun r => ((d.ruu r).cursor, slotsOf q r)).filterMap fun p =>
    if p.1 < p.2 then some p.1 else none).min?.getD 0

/-- ResizeClear is done (R133, R135): the new set is zeroed, Move begins with every cursor at 0 and the epoch one up; the pool
issues handles below the new capacity only, and stocks give up theirs above it (log entry 24). -/
def execResizeclearDone (s : State) : Host.Outcome State Fault Refusal :=
  nextC s fun c =>
    if c.dev.phase ≠ 3 then c
    else
      let new := 1 - c.dev.get FTB.GEOM_STAT.ActiveSet
      let t := c.dev.ftb.target
      let (lo, hi) := setRange (c.dev.get FTB.GEOM_STAT.MaxLog2) t new
      { hbm := zeroLocal c.hbm lo hi
        dev :=
          let d := ((c.dev.dropLines new).freshRange lo hi).setPhase 4
          let gone := d.ruus.flatMap fun e => e.2.stock.filter (2 ^ t ≤ ·)
          let d := { d with ftb := { d.ftb with since := d.cyc, issueCap := 2 ^ t, taken := d.ftb.taken.filter fun h => !gone.contains h } }
          let d := (List.range 384).foldl (fun d r =>
            let x := d.ruu r
            (d.setRuu r { x with cursor := 0, stock := x.stock.filter (· < 2 ^ t) }).syncStock r) d
          (d.bump FTB.EPOCH.Epoch).syncFree }

/-- A migration step of an RUU enters its queue at the cursor (R133). -/
def execMigrationStep (ruu : Nat) (s : State) : Host.Outcome State Fault Refusal :=
  nextC s fun c =>
    let x := c.dev.ruu ruu
    if c.dev.phase = 4 ∧ !c.dev.ftb.stuck ∧ ruu < 384 ∧ x.cursor < slotsOf (c.dev.get FTB.GEOM_STAT.CapLog2) ruu ∧
        !x.holds (fun q => match q with
          | .migrate _ => true
          | _ => false) then
      c.issueReq ruu (.migrate x.cursor)
    else c

/-- Whether every RUU has finished its migration. -/
def Dev.moveOver (d : Dev) : Bool :=
  (List.range 384).all fun r => decide (slotsOf (d.get FTB.GEOM_STAT.CapLog2) r ≤ (d.ruu r).cursor)

/-- All cursors are finished: Retire, with its epoch, the new set active at its capacity, then Ready (R130, R133). The manual gives Retire no
duration: it lasts no time here, and GEOM_STAT.Phase never reads 5 (DESIGN CHOICE, log entry 111). -/
def execMoveDone (s : State) : Host.Outcome State Fault Refusal :=
  nextD s fun d =>
    if d.phase ≠ 4 || !d.moveOver then d
    else
      let old := d.get FTB.GEOM_STAT.ActiveSet
      let d := (d.bump FTB.EPOCH.Epoch).dropLines old
      ((d.set FTB.GEOM_STAT.ActiveSet (1 - old)).set FTB.GEOM_STAT.CapLog2 d.ftb.target).setPhase 2

/-! ### Sweeper, stocks, recent lists, clocks -/

/-- A sweep step of an RUU enters its queue at the sweep position, while sweeping is enabled and a table exists (R118,
R134). A position beyond a table that has shrunk ends the RUU's part of the pass. -/
def execSweepStep (ruu : Nat) (s : State) : Host.Outcome State Fault Refusal :=
  nextC s fun c =>
    let d := c.dev
    let x := d.ruu ruu
    if 384 ≤ ruu || decide (d.phase < 2) || !d.flag FTB.CTL_FT.SweepEnable || d.ftb.sweepDone.contains ruu ||
        x.holds (fun q => match q with
          | .sweep _ => true
          | _ => false) then c
    else if slotsOf d.newSet.2 ruu ≤ x.sweepPos then c.upd (·.sweepNext ruu x.sweepPos)
    else c.issueReq ruu (.sweep x.sweepPos)

/-- A stock of 128 or fewer takes 128 handles, or what the pool holds (R114). -/
def execStockRefill (ruu : Nat) (s : State) : Host.Outcome State Fault Refusal :=
  nextD s fun d =>
    if ruu < 384 ∧ 2 ≤ d.phase ∧ (d.ruu ruu).stock.length ≤ 128 ∧ d.poolFree ≠ 0 then
      (((d.refill ruu 128).syncStock ruu).syncFree).count .ftb 0 0x079
    else d

/-- `n` handles of a stock go back into the pool; which ones is a free choice (R114). -/
def Dev.unstock (r : Nat) : Nat → Dev → Dev
  | 0, d => d
  | n + 1, d =>
    let x := d.ruu r
    match x.stock[Config.stockPick d.free % x.stock.length]? with
    | none => d
    | some h =>
      let d := d.setRuu r { x with stock := x.stock.erase h }
      Dev.unstock r n { d with free := d.free + 1, ftb := { d.ftb with taken := d.ftb.taken.filter (· ≠ h) } }

/-- A stock above 384 gives 128 handles back to the pool (R114). -/
def execStockReturn (ruu : Nat) (s : State) : Host.Outcome State Fault Refusal :=
  nextD s fun d =>
    if 384 < (d.ruu ruu).stock.length then ((Dev.unstock ruu 128 d).syncStock ruu).syncFree else d

/-- The oldest removed digest of an RUU leaves its recent list: the block moves on to the end of its window (R120). -/
def execRebirthExpire (ruu : Nat) (s : State) : Host.Outcome State Fault Refusal :=
  nextD s fun d =>
    match (d.ruu ruu).recent.getLast? with
    | none => d
    | some (_, at0) =>
      let w := nsCyc (1000 * d.get FTB.REBIRTH_CFG.Window)
      let d := d.until (at0 + w)
      let x := d.ruu ruu
      d.setRuu ruu { x with recent := x.recent.filter fun e => decide (d.cyc < e.2 + w) }

/-- The record clock advances by 1: the block moves on to its next tick (R107). Before the main PLL has locked there is no
record clock. -/
def execRecordClockTick (s : State) : Host.Outcome State Fault Refusal :=
  nextD s fun d => if d.pllAt.isNone then d else d.later (81920 - d.sincePll % 81920)

/-- The meter clock advances by 1: the block moves on to its next tick (R161). -/
def execMeterClockTick (s : State) : Host.Outcome State Fault Refusal :=
  nextD s fun d => if d.pllAt.isNone then d else d.later (128 - d.sincePll % 128)

/-- Device time latched beside the record clock (R108). -/
def Dev.latchRclk (d : Dev) : Dev :=
  let sec := dtSec d.dt
  ((((d.set FTB.RCLK.Clock d.rclk).set FTB.RCLK_NS.Nanoseconds (dtNs d.dt)).set FTB.RCLK_SEC_LO.SecondsLo sec).set
    FTB.RCLK_SEC_HI.SecondsHi (sec / 2 ^ 32))

/-- A PF0-only read of a block register at offset `off`: Unsupported Request where the function is not reachable, refused
with 0 for a VF (R39, R40), 0 and a miss while the instance is in reset (R35). -/
def Dev.readGate (d : Dev) (f : Nat) (b : Blk) (i off len : Nat) (k : Dev → Dev × Nat) : Dev :=
  let d := d.request f
  let zero := List.replicate len (0 : Byte)
  if !d.reachable f then d.emit (.unsupported f)
  else if !d.live b i && 0x200 ≤ off then (d.miss).emit (.readData f zero)
  else if !isPf f then (d.deny f false (b.base i + off)).emit (.readData f zero)
  else
    let (d, v) := k d
    d.emit (.readData f (toLE len v))

/-- A read of FTB.RCLK (R108). -/
def execRclkRead (fn : Nat) (s : State) : Host.Outcome State Fault Refusal :=
  nextD s fun d => d.readGate fn .ftb 0 0x218 4 fun d => (d.latchRclk, d.rclk)

/-! ### Export -/

/-- EXPORT_CTL Start (R129). -/
def execExportStart (fn : Nat) (s : State) : Host.Outcome State Fault Refusal :=
  nextD s fun d => d.gate fn .ftb 0 0x3C4 fun d =>
    if d.phase ≠ 2 ∨ d.flag FTB.EXPORT_STAT.Active then d.set FTB.EXPORT_STAT.Refused 1
    else
      let d := (List.range 384).foldl (fun d r => d.setRuu r { d.ruu r with exportPos := 0 }) d
      let d := { d with ftb := { d.ftb with exportDone := [], walk := d.ftb.walk + 1 } }
      (d.set FTB.EXPORT_STAT.Active 1).set FTB.EXPORT_COUNT.Entries 0

/-- EXPORT_CTL Stop (R129). -/
def execExportStop (fn : Nat) (s : State) : Host.Outcome State Fault Refusal :=
  nextD s fun d => d.gate fn .ftb 0 0x3C4 fun d =>
    if d.flag FTB.EXPORT_STAT.Active then (d.set FTB.EXPORT_STAT.Active 0).set FTB.EXPORT_STAT.Aborted 1 else d

/-- The export walk reads the next position of an RUU, while the channel has room (R129). -/
def execExportRead (ruu : Nat) (s : State) : Host.Outcome State Fault Refusal :=
  nextC s fun c =>
    let d := c.dev
    let x := d.ruu ruu
    if ruu < 384 ∧ d.flag FTB.EXPORT_STAT.Active ∧ d.streamRoom (d.get FTB.EXPORT_CFG.Channel) ∧
        x.exportPos < slotsOf (d.get FTB.GEOM_STAT.CapLog2) ruu ∧ !x.holds (fun q => match q with
          | .exportRead .. => true
          | _ => false) then
      c.issueReq ruu (.exportRead x.exportPos d.ftb.walk)
    else c

end Sys2Proof.Machine
end

