-- ==== Sys2Proof/Machine/Pmc.lean ====
section
/-! DEFINITION. Counter read grants, snapshots, bandwidth windows and IPFIX export (17): PMC and GTH, with GLB's lead rule for
time-triggered operations (R26). -/

namespace Sys2Proof.Machine

/-! ### The lead rule (R26) -/

/-- The lead of an arm: 420 ns. -/
def armLead : Nat := nsU 420

/-- A time-triggered operation is refused: counted and posted (R26, R50, R477). Operation: 0 commit, 1 snapshot, 2 port
reconfiguration. -/
def Dev.refuseArm (d : Dev) (op reason : Nat) : Dev :=
  (d.count .glb 0 0x216).postSys .glb 0 1 [reason + 2 ^ 4 * op]

/-! ### Grants (R476) -/

def execGrantWrite (fn : Nat) (s : State) : Host.Outcome State Fault Refusal :=
  nextD s fun d => d.gate fn .pmc 0 0x20C fun d =>
    let g : Grant :=
      { fn := d.get PMC.GRANT_DATA.Function, valid := d.flag PMC.GRANT_DATA.Valid,
        first := d.get PMC.GRANT_RANGE.FirstPage, last := d.get PMC.GRANT_RANGE.LastPage }
    { d with pmc := { d.pmc with grants := Tab.put {} d.pmc.grants (d.get PMC.GRANT_SEL.Entry) g } }

def execGrantRead (fn : Nat) (s : State) : Host.Outcome State Fault Refusal :=
  nextD s fun d => d.gate fn .pmc 0 0x20C fun d =>
    let g := Tab.get {} d.pmc.grants (d.get PMC.GRANT_SEL.Entry)
    let d := (d.set PMC.GRANT_DATA.Function g.fn).set PMC.GRANT_DATA.Valid (b2n g.valid)
    (d.set PMC.GRANT_RANGE.FirstPage g.first).set PMC.GRANT_RANGE.LastPage g.last

/-- Whether a valid grant names the function and covers the page. -/
def Dev.granted (d : Dev) (f page : Nat) : Bool :=
  d.pmc.grants.any fun g => g.2.valid && g.2.fn == f && decide (g.2.first ≤ page) && decide (page ≤ g.2.last)

/-! ### Snapshots -/

/-- Whether SNAP_SCOPE selects a block type. -/
def Dev.inScope (d : Dev) (t : Nat) : Bool :=
  if t < 32 then bit (d.get GTH.SNAP_SCOPE_LO.TypesLo) t else bit (d.get GTH.SNAP_SCOPE_HI.TypesHi) (t - 32)

/-- The act time that the SNAP_TIME registers spell. -/
def Dev.snapTime (d : Dev) : Nat :=
  dtOf (d.get GTH.SNAP_TIME_SEC_LO.SecondsLo + 2 ^ 32 * d.get GTH.SNAP_TIME_SEC_HI.SecondsHi) (d.get GTH.SNAP_TIME_NS.Nanoseconds)

/-- The lowest-numbered reason of R477 to refuse a snapshot for act time `act`; 0 for none. -/
def Dev.snapReason (d : Dev) (act : Nat) (ns : Nat) : Nat :=
  if act < d.dt + armLead then 1
  else if d.pmc.snapArm.isSome || d.pmc.snap.isSome then 2
  else if !blkTable.any (fun b => d.inScope b.type) then 4
  else if d.get DMA.BIND.Endpoint 0 (d.get GTH.SNAP_CFG.Channel) ≠ 9 then 6
  else if 999999999 < ns then 7
  else 0

/-- A snapshot is armed or refused (R477). -/
def Dev.snapArmAt (d : Dev) (act ns : Nat) : Dev :=
  let r := d.snapReason act ns
  if r = 0 then ({ d with pmc := { d.pmc with snapArm := some act } }).set GTH.SNAP_STAT.Armed 1
  else ((d.set GTH.SNAP_STAT.Refused 1).set GTH.SNAP_STAT.Reason r).refuseArm 1 r

def execSnapGo (fn : Nat) (s : State) : Host.Outcome State Fault Refusal :=
  nextD s fun d => d.gate fn .gth 0 0x21C fun d => d.snapArmAt (d.dt + armLead) 0

def execSnapArm (fn : Nat) (s : State) : Host.Outcome State Fault Refusal :=
  nextD s fun d => d.gate fn .gth 0 0x21C fun d => d.snapArmAt d.snapTime (d.get GTH.SNAP_TIME_NS.Nanoseconds)

def execSnapCancel (fn : Nat) (s : State) : Host.Outcome State Fault Refusal :=
  nextD s fun d => d.gate fn .gth 0 0x21C fun d =>
    match d.pmc.snapArm with
    | none => d
    | some a =>
      if d.dt + armLead ≤ a then ({ d with pmc := { d.pmc with snapArm := none } }).set GTH.SNAP_STAT.Armed 0 else d

/-- The page result of an instance (R482): 17 words. -/
def Dev.pageResult (d : Dev) (b : Blk) (i : Nat) : PageResult :=
  let p := b.page i
  let up := d.live b i
  let en := ((List.range 16).map fun k => 2 ^ k * d.get (HDR.CSEL.Enable b) i k).foldl (· + ·) 0
  let w0 := p + 2 ^ 14 * b2n (!up) + 2 ^ 16 * (blkRow b).type + 2 ^ 32 * en
  let ctr := fun (k : Nat) =>
    let c := d.ctr p k
    if up then
      c.value + 2 ^ 48 * d.get (HDR.CSEL.Event b) i k + 2 ^ 60 * d.get (HDR.CSEL.Chain b) i k + 2 ^ 61 * b2n c.wrap
    else 0
  { page := p, words := w0 :: (List.range 16).map ctr }

/-- A captured page: the wrap flags fall, and with Clear the counts (R474, R478). -/
def Dev.pageCaptured (d : Dev) (clear : Bool) (b : Blk) (i : Nat) : Dev :=
  if !d.live b i then d
  else (List.range 16).foldl (fun d k =>
    let c := d.ctr (b.page i) k
    d.setCtr (b.page i) k ⟨if clear then 0 else c.value, false⟩) d

/-- The instances that SNAP_SCOPE selects, in ascending page order. -/
def Dev.scoped (d : Dev) : List (Blk × Nat) :=
  (blkTable.filter fun b => d.inScope b.type).flatMap fun b => (List.range b.inst).map fun i => (b.blk, i)

/-- The gather bound of R481, in CLK_MGMT cycles: each stage's words are those entering there and at every stage below it. -/
def gatherBound (pages : List (Blk × Nat)) : Nat :=
  let upTo := fun (lv : Nat) => 17 * (pages.filter fun p => decide ((blkRow p.1).level ≤ lv)).length
  168 + ceilDiv (upTo 2) 16 + ceilDiv (upTo 3) 8 + ceilDiv (upTo 4) 4 + ceilDiv (upTo 5) 4 + ceilDiv (upTo 6) 4

/-- The next act of a periodic series, or none (R479). -/
def Dev.snapNext (d : Dev) (a : Nat) : Dev :=
  let p := d.get GTH.SNAP_PERIOD.Period
  let nxt := if p = 0 then none else some (a + nsU (1000 * p))
  ({ d with pmc := { d.pmc with snapArm := nxt } }).set GTH.SNAP_STAT.Armed (b2n nxt.isSome)

/-- A periodic act is cancelled because the previous snapshot is still in GTH (R479). -/
def Dev.snapSkip (d : Dev) (a : Nat) : Dev :=
  let d := ((d.set GTH.SNAP_STAT.Skipped 1).bump GTH.SNAP_SKIPS.Count).count .gth 0 0x1F9
  (d.postSys .glb 0 1 [2 + 2 ^ 4]).snapNext a

/-- The act of the armed snapshot, in the present cycle (R478). -/
def Dev.snapCapture (d : Dev) (a : Nat) : Dev :=
  if d.pmc.snap.isSome then d.snapSkip a
  else
    let pages := d.scoped
    let clear := d.flag GTH.SNAP_CFG.Clear
    let seq := (d.pmc.snapSeq + 1) % 2 ^ 32
    let buf : SnapBuf :=
      { seq := seq, clear := clear, act := compact (max a d.dt) + 2 ^ 64 * (dtSec (max a d.dt) / 2 ^ 32),
        gen := d.get GLB.COMMIT_STAT.Gen, results := pages.map fun p => d.pageResult p.1 p.2, at0 := d.cyc,
        bound := gatherBound pages }
    let d := pages.foldl (fun d p => d.pageCaptured clear p.1 p.2) d
    let d := { d with pmc := { d.pmc with snap := some buf, snapSeq := seq } }
    ((d.set GTH.SNAP_STAT.Seq seq).set GTH.SNAP_STAT.Gathering 1).snapNext a

/-- SNAP_ACT: the CLK_TIME cycle that contains the act time (R478). -/
def execSnapAct (s : State) : Host.Outcome State Fault Refusal :=
  nextD s fun d => match d.pmc.snapArm with
    | none => d
    | some a => (d.untilAct a).snapCapture a

/-- A snapshot due in the present cycle captures before anything else of the cycle (R27). -/
def Dev.dueSnap (d : Dev) : Dev :=
  match d.pmc.snapArm with
  | some a => if a < d.dt + d.get TIM.INCR.Incr then d.snapCapture a else d
  | none => d

def execSnapPeriodCheck (s : State) : Host.Outcome State Fault Refusal :=
  nextD s fun d => match d.pmc.snapArm with
    | none => d
    | some a =>
      let d := d.untilAct (a - armLead)
      if d.pmc.snap.isSome then d.snapSkip a else d

/-- The gather is complete after `cycles` CLK_MGMT cycles, at most the bound of R481. -/
def execGatherDone (cycles : Nat) (s : State) : Host.Outcome State Fault Refusal :=
  nextD s fun d => match d.pmc.snap with
    | none => d
    | some b =>
      if b.gathered.isSome then d
      else
        let n := min cycles b.bound
        let d := d.until (b.at0 + ceilDiv (25 * n) 8)
        let d := { d with pmc := { d.pmc with snap := some { b with gathered := some n } } }
        ((d.set GTH.SNAP_STAT.Gathering 0).set GTH.SNAP_STAT.Held 1).set GTH.SNAP_LAST_GATHER.Cycles n

/-- The Stream entry of a snapshot (R482). -/
def SnapBuf.entry (b : SnapBuf) : List Byte :=
  let ws := b.results.flatMap (·.words)
  let hdr := [b.seq + 2 ^ 32 * b.results.length + 2 ^ 48 * b2n b.clear, b.act % 2 ^ 64, b.act / 2 ^ 64 + 2 ^ 16 * b.gen,
    ws.length + 2 ^ 32 * b.gathered.getD 0]
  (hdr ++ ws).flatMap (toLE 8)

/-- SNAP_DELIVER: the gathered snapshot waits at its channel as one Stream entry. It stays in the GTH buffer until the channel has written
it, so a channel that stops leaves it Held (R429, R482, R483). -/
def execSnapDeliver (s : State) : Host.Outcome State Fault Refusal :=
  nextD s fun d => match d.pmc.snap with
    | none => d
    | some b =>
      let ch := d.get GTH.SNAP_CFG.Channel
      if b.gathered.isNone || b.sent.isSome || !d.streamRoom ch then d
      else ({ d with pmc := { d.pmc with snap := some { b with sent := some (ch, (d.chan ch).stream.length) } } }).streamPut ch b.entry

/-! ### Bandwidth windows (R484, R485) -/

/-- The window length as device time. -/
def Dev.bwWindow (d : Dev) : Nat := nsU (1000 * min (max 1 (d.get PMC.BW_CFG.Window)) 1000000)

/-- A received and a transmitted frame of `n` bytes with its FCS. -/
def Dev.bwRx (d : Dev) (port n : Nat) : Dev :=
  if !d.flag PMC.BW_CFG.Enable then d
  else
    let x := Tab.get {} d.pmc.cur port
    { d with pmc := { d.pmc with cur := Tab.put {} d.pmc.cur port { x with rxB := x.rxB + n, rxF := x.rxF + 1 } } }
def Dev.bwTx (d : Dev) (port n : Nat) : Dev :=
  if !d.flag PMC.BW_CFG.Enable then d
  else
    let x := Tab.get {} d.pmc.cur port
    { d with pmc := { d.pmc with cur := Tab.put {} d.pmc.cur port { x with txB := x.txB + n, txF := x.txF + 1 } } }

/-- The window in progress ends: its counts are latched and the peaks raised. -/
def Dev.bwLatchAll (d : Dev) (short : Bool) : Dev :=
  let cur := d.pmc.cur
  let peak := cur.foldl (fun (t : Tab Bw) e =>
    let p := Tab.get {} t e.1
    Tab.put {} t e.1 { p with rxB := max p.rxB e.2.rxB, txB := max p.txB e.2.txB }) d.pmc.peak
  let d := { d with pmc := { d.pmc with latched := cur, cur := [], peak := peak } }
  (d.bump PMC.BW_STAT.Windows).set PMC.BW_STAT.Short (b2n short)

/-- A Set or Step of device time ends the window (R484). -/
def Dev.bwCut (d : Dev) : Dev := if d.flag PMC.BW_CFG.Enable then d.bwLatchAll true else d

def execBwWindowEnd (s : State) : Host.Outcome State Fault Refusal :=
  nextD s fun d =>
    if !d.flag PMC.BW_CFG.Enable then d
    else (d.untilDt ((d.dt / d.bwWindow + 1) * d.bwWindow)).bwLatchAll false

/-- A write of BW_CFG. -/
def execBwCfgWrite (fn data : Nat) (s : State) : Host.Outcome State Fault Refusal :=
  nextD s fun d => d.gate fn .pmc 0 0x300 fun d =>
    let was := d.flag PMC.BW_CFG.Enable
    let d := (d.set PMC.BW_CFG.Window data).set PMC.BW_CFG.Enable (data / 2 ^ 31)
    if was || d.flag PMC.BW_CFG.Enable then d.bwLatchAll true else d

/-- The BW values of a port as a function sees them. -/
def Dev.bwOf (d : Dev) (fn : Nat) : Bw := Tab.get {} d.pmc.bwLatch fn

/-- The latch of R485 for a function. -/
def Dev.latchBw (d : Dev) (fn : Nat) : Dev :=
  { d with pmc := { d.pmc with bwLatch := Tab.put {} d.pmc.bwLatch fn (Tab.get {} d.pmc.latched (d.get PMC.BW_SEL.Port)) } }

def execBwRxBytesRead (fn len : Nat) (s : State) : Host.Outcome State Fault Refusal :=
  nextD s fun d => d.readGate fn .pmc 0 0x308 len fun d =>
    let d := d.latchBw fn
    (d, (d.bwOf fn).rxB)

/-! ### IPFIX (R486 to R490) -/

/-- The device time of a record clock value (R489), in milliseconds since 1970-01-01 UTC. -/
def Dev.ipxMs (d : Dev) (r : Nat) : Nat :=
  let back := (d.rclk + 2 ^ 32 - r % 2 ^ 32) % 2 ^ 32
  let t := dtWrap (d.pmc.tickTime + 2 ^ 48 * secUnits - back * nsU 65536)
  uint 64 (((dtSec t : Int) - (d.get PMC.IPX_UTC.Offset : Nat)) * 1000 + (dtNs t / 1000000 : Nat))

/-- The data record of a staged entry (R488). -/
def Dev.ipxRecord (d : Dev) (e : List Byte) : List Byte :=
  let img := ofLE ((e.drop 48).take 64)
  let v6 := bit (ofLE ((e.drop 1).take 1)) 0
  let n := if v6 then 16 else 4
  (e.drop 4).take n ++ (e.drop 20).take n ++ (e.drop 36).take 4 ++ (e.drop 40).take 1 ++
    (List.replicate 3 0 ++ (e.drop 41).take 1) ++ ([0, 0] ++ (e.drop 2).take 2) ++ toBE 8 (d.ipxMs (recFirst img)) ++
    toBE 8 (d.ipxMs (recLast img)) ++ toBE 8 (recPackets img) ++ toBE 8 (recBytes img) ++ (e.drop 112).take 1 ++
    toBE 8 (recHandle img + 2 ^ 30 * recFirst img)

/-- Bytes of a Message with `a` records under template 256 and `b` under 257. -/
def ipxLen (tpl : Bool) (a b : Nat) : Nat :=
  16 + (if tpl then 116 else 0) + (if a = 0 then 0 else 4 + 62 * a) + (if b = 0 then 0 else 4 + 86 * b)

/-- The Template Set: both templates. -/
def ipxTemplates : List Byte :=
  let flds := fun (src dst n : Nat) =>
    [(src, n), (dst, n), (7, 2), (11, 2), (4, 1), (10, 4), (234, 4), (152, 8), (153, 8), (86, 8), (85, 8), (136, 1), (148, 8)]
  let one := fun (id : Nat) (l : List (Nat × Nat)) =>
    toBE 2 id ++ toBE 2 l.length ++ l.flatMap fun f => toBE 2 f.1 ++ toBE 2 f.2
  toBE 2 2 ++ toBE 2 116 ++ one 256 (flds 8 12 4) ++ one 257 (flds 27 28 16)

/-- Whether the Message that opens now carries the Template Set (R490). -/
def Dev.ipxCarries (d : Dev) : Bool :=
  let every := d.get PMC.IPX_MSG.TemplateEvery
  d.pmc.tplNext || d.pmc.msgCount == 0 || (every != 0 && d.pmc.msgCount % every == 0)

/-- Records of the open Message. -/
def PmcSt.open (p : PmcSt) : Nat := p.msg256.length + p.msg257.length

/-- Staged entries, read through port 4, enter the open Message while they fit; the Boolean says that the next does not. An entry waits
until its writes have been accepted and the port takes its two reads (R312, R313); one that HBC reports uncorrectable is lost (R491). Fuel: the entries. -/
def Chip.ipxFill : Nat → Chip → Chip × Bool
  | 0, c => (c, false)
  | n + 1, c =>
    let d := c.dev
    match d.pmc.ipxRing with
    | [] => (c, false)
    | (j, at0) :: rest =>
      let a := ringAddr (d.get PMC.IPX_RING.Offset) (d.get PMC.IPX_RING_SIZE.SlotsLog2) j
      let e := Mem.readN c.hbm a 128
      let v6 := bit (ofLE ((e.drop 1).take 1)) 0
      let wait := !d.hbmMayRead 4 a || !d.hbmMayRead 4 (a + 64)
      let tpl := if d.pmc.open = 0 then d.ipxCarries else d.pmc.msgTpl
      let n4 := d.pmc.msg256.length + b2n (!v6)
      let n6 := d.pmc.msg257.length + b2n v6
      if wait then (c, false)
      else if d.burstBad a || d.burstBad (a + 64) then
        let c := (c.hbmRead 4 0 a).hbmRead 4 0 (a + 64)
        Chip.ipxFill n (c.upd fun d => ({ d with pmc := { d.pmc with ipxRing := rest } }).ipxLose)
      else if d.pmc.open ≠ 0 ∧ d.get PMC.IPX_MSG.MaxMessage < ipxLen tpl n4 n6 then (c, true)
      else
        let c := (c.hbmRead 4 0 a).hbmRead 4 0 (a + 64)
        let d := c.dev
        let p := if d.pmc.open = 0 then { d.pmc with msgTpl := tpl, tplNext := false, msgSince := at0 } else d.pmc
        let p := if v6 then { p with msg257 := p.msg257 ++ [d.ipxRecord e] } else { p with msg256 := p.msg256 ++ [d.ipxRecord e] }
        Chip.ipxFill n { c with dev := { d with pmc := { p with ipxRing := rest } } }

/-- The open Message closes and goes to the channel (R490); when Enable is cleared and nothing is left, Active clears. -/
def Dev.ipxClose (d : Dev) : Dev :=
  if d.pmc.open = 0 then d
  else
    let p := d.pmc
    let n := p.open
    let set := fun (id : Nat) (rs : List (List Byte)) =>
      if rs.isEmpty then [] else
        let body := rs.flatten
        toBE 2 id ++ toBE 2 (4 + body.length) ++ body
    let sec := uint 32 ((dtSec d.dt : Int) - (d.get PMC.IPX_UTC.Offset : Nat))
    let len := ipxLen p.msgTpl p.msg256.length p.msg257.length
    let msg := toBE 2 10 ++ toBE 2 len ++ toBE 4 sec ++ toBE 4 (d.get PMC.IPX_SEQ.Seq) ++ toBE 4 (d.get PMC.IPX_DOMAIN.Domain) ++
      (if p.msgTpl then ipxTemplates else []) ++ set 256 p.msg256 ++ set 257 p.msg257
    let d := (d.streamPut (d.get PMC.IPX_CFG.Channel) msg).bump PMC.IPX_SEQ.Seq n
    let d := ((d.bump PMC.IPX_RECORDS.Count n).count .pmc 0 0x1F0 n).count .pmc 0 0x1F2
    { d with pmc := { d.pmc with msg256 := [], msg257 := [], msgTpl := false, msgCount := d.pmc.msgCount + 1 } }

/-- Active clears once Enable is 0, the ring is drained and no Message is open (R490). -/
def Dev.ipxIdle (d : Dev) : Dev :=
  if !d.flag PMC.IPX_CFG.Enable && d.pmc.ipxRing.isEmpty && d.pmc.open == 0 then d.set PMC.IPX_STAT.Active 0 else d

/-- IPX_MESSAGE_CLOSE: entries enter the open Message; it closes when the next would not fit, or when Enable is cleared and
the ring is drained, as soon as the channel has room for it (R490). -/
def execIpxMessageClose (s : State) : Host.Outcome State Fault Refusal :=
  nextC s fun c =>
    let (c, full) := Chip.ipxFill c.dev.pmc.ipxRing.length c
    c.upd fun d =>
      if (full || (!d.flag PMC.IPX_CFG.Enable && d.pmc.ipxRing.isEmpty)) && d.streamRoom (d.get PMC.IPX_CFG.Channel) then d.ipxClose.ipxIdle else d.ipxIdle

/-- IPX_FLUSH_EXPIRE: the open Message has held records for FlushMs. -/
def execIpxFlushExpire (s : State) : Host.Outcome State Fault Refusal :=
  nextC s fun c =>
    let (c, _) := Chip.ipxFill c.dev.pmc.ipxRing.length c
    c.upd fun d =>
      if d.pmc.open = 0 then d
      else
        let d := d.until (d.pmc.msgSince + nsCyc (1000000 * max 1 (d.get PMC.IPX_CFG1.FlushMs)))
        if d.streamRoom (d.get PMC.IPX_CFG.Channel) then d.ipxClose.ipxIdle else d

def execIpxSendTemplates (fn : Nat) (s : State) : Host.Outcome State Fault Refusal :=
  nextD s fun d => d.gate fn .pmc 0 0x41C fun d => { d with pmc := { d.pmc with tplNext := true } }

/-- A write of IPX_CFG (R490): Enable takes effect; while Active its other fields are refused. -/
def execIpxEnableWrite (fn data : Nat) (s : State) : Host.Outcome State Fault Refusal :=
  nextD s fun d => d.gate fn .pmc 0 0x400 fun d =>
    let en := bit data 0
    let same := bits data 8 8 == d.get PMC.IPX_CFG.ClassMask && bits data 16 8 == d.get PMC.IPX_CFG.Channel
    let d := if d.flag PMC.IPX_STAT.Active then (if same then d else d.set PMC.IPX_STAT.Refused 1)
      else (d.set PMC.IPX_CFG.ClassMask (bits data 8 8)).set PMC.IPX_CFG.Channel (bits data 16 8)
    let was := d.flag PMC.IPX_CFG.Enable
    let d := d.set PMC.IPX_CFG.Enable (b2n en)
    if en && !was then
      ({ d with pmc := { d.pmc with tplNext := true, msgCount := 0, ipxP := d.rclk } }).set PMC.IPX_STAT.Active 1
    else d.ipxIdle

end Sys2Proof.Machine
end

