-- ==== Sys2Proof/Machine/Parse.lean ====
section
/-! DEFINITION. The parser of a slice (R59 to R62), the flow key (R64 to R67), and the ingress class (R63). Reading of the
headers' lengths follows their standards: TCP its data offset and at least 20 bytes, UDP 8, SCTP 12, ICMP and an ICMPv6
echo 8, other ICMPv6 4 (DEDUCED; log entry 20). -/

namespace Sys2Proof.Machine

/-- The number in network byte order in `n` bytes of a frame from offset `o`. -/
def be (f : List Byte) (o n : Nat) : Nat := ofBE ((f.drop o).take n)

/-- The fields after an unfragmented IP header (R59, R62): ports, TCP flags, echo identifier. The Boolean says a header
does not end within the limit. -/
def parseL4 (f : List Byte) (lim : Nat) (x : L3) : L3 × Bool :=
  let o := x.l4off
  if x.frag then (x, false)
  else if x.proto = 6 then
    if lim < o + 20 ∨ lim < o + 4 * bits (be f (o + 12) 1) 4 4 then (x, true)
    else ({ x with sport := be f o 2, dport := be f (o + 2) 2, tcpFlags := be f (o + 13) 1 }, false)
  else if x.proto = 17 then
    if lim < o + 8 then (x, true) else ({ x with sport := be f o 2, dport := be f (o + 2) 2 }, false)
  else if x.proto = 132 then
    if lim < o + 12 then (x, true) else ({ x with sport := be f o 2, dport := be f (o + 2) 2 }, false)
  else if x.proto = 1 ∧ !x.v6 then
    if lim < o + 8 then (x, true)
    else
      let t := be f o 1
      ({ x with icmpType := t, echo := if t = 0 ∨ t = 8 then some (be f (o + 4) 2) else none }, false)
  else if x.proto = 58 ∧ x.v6 then
    if lim < o + 4 then (x, true)
    else
      let t := be f o 1
      if t = 128 ∨ t = 129 then
        if lim < o + 8 then ({ x with icmpType := t }, true)
        else ({ x with icmpType := t, echo := some (be f (o + 4) 2) }, false)
      else ({ x with icmpType := t }, false)
  else (x, false)

/-- An IPv4 header at offset `o` (R59): IHL 5 to 15, options skipped. `none`: the header does not end within the limit, or its IHL is
below 5, and none of it is parsed. -/
def parseV4 (f : List Byte) (lim o : Nat) : Option L3 × Bool :=
  let ihl := be f o 1 % 16
  if lim < o + 20 ∨ ihl < 5 ∨ lim < o + 4 * ihl then (none, true)
  else
    let fo := be f (o + 6) 2
    let x : L3 :=
      { v6 := false, src := (f.drop (o + 12)).take 4, dst := (f.drop (o + 16)).take 4, proto := be f (o + 9) 1,
        tos := be f (o + 1) 1, ttl := be f (o + 8) 1, frag := bit fo 13 || fo % 8192 != 0, off := o,
        l4off := o + 4 * ihl }
    let (x, e) := parseL4 f lim x
    (some x, e)

/-- IPv6 extension headers of types 0, 43, 44 and 60 (R59), at most `n` more; a Fragment header ends the walk, since what
follows it is the fragment's (R62). Where one cannot be walked, the final next header is not reached and reads 0. -/
def parseExt (f : List Byte) (lim : Nat) : Nat → L3 → L3 × Bool
  | 0, x => if x.proto = 0 ∨ x.proto = 43 ∨ x.proto = 44 ∨ x.proto = 60 then ({ x with proto := 0 }, true) else parseL4 f lim x
  | n + 1, x =>
    if x.proto = 44 then
      if lim < x.l4off + 8 then ({ x with proto := 0 }, true)
      else ({ x with frag := true, proto := be f x.l4off 1, l4off := x.l4off + 8 }, false)
    else if x.proto = 0 ∨ x.proto = 43 ∨ x.proto = 60 then
      let len := 8 * (be f (x.l4off + 1) 1 + 1)
      if lim < x.l4off + len then ({ x with proto := 0 }, true)
      else parseExt f lim n { x with proto := be f x.l4off 1, l4off := x.l4off + len }
    else parseL4 f lim x

/-- An IPv6 header at offset `o` (R59). -/
def parseV6 (f : List Byte) (lim o : Nat) : Option L3 × Bool :=
  if lim < o + 40 then (none, true)
  else
    let x : L3 :=
      { v6 := true, src := (f.drop (o + 8)).take 16, dst := (f.drop (o + 24)).take 16, proto := be f (o + 6) 1,
        tos := bits (be f o 2) 4 8, ttl := be f (o + 7) 1, off := o, l4off := o + 40 }
    let (x, e) := parseExt f lim 3 x
    (some x, e)

/-- IPv4 or IPv6 by EtherType; `none` for another EtherType. -/
def parseIp (f : List Byte) (lim o etype : Nat) : Option (Option L3 × Bool) :=
  if etype = 0x0800 then some (parseV4 f lim o)
  else if etype = 0x86DD then some (parseV6 f lim o)
  else none

/-- VLAN tags from offset `o`, where the EtherType at `o` may name one (R59): the tag values, the EtherType after them
and its offset plus 2; the Boolean reports a third tag or a truncated one, where that EtherType is not reached and reads 0. -/
def parseTags (f : List Byte) (lim : Nat) : Nat → Nat → List Nat × Nat × Nat × Bool
  | 0, o =>
    let t := be f o 2
    if t = 0x8100 ∨ t = 0x88A8 then ([], 0, o + 2, true) else ([], t, o + 2, false)
  | n + 1, o =>
    let t := be f o 2
    if t = 0x8100 ∨ t = 0x88A8 then
      if lim < o + 6 then ([], 0, o + 2, true)
      else
        let (l, t', o', e) := parseTags f lim n (o + 4)
        (be f (o + 2) 2 :: l, t', o', e)
    else ([], t, o + 2, false)

/-- The end of an MPLS stack of at most `n` labels from `o` (R59); `none` where no bottom of stack is found. -/
def mplsEnd (f : List Byte) (lim : Nat) : Nat → Nat → Option Nat
  | 0, _ => none
  | n + 1, o =>
    if lim < o + 4 then none
    else if bit (be f (o + 2) 1) 0 then some (o + 4)
    else mplsEnd f lim n (o + 4)

/-- The IP header behind an MPLS stack whose payload begins at `o` (R59): by its first nibble where `PRS.TUN_EN.MplsIp` is 1; `none` where
the payload is not parsed as IP. -/
def mplsPayload (f : List Byte) (lim o : Nat) (mplsIp : Bool) : Option (Option L3 × Bool) :=
  if mplsIp ∧ o < lim then parseIp f lim o (if be f o 1 / 16 = 4 then 0x0800 else if be f o 1 / 16 = 6 then 0x86DD else 0) else none

/-- The inner headers from an inner Ethernet header, with the MPLS stack it may carry, or an inner IP header (R59, R60): class 11, 12 or
13, or 14 on a parse error. -/
def parseInner (f : List Byte) (lim o etype : Nat) (mplsIp : Bool) (p : Parsed) : Parsed :=
  let fin := fun (p : Parsed) (r : Option (Option L3 × Bool)) =>
    match r with
    | none => { p with cls := 13 }
    | some (x, e) => { p with inner := x, cls := if e then 14 else if (x.map (·.v6)).getD false then 12 else 11 }
  if etype = 0x6558 then
    if lim < o + 14 then { p with cls := 14 }
    else
      let p := { p with idmac := (f.drop o).take 6, ismac := (f.drop (o + 6)).take 6 }
      let (_, t, o', e) := parseTags f lim 2 (o + 12)
      if e then { p with cls := 14 }
      else if t = 0x8847 ∨ t = 0x8848 then
        match mplsEnd f lim 4 o' with
        | none => { p with cls := 14 }
        | some b => fin p (mplsPayload f lim b mplsIp)
      else fin p (parseIp f lim o' t)
  else fin p (parseIp f lim o etype)

/-- The tunnel, if any, that follows an unfragmented outer IP header (R59, R61). A UDP destination that is VxlanPort and GenevePort alike is
taken as VXLAN: R59 gives no precedence (DESIGN CHOICE, log entry 108). -/
def parseTunnel (f : List Byte) (lim : Nat) (x : L3) (vx gnv : Option Nat) (gre mplsIp : Bool) (p : Parsed) : Option Parsed :=
  if x.frag then none
  else if x.proto = 17 ∧ vx = some x.dport then
    let o := x.l4off + 8
    if lim < o + 8 then some { p with cls := 14 }
    else some (parseInner f lim (o + 8) 0x6558 mplsIp { p with tun := 1, tunId := be f (o + 4) 3 })
  else if x.proto = 17 ∧ gnv = some x.dport then
    let o := x.l4off + 8
    let len := 8 + 4 * (be f o 1 % 64)
    if lim < o + 8 ∨ lim < o + len then some { p with cls := 14 }
    else some (parseInner f lim (o + len) (be f (o + 2) 2) mplsIp { p with tun := 2, tunId := be f (o + 4) 3 })
  else if x.proto = 47 ∧ gre then
    let o := x.l4off
    if lim < o + 4 then some { p with cls := 14 }
    else
      let fl := be f o 2
      let ko := o + 4 + 4 * b2n (bit fl 15)
      let len := 4 + 4 * b2n (bit fl 15) + 4 * b2n (bit fl 13) + 4 * b2n (bit fl 12)
      if lim < o + len then some { p with cls := 14 }
      else some (parseInner f lim (o + len) (be f (o + 2) 2) mplsIp
        { p with tun := 3, tunId := if bit fl 13 then be f ko 4 else 0 })
  else none

/-- The parse class of an outer IP packet without a recognized tunnel (R61). -/
def ipClass (x : L3) : Nat :=
  let base := if x.v6 then 6 else 2
  if x.frag then base + 3 else if x.proto = 6 then base else if x.proto = 17 then base + 1 else base + 2

/-- The PTP header of the outer headers, where one is recognized (R366): version 2, ending within the limit. -/
def findPtp (f : List Byte) (lim etype o : Nat) (x : Option L3) : Option (Nat × Nat) :=
  let ok := fun (h : Nat) => decide (h + 34 ≤ lim) && be f (h + 1) 1 % 16 == 2
  match x with
  | none => if etype = 0x88F7 && ok o then some (o, 0) else none
  | some x =>
    if x.proto = 17 && !x.frag && (x.dport = 319 || x.dport = 320) && ok (x.l4off + 8) then
      some (x.l4off + 8, if x.v6 then 2 else 1)
    else none

/-- The parser of R59 to R62 over a frame without its FCS, with the tunnel configuration of `PRS.TUN_CFG` and
`PRS.TUN_EN`. -/
def parseFrame (frame : List Byte) (vx gnv : Option Nat) (gre mplsIp : Bool) : Parsed :=
  let f := frame.take 256
  let lim := f.length
  if lim < 14 then { cls := 14 }
  else
    let (tags, t, o, e) := parseTags f lim 2 12
    let p : Parsed := { dmac := f.take 6, smac := (f.drop 6).take 6, tags := tags, etype := t }
    if e then { p with cls := 14 }
    else
      let ip := fun (p : Parsed) (r : Option L3 × Bool) =>
        match r with
        | (none, _) => { p with cls := 14 }
        | (some x, true) => { p with outer := some x, cls := 14 }
        | (some x, false) =>
          let p := { p with outer := some x }
          (parseTunnel f lim x vx gnv gre mplsIp p).getD { p with cls := ipClass x }
      if t = 0x8847 ∨ t = 0x8848 then
        match mplsEnd f lim 4 o with
        | none => if lim < o + 4 then { p with cls := 14 } else { p with cls := 14, mpls := true, label := be f o 4 / 4096 }
        | some o' =>
          let p := { p with mpls := true, label := be f o 4 / 4096 }
          match mplsPayload f lim o' mplsIp with
          | none => { p with cls := 10 }
          | some r =>
            let q := ip p r
            { q with ptp := findPtp f lim t o' q.outer }
      else if t = 0x0806 then { p with cls := 1 }
      else
        match parseIp f lim o t with
        | none => { p with cls := 0, ptp := findPtp f lim t o none }
        | some r =>
          let q := ip p r
          { q with ptp := findPtp f lim t o q.outer }

/-- The parser of slice `s` under the active configuration. -/
def Dev.parse (d : Dev) (s : Nat) (frame : List Byte) : Parsed :=
  parseFrame frame
    (if d.cfg PRS.TUN_EN.Vxlan s != 0 then some (d.cfg PRS.TUN_CFG.VxlanPort s) else none)
    (if d.cfg PRS.TUN_EN.Geneve s != 0 then some (d.cfg PRS.TUN_CFG.GenevePort s) else none)
    (d.cfg PRS.TUN_EN.Gre s != 0) (d.cfg PRS.TUN_EN.MplsIp s != 0)

/-- The ingress class of a frame at port index `i` of slice `s` (R63). -/
def Dev.ingressClass (d : Dev) (s i : Nat) (p : Parsed) : Nat :=
  let def0 := d.cfg PRS.PORT_CFG.DefClass s i
  match d.cfg PRS.PORT_CFG.ClassSrc s i with
  | 1 => match p.tags with
    | t :: _ => t / 2 ^ 13
    | [] => def0
  | 2 => match p.outer with
    | some x =>
      let dscp := x.tos / 4
      bits (d.cfg PRS.DSCP_MAP.Classes s (dscp / 8)) (4 * (dscp % 8)) 3
    | none => def0
  | _ => def0

/-- The key profile of a frame (R64). -/
def Dev.profileOf (d : Dev) (s i cls : Nat) : Nat :=
  bits (d.cfg PRS.PROFILE_MAP.Profiles s (2 * d.cfg PRS.PORT_CFG.MapSet s i + cls / 8)) (4 * (cls % 8)) 4

/-- An address with only its leading `n` bits kept. -/
def maskAddr (a : List Byte) (n : Nat) : List Byte :=
  let w := 8 * a.length
  toBE a.length (ofBE a / 2 ^ (w - n) * 2 ^ (w - n))

/-- The address field of the key: 16 bytes, an IPv4 address in the first four, masked to the prefix (R65). -/
def keyAddr (x : L3) (a : List Byte) (n : Nat) : List Byte :=
  if x.v6 then maskAddr a (min n 128) else maskAddr a (min n 32) ++ List.replicate 12 0

/-- The 48-byte FLOW_KEY of a frame under profile `k` of slice `s` (R65). TunId of a frame with both a tunnel and an MPLS stack is the
tunnel's: R65 gives no precedence (DESIGN CHOICE; log entry 86). -/
def Dev.flowKey (d : Dev) (s k i port : Nat) (p : Parsed) : List Byte :=
  let sel := fun (f : Fld) => d.cfg f s k != 0
  let useIn := sel PRS.KP_SEL.Inner && p.tun != 0
  let l3 := if useIn then p.inner else p.outer
  let macs := if useIn then p.idmac ++ p.ismac else p.dmac ++ p.smac
  let macPair := sel PRS.KP_SEL.MacPair
  let z16 : List Byte := List.replicate 16 0
  let src := if macPair then sliceB macs 0 12 ++ [0, 0, 0, 0]
    else if sel PRS.KP_SEL.L3Src then (l3.map fun x => keyAddr x x.src (d.cfg PRS.KP_PFX.SrcPrefix s k)).getD z16 else z16
  let dst := if macPair then z16
    else if sel PRS.KP_SEL.L3Dst then (l3.map fun x => keyAddr x x.dst (d.cfg PRS.KP_PFX.DstPrefix s k)).getD z16 else z16
  let l4s := if sel PRS.KP_SEL.L4Src then
      (l3.map fun x => if sel PRS.KP_SEL.IcmpId then x.echo.getD x.sport else x.sport).getD 0 else 0
  let l4d := if sel PRS.KP_SEL.L4Dst then (l3.map (·.dport)).getD 0 else 0
  let flags := b2n ((l3.map (·.v6)).getD false) + 2 * b2n useIn + 4 * p.tun + 16 * b2n p.mpls
  [BitVec.ofNat 8 (d.cfg PRS.KP_CTL.KeyTag s k), BitVec.ofNat 8 flags] ++
    toBE 2 (if sel PRS.KP_SEL.Zone then d.cfg PRS.PORT_CFG.Zone s i else 0) ++ src ++ dst ++ toBE 2 l4s ++ toBE 2 l4d ++
    toBE 1 (if sel PRS.KP_SEL.Proto then (l3.map (·.proto)).getD 0 else 0) ++
    toBE 1 (if sel PRS.KP_SEL.InPort then port else 0) ++
    toBE 2 (if sel PRS.KP_SEL.Vlan then p.tags.headD 0 % 4096 else 0) ++
    toBE 4 (if sel PRS.KP_SEL.TunId then (if p.tun != 0 then p.tunId else if p.mpls then p.label else 0) else 0)

/-- The digest of a flow key: AES-128-CMAC over its 48 bytes under the device's digest key (R66). -/
def digestOf (key : Nat) (flowKey : List Byte) : Nat := cmacWhole key 3 flowKey

end Sys2Proof.Machine
end

