-- ==== Sys2Proof/Machine/Lookup.lean ====
section
/-! DEFINITION. The lookups a slice and a routine make: routes (R235 to R237), the L2 table (R240), multipath groups (R245 to
R247), NAT (R250, R251), and the associative filters (R259 to R267). -/

namespace Sys2Proof.Machine

/-! ### Generations -/

/-- The forwarding tables of a packet's generation (R47). -/
def Dev.fwdOf (d : Dev) (gen : Nat) : Fwd := if gen = d.get GLB.COMMIT_STAT.Gen then d.fwd else d.fwdPrev

/-! ### Routes -/

/-- Address bits of a family. -/
def famBits (v6 : Bool) : Nat := if v6 then 128 else 32

/-- An address masked to a length (R235). -/
def maskLen (v6 : Bool) (len a : Nat) : Nat :=
  let n := famBits v6
  a % 2 ^ n / 2 ^ (n - len) * 2 ^ (n - len)

/-- The longest route covering an address: its length and result (R237). Every long length with a route under the address's
16-bit index is in the length filter, so the probes of R237 find the longest route that covers it. -/
def Fwd.lpm (t : Fwd) (v6 : Bool) (vrf a : Nat) : Option (Nat × Nat) :=
  t.routes.foldl (fun (best : Option (Nat × Nat)) e =>
    let k := e.1
    if k.v6 = v6 ∧ k.vrf = vrf ∧ maskLen v6 k.len a = k.pfx then
      match best with
      | some b => if b.1 < k.len then some (k.len, e.2) else best
      | none => some (k.len, e.2)
    else best) none

/-- The result of a route, by its key. -/
def Fwd.route (t : Fwd) (k : RouteKey) : Option Nat := (t.routes.find? fun e => e.1 = k).map (·.2)

/-! ### L2 -/

/-- The 8 candidate slots of a key (R240). -/
def Dev.l2Slots (d : Dev) (mac vlan : Nat) : List Nat :=
  [0, 1].flatMap fun w => (List.range 4).map fun j => 4 * (Config.l2Hash d.l2.seed mac vlan w % 262144) + j

/-- The slot and entry of a key. -/
def Dev.l2Find (d : Dev) (mac vlan : Nat) : Option (Nat × L2Entry) :=
  (d.l2Slots mac vlan).findSome? fun s => match Tab.find d.l2.ents s with
    | some e => if e.mac = mac ∧ e.vlan = vlan then some (s, e) else none
    | none => none

/-- The device with an L2 slot replaced. -/
def Dev.setL2 (d : Dev) (slot : Nat) (e : Option L2Entry) : Dev :=
  let ents := match e with
    | some e => Tab.set d.l2.ents slot e
    | none => Tab.del d.l2.ents slot
  { d with l2 := { d.l2 with ents := ents } }

/-- Time in µs as L2T keeps it (R240). -/
def Dev.usNow (d : Dev) : Nat := d.cyc * 4 / 5000

/-- The VLAN entry: FloodGroup and LearnEn. -/
def Dev.vlanOf (d : Dev) (vid : Nat) : Nat × Bool := Tab.get (0, false) d.l2.vlans vid

/-! ### Multipath -/

/-- A group, a pool slot, a pool bucket. -/
def Fwd.group (t : Fwd) (g : Nat) : EcmGroup := Tab.get {} t.groups g
def Fwd.slot (t : Fwd) (i : Nat) : MSlot := Tab.get {} t.slots i
def Fwd.bkt (t : Fwd) (i : Nat) : Nat := Tab.get 0 t.bkts i

/-- Whether a group has an Active slot. -/
def Fwd.anyActive (t : Fwd) (g : EcmGroup) : Bool :=
  t.slots.any fun e => decide (g.slotBase ≤ e.1) && decide (e.1 < g.slotBase + g.slotCount) && e.2.state == 1

/-- The stateless selection of a group with a 32-bit hash (R246): the slot number, where it is Active. -/
def Fwd.stateless (t : Fwd) (g : EcmGroup) (h : Nat) : Option Nat :=
  let s := t.bkt (g.bucketBase + h * 2 ^ g.bucketLog2 / 2 ^ 32)
  if s < g.slotCount ∧ (t.slot (g.slotBase + s)).state = 1 ∧ t.anyActive g then some s else none

/-! ### NAT -/

/-- The HBM address of a block map entry (R250). -/
def Dev.mapAddr (d : Dev) (i : Nat) : Nat := hbmAddr (i % 384) (d.cfg NAT.MAP_CFG.MapOffset + 32 * (i / 384))

/-- A block map entry as its 32 bytes: the four slots, the cursor, and zeros. The manual gives the entry's size and contents
but not the places within the 32 bytes (DESIGN CHOICE; log entry 31). -/
def MapEntry.bytes (e : MapEntry) : List Byte := e.slots.flatMap (toLE 4) ++ toLE 2 e.cursor ++ List.replicate 14 0

/-- A block map entry from its bytes. -/
def mapEntryOf (bs : List Byte) : MapEntry :=
  { slots := (List.range 4).map fun j => ofLE ((bs.drop (4 * j)).take 4), cursor := ofLE ((bs.drop 16).take 2) }

/-- Bytes of the general region as NAT sees them: what HBM holds, and over it what NAT's own writes to the burst still wait to store at port 5
(R251, R313). -/
def Chip.natBytes (c : Chip) (a n : Nat) : List Byte :=
  let r := a / 2 ^ 29
  let own := (c.dev.hpc r).waiting.filter fun x => x.port == 5 && x.write && x.t == a % 2 ^ 29 / 64
  Mem.readN (own.foldl (fun m x => Mem.writeAll m (x.put.map fun e => (hbmAddr r e.1, e.2))) c.hbm) a n

/-- A block map entry as lookups see it: from the overlay, else from HBM (R250). -/
def Chip.mapEntry (c : Chip) (i : Nat) : MapEntry :=
  match c.dev.nat.overlay.find? fun e => e.1 = i with
  | some e => e.2
  | none => mapEntryOf (c.natBytes (c.dev.mapAddr i) 32)

/-- The lowest-numbered subscriber range that covers an inside address, with the map entry it gives (R250). -/
def Dev.subRange (d : Dev) (a : Nat) : Option Nat :=
  (List.range 64).findSome? fun r =>
    let base := d.cfg NAT.SUB.Base 0 r
    let len := d.cfg NAT.SUB.Len 0 r
    if d.cfg NAT.SUB.Valid 0 r ≠ 0 ∧ maskLen false len a = maskLen false len base then
      some (d.cfg NAT.SUB.MapBase 0 r + (a - maskLen false len base))
    else none

/-- The valid blocks of a map entry: address index and block number, in slot order. -/
def MapEntry.blocks (e : MapEntry) : List (Nat × Nat) :=
  e.slots.filterMap fun w => if bit w 31 then some (bits w 0 16, bits w 16 12) else none

/-- The port hint at a position of the list of ports of the blocks, with its address index (R251). -/
def portAt (t : Fwd) : List (Nat × Nat) → Nat → Nat × Nat
  | [], _ => (0, 0)
  | (a, b) :: rest, n =>
    let e : NatAddr := Tab.get {} t.natAddr a
    let size := 2 ^ e.blockLog2
    if n < size then (e.portBase + size * b + n, a) else portAt t rest (n - size)

/-- A map entry has been read from HBM: `true` where the read is uncorrectable, as HBC reports it (`err`), or as NAT detector 1 does where its
injection is armed (R57, R257). ERR_ADDR holds the entry's index. -/
def Dev.mapLost (d : Dev) (i : Nat) (err : Bool) : Dev × Bool :=
  if err || d.burstBad (d.mapAddr i) then (d.report .nat 0 1 i true, true)
  else match d.protect .nat 0 1 i with
    | (d, ok) => (d, !ok)

/-- The result word of a NAT lookup in a map entry: blocks, port hint, address index, and the cursor's position (R251, R255). -/
def Fwd.natWord (t : Fwd) (e : MapEntry) : Nat :=
  let bl := e.blocks
  let total := (bl.map fun x => 2 ^ (Tab.get ({} : NatAddr) t.natAddr x.1).blockLog2).foldl (· + ·) 0
  let (port, ai) := if total = 0 then (0, 0) else portAt t bl (e.cursor % total)
  1 + 2 * bl.length + 2 ^ 16 * (port % 2 ^ 16) + 2 ^ 32 * ai + 2 ^ 48 * e.cursor

/-- A NAT lookup by a routine (R251): its result word, and the cursor advanced, as one step. An entry of HBM has been read by then, and is
written through port 5 (R313); one that is uncorrectable gives the result of no range (R257). -/
def Chip.natLookup (c : Chip) (a : Nat) (err : Bool) : Chip × Nat :=
  match c.dev.subRange a with
  | none => (c, 0)
  | some i =>
    let e := c.mapEntry i
    let e' := { e with cursor := (e.cursor + 1) % 65536 }
    let w := c.dev.fwd.natWord e
    if c.dev.nat.overlay.any fun x => x.1 = i then
      (c.upd fun d => { d with nat := { d.nat with overlay := d.nat.overlay.map fun x => if x.1 = i then (i, e') else x } }, w)
    else match c.dev.mapLost i err with
      | (d, true) => ({ c with dev := d }, 0)
      | (d, false) => ({ c with dev := d }.hbmWrite 5 0 (d.mapAddr i) e'.bytes, w)

/-- Where a NAT lookup has to read its map entry in HBM: the entry's address (R250). -/
def Dev.natReads (d : Dev) (a : Nat) : Option Nat :=
  match d.subRange a with
  | none => none
  | some i => if d.nat.overlay.any fun x => x.1 = i then none else some (d.mapAddr i)

/-! ### Filters -/

/-- A bank. -/
def Dev.bank (d : Dev) (n : Nat) : AclBank := Tab.get {} d.acl.banks n

/-- The device with a bank replaced. -/
def Dev.setBank (d : Dev) (n : Nat) (b : AclBank) : Dev := { d with acl := { d.acl with banks := Tab.put {} d.acl.banks n b } }

/-- An entry of a bank. -/
def AclBank.ent (b : AclBank) (i : Nat) : AclEnt := Tab.get {} b.ents i

/-- A bank with an entry replaced. -/
def AclBank.setEnt (b : AclBank) (i : Nat) (e : AclEnt) : AclBank := { b with ents := Tab.put {} b.ents i e }

/-- Whether an entry is valid in a plane. -/
def AclEnt.inPlane (e : AclEnt) (p : Nat) : Bool := if p = 0 then e.plane0 else e.plane1

/-- An entry with its valid bit of a plane set. -/
def AclEnt.setPlane (e : AclEnt) (p : Nat) (v : Bool) : AclEnt :=
  if p = 0 then { e with plane0 := v } else { e with plane1 := v }

/-- The plane a generation searches (R273). -/
def Dev.planeOf (d : Dev) (gen : Nat) : Nat := if gen = d.get GLB.COMMIT_STAT.Gen then d.acl.plane else d.acl.prevPlane

/-- Units of an entry for a Width value (R259). -/
def aclUnits (w : Nat) : Nat := if w = 0 then 1 else if w = 1 then 2 else 4

/-- The bank key from an 80-byte FILTER_KEY through KEY_MAP, as a number of little-endian bytes (R262). -/
def Dev.bankKey (d : Dev) (gen n : Nat) (fk : List Byte) : Nat :=
  ofLE ((List.range (20 * aclUnits (d.cfgOf gen ACL.BANK_CFG.Width n))).map fun b =>
    let o := bits (d.cfgOf gen ACL.KEY_MAP.Offsets n (b / 4)) (8 * (b % 4)) 7
    fk.getD o 0)

/-- Whether an entry's V and M match a bank key (R260). -/
def aclMatch (key v m : Nat) : Bool := (key ^^^ v) &&& m == 0

/-- What a search sees of an entry: its search-array units, or the stored copy while its repair is pending (R268). -/
def AclBank.seen (b : AclBank) (i : Nat) (e : AclEnt) : Nat × Nat :=
  if b.repair.contains i then (e.v, e.m) else e.arr.getD (e.v, e.m)

/-- The search of a bank in a plane with an entry masked: lowest matching entry and Count (R265). -/
def Dev.bankSearch (d : Dev) (gen n : Nat) (fk : List Byte) (masked : Option Nat) : Option (Nat × Nat) :=
  let b := d.bank n
  let key := d.bankKey gen n fk
  let ms := b.ents.filterMap fun x =>
    let (v, m) := b.seen x.1 x.2
    if x.2.inPlane (d.planeOf gen) && some x.1 != masked && aclMatch key v m then some x.1 else none
  match ms with
  | [] => none
  | i :: _ => some (i, min ms.length 255)

/-- Whether the stored copy of an entry matches (R267). -/
def Dev.verifyHit (d : Dev) (gen n : Nat) (fk : List Byte) (i : Nat) : Bool :=
  let e := (d.bank n).ent i
  aclMatch (d.bankKey gen n fk) e.v e.m

/-- Whether a packet of slice `s` and profile `k` searches a bank (R263). -/
def Dev.searches (d : Dev) (gen n s k : Nat) : Bool :=
  d.live .acl n && d.flag (HDR.CTL.Enable .acl) n && bit (d.cfgOf gen ACL.PROF_EN.Enable n (s / 2)) (16 * (s % 2) + k)

/-- A repair is queued, up to 4 per bank (R268). -/
def Dev.queueRepair (d : Dev) (n i : Nat) : Dev :=
  let b := d.bank n
  if b.repair.contains i then d
  else if b.repair.length < 4 then d.setBank n { b with repair := b.repair ++ [i] }
  else d.count .acl n 0x126

/-- The final result of a bank is counted: a hit, and a Count at or above Threshold (R279). -/
def Dev.bankDone (d : Dev) (h : BankHit) : Dev :=
  (if h.hit.isSome then d.count .acl h.bank 0x121 else d).countAt .acl h.bank 0x128 ((h.hit.map (·.2)).getD 0) 1 1 false

/-- An entry whose stored copy is lost: invalid in both planes, and posted (R269). -/
def Dev.aclGone (d : Dev) (n i : Nat) : Dev :=
  (d.setBank n ((d.bank n).setEnt i { (d.bank n).ent i with plane0 := false, plane1 := false })).postSys .acl n 1
    [n + 2 ^ 4 * i + 2 ^ 16 * 2]

/-- The stored copy of an entry is read, by verify, the scrubber or the host: `true` where an injected error makes the read uncorrectable,
which invalidates the entry (R57, R269, R278 detector 1). -/
def Dev.storedRead (d : Dev) (n i : Nat) : Dev × Bool :=
  match d.inject .acl n 1 with
  | (d, 0) => (d, false)
  | (d, 1) => (d.report .acl n 1 i false true, false)
  | (d, _) => ((d.report .acl n 1 i true true).aclGone n i, true)

/-- Verify finds that the search array has given a match that the stored copy does not (R267): detector 0 reports it as corrected, and a repair is
queued (R268). Only ERR_INJ makes the array differ from the stored copy here, so the report is an injected one (R58, R278). -/
def Dev.arrayWrong (d : Dev) (n i : Nat) : Dev := (d.report .acl n 0 i false true).queueRepair n i

/-- The first pass of one bank (R265, R267): a winner that fails verify is a false hit, which makes a second pass due, as does one whose
stored copy is uncorrectable (R269). -/
def Dev.firstPass (d : Dev) (gen n : Nat) (fk : List Byte) : Dev × BankHit :=
  let d := d.count .acl n 0x120
  match d.bankSearch gen n fk none with
  | none => (d, { bank := n, hit := none })
  | some (i, k) =>
    match d.storedRead n i with
    | (d, true) => (d, { bank := n, hit := none, masked := some i, again := true })
    | (d, false) =>
      if d.verifyHit gen n fk i then (d, { bank := n, hit := some (i, k) })
      else (((d.count .acl n 0x123).postSys .acl n 1 [n + 2 ^ 4 * i]).arrayWrong n i, { bank := n, hit := none, masked := some i, again := true })

/-- A second pass has given an entry that does not stand: the bank reports no hit (R267). -/
def Dev.verifyFail (d : Dev) (n i : Nat) : Dev := (d.count .acl n 0x124).postSys .acl n 1 [n + 2 ^ 4 * i + 2 ^ 16]

/-- The second pass of a bank (R267, R269). A false hit of this pass counts as VerifyFail alone, and is repaired like any other (DEDUCED,
log entry 118). -/
def Dev.secondPass (d : Dev) (gen n : Nat) (fk : List Byte) (h : BankHit) : Dev × BankHit :=
  match d.bankSearch gen n fk h.masked with
  | none => (d, { h with again := false })
  | some (i, k) =>
    match d.storedRead n i with
    | (d, true) => (d.verifyFail n i, { h with again := false })
    | (d, false) =>
      if d.verifyHit gen n fk i then (d, { h with hit := some (i, k), again := false })
      else ((d.arrayWrong n i).verifyFail n i, { h with again := false })

/-- A search meets an uncorrectable stored copy of an entry of a bank (R269): the bank that it won takes a second pass, or, where it won the
second, reports no hit. -/
def Dev.lostHit (d : Dev) (n i : Nat) (h : BankHit) : Dev × BankHit :=
  if h.bank ≠ n ∨ h.hit.map (·.1) ≠ some i then (d, h)
  else if h.masked.isNone then (d, { h with hit := none, masked := some i, again := true })
  else (d.verifyFail n i, { h with hit := none })

/-- Every bank's result of a search, as `f` leaves it. -/
def Dev.eachBank (d : Dev) (hs : List BankHit) (f : Dev → BankHit → Dev × BankHit) : Dev × List BankHit :=
  hs.foldl (fun (s : Dev × List BankHit) h =>
    let (d, h) := f s.1 h
    (d, s.2 ++ [h])) (d, [])

/-- The winner of a group among bank results (R266). -/
def Dev.winner (d : Dev) (gen g : Nat) (hs : List BankHit) : Option Winner :=
  let ours := hs.filter fun h => d.cfgOf gen ACL.BANK_CFG.Group h.bank == g
  let count := min 255 ((ours.map fun h => (h.hit.map (·.2)).getD 0).foldl (· + ·) 0)
  ours.foldl (fun (best : Option Winner) h =>
    match h.hit with
    | none => best
    | some (i, _) =>
      let w : Winner := ⟨g, h.bank, i, ((d.bank h.bank).ent i).act, count⟩
      match best with
      | none => some w
      | some b =>
        let pb := d.cfgOf gen ACL.BANK_CFG.Priority b.bank
        let pw := d.cfgOf gen ACL.BANK_CFG.Priority h.bank
        if pb < pw ∨ (pb = pw ∧ h.bank < b.bank) then some w else best) none

/-- A winner's action word is read: an injected uncorrectable error takes it as no action and invalidates the entry (R57, R278 detector
2). -/
def Dev.actionRead (d : Dev) (w : Winner) : Dev × Winner :=
  match d.inject .acl w.bank 2 with
  | (d, 0) => (d, w)
  | (d, 1) => (d.report .acl w.bank 2 w.idx false true, w)
  | (d, _) => ((d.report .acl w.bank 2 w.idx true true).aclGone w.bank w.idx, { w with act := 0 })

/-- The winners of a search in ascending group order, each with its action word read (R266, R278). -/
def Dev.winners (d : Dev) (gen : Nat) (hs : List BankHit) (groups : List Nat) : Dev × List Winner :=
  (groups.filterMap fun g => d.winner gen g hs).foldl (fun (s : Dev × List Winner) w =>
    let (d, w) := s.1.actionRead w
    (d, s.2 ++ [w])) (d, [])

/-- A search ends: its banks' final results and its winners are counted (R279). -/
def Dev.searchDone (d : Dev) (hs : List BankHit) (ws : List Winner) : Dev :=
  ws.foldl (fun d w => d.count .acl w.bank 0x122) (hs.foldl Dev.bankDone d)

/-- The winners of a data-path search add 1 to their entries' hit counters (R272). -/
def Dev.countWinners (d : Dev) (ws : List Winner) : Dev :=
  ws.foldl (fun d w =>
    let b := d.bank w.bank
    let e := b.ent w.idx
    d.setBank w.bank (b.setEnt w.idx { e with hits := (e.hits + 1) % 2 ^ 48 })) d

/-- The 80-byte FILTER_KEY of a packet (R261). -/
def Dev.filterKey (d : Dev) (p : Pkt) : List Byte :=
  let l3 := d.keyL3 p
  let pr := p.parsed
  let addr := fun (a : List Byte) => sliceB a 0 16
  let z16 : List Byte := List.replicate 16 0
  let inner := d.cfg PRS.KP_SEL.Inner p.slice p.profile != 0 && pr.tun != 0
  let tag := fun (n : Nat) => match pr.tags[n]? with
    | some t => t % 2 ^ 12 + t / 2 ^ 13 * 2 ^ 12 + 2 ^ 15
    | none => 0
  let v6 := (l3.map (·.v6)).getD false
  let len := (l3.map fun x => if x.v6 then be p.bytes (x.off + 4) 2 + 40 else be p.bytes (x.off + 2) 2).getD 0
  let first := (l3.map fun x => x.frag && (if x.v6 then be p.bytes (x.l4off - 6) 2 / 8 == 0 else be p.bytes (x.off + 6) 2 % 8192 == 0)).getD false
  let frag := (l3.map (·.frag)).getD false
  let tcp := (l3.map fun x => if x.proto = 6 && !x.frag then x.tcpFlags else 0).getD 0
  ((l3.map fun x => addr x.src).getD z16) ++ ((l3.map fun x => addr x.dst).getD z16) ++
    toBE 2 ((l3.map fun x => x.echo.getD x.sport).getD 0) ++ toBE 2 ((l3.map (·.dport)).getD 0) ++
    toBE 1 ((l3.map (·.proto)).getD 0) ++ toBE 1 tcp ++ toBE 1 ((l3.map (·.tos)).getD 0) ++ toBE 1 ((l3.map (·.ttl)).getD 0) ++
    sliceB pr.dmac 0 6 ++ sliceB pr.smac 0 6 ++ toBE 2 pr.etype ++ toBE 2 (tag 0) ++ toBE 2 (tag 1) ++
    toBE 4 (if pr.tun != 0 then pr.tunId else if pr.mpls then pr.label else 0) ++
    toBE 2 (d.cfg PRS.PORT_CFG.Zone p.slice p.pidx) ++ toBE 1 p.port ++
    toBE 1 (pr.cls + 16 * p.cls + 128 * b2n v6) ++
    toBE 1 (b2n frag + 2 * b2n first + 4 * b2n inner + 8 * b2n (pr.tun != 0)) ++
    toBE 1 (p.profile + 16 * p.slice) ++ toBE 2 (len % 2 ^ 16) ++ List.replicate 10 0

end Sys2Proof.Machine
end

