-- ==== Sys2Proof/Machine/Tables.lean ====
section
/-! DEFINITION. Host access to the forwarding tables (08): LPM, L2T, ECM and NAT writes into staging and reads of active
entries, Rebuild, and what the shadow walker compares and repairs. -/

namespace Sys2Proof.Machine

/-! ### The staged view -/

/-- A list with the entry of a key replaced, added or removed. -/
def assocPut {α β : Type} [DecidableEq α] (l : List (α × β)) (k : α) (v : Option β) : List (α × β) :=
  let rest := l.filter fun e => e.1 ≠ k
  match v with
  | some v => rest ++ [(k, v)]
  | none => rest

/-- The forwarding tables with one staged write made active. -/
def Fwd.apply (t : Fwd) : StgWrite → Fwd
  | .route k r => { t with routes := assocPut t.routes k r }
  | .nextHop i v => { t with nhs := Tab.put {} t.nhs i v }
  | .ecmGroup i v => { t with groups := Tab.put {} t.groups i v }
  | .ecmSlot i v => { t with slots := Tab.put {} t.slots i v }
  | .ecmBucket i s => { t with bkts := Tab.put 0 t.bkts i s }
  | .natAddr i v => { t with natAddr := Tab.put {} t.natAddr i v }
  | .natPfx i v => { t with natPfx := Tab.put {} t.natPfx i v }
  | _ => t

/-- The forwarding tables as they will stand once everything staged is committed. -/
def Dev.staged (d : Dev) : Fwd := d.stg.foldl (fun t e => t.apply e.w) d.fwd

/-! ### LPM -/

/-- COMMIT_MASK bits and staging capacities of LPM, L2T, ECM and NAT (R48, R239, R244, R248, R254). -/
def lpmBit : Nat := 2
def l2tBit : Nat := 3
def ecmBit : Nat := 4
def natBit : Nat := 5
def lpmCap : Nat := 16384
def l2tCap : Nat := 8192
def ecmCap : Nat := 65536
def natCap : Nat := 4096

/-- The key that ROUTE_CTL and ROUTE_ADDR name. -/
def Dev.routeKey (d : Dev) : RouteKey :=
  let v6 := d.flag LPM.ROUTE_CTL.Family
  let len := d.get LPM.ROUTE_CTL.Length
  let bs := (List.range 4).flatMap fun j => toLE 4 (d.get LPM.ROUTE_ADDR.Addr 0 j)
  ⟨v6, d.get LPM.ROUTE_CTL.Vrf, len, maskLen v6 len (ofBE (bs.take (if v6 then 16 else 4)))⟩

/-- A refused write of an LPM table (R551). -/
def Dev.lpmRefuse (d : Dev) (reason : Nat) : Dev := (d.set LPM.ROUTE_STAT.Refused 1).set LPM.ROUTE_STAT.Reason reason

/-- A refused route write, which is counted (R258). -/
def Dev.routeRefuse (d : Dev) (reason : Nat) : Dev := (d.lpmRefuse reason).count .lpm 0 0x0F2

/-- The units a list of routes takes: 1 for IPv4 and 2 for IPv6, whatever the length (R238). -/
def unitsOf (ks : List RouteKey) : Nat := (ks.map fun k => if k.v6 then 2 else 1).foldl (· + ·) 0

/-- The routes that hold units: the active ones and those that staged adds bring; a staged delete frees its route's units at its commit
(R238). -/
def Dev.unitKeys (d : Dev) : List RouteKey :=
  let act := d.fwd.routes.map (·.1)
  act ++ (d.stg.filterMap fun e => match e.w with
    | .route k (some _) => if act.contains k then none else some k
    | _ => none).eraseDups

/-- The units in use once `k` is added (R238). -/
def Dev.unitsWith (d : Dev) (k : RouteKey) : Nat := unitsOf (if d.unitKeys.contains k then d.unitKeys else k :: d.unitKeys)

/-- The long lengths under the 16-bit index of an IPv6 address, in any Vrf (R236). -/
def Fwd.lengthsAt (t : Fwd) (pfx : Nat) : List Nat :=
  ((t.routes.filter fun e => e.1.v6 && decide (16 < e.1.len) && e.1.pfx / 2 ^ 112 == pfx / 2 ^ 112).map (·.1.len)).eraseDups

/-- Whether a route's write starts a short-table expansion (R239). -/
def RouteKey.short (k : RouteKey) : Bool := decide (k.len ≤ 16)

/-- A route is added with a result or deleted (R236, R238, R239, R551): the checks in their order, then the write is staged. -/
def Dev.routePut (d : Dev) (k : RouteKey) (r : Option Nat) : Dev :=
  let t := d.staged
  if famBits k.v6 < k.len then d.routeRefuse 5
  else if lpmCap < d.stgUsed lpmBit 0 + 1 then (d.routeRefuse 3).overflows lpmBit
  else if r.isNone && (t.route k).isNone then d.routeRefuse 4
  else
    let w := StgWrite.route k r
    if r.isSome && decide (8388608 < d.unitsWith k) then d.routeRefuse 1
    else if r.isSome && k.v6 && decide (16 < k.len) && decide (16 < ((t.apply w).lengthsAt k.pfx).length) then d.routeRefuse 2
    else
      let d := d.putStaged [⟨lpmBit, 0, 1, w⟩]
      if k.short then { d with expand := d.expand + 1 } else d

/-- ROUTE_CMD Add or Delete. -/
def Dev.routeWrite (d : Dev) (add : Bool) : Dev :=
  d.routePut d.routeKey (if add then some (d.get LPM.ROUTE_DATA.Route) else none)

def execRouteAdd (fn : Nat) (s : State) : Host.Outcome State Fault Refusal :=
  nextD s fun d => d.gate fn .lpm 0 0x218 (·.routeWrite true)
def execRouteDelete (fn : Nat) (s : State) : Host.Outcome State Fault Refusal :=
  nextD s fun d => d.gate fn .lpm 0 0x218 (·.routeWrite false)

/-- A short-table expansion has written its entries (R239). -/
def execRouteExpansionDone (s : State) : Host.Outcome State Fault Refusal :=
  nextD s fun d => { d with expand := d.expand - 1 }

/-- ROUTE_CMD Read: the active result of the named route. -/
def execRouteRead (fn : Nat) (s : State) : Host.Outcome State Fault Refusal :=
  nextD s fun d => d.gate fn .lpm 0 0x218 fun d =>
    match d.fwd.route d.routeKey with
    | some r => (d.set LPM.ROUTE_DATA.Route r).set LPM.ROUTE_STAT.Found 1
    | none => d.set LPM.ROUTE_STAT.Found 0

/-- The next hop in NH_DATA0 to NH_DATA2. -/
def Dev.nhData (d : Dev) : NextHop :=
  { dmac := d.get LPM.NH_DATA0.DmacLo + 2 ^ 32 * d.get LPM.NH_DATA1.DmacHi, vlan := d.get LPM.NH_DATA1.Vlan,
    port := d.get LPM.NH_DATA2.Port, smac := d.get LPM.NH_DATA2.SmacIdx, decTtl := d.flag LPM.NH_DATA2.DecTtl,
    valid := d.flag LPM.NH_DATA2.Valid }

/-- A next hop is written (R551). -/
def Dev.nhPut (d : Dev) (i : Nat) (v : NextHop) : Dev :=
  match d.stage lpmBit 0 1 lpmCap (.nextHop i v) with
  | some d => d
  | none => (d.lpmRefuse 3).overflows lpmBit

/-- NH_CMD Write (R551). -/
def execNhWrite (fn : Nat) (s : State) : Host.Outcome State Fault Refusal :=
  nextD s fun d => d.gate fn .lpm 0 0x230 fun d => d.nhPut (d.get LPM.NH_SEL.Index) d.nhData

/-- NH_CMD Read. -/
def execNhRead (fn : Nat) (s : State) : Host.Outcome State Fault Refusal :=
  nextD s fun d => d.gate fn .lpm 0 0x230 fun d =>
    let v : NextHop := Tab.get {} d.fwd.nhs (d.get LPM.NH_SEL.Index)
    let d := ((d.set LPM.NH_DATA0.DmacLo v.dmac).set LPM.NH_DATA1.DmacHi (v.dmac / 2 ^ 32)).set LPM.NH_DATA1.Vlan v.vlan
    let d := (d.set LPM.NH_DATA2.Port v.port).set LPM.NH_DATA2.SmacIdx v.smac
    (d.set LPM.NH_DATA2.DecTtl (b2n v.decTtl)).set LPM.NH_DATA2.Valid (b2n v.valid)

/-- A write of the upper word of SMAC[k]: the 64-bit register, its lower word written before, is staged as one write (R45,
R551). -/
def execSmacWrite (fn k data : Nat) (s : State) : Host.Outcome State Fault Refusal :=
  nextD s fun d => d.gate fn .lpm 0 (0x304 + 8 * k) fun d =>
    if 64 ≤ k then d.miss
    else
      let lo := Tab.get (d.get LPM.SMAC.SmacLo 0 k) d.fab.hold (Blk.lpm.base 0 + 0x300 + 8 * k)
      match d.stage lpmBit 0 1 lpmCap (.reg (LPM.SMAC.SmacLo.key 0 k) lo) with
      | none => (d.lpmRefuse 3).overflows lpmBit
      | some d =>
        let e : StgEntry := ⟨lpmBit, 0, 0, .reg (LPM.SMAC.SmacHi.key 0 k) (data % 2 ^ 16)⟩
        let d := d.putStaged [e]
        let d := { d with fab := { d.fab with hold := Tab.del d.fab.hold (Blk.lpm.base 0 + 0x300 + 8 * k) } }
        (d.set LPM.SMAC.SmacLo lo 0 k).set LPM.SMAC.SmacHi data 0 k

/-! ### L2T -/

/-- The key in KEY_LO and KEY_HI. -/
def Dev.l2Key (d : Dev) : Nat × Nat := (d.get L2T.KEY_LO.MacLo + 2 ^ 32 * d.get L2T.KEY_HI.MacHi, d.get L2T.KEY_HI.Vlan)

/-- A refused L2T write. -/
def Dev.l2Refuse (d : Dev) (reason : Nat) : Dev := (d.set L2T.STAT.Refused 1).set L2T.STAT.Reason reason

/-- Whether a key will be present once everything staged is committed. -/
def Dev.l2Staged (d : Dev) (mac vlan : Nat) : Bool :=
  match (d.stg.filterMap fun e => match e.w with
      | .l2 m v r => if m = mac ∧ v = vlan then some r else none
      | _ => none).getLast? with
  | some r => r.isSome
  | none => (d.l2Find mac vlan).isSome

/-- An entry is added: its port, Static and Router. -/
def Dev.l2Put (d : Dev) (m v : Nat) (e : Nat × Bool × Bool) : Dev :=
  match d.stage l2tBit 0 1 l2tCap (.l2 m v (some e)) with
  | some d => d
  | none => (d.l2Refuse 1).overflows l2tBit

def execL2Add (fn : Nat) (s : State) : Host.Outcome State Fault Refusal :=
  nextD s fun d => d.gate fn .l2t 0 0x20C fun d =>
    let (m, v) := d.l2Key
    d.l2Put m v (d.get L2T.DATA.Port, d.flag L2T.DATA.Static, d.flag L2T.DATA.Router)

def execL2Delete (fn : Nat) (s : State) : Host.Outcome State Fault Refusal :=
  nextD s fun d => d.gate fn .l2t 0 0x20C fun d =>
    let (m, v) := d.l2Key
    if l2tCap < d.stgUsed l2tBit 0 + 1 then (d.l2Refuse 1).overflows l2tBit
    else if !d.l2Staged m v then d.l2Refuse 2
    else d.putStaged [⟨l2tBit, 0, 1, .l2 m v none⟩]

def execL2Read (fn : Nat) (s : State) : Host.Outcome State Fault Refusal :=
  nextD s fun d => d.gate fn .l2t 0 0x20C fun d =>
    let (m, v) := d.l2Key
    match d.l2Find m v with
    | none => (d.set L2T.STAT.Found 0).set L2T.STAT.Learned 0
    | some (_, e) =>
      let d := ((d.set L2T.DATA.Port e.port).set L2T.DATA.Static (b2n e.static)).set L2T.DATA.Router (b2n e.router)
      (d.set L2T.STAT.Found 1).set L2T.STAT.Learned (b2n e.learned)

def execVlanWrite (fn : Nat) (s : State) : Host.Outcome State Fault Refusal :=
  nextD s fun d => d.gate fn .l2t 0 0x230 fun d =>
    match d.stage l2tBit 0 1 l2tCap
        (.vlan (d.get L2T.VLAN_SEL.Vlan) (d.get L2T.VLAN_DATA.FloodGroup) (d.flag L2T.VLAN_DATA.LearnEn)) with
    | some d => d
    | none => (d.l2Refuse 1).overflows l2tBit

def execVlanRead (fn : Nat) (s : State) : Host.Outcome State Fault Refusal :=
  nextD s fun d => d.gate fn .l2t 0 0x230 fun d =>
    let (g, l) := d.vlanOf (d.get L2T.VLAN_SEL.Vlan)
    (d.set L2T.VLAN_DATA.FloodGroup g).set L2T.VLAN_DATA.LearnEn (b2n l)

/-! ### ECM -/

/-- A refused ECM command: 1 out of range, 2 staging full. -/
def Dev.ecmRefuse (d : Dev) (reason : Nat) : Dev := (d.set ECM.STAT.Refused 1).set ECM.STAT.Reason reason

/-- The group in GRP_DATA0 and GRP_DATA1. -/
def Dev.grpData (d : Dev) : EcmGroup :=
  { slotBase := d.get ECM.GRP_DATA0.SlotBase, slotCount := d.get ECM.GRP_DATA0.SlotCount,
    bucketBase := d.get ECM.GRP_DATA1.BucketBase, bucketLog2 := d.get ECM.GRP_DATA1.BucketLog2,
    resilient := d.flag ECM.GRP_DATA1.Mode, staleDrop := d.flag ECM.GRP_DATA1.StaleAction }

/-- Whether a group's fields are in range and within its pools (R245). -/
def EcmGroup.ok (g : EcmGroup) : Bool :=
  decide (g.slotCount ≤ 4096) && decide (6 ≤ g.bucketLog2) && decide (g.bucketLog2 ≤ 12) &&
    decide (g.slotBase + g.slotCount ≤ 262144) && decide (g.bucketBase + 2 ^ g.bucketLog2 ≤ 1048576)

/-- An ECM write staged, or refused for capacity. -/
def Dev.ecmStage (d : Dev) (w : StgWrite) : Dev :=
  match d.stage ecmBit 0 1 ecmCap w with
  | some d => d
  | none => (d.ecmRefuse 2).overflows ecmBit

/-- A group is written (R245). -/
def Dev.grpPut (d : Dev) (i : Nat) (g : EcmGroup) : Dev := if !g.ok then d.ecmRefuse 1 else d.ecmStage (.ecmGroup i g)

def execGrpWrite (fn : Nat) (s : State) : Host.Outcome State Fault Refusal :=
  nextD s fun d => d.gate fn .ecm 0 0x20C fun d => d.grpPut (d.get ECM.GRP_SEL.Group) d.grpData

def execGrpRead (fn : Nat) (s : State) : Host.Outcome State Fault Refusal :=
  nextD s fun d => d.gate fn .ecm 0 0x20C fun d =>
    let g := d.fwd.group (d.get ECM.GRP_SEL.Group)
    let d := (d.set ECM.GRP_DATA0.SlotBase g.slotBase).set ECM.GRP_DATA0.SlotCount g.slotCount
    let d := (d.set ECM.GRP_DATA1.BucketBase g.bucketBase).set ECM.GRP_DATA1.BucketLog2 g.bucketLog2
    (d.set ECM.GRP_DATA1.Mode (b2n g.resilient)).set ECM.GRP_DATA1.StaleAction (b2n g.staleDrop)

/-- The buckets of a group in Mode 0 (R248). -/
def stripe (act : List Nat) (n : Nat) : List Nat := (List.range n).map fun b => act.getD (b % act.length) 0

/-- Kept buckets in Mode 1 (R248): scanned in ascending order, a bucket keeps its slot while that slot is Active and has kept
fewer than its quota. `left` holds each Active slot with what is left of its quota; `none` marks a bucket left over. -/
def keepBuckets : List Nat → List (Nat × Nat) → List (Option Nat) × List (Nat × Nat)
  | [], left => ([], left)
  | s :: rest, left =>
    let has := left.any fun e => e.1 == s && decide (0 < e.2)
    let left' := if has then left.map fun e => if e.1 = s then (s, e.2 - 1) else e else left
    let (l, f) := keepBuckets rest left'
    ((if has then some s else none) :: l, f)

/-- The buckets left over, in order, go to Active slots below quota, lowest slot first. -/
def fillBuckets : List (Option Nat) → List (Nat × Nat) → List Nat
  | [], _ => []
  | some s :: rest, left => s :: fillBuckets rest left
  | none :: rest, left =>
    match left.dropWhile fun e => e.2 == 0 with
    | [] => 0 :: fillBuckets rest []
    | (s, n) :: more => s :: fillBuckets rest ((s, n - 1) :: more)

/-- The buckets of a group in Mode 1. -/
def resilient (act cur : List Nat) : List Nat :=
  let n := act.length
  let b := cur.length
  let quotas := act.zipIdx.map fun e => (e.1, b / n + (if e.2 < b % n then 1 else 0))
  let (kept, left) := keepBuckets cur quotas
  fillBuckets kept left

/-- The buckets that Rebuild gives a group, from the staged slot states (R248). -/
def Fwd.rebuilt (t : Fwd) (g : EcmGroup) : List Nat :=
  let n := 2 ^ g.bucketLog2
  let act := (List.range g.slotCount).filter fun s => (t.slot (g.slotBase + s)).state == 1
  if act.isEmpty then List.replicate n 0
  else if g.resilient then resilient act ((List.range n).map fun b => t.bkt (g.bucketBase + b))
  else stripe act n

/-- GRP_CMD Rebuild (R248). -/
def Dev.rebuild (d : Dev) : Dev :=
  let t := d.staged
  let g := t.group (d.get ECM.GRP_SEL.Group)
  if g.slotCount = 0 ∨ g.bucketLog2 < 6 ∨ 12 < g.bucketLog2 then d.ecmRefuse 1
  else
    let new := (t.rebuilt g).zipIdx.filter fun e => t.bkt (g.bucketBase + e.2) ≠ e.1
    if ecmCap < d.stgUsed ecmBit 0 + new.length then (d.ecmRefuse 2).overflows ecmBit
    else
      let ws := new.map fun e => (⟨ecmBit, 0, 1, .ecmBucket (g.bucketBase + e.2) e.1⟩ : StgEntry)
      (d.putStaged ws).set ECM.STAT.Busy 1

def execRebuild (fn : Nat) (s : State) : Host.Outcome State Fault Refusal :=
  nextD s fun d => d.gate fn .ecm 0 0x20C (·.rebuild)

/-- A Rebuild ends (R248). -/
def execRebuildDone (s : State) : Host.Outcome State Fault Refusal := nextD s (·.set ECM.STAT.Busy 0)

/-- A member slot is written; State 3 is refused. -/
def Dev.slotPut (d : Dev) (i : Nat) (v : MSlot) : Dev := if v.state = 3 then d.ecmRefuse 1 else d.ecmStage (.ecmSlot i v)

def execSlotWrite (fn : Nat) (s : State) : Host.Outcome State Fault Refusal :=
  nextD s fun d => d.gate fn .ecm 0 0x218 fun d =>
    d.slotPut (d.get ECM.SLOT_SEL.Slot) ⟨d.get ECM.SLOT_DATA.NextHop, d.get ECM.SLOT_DATA.State⟩

def execSlotRead (fn : Nat) (s : State) : Host.Outcome State Fault Refusal :=
  nextD s fun d => d.gate fn .ecm 0 0x218 fun d =>
    let v := d.fwd.slot (d.get ECM.SLOT_SEL.Slot)
    (d.set ECM.SLOT_DATA.NextHop v.nextHop).set ECM.SLOT_DATA.State v.state

/-! ### NAT -/

/-- A refused NAT write: 1 out of range, 2 staging full. -/
def Dev.natRefuse (d : Dev) (reason : Nat) : Dev := (d.set NAT.STAT.Refused 1).set NAT.STAT.Reason reason

/-- A NAT write staged, or refused for capacity. -/
def Dev.natStage (d : Dev) (w : StgWrite) : Dev :=
  match d.stage natBit 0 1 natCap w with
  | some d => d
  | none => (d.natRefuse 2).overflows natBit

/-- An address entry is written (R249): BlockLog2 from 6 to 12, and the first block within the port range. -/
def Dev.natAddrPut (d : Dev) (i : Nat) (v : NatAddr) : Dev :=
  if v.blockLog2 < 6 ∨ 12 < v.blockLog2 ∨ 65536 < v.portBase + 2 ^ v.blockLog2 then d.natRefuse 1 else d.natStage (.natAddr i v)

/-- ADDR_CMD Write (R249). -/
def execNatAddrWrite (fn : Nat) (s : State) : Host.Outcome State Fault Refusal :=
  nextD s fun d => d.gate fn .nat 0 0x20C fun d =>
    let v : NatAddr :=
      { address := d.get NAT.ADDR_DATA0.Address, portBase := d.get NAT.ADDR_DATA1.PortBase,
        blockLog2 := d.get NAT.ADDR_DATA1.BlockLog2, nat64 := d.flag NAT.ADDR_DATA1.Kind,
        pfx64 := d.get NAT.ADDR_DATA1.Pfx64, valid := d.flag NAT.ADDR_DATA1.Valid }
    d.natAddrPut (d.get NAT.ADDR_SEL.Index) v

def execNatAddrRead (fn : Nat) (s : State) : Host.Outcome State Fault Refusal :=
  nextD s fun d => d.gate fn .nat 0 0x20C fun d =>
    let v : NatAddr := Tab.get {} d.fwd.natAddr (d.get NAT.ADDR_SEL.Index)
    let d := (d.set NAT.ADDR_DATA0.Address v.address).set NAT.ADDR_DATA1.PortBase v.portBase
    let d := (d.set NAT.ADDR_DATA1.BlockLog2 v.blockLog2).set NAT.ADDR_DATA1.Kind (b2n v.nat64)
    (d.set NAT.ADDR_DATA1.Pfx64 v.pfx64).set NAT.ADDR_DATA1.Valid (b2n v.valid)

/-- PFX_CMD Write: PFX_DATA[j] holds prefix bits [32j + 63 : 32j + 32] of 128, so the 96 bits are the prefix's upper ones. -/
def execNatPfxWrite (fn : Nat) (s : State) : Host.Outcome State Fault Refusal :=
  nextD s fun d => d.gate fn .nat 0 0x224 fun d =>
    let len := d.get NAT.PFX_LEN.Len
    let b := d.get NAT.PFX_DATA.Bits 0 0 + 2 ^ 32 * d.get NAT.PFX_DATA.Bits 0 1 + 2 ^ 64 * d.get NAT.PFX_DATA.Bits 0 2
    if 5 < len then d.natRefuse 1 else d.natStage (.natPfx (d.get NAT.PFX_SEL.Prefix) ⟨b, len⟩)

def execNatPfxRead (fn : Nat) (s : State) : Host.Outcome State Fault Refusal :=
  nextD s fun d => d.gate fn .nat 0 0x224 fun d =>
    let v : NatPfx := Tab.get {} d.fwd.natPfx (d.get NAT.PFX_SEL.Prefix)
    let d := (List.range 3).foldl (fun d j => d.set NAT.PFX_DATA.Bits (v.bits / 2 ^ (32 * j)) 0 j) d
    d.set NAT.PFX_LEN.Len v.len

/-- The block slots in MAP_DATA. -/
def Dev.mapData (d : Dev) : List Nat :=
  (List.range 4).map fun j => d.get NAT.MAP_DATA.AddrIndex 0 j + 2 ^ 16 * d.get NAT.MAP_DATA.BlockNo 0 j +
    2 ^ 31 * d.get NAT.MAP_DATA.Valid 0 j

/-- Whether a valid block slot lies within the port range of its address entry (R249). -/
def Fwd.blockOk (t : Fwd) (w : Nat) : Bool :=
  !bit w 31 ||
    (let e : NatAddr := Tab.get {} t.natAddr (bits w 0 16)
     decide (e.portBase + 2 ^ e.blockLog2 * (bits w 16 12 + 1) ≤ 65536))

/-- A map entry is written (R249, R250): staged; it enters the overlay at its commit. -/
def Dev.natMapPut (d : Dev) (i : Nat) (slots : List Nat) : Dev :=
  if !slots.all d.staged.blockOk then d.natRefuse 1 else d.natStage (.natMap i slots)

/-- MAP_CMD Write (R250). -/
def execNatMapWrite (fn : Nat) (s : State) : Host.Outcome State Fault Refusal :=
  nextD s fun d => d.gate fn .nat 0 0x658 fun d => d.natMapPut (d.get NAT.MAP_SEL.Entry) d.mapData

/-- MAP_CMD Read: the active entry, from the overlay or HBM. -/
def execNatMapRead (fn : Nat) (s : State) : Host.Outcome State Fault Refusal :=
  nextC s fun c =>
    let e := c.mapEntry (c.dev.get NAT.MAP_SEL.Entry)
    c.upd fun d => d.gate fn .nat 0 0x658 fun d =>
      e.slots.zipIdx.foldl (fun d x =>
        ((d.set NAT.MAP_DATA.AddrIndex (bits x.1 0 16) 0 x.2).set NAT.MAP_DATA.BlockNo (bits x.1 16 12) 0 x.2).set
          NAT.MAP_DATA.Valid (bits x.1 31 1) 0 x.2) d

/-- The oldest overlay entry is written to HBM and leaves the overlay, once port 5 takes the write (R250, R313). -/
def execNatMapWriteback (s : State) : Host.Outcome State Fault Refusal :=
  nextC s fun c =>
    match c.dev.nat.overlay with
    | [] => c
    | (i, e) :: rest =>
      if !c.dev.hbmMayPut 5 (c.dev.mapAddr i) then c
      else (c.hbmWrite 5 0 (c.dev.mapAddr i) e.bytes).upd fun d => { d with nat := { d.nat with overlay := rest } }

/-! ### The shadow walker (R256) -/

/-- Fields packed in order, each with its width, from bit 0. -/
def packF : List (Nat × Nat) → Nat
  | [] => 0
  | (v, w) :: rest => v % 2 ^ w + 2 ^ w * packF rest

/-- The packed data of a next hop, a group, a slot, an address entry: the fields of its data words in register order. -/
def NextHop.pack (v : NextHop) : Nat :=
  packF [(v.dmac, 48), (v.vlan, 12), (v.port, 8), (v.smac, 6), (b2n v.decTtl, 1), (b2n v.valid, 1)]
def EcmGroup.pack (g : EcmGroup) : Nat :=
  packF [(g.slotBase, 18), (g.slotCount, 13), (g.bucketBase, 20), (g.bucketLog2, 4), (b2n g.resilient, 1), (b2n g.staleDrop, 1)]
def MSlot.pack (v : MSlot) : Nat := packF [(v.nextHop, 16), (v.state, 2)]
def NatAddr.pack (v : NatAddr) : Nat :=
  packF [(v.address, 32), (v.portBase, 16), (v.blockLog2, 4), (b2n v.nat64, 1), (v.pfx64, 3), (b2n v.valid, 1)]
def packMap (slots : List Nat) : Nat := packF (slots.flatMap fun w => [(bits w 0 16, 16), (bits w 16 12, 12), (bits w 31 1, 1)])

/-- The 20 key bytes of a SHADOW_ENTRY as a number: for routes IPv6, Vrf, Length, address; for L2 entries the MAC in network
order and the VLAN; otherwise the index (log entry 32). -/
def routeShw (k : RouteKey) : Nat :=
  ofLE ([BitVec.ofNat 8 (b2n k.v6), BitVec.ofNat 8 k.vrf, BitVec.ofNat 8 k.len] ++ sliceB (toBE (if k.v6 then 16 else 4) k.pfx) 0 16)
def l2Shw (mac vlan : Nat) : Nat := ofLE (toBE 6 mac ++ toLE 2 vlan)

/-- The route key of a SHADOW_ENTRY key. -/
def shwRoute (key : Nat) : RouteKey :=
  let bs := toLE 20 key
  let v6 := bit key 0
  let len := bits key 16 8
  ⟨v6, bits key 8 8, len, maskLen v6 len (ofBE ((bs.drop 3).take (if v6 then 16 else 4)))⟩

/-- The device's packed entry for a SHADOW_ENTRY key: `none` where a keyed table lacks the key. -/
def Chip.shwEntry (c : Chip) (tab key : Nat) : Option Nat :=
  let d := c.dev
  let i := key % 2 ^ 32
  match tab with
  | 1 => d.fwd.route (shwRoute key)
  | 2 => some (Tab.get ({} : NextHop) d.fwd.nhs i).pack
  | 3 =>
    let bs := toLE 8 key
    match d.l2Find (ofBE (bs.take 6)) (ofLE (bs.drop 6) % 4096) with
    | some (_, e) => if e.static && !e.learned then some (packF [(e.port, 8), (b2n e.static, 1), (b2n e.router, 1)]) else none
    | none => none
  | 4 => some (d.fwd.group i).pack
  | 5 => some (d.fwd.slot i).pack
  | 6 => some (Tab.get ({} : NatAddr) d.fwd.natAddr i).pack
  | 7 => some (packMap (c.mapEntry i).slots)
  | 8 => some (packF [(d.cfg NAT.SUB.Base 0 i, 32), (d.cfg NAT.SUB.Len 0 i, 6), (d.cfg NAT.SUB.MapBase 0 i, 24),
      (d.cfg NAT.SUB.Valid 0 i, 1)])
  | _ => none

/-- The registers of an inside subnet are written: each word is one staged write (R46, R254). -/
def Dev.subPut (d : Dev) (i v : Nat) : Dev :=
  if natCap < d.stgUsed natBit 0 + 4 then (d.natRefuse 2).overflows natBit
  else
    let d := d.putStaged [⟨natBit, 0, 1, .reg (NAT.SUB.Base.key 0 i) (bits v 0 32)⟩, ⟨natBit, 0, 1, .reg (NAT.SUB.Len.key 0 i) (bits v 32 6)⟩,
      ⟨natBit, 0, 1, .reg (NAT.SUB.MapBase.key 0 i) (bits v 38 24)⟩, ⟨natBit, 0, 1, .reg (NAT.SUB.Valid.key 0 i) (bits v 62 1)⟩]
    (((d.set NAT.SUB.Base (bits v 0 32) 0 i).set NAT.SUB.Len (bits v 32 6) 0 i).set NAT.SUB.MapBase (bits v 38 24) 0 i).set
      NAT.SUB.Valid (bits v 62 1) 0 i

/-- A table entry is written with the packed data `v` as a host write of it would be, with that write's checks and refusals (R256, Mode
1). -/
def Dev.shwPut (d : Dev) (tab key v : Nat) : Dev :=
  let i := key % 2 ^ 32
  match tab with
  | 1 => d.routePut (shwRoute key) (some (v % 2 ^ 24))
  | 2 => d.nhPut i
      { dmac := bits v 0 48, vlan := bits v 48 12, port := bits v 60 8, smac := bits v 68 6, decTtl := bit v 74, valid := bit v 75 }
  | 3 =>
    let bs := toLE 8 key
    d.l2Put (ofBE (bs.take 6)) (ofLE (bs.drop 6) % 4096) (bits v 0 8, bit v 8, bit v 9)
  | 4 => d.grpPut i
      { slotBase := bits v 0 18, slotCount := bits v 18 13, bucketBase := bits v 31 20, bucketLog2 := bits v 51 4,
        resilient := bit v 55, staleDrop := bit v 56 }
  | 5 => d.slotPut i ⟨bits v 0 16, bits v 16 2⟩
  | 6 => d.natAddrPut i
      { address := bits v 0 32, portBase := bits v 32 16, blockLog2 := bits v 48 4, nat64 := bit v 52, pfx64 := bits v 53 3,
        valid := bit v 56 }
  | 7 => d.natMapPut i ((List.range 4).map fun j =>
      bits v (29 * j) 16 + 2 ^ 16 * bits v (29 * j + 16) 12 + 2 ^ 31 * bits v (29 * j + 28) 1)
  | 8 => d.subPut i v
  | _ => d

/-- A repair: counted where the write was staged (R256). -/
def Dev.shwRepair (d : Dev) (tab key v : Nat) : Dev :=
  let d' := d.shwPut tab key v
  if d.stg.length < d'.stg.length then d'.bump SHW.REPAIRED.Repaired else d'

end Sys2Proof.Machine
end

