-- ==== Sys2Proof/Machine/Commit.lean ====
section
/-! DEFINITION. Table commits (R46 to R52), the order of operations that act in one cycle (R27). -/

namespace Sys2Proof.Machine

/-! ### What a staged write makes active -/

/-- Shaper time (R284): CLK_CORE cycles since main PLL lock in units of 2^−24 cycles, 64 bits. -/
def Dev.shaperTime (d : Dev) : Nat := d.sincePll * 2 ^ 24 % 2 ^ 64

/-- Refresh boundaries in one turn of shaper time (R284, R290): the multiples of 1,280 below 2^40 cycles. -/
def turnBounds : Nat := ceilDiv (2 ^ 40) 1280

/-- The index of the last refresh boundary at or before `cyc` cycles after main PLL lock, counted on through the turns of shaper time
(R290): each turn of 2^40 cycles starts at a boundary. -/
def boundaryOf (cyc : Nat) : Nat := cyc / 2 ^ 40 * turnBounds + cyc % 2 ^ 40 / 1280

/-- The cycle after main PLL lock of a boundary. -/
def boundaryAt (k : Nat) : Nat := k / turnBounds * 2 ^ 40 + k % turnBounds * 1280

/-- The last refresh boundary of R290. -/
def Dev.boundary (d : Dev) : Nat := boundaryOf d.sincePll

/-- A shaper group, and the device with one replaced. -/
def Dev.grp (d : Dev) (g : Nat) : GrpState := Tab.get {} d.eg.grps g
def Dev.setGrp (d : Dev) (g : Nat) (x : GrpState) : Dev := { d with eg := { d.eg with grps := Tab.put {} d.eg.grps g x } }

/-- The state a group has after its reset under R291. -/
def Dev.freshGrp (d : Dev) (x : GrpState) (c : GrpCfg) : GrpState :=
  { x with tat := d.shaperTime, credit := c.burst, k := d.boundary }

/-- A meter's state, and the device with it replaced (R297). -/
def Dev.meter (d : Dev) (m : Nat) : MtrState := Tab.get { time := d.mtr.refilled } d.mtr.st m
def Dev.setMeter (d : Dev) (m : Nat) (x : MtrState) : Dev := { d with mtr := { d.mtr with st := Tab.set d.mtr.st m x } }

/-- A meter's configuration takes effect (R297): tokens clamped, or both buckets filled when Valid rises. -/
def Dev.commitMeter (d : Dev) (i : Nat) (v : MtrCfg) : Dev :=
  let old : MtrCfg := Tab.get {} d.mtr.cfg i
  let x := d.meter i
  let x := if bit v.cfg 31 && !bit old.cfg 31 then { x with tokC := v.cbs, tokP := v.pbs, time := d.mclk }
    else { x with tokC := min x.tokC v.cbs, tokP := min x.tokP v.pbs }
  { d with mtr := { d.mtr with cfg := Tab.put {} d.mtr.cfg i v } }.setMeter i x

/-- A host L2 entry takes a slot (R243): the key's own, else an empty one, else that of the oldest learned entry among the 8. -/
def Dev.l2Place (d : Dev) (mac vlan port : Nat) (static router : Bool) : Dev :=
  let e : L2Entry :=
    { mac := mac, vlan := vlan, port := port, static := static, router := router, learned := false, hit := true, at0 := d.usNow }
  match d.l2Find mac vlan with
  | some (s, _) => d.setL2 s (some e)
  | none =>
    let slots := d.l2Slots mac vlan
    match slots.find? fun s => (Tab.find d.l2.ents s).isNone with
    | some s => d.setL2 s (some e)
    | none =>
      let oldest := slots.foldl (fun (b : Option (Nat × Nat)) s =>
        match Tab.find d.l2.ents s with
        | some x => if x.learned && (match b with
            | some (_, t) => decide (x.at0 < t)
            | none => true) then some (s, x.at0) else b
        | none => b) none
      match oldest with
      | some (s, _) =>
        let d := d.setL2 s (some e)
        { d with l2 := { d.l2 with replaced := d.l2.replaced + 1 } }
      | none => (d.count .l2t 0 0x111).postSys .l2t 0 2 [mac + 2 ^ 48 * vlan]

/-- One staged write becomes active. -/
def Dev.activate (d : Dev) : StgWrite → Dev
  | .reg k v => { d with act := Tab.set d.act k v }
  | .tpl i w v => { d with tpl := { d.tpl with words := Tab.put 0 d.tpl.words (i * 16 + w) v } }
  | .mpf i v => { d with tpl := { d.tpl with profiles := Tab.put 0 d.tpl.profiles i v } }
  | .l2 m v (some (p, st, r)) => d.l2Place m v p st r
  | .l2 m v none => match d.l2Find m v with
    | some (s, _) => d.setL2 s none
    | none => d
  | .vlan v g l => { d with l2 := { d.l2 with vlans := Tab.put (0, false) d.l2.vlans v (g, l) } }
  | .natMap i slots =>
    let rest := d.nat.overlay.filter fun e => e.1 ≠ i
    { d with nat := { d.nat with overlay := rest ++ [(i, { slots := slots, cursor := 0 })] } }
  | .limit k g l => { d with bsn := { d.bsn with lim := Tab.put (0, 0) d.bsn.lim k (g, l) } }
  | .queue k v => { d with eg := { d.eg with qcfg := Tab.put {} d.eg.qcfg k v } }
  | .group g v =>
    let old : GrpCfg := Tab.get {} d.eg.gcfg g
    let d := { d with eg := { d.eg with gcfg := Tab.put {} d.eg.gcfg g v } }
    if old.mode = v.mode then d else d.setGrp g (d.freshGrp (d.grp g) v)
  | .meter i v => d.commitMeter i v
  | w => { d with fwd := d.fwd.apply w }

/-- The SHADOW_ENTRY table and key a staged write belongs to (R256). -/
def StgWrite.shwKey : StgWrite → Option (Nat × Nat)
  | .route k _ => some (1, routeShw k)
  | .nextHop i _ => some (2, i)
  | .l2 m v _ => some (3, l2Shw m v)
  | .ecmGroup i _ => some (4, i)
  | .ecmSlot i _ => some (5, i)
  | .natAddr i _ => some (6, i)
  | .natMap i _ => some (7, i)
  | .reg k _ =>
    let b := NAT.SUB.Base.key 0 0
    if b ≤ k ∧ k < b + 64 * 128 then some (8, (k - b) / 128) else none
  | _ => none

/-- The commit of the blocks in `mask`, in the present cycle (R47): every staged write of a masked block that took effect before the
act cycle (R51) becomes active in order, ACL swaps its planes, and the generation advances. What was active is kept for the packets
of the previous generation. -/
def Dev.doCommit (d : Dev) (mask act : Nat) : Dev :=
  let gen := (d.get GLB.COMMIT_STAT.Gen + 1) % 65536
  let (early, late) := d.stg.splitAt (d.stg.length - d.stgLate)
  let (now, rest) := early.partition fun e => bit mask e.blk
  let old : OldCfg := { lim := d.bsn.lim, qcfg := d.eg.qcfg, mtr := d.mtr.cfg }
  let made := now.foldl (fun l e => match e.w.shwKey with
    | some k => assocPut l k (some gen)
    | none => l) d.madeGen
  let d := { d with prev := d.act, fwdPrev := d.fwd, tplPrev := d.tpl, old := old, stg := rest ++ late, stgLate := 0, madeGen := made }
  let d := now.foldl (fun d e => d.activate e.w) d
  let plane := if bit mask 6 then 1 - d.acl.plane else d.acl.plane
  let d := { d with acl := { d.acl with prevPlane := d.acl.plane, plane := plane } }
  let d := { d with glb := { d.glb with armed := none, prevAct := some act } }
  let d := ((d.set GLB.COMMIT_STAT.Gen gen).set GLB.COMMIT_STAT.Busy 1).set GLB.COMMIT_STAT.Armed 0
  d.syncTplStaged

/-! ### Arming (R48 to R50) -/

/-- The act time that the COMMIT_TIME registers spell. -/
def Dev.commitTime (d : Dev) : Nat :=
  dtOf (d.get GLB.COMMIT_TIME_SEC_LO.SecondsLo + 2 ^ 32 * d.get GLB.COMMIT_TIME_SEC_HI.SecondsHi)
    (d.get GLB.COMMIT_TIME_NS.Nanoseconds)

/-- The lowest-numbered reason of R50 to refuse a Go or Arm for act time `act`; 0 for none. -/
def Dev.commitReason (d : Dev) (act ns : Nat) : Nat :=
  let mask := d.get GLB.COMMIT_MASK.Mask
  if act < d.dt + armLead then 1
  else if d.glb.armed.isSome || d.flag GLB.COMMIT_STAT.Busy then 2
  else if (match d.glb.prevAct with
      | some p => decide (act < p + nsU 4000)
      | none => false) then 3
  else if mask = 0 then 4
  else if d.overflow.any fun b => bit mask b then 5
  else if 999999999 < ns then 7
  else 0

/-- A refused Go, Arm or COMMIT_CTL write (R50). -/
def Dev.commitRefuse (d : Dev) (reason : Nat) : Dev :=
  ((d.set GLB.COMMIT_STAT.Refused 1).set GLB.COMMIT_STAT.Reason reason).refuseArm 0 reason

/-- A commit is armed or refused. -/
def Dev.commitArmAt (d : Dev) (act ns : Nat) : Dev :=
  let r := d.commitReason act ns
  if r = 0 then
    ({ d with glb := { d.glb with armed := some ⟨d.get GLB.COMMIT_MASK.Mask, act⟩ } }).set GLB.COMMIT_STAT.Armed 1
  else d.commitRefuse r

/-- Discard (R48): the staging of the masked blocks is emptied, staged registers return to their active values, the overflow
status clears, and ACL's staging plane becomes equal to its active plane (R273). -/
def AclBank.levelPlanes (b : AclBank) (active : Nat) : AclBank :=
  { b with ents := b.ents.map fun e => (e.1, e.2.setPlane (1 - active) (e.2.inPlane active)) }

def Dev.discard (d : Dev) (mask : Nat) : Dev :=
  let (early, late) := d.stg.splitAt (d.stg.length - d.stgLate)
  let kept := fun (l : List StgEntry) => l.filter fun e => !bit mask e.blk
  let gone := d.stg.filter fun e => bit mask e.blk
  let regs := gone.foldl (fun (t : Tab Nat) e => match e.w with
    | .reg k _ => match Tab.find d.act k with
      | some v => Tab.set t k v
      | none => Tab.del t k
    | _ => t) d.regs
  let d : Dev := { d with stg := kept early ++ kept late, stgLate := (kept late).length, regs := regs, overflow := d.overflow.filter fun b => !bit mask b }
  let d := if bit mask 6 ∧ d.acl.plane = d.acl.prevPlane then
      { d with acl := { d.acl with banks := d.acl.banks.map fun b => (b.1, b.2.levelPlanes d.acl.plane) } } else d
  d.syncTplStaged

def execCommitGo (fn : Nat) (s : State) : Host.Outcome State Fault Refusal :=
  nextD s fun d => d.gate fn .glb 0 0x204 fun d => d.commitArmAt (d.dt + armLead) 0

def execCommitArm (fn : Nat) (s : State) : Host.Outcome State Fault Refusal :=
  nextD s fun d => d.gate fn .glb 0 0x204 fun d => d.commitArmAt d.commitTime (d.get GLB.COMMIT_TIME_NS.Nanoseconds)

def execCommitCancel (fn : Nat) (s : State) : Host.Outcome State Fault Refusal :=
  nextD s fun d => d.gate fn .glb 0 0x204 fun d =>
    match d.glb.armed with
    | none => d
    | some a =>
      if d.dt + armLead ≤ a.act then ({ d with stgLate := 0, glb := { d.glb with armed := none } }).set GLB.COMMIT_STAT.Armed 0 else d

def execCommitDiscard (fn : Nat) (s : State) : Host.Outcome State Fault Refusal :=
  nextD s fun d => d.gate fn .glb 0 0x204 fun d => d.discard (d.get GLB.COMMIT_MASK.Mask)

/-- A COMMIT_CTL write with several bits set (R50). -/
def execCommitCtlMultiBit (fn : Nat) (s : State) : Host.Outcome State Fault Refusal :=
  nextD s fun d => d.gate fn .glb 0 0x204 (·.commitRefuse 6)

/-! ### Acting -/

/-- The armed commit in the present cycle: deferred while the previous generation has not retired (R52). -/
def Dev.commitNow (d : Dev) (a : Armed) : Dev :=
  if d.flag GLB.COMMIT_STAT.Busy then d.set GLB.COMMIT_STAT.Late 1 else d.doCommit a.mask a.act

/-- COMMIT_ACT: the CLK_TIME cycle that contains the act time, after a snapshot of the same cycle (R27). -/
def execCommitAct (s : State) : Host.Outcome State Fault Refusal :=
  nextD s fun d => match d.glb.armed with
    | none => d
    | some a => (d.untilAct a.act).dueSnap.commitNow a

/-- Whether a lookup still uses the previous generation: one of a packet whose merge or whose copies' enqueues are still to come (R47), or of
an engine request that took its generation at the head of its RUU (R154). -/
def Dev.usesPrev (d : Dev) : Bool :=
  let now := d.get GLB.COMMIT_STAT.Gen
  (d.pkts.any fun p => (!p.2.merged || p.2.punted || !p.2.targets.isEmpty) && !p.2.dropped && p.2.gen != now) ||
    (d.results.any fun r => (r.search.map (·.gen)).any (· != now)) ||
    d.ruus.any fun r => r.2.service.any fun x => x.gen != now && match x.req with
      | .engine .. => true
      | _ => false

/-- The previous generation retires (R273): the retired plane takes the active one's bits. -/
def Dev.retire (d : Dev) : Dev :=
  let banks := if d.acl.plane = d.acl.prevPlane then d.acl.banks
    else d.acl.banks.map fun b => (b.1, b.2.levelPlanes d.acl.plane)
  ({ d with acl := { d.acl with banks := banks, prevPlane := d.acl.plane } }).set GLB.COMMIT_STAT.Busy 0

/-- GENERATION_RETIRE (R47, R52): no lookup uses the previous generation. A commit whose act time has come meanwhile acts in the
CLK_TIME cycle after. -/
def execGenerationRetire (s : State) : Host.Outcome State Fault Refusal :=
  nextD s fun d =>
    if !d.flag GLB.COMMIT_STAT.Busy || d.usesPrev then d
    else match d.glb.armed with
      | none => d.retire
      | some a =>
        if a.act < d.dt + d.get TIM.INCR.Incr then (((d.retire.set GLB.COMMIT_STAT.Late 1).later 1).dueSnap).doCommit a.mask a.act
        else d.retire

/-- A commit due in the present cycle. -/
def Dev.dueCommit (d : Dev) : Dev :=
  match d.glb.armed with
  | some a => if a.act < d.dt + d.get TIM.INCR.Incr then d.commitNow a else d
  | none => d

/-- A lane's port before any reconfiguration: one lane at 212.5 Gb/s (DESIGN CHOICE; log entry 34). -/
def lanePort : Nat × Nat := (1, 200)

end Sys2Proof.Machine
end

