-- ==== Sys2Proof/Machine/Acl.lean ====
section
/-! DEFINITION. The associative filters' own events (09): the second pass, repairs and the scrubber, and the host's entry
commands. -/

namespace Sys2Proof.Machine

/-- SECOND_PASS of a packet's search in a bank (R267). -/
def execSecondPass (pid bank : Nat) (s : State) : Host.Outcome State Fault Refusal :=
  nextD s fun d =>
    match Tab.find d.pkts pid with
    | none => d
    | some p =>
      match p.look.banks.find? fun h => h.bank = bank && h.again with
      | none => d
      | some h =>
        let (d, h') := d.secondPass p.gen bank p.look.fkey h
        let hs := p.look.banks.map fun x => if x.bank = bank then h' else x
        d.setPkt pid { p with look := { p.look with banks := hs } }

/-- An entry's search-array units as a write leaves them: what was written, or with the pattern of an armed detector 0 in the low 32 bits
of the value, as which the array is then protected (R57, R278; log entry 101). -/
def Dev.arrayWrite (d : Dev) (n v m : Nat) : Dev × Option (Nat × Nat) :=
  let pat := d.get (HDR.ERR_INJ_DATA.Pattern .acl) n
  if d.injects .acl n 0 then (d.injected .acl n, if pat = 0 then none else some (v ^^^ pat, m)) else (d, none)

/-- ACL_REPAIR: the first queued repair of a bank rewrites the entry's units from its stored copy (R268). -/
def execAclRepair (bank : Nat) (s : State) : Host.Outcome State Fault Refusal :=
  nextD s fun d =>
    let b := d.bank bank
    match b.repair with
    | [] => d
    | i :: rest =>
      let e := b.ent i
      let (d, arr) := d.arrayWrite bank e.v e.m
      (d.setBank bank ({ b with repair := rest }.setEnt i { e with arr := arr })).count .acl bank 0x125

/-- The scrubber compares one entry: a mismatch is reported as corrected and queued for repair; a stored copy that is uncorrectable
invalidates the entry (R268, R269, R278). -/
def Dev.scrubEnt (d : Dev) (n i : Nat) : Dev :=
  match d.storedRead n i with
  | (d, true) => d
  | (d, false) =>
    let e := (d.bank n).ent i
    if e.arr.isSome && e.arr != some (e.v, e.m) then d.arrayWrong n i else d

/-- ACL_SCRUB: one round of a bank's scrubber (R268). -/
def execAclScrub (bank : Nat) (s : State) : Host.Outcome State Fault Refusal :=
  nextD s fun d => (d.bank bank).ents.foldl (fun d (e : Nat × AclEnt) => d.scrubEnt bank e.1) d

/-! ### Entry commands (R270, R274 to R276) -/

/-- Entries of a bank at its staged width. -/
def Dev.aclEntries (d : Dev) (bank : Nat) : Nat := 4096 / aclUnits (d.get ACL.BANK_CFG.Width bank)

/-- Whether an action word is accepted at write (R270). -/
def aclActionOk (a : Nat) : Bool := bits a 39 25 == 0 && (a % 4 < 2 || decide (bits a 2 8 ≤ 137))

/-- A refused entry command. -/
def Dev.aclRefuse (d : Dev) (bank reason : Nat) : Dev := (d.set ACL.ENT_STAT.Refused 1 bank).set ACL.ENT_STAT.Reason reason bank

/-- VALUE or MASK as a number. -/
def Dev.aclWords (d : Dev) (f : Fld) (bank : Nat) : Nat :=
  ofLE ((List.range (5 * aclUnits (d.get ACL.BANK_CFG.Width bank))).flatMap fun j => toLE 4 (d.get f bank j))

/-- A bank's entries at another width: each unit keeps its 160 bits of V and M, which belong to entry u ÷ w (R259). Width changes only
while no entry is valid (R276). Action words and hit counters stay with their entry numbers. -/
def AclBank.rewidth (b : AclBank) (width : Nat) : AclBank :=
  if b.width = width then b
  else
    let old := aclUnits b.width
    let new := aclUnits width
    let units := b.ents.flatMap fun (e : Nat × AclEnt) => (List.range old).map fun j => (e.1 * old + j, bits e.2.v (160 * j) 160, bits e.2.m (160 * j) 160)
    let bare := b.ents.foldl (fun (t : Tab AclEnt) e => Tab.put {} t e.1 { e.2 with v := 0, m := 0, arr := none }) []
    units.foldl (fun b u =>
      let e := b.ent (u.1 / new)
      let k := 2 ^ (160 * (u.1 % new))
      b.setEnt (u.1 / new) { e with v := e.v + k * u.2.1, m := e.m + k * u.2.2 }) { b with width := width, ents := bare }

/-- A bank as its staged Width lays it out. -/
def Dev.laidBank (d : Dev) (n : Nat) : AclBank := (d.bank n).rewidth (d.get ACL.BANK_CFG.Width n)

/-- A Write or Delete is applied to the staging plane (R274). Its three steps are one here; a Write that a commit would find between them
is one that waits for retirement as `Dev.aclCmd` says (R51, R275; DEDUCED, log entry 102). -/
def Dev.aclApply (d : Dev) (bank : Nat) (o : AclOp) : Dev :=
  let b := d.laidBank bank
  let e := b.ent o.idx
  let stg := 1 - d.acl.plane
  if !o.write then d.setBank bank (b.setEnt o.idx (e.setPlane stg false))
  else if e.inPlane d.acl.plane then d.aclRefuse bank 1
  else
    let (d, arr) := d.arrayWrite bank o.v o.m
    d.setBank bank (b.setEnt o.idx ({ e with v := o.v, m := o.m, act := o.act, arr := arr }.setPlane stg true))

/-- A Write or Delete of ENT_CMD: it waits while a commit is Busy (R275), and from the act cycle of a commit on (R51); a Write that a commit
so catches has made its first step, which clears the entry's staging bit, and makes the others after it. -/
def Dev.aclCmd (d : Dev) (bank : Nat) (write : Bool) : Dev :=
  let i := d.get ACL.ENT_SEL.Index bank
  let o : AclOp := ⟨write, i, d.aclWords ACL.VALUE.Value bank, d.aclWords ACL.MASK.Mask bank, d.get ACL.ACTION.Action bank⟩
  let b := d.bank bank
  if d.aclEntries bank ≤ i then d.aclRefuse bank 3
  else if write && !aclActionOk o.act then d.aclRefuse bank 5
  else if d.flag GLB.COMMIT_STAT.Busy || !b.deferred.isEmpty then d.setBank bank { b with deferred := b.deferred ++ [o] }
  else if !d.actDue then d.aclApply bank o
  else if !write then d.setBank bank { b with deferred := [o] }
  else
    let b := d.laidBank bank
    let e := b.ent i
    if e.inPlane d.acl.plane then d.aclRefuse bank 1
    else d.setBank bank { b.setEnt i (e.setPlane (1 - d.acl.plane) false) with deferred := [o] }

def execAclEntWrite (fn bank : Nat) (s : State) : Host.Outcome State Fault Refusal :=
  nextD s fun d => d.gate fn .acl bank 0x330 (·.aclCmd bank true)

def execAclEntDelete (fn bank : Nat) (s : State) : Host.Outcome State Fault Refusal :=
  nextD s fun d => d.gate fn .acl bank 0x330 (·.aclCmd bank false)

/-- ENT_CMD Read, with ClearHits. A stored copy found uncorrectable invalidates the entry (R269). -/
def execAclEntRead (fn bank : Nat) (clear : Bool) (s : State) : Host.Outcome State Fault Refusal :=
  nextD s fun d => d.gate fn .acl bank 0x330 fun d =>
    let i := d.get ACL.ENT_SEL.Index bank
    if d.aclEntries bank ≤ i then d.aclRefuse bank 3
    else
      let d := (d.setBank bank (d.laidBank bank)).storedRead bank i |>.1
      let b := d.bank bank
      let e := b.ent i
      let words := fun (d : Dev) (f : Fld) (v : Nat) => (List.range 20).foldl (fun d j => d.set f (v / 2 ^ (32 * j)) bank j) d
      let d := words (words d ACL.VALUE.Value e.v) ACL.MASK.Mask e.m
      let d := (d.set ACL.ACTION.Action e.act bank).set ACL.HIT.Hits e.hits bank
      let d := (d.set ACL.ENT_STAT.ActiveValid (b2n (e.inPlane d.acl.plane)) bank).set ACL.ENT_STAT.StagedValid
        (b2n (e.inPlane (1 - d.acl.plane))) bank
      if clear then d.setBank bank (b.setEnt i { e with hits := 0 }) else d

/-- ACL_ENT_DEFERRED: the oldest command that waited is applied once the previous generation has retired (R275). -/
def execAclEntDeferred (bank : Nat) (s : State) : Host.Outcome State Fault Refusal :=
  nextD s fun d =>
    let b := d.bank bank
    match b.deferred with
    | [] => d
    | o :: rest =>
      if d.flag GLB.COMMIT_STAT.Busy || d.actDue then d else (d.setBank bank { b with deferred := rest }).aclApply bank o

end Sys2Proof.Machine
end

