-- ==== Sys2Proof/Machine/L2.lean ====
section
/-! DEFINITION. The learn engine and the ager of L2T (R241, R242, R244). -/

namespace Sys2Proof.Machine

/-- A MAC address as a number, first byte highest. -/
def macNum (a : List Byte) : Nat := ofBE (sliceB a 0 6)

/-- The VLAN of a frame: its outer tag's VID, 0 untagged (R231). -/
def Pkt.vlan (p : Pkt) : Nat := p.parsed.tags.headD 0 % 4096

/-- A learn fails: the frame is flooded (R242). -/
def Dev.learnFailed (d : Dev) (pid code : Nat) : Dev :=
  let p := d.pkt pid
  (d.setPkt pid { p with look := { p.look with learn := 2 } }).count .l2t 0 code

/-- A learn or move request decided against the table as it stands (R241). -/
def Dev.learnDecide (d : Dev) (pid : Nat) : Dev :=
  let p := d.pkt pid
  let mac := macNum p.parsed.smac
  let vlan := p.vlan
  let done := fun (d : Dev) => d.setPkt pid { p with look := { p.look with learn := 0 } }
  match d.l2Find mac vlan with
  | some (s, e) =>
    if e.port = p.port then done (d.setL2 s (some { e with hit := true }))
    else if e.static then done (d.count .l2t 0 0x0F8)
    else if d.usNow < e.at0 + d.get L2T.CFG.MoveWindow then
      done ((d.count .l2t 0 0x0F5).postSys .l2t 0 1 [mac + 2 ^ 48 * vlan, e.port + 2 ^ 8 * p.port])
    else done ((d.setL2 s (some { e with port := p.port, at0 := d.usNow })).count .l2t 0 0x0F4)
  | none =>
    match (d.l2Slots mac vlan).find? fun s => (Tab.find d.l2.ents s).isNone with
    | none => d.learnFailed pid 0x0F6
    | some s =>
      let e : L2Entry :=
        { mac := mac, vlan := vlan, port := p.port, static := false, router := false, learned := true, hit := true, at0 := d.usNow }
      done ((d.setL2 s (some e)).count .l2t 0 0x0F3)

/-- LEARN_REQUEST: the oldest request of the engine's queue is decided. -/
def execLearnRequest (s : State) : Host.Outcome State Fault Refusal :=
  nextD s fun d =>
    match d.l2.reqs with
    | [] => d
    | pid :: rest =>
      let d := { d with l2 := { d.l2 with reqs := rest } }
      if (Tab.find d.pkts pid).isSome then d.learnDecide pid else d

/-- The CLK_CORE cycle in which the ager's next visit to a slot is due: AgeTime ÷ 2 after the last (R244). The first visit to a slot is
due at once: the manual gives the visits no phase (DESIGN CHOICE, log entry 6). -/
def Dev.nextVisit (d : Dev) (slot : Nat) : Nat :=
  match Tab.find d.l2.aged slot with
  | none => d.cyc
  | some c => c + d.get L2T.CFG.AgeTime * secCyc / 2

/-- L2_AGER_VISIT of a slot, at the time it is due (R244). -/
def execL2AgerVisit (slot : Nat) (s : State) : Host.Outcome State Fault Refusal :=
  nextD s fun d =>
    if d.get L2T.CFG.AgeTime = 0 then d
    else
      let d := d.until (d.nextVisit slot)
      let d := { d with l2 := { d.l2 with aged := Tab.set d.l2.aged slot d.cyc } }
      match Tab.find d.l2.ents slot with
      | none => d
      | some e =>
        if !e.static && !e.hit then (d.setL2 slot none).count .l2t 0 0x0FA
        else d.setL2 slot (some { e with hit := false })

end Sys2Proof.Machine
end

