-- ==== Sys2Proof/Machine/Packet.lean ====
section
/-! DEFINITION. A packet's cells and its end: ports and slices (R13, R63, R280), admission and freeing of cells (R68 to R72),
drops, voided numbers (R92), and reference counts (R80). -/

namespace Sys2Proof.Machine

/-! ### Ports -/

/-- The port index of R63. -/
def portIdx (p : Nat) : Nat := if p < 128 then p % 16 else if p < 130 then 16 else 17

/-- A port's state (R82). -/
def Dev.port (d : Dev) (p : Nat) : PortSt := Tab.get {} d.eg.ports p

/-- The device with a port's state replaced, its PORT_STATE brought up to date. -/
def Dev.setPort (d : Dev) (p : Nat) (x : PortSt) : Dev :=
  let d := { d with eg := { d.eg with ports := Tab.put {} d.eg.ports p x } }
  if 128 ≤ p then d
  else
    let d := d.set MAC.PORT_STATE.State x.state (p / 8) (p % 8)
    (d.set MAC.PORT_STATE.Link (b2n x.link) (p / 8) (p % 8)).set MAC.PORT_STATE.FlushLeft x.flushLeft (p / 8) (p % 8)

/-- Lanes and lane rate of a port; 0 lanes where its lane belongs to another port (R14). -/
def Dev.portMode (d : Dev) (p : Nat) : Nat × Nat := Tab.get lanePort d.eg.width p

/-- A port's speed in Gb/s. -/
def Dev.speed (d : Dev) (p : Nat) : Nat := (d.portMode p).1 * (d.portMode p).2

/-- A MAC counter event of a port: 0x100 + 16 × kind + i (R99). Only Ethernet ports have a MAC page. -/
def Dev.macCount (d : Dev) (p kind : Nat) (n : Nat := 1) : Dev :=
  if p < 128 then d.count .mac (p / 8) (0x100 + 16 * kind + p % 8) n else d

/-- Whether a port number is that of an Ethernet port in use: its lanes belong to no other port (R14). -/
def Dev.inUse (d : Dev) (p : Nat) : Bool := decide (p < 128) && (d.portMode p).1 != 0

/-- The key of the sequence counter of a domain for an egress slice, and of its reset tag: every domain of an ingress slice has
the same tag (R96). -/
def seqKey (dom e : Nat) : Nat := dom * 8 + e
def tagKey (dom e : Nat) : Nat := dom / 8192 * 8 + e

/-! ### Cells -/

/-- Guarantee and Limit of an ADM entry: the active ones, and those of a packet's generation (R47). -/
def Dev.adm (d : Dev) (kind port i : Nat) : Nat × Nat := Tab.get (0, 0) d.bsn.lim (kind * 4096 + port * 16 + i)
def Dev.admOf (d : Dev) (gen kind port i : Nat) : Nat × Nat :=
  if gen = d.get GLB.COMMIT_STAT.Gen then d.adm kind port i else Tab.get (0, 0) d.old.lim (kind * 4096 + port * 16 + i)

/-- Cells charged to a port and class. -/
def Dev.used (d : Dev) (port cls : Nat) : Nat := Tab.get 0 d.bsn.used (port * 16 + cls)

/-- One cell of a port and class of a packet of generation `gen` is admitted or refused (R70); after a recount report, from the
reserve only (R495). -/
def Dev.admitCell (d : Dev) (gen port cls : Nat) : Dev × Bool :=
  let u := d.used port cls
  let (g, l) := d.admOf gen 0 port cls
  let take := fun (d : Dev) (sh : Nat) =>
    let used := Tab.put 0 d.bsn.used (port * 16 + cls) (u + 1)
    let d := { d with bsn := { d.bsn with used := used, cells := d.bsn.cells + 1, shared := d.bsn.shared + sh } }
    { d with bsn := { d.bsn with freeLow := min d.bsn.freeLow d.freeCells } }
  if d.freeCells = 0 then (d.count .adm 0 0x022, false)
  else if u < g then (take d 0, true)
  else if u < l ∧ d.bsn.shared < d.cfgOf gen ADM.SHARED_LIMIT.SharedLimit ∧ !d.bsn.reserveOnly then (take d 1, true)
  else (d, false)

/-- `n` cells of a port and class are freed (R72). -/
def Dev.freeCell (port cls : Nat) : Nat → Dev → Dev
  | 0, d => d
  | n + 1, d =>
    let u := d.used port cls
    let sh := if (d.adm 0 port cls).1 < u then 1 else 0
    let used := Tab.put 0 d.bsn.used (port * 16 + cls) (u - 1)
    Dev.freeCell port cls n
      { d with bsn := { d.bsn with used := used, cells := d.bsn.cells - 1, shared := d.bsn.shared - sh } }

/-- The cells of a chain from cell `c` on, in order; fuel: a packet has 40 cells at most (R68), and one more where a routine's head takes two (R186). -/
def chain (links : Tab Link) : Nat → Nat → List Nat
  | 0, _ => []
  | k + 1, c => match Tab.find links c with
    | none => []
    | some l => c :: match l.next with
      | none => []
      | some n => chain links k n.toNat

/-- The cells of a packet, in order (R68). -/
def Dev.cellsOf (d : Dev) (pid : Nat) : List Nat :=
  match Tab.find d.bsn.heads pid with
  | none => []
  | some c => chain d.bsn.links 41 c

/-- A cell leaves the free list: one never used since the list was rebuilt, by number, then the cell freed longest ago (DESIGN CHOICE,
log entry 89: the manual gives the list no order). -/
def BasinSt.takeFree (b : BasinSt) : Nat × BasinSt :=
  if b.fresh < 786432 then (b.fresh, { b with fresh := b.fresh + 1 })
  else match b.freed with
    | [] => (0, b)
    | c :: rest => (c, { b with freed := rest })

/-- An admitted cell of a packet gets its link entry, charged to a port and class, and follows the packet's last one (R68). -/
def Dev.linkCell (d : Dev) (pid port cls : Nat) : Dev :=
  let (c, b) := d.bsn.takeFree
  let links := Tab.set b.links c { port := port, cls := cls }
  match (d.cellsOf pid).getLast? with
  | none => { d with bsn := { b with links := links, heads := Tab.set b.heads pid c } }
  | some t =>
    let links := match Tab.find links t with
      | none => links
      | some l => Tab.set links t { l with next := some (BitVec.ofNat 20 c) }
    { d with bsn := { b with links := links } }

/-- A cell returns to the free list, freed for the port and class of its link entry (R72). -/
def Dev.giveCell (d : Dev) (c : Nat) : Dev :=
  match Tab.find d.bsn.links c with
  | none => d
  | some l =>
    let d := Dev.freeCell l.port l.cls 1 d
    { d with bsn := { d.bsn with links := Tab.del d.bsn.links c, freed := d.bsn.freed ++ [c] } }

/-- A packet's chain of cells ends: it has no first cell. -/
def Dev.noHead (d : Dev) (pid : Nat) : Dev := { d with bsn := { d.bsn with heads := Tab.del d.bsn.heads pid } }

/-- The cells of a packet are freed. -/
def Dev.giveCells (d : Dev) (pid : Nat) : Dev := ((d.cellsOf pid).foldl Dev.giveCell d).noHead pid

/-- The last cell of a packet's chain is followed by the cells of `rest`, already chained. -/
def Dev.joinCells (d : Dev) (pid : Nat) (rest : List Nat) : Dev :=
  match (d.cellsOf pid).getLast?, rest with
  | some t, c :: _ => match Tab.find d.bsn.links t with
    | none => d
    | some l => { d with bsn := { d.bsn with links := Tab.set d.bsn.links t { l with next := some (BitVec.ofNat 20 c) } } }
  | _, _ => d

/-! ### The end of a packet -/

/-- A packet that nothing refers to any more gives back its cells and leaves. -/
def Dev.reap (d : Dev) (pid : Nat) : Dev :=
  match Tab.find d.pkts pid with
  | none => d
  | some p =>
    let idle := p.refs == 0 && !p.punted && (p.dropped || (p.merged && p.targets.isEmpty))
    if !idle then d
    else
      let d := (d.setPkt pid { p with cells := 0 }).giveCells pid
      if p.ended && (!p.sent || p.action.isSome) && !d.l2.reqs.contains pid then { d with pkts := Tab.del d.pkts pid } else d

/-- A copy of a packet has gone: the reference count falls (R80). -/
def Dev.unref (d : Dev) (pid : Nat) (n : Nat := 1) : Dev :=
  let p := d.pkt pid
  (d.setPkt pid { p with refs := p.refs - n }).reap pid

/-- A queue, and the device with a queue replaced. -/
def Dev.eq (d : Dev) (port q : Nat) : EgQueue := Tab.get {} d.eg.queues (port * 16 + q)
def Dev.setEq (d : Dev) (port q : Nat) (x : EgQueue) : Dev :=
  { d with eg := { d.eg with queues := Tab.put {} d.eg.queues (port * 16 + q) x } }

/-- Copies of a packet that are being transmitted. -/
def Dev.sending (d : Dev) (pid : Nat) : Nat :=
  (d.eg.ports.filter fun e => match e.2.tx with
    | some c => c.pid == pid
    | none => false).length

/-- Numbers of a packet that no Rill has released are to be voided (R92). -/
def Dev.voidNumbers (d : Dev) (pid : Nat) : Dev :=
  let p := d.pkt pid
  match p.domain with
  | none => d
  | some dom =>
    let vs := (p.seqs.filter fun x => !p.released.contains x.1).map fun x => (x.1, dom, x.2.1, x.2.2)
    let d := d.setPkt pid { p with seqs := p.seqs.filter fun x => p.released.contains x.1 }
    { d with eg := { d.eg with voidQ := d.eg.voidQ ++ vs } }

/-- Ticks since main PLL lock (R285). -/
def Dev.tick (d : Dev) : Nat := d.sincePll / 5

/-- Wheel entries due and not yet released (R300). -/
def Dev.wheelBacklog (d : Dev) (e : Nat) : Nat := ((Tab.get [] d.eg.wheel e).filter fun x => decide (x.due ≤ d.tick)).length

/-- Entries by level brought up to date. -/
def Dev.syncWheel (d : Dev) (e : Nat) : Dev :=
  let l := Tab.get [] d.eg.wheel e
  let n := fun k => (l.filter fun x => x.level == k).length
  let d := (d.set EGS.WHEEL_STAT0.Level0 (n 0) e).set EGS.WHEEL_STAT0.Level1 (n 1) e
  d.set EGS.WHEEL_STAT1.Level2 (n 2) e

/-- Waiting copies for which `f` holds leave their queues and groups; a group whose head went takes the next copy as head now,
and its wheel entry goes (R294). -/
def Dev.dropCopies (d : Dev) (f : Copy → Bool) : Dev :=
  let qs := d.eg.queues.map fun (e : Nat × EgQueue) =>
    let gone := (e.2.ready.filter f).map (·.cells)
    (e.1, { e.2 with ready := e.2.ready.filter fun c => !f c, cells := e.2.cells - gone.foldl (· + ·) 0 })
  let inGrps := (d.eg.grps.flatMap fun (g : Nat × GrpState) => g.2.list.filter f)
  let qs := inGrps.foldl (fun (qs : Tab EgQueue) (c : Copy) =>
    let k := c.port * 16 + c.queue
    let x : EgQueue := Tab.get {} qs k
    Tab.put {} qs k { x with cells := x.cells - c.cells }) qs
  let heads := (d.eg.grps.filter fun (g : Nat × GrpState) => match g.2.list with
    | c :: _ => f c
    | [] => false).map (·.1)
  let grps := d.eg.grps.map fun (g : Nat × GrpState) =>
    let rest := g.2.list.filter fun c => !f c
    if heads.contains g.1 then (g.1, { g.2 with list := rest, headAt := d.sincePll, eval := none }) else (g.1, { g.2 with list := rest })
  let wheel := d.eg.wheel.map fun (e : Nat × List WheelEnt) => (e.1, e.2.filter fun w => !heads.contains w.grp)
  let d := { d with eg := { d.eg with queues := qs, grps := grps, wheel := wheel } }
  (List.range 8).foldl (fun d e => if heads.any (· / 32768 == e) then d.syncWheel e else d) d

/-- The Rill of an egress slice. -/
def Dev.rillOf (d : Dev) (e : Nat) : RillSt := Tab.get {} d.eg.rill e

/-- The device with a Rill replaced, its STAT and HWM brought up to date. -/
def Dev.setRill (d : Dev) (e : Nat) (x : RillSt) : Dev :=
  let d := { d with eg := { d.eg with rill := Tab.put {} d.eg.rill e x } }
  (d.set RSQ.STAT.Used x.held.length e).raise RSQ.HWM.HighWater x.held.length e

/-- A packet no longer waits in the Rills that `f` names. -/
def Dev.unhold (d : Dev) (pid : Nat) (f : Nat → Bool) : Dev :=
  (d.eg.rill.map (·.1)).foldl (fun d e =>
    let x := d.rillOf e
    if f e && x.held.any (·.pid == pid) then d.setRill e { x with held := x.held.filter fun h => h.pid != pid } else d) d

/-- A packet is dropped: no further copy is made, copies not yet started go, cells stay until transmissions in progress end
(R71), and with `void` its numbers are voided. -/
def Dev.dropPkt (d : Dev) (pid : Nat) (void : Bool) : Dev :=
  let d := if void then d.voidNumbers pid else d
  let d := (d.dropCopies (·.pid == pid)).unhold pid fun _ => true
  let p := d.pkt pid
  (d.setPkt pid { p with dropped := true, punted := false, targets := [], refs := d.sending pid }).reap pid

/-- The copies of a multicast packet that go to `ports` count as dropped there (R81). -/
def Dev.countLost (d : Dev) (pid : Nat) (ports : List Nat) : Dev :=
  if (d.pkt pid).multi then ports.foldl (fun d t => d.macCount t 1) d else d

/-- A frame that proves truncated or cut is dropped: its copies not in transmission count as dropped where it is multicast (R71,
R81), and its numbers are voided with `void`: its users ask for that of a merged packet, also where it was cut as truncated, over-long or
by its link, of which R92 does not speak (DESIGN CHOICE, log entry 109). -/
def Dev.cutPkt (d : Dev) (pid : Nat) (void : Bool) : Dev :=
  let waiting := (d.eg.queues.flatMap fun e => e.2.ready.filter fun c => c.pid == pid) ++
    d.eg.grps.flatMap fun g => g.2.list.filter fun c => c.pid == pid
  (d.countLost pid ((d.pkt pid).targets ++ waiting.map (·.port))).dropPkt pid void

end Sys2Proof.Machine
end

