-- ==== Sys2Proof/Machine/Ingress.lean ====
section
/-! DEFINITION. Ingress (R15, R59 to R67, R231, R241, R265, R360): the acceptance of a packet, its cells (R68 to R71), and the
end of its frame (R77, R78). A frame's bytes are known at its acceptance; its cells arrive one by one after it, and its end
brings its FCS. -/

namespace Sys2Proof.Machine

/-- Whether a frame's source is to be learned (R240). -/
def Dev.learnable (d : Dev) (p : Pkt) : Bool :=
  decide (p.port < 128) && bit (d.get L2T.LEARN_PORTS.Ports 0 (p.port / 32)) (p.port % 32) && (d.vlanOf p.vlan).2 &&
    decide (p.parsed.smac.length = 6) && macNum p.parsed.smac / 2 ^ 40 % 2 == 0

/-- The learn engine's queue with the request of packet `pid` of a slice: those of one cycle are taken in ascending slice order
(R241). -/
def Dev.learnOrder (d : Dev) (slice pid : Nat) (reqs : List Nat) : List Nat :=
  let after := (reqs.reverse.takeWhile fun q => (d.pkt q).at0 == d.cyc && decide (slice < (d.pkt q).slice)).length
  let k := reqs.length - after
  reqs.take k ++ pid :: reqs.drop k

/-- The lookup of a learnable frame's source (R241): a refresh, or a learn or move request; the answer is the learn outcome of
`Lookups.learn`. -/
def Dev.learnLookup (d : Dev) (pid : Nat) (p : Pkt) : Dev × Nat :=
  if !d.learnable p then (d, 0)
  else
    let ask := fun (d : Dev) =>
      if 1024 ≤ d.l2.reqs.length then (d.count .l2t 0 0x0F7, 2)
      else ({ d with l2 := { d.l2 with reqs := d.learnOrder p.slice pid d.l2.reqs } }, 1)
    match d.l2Find (macNum p.parsed.smac) p.vlan with
    | some (s, e) => if e.port = p.port then (d.setL2 s (some { e with hit := true }), 0) else ask d
    | none => ask d

/-- The destination lookups of a frame (R231): L2T as it stands, and LPM in the packet's generation. -/
def Dev.destLookup (d : Dev) (p : Pkt) : Lookups :=
  let l2 := (d.l2Find (macNum p.parsed.dmac) p.vlan).map (·.2)
  let vrf := d.cfg PRS.PORT_CFG.Zone p.slice p.pidx % 256
  let route := p.parsed.outer.bind fun x => ((d.fwdOf p.gen).lpm x.v6 vrf (ofBE x.dst)).map (·.2)
  { route := route, l2hit := l2.isSome, l2port := (l2.map (·.port)).getD 0, l2router := (l2.map (·.router)).getD false }

/-- The filter searches launched at step 4 (R263, R265), bank by bank. -/
def Dev.filterSearch (d : Dev) (p : Pkt) (fk : List Byte) : Dev × List BankHit :=
  ((List.range (blkRow .acl).inst).filter fun n => d.searches p.gen n p.slice p.profile).foldl
    (fun (s : Dev × List BankHit) n =>
      let (d, h) := s.1.firstPass p.gen n fk
      (d, s.2 ++ [h])) (d, [])

/-- The length at which a frame is stored (R68). -/
def storedLen (len : Nat) : Nat := min len 10240

/-- The descriptor of a packet goes to its home RUU (R77). -/
def Dev.sendDesc (d : Dev) (pid : Nat) : Dev :=
  let p := d.pkt pid
  (d.setPkt pid { p with sent := true }).sendReq (homeRuu p.digest) (.packet pid)

/-- The FcsGate of a packet's ingress port, in its generation. -/
def Dev.fcsGate (d : Dev) (p : Pkt) : Bool := d.cfgOf p.gen PRS.PORT_CFG.FcsGate p.slice p.pidx != 0

/-- A packet enters its slice (R15): stamped `ago` units of device time ago, parsed, reduced to key and digest, and sent on. -/
def Dev.takeIn (d : Dev) (port lane stamp ago : Nat) (frame : List Byte) (oneStep stampReq : Bool) (reqStamp : Nat) : Dev :=
  let s := portSlice port
  let i := portIdx port
  let pid := d.nextPid
  let parsed := d.parse s frame
  let cls := d.ingressClass s i parsed
  let profile := d.profileOf s i parsed.cls
  let key := d.flowKey s profile i port parsed
  let digest := digestOf d.ftb.digestKey key
  let len := frame.length + 4
  let total := ceilDiv (storedLen len - 4) 256
  let local_ := match d.cfg PRS.KP_CTL.DomainMode s profile with
    | 0 => none
    | 1 => some (d.cfg PRS.KP_CTL.DomainBase s profile + i)
    | 2 => some (d.cfg PRS.KP_CTL.DomainBase s profile + digest % 2 ^ min 13 (d.cfg PRS.KP_CTL.DomainBits s profile))
    | _ => some (d.cfg PRS.KP_CTL.DomainBase s profile)
  let p : Pkt :=
    { slice := s, port := port, pidx := i, lane := lane, bytes := frame, outB := frame, len := len, cls := cls,
      parsed := parsed, profile := profile, key := key, digest := digest, gen := d.get GLB.COMMIT_STAT.Gen, stamp := stamp,
      calGen := (d.genAgo ago).1, quality := (d.genAgo ago).2, at0 := d.cyc, due := total,
      total := total, domain := local_.map fun n => 8192 * s + n % 8192, oneStep := oneStep, stampReq := stampReq,
      reqStamp := reqStamp }
  let d := { d with nextPid := pid + 1 }
  let d := if parsed.cls = 14 then d.count .prs s 0x010 else d
  let frag := (parsed.outer.map (·.frag)).getD false
  let d := if frag then d.count .prs s 0x011 else d
  let look := d.destLookup p
  let (d, learn) := d.learnLookup pid p
  let fk := d.filterKey p
  let (d, banks) := d.filterSearch p fk
  let p := { p with look := { look with learn := learn, fkey := fk, banks := banks } }
  let d := d.setPkt pid p
  let d := if 128 ≤ port then d.bwRx port len else d
  if d.fcsGate p then d else d.sendDesc pid

/-- A frame is accepted by its slice's ingress arbiter (R15); one whose port, profile and key tables read as uncorrectable is dropped
(R495, PRS detector 0). -/
def Dev.accept (d : Dev) (port lane stamp ago : Nat) (frame : List Byte) (oneStep stampReq : Bool) (reqStamp : Nat) : Dev :=
  match d.protect .prs (portSlice port) 0 (portIdx port) with
  | (d, true) => d.takeIn port lane stamp ago frame oneStep stampReq reqStamp
  | (d, false) => d

/-- Whether the ingress arbiter of a slice accepts packets (R34, R36, R498, R499). -/
def Dev.arbiterOn (d : Dev) (s : Nat) : Bool := d.accepts .prs s && !d.err.stopped && d.glb.dpr == .idle

/-- Whether a frame waits at the host port of a slice, which is served before its recirculation port (R15). -/
def Dev.hostWaits (d : Dev) (s : Nat) : Bool :=
  (s == 0 && !(Tab.get [] d.dma.hostTx 128).isEmpty) || (s == 4 && !(Tab.get [] d.dma.hostTx 129).isEmpty)

/-- INGRESS_ACCEPT. In one cycle a slice takes its packets in the order of its port indices: Ethernet ports, then a host port, then its
recirculation port (R15, R86). On an Ethernet port: a frame, without its FCS, whose start-of-frame delimiter the MAC detected `late`
units of 2^−16 ns ago on `lane` (R360). On a recirculation port: the oldest copy that the port has taken (R15). -/
def execIngressAccept (port lane late : Nat) (frame : List Byte) (s : State) : Host.Outcome State Fault Refusal :=
  nextD s fun d =>
    if port < 128 then
      let x := d.port port
      let mode := d.portMode port
      if x.state ≠ 2 || !x.link || lane < port || port + mode.1 ≤ lane then d
      else if d.glb.dpr ≠ .idle then d.count .glb 0 0x215
      else if !d.arbiterOn (portSlice port) || !d.accepts .mac (port / 8) || !d.accepts .ser lane then d
      else
        let ago := late * 2 ^ 24
        (d.inTurn (turnAccept (portSlice port)) (portIdx port)).accept port lane (d.stampAgo lane ago) ago frame false false 0
    else if 130 ≤ port ∧ port < 138 then
      match Tab.get [] d.eg.recirc (port - 130) with
      | [] => d
      | f :: rest =>
        if !d.arbiterOn (portSlice port) || d.hostWaits (portSlice port) then d
        else
          let d := d.inTurn (turnAccept (portSlice port)) (portIdx port)
          let d := { d with eg := { d.eg with recirc := Tab.put [] d.eg.recirc (port - 130) rest } }
          d.accept port 255 d.dt 0 f false false 0
    else d

/-- Whether a copy to an egress port may cut through by what R75 fixes before its enqueue. -/
def Dev.mayCut (d : Dev) (p : Pkt) (port : Nat) : Bool :=
  !d.fcsGate p && bit (d.cfgOf p.gen PRS.PORT_CFG.CtClasses p.slice p.pidx) p.cls && decide (p.port < 128) && decide (port < 128) &&
    !p.slow && decide (d.speed port ≤ d.speed p.port)

/-- A merged packet's frame has ended with a bad FCS (R77, R80): copies that wait for store-and-forward are dropped, and a number
is voided where no copy is left to its egress slice; copies that may still cut through stay and end with a stomp (R78). -/
def Dev.badFrame (d : Dev) (pid : Nat) : Dev :=
  let p := d.pkt pid
  let keep := p.targets.filter fun t => d.mayCut p t
  let d := d.countLost pid (p.targets.filter fun t => !d.mayCut p t)
  let gone := p.targets.length - keep.length
  let void := p.seqs.filter fun x => !p.released.contains x.1 && !keep.any fun t => portSlice t == x.1
  let vs := match p.domain with
    | some dom => void.map fun x => (x.1, dom, x.2.1, x.2.2)
    | none => []
  let d := { d with eg := { d.eg with voidQ := d.eg.voidQ ++ vs } }.unhold pid fun e => void.any fun x => x.1 == e
  let p := { p with targets := keep, refs := p.refs - gone, seqs := p.seqs.filter fun x => !void.contains x }
  (d.setPkt pid { p with dropped := decide (p.refs = 0) }).reap pid

/-- CELL_ARRIVAL: the next cell of a packet (R70, R71). -/
def execCellArrival (pid : Nat) (s : State) : Host.Outcome State Fault Refusal :=
  nextD s fun d =>
    match Tab.find d.pkts pid with
    | none => d
    | some p =>
      if p.due = 0 then d
      else
        let first := p.due == p.total
        let d := if first && decide (p.port < 128) then d.bwRx p.port p.len else d
        let d := d.setPkt pid { p with due := p.due - 1 }
        if p.dropped then d
        else
          let (d, ok) := d.admitCell p.gen p.port p.cls
          if ok then (d.linkCell pid p.port p.cls).setPkt pid { d.pkt pid with cells := p.cells + 1 }
          else if first then (d.count .adm 0 0x020).dropPkt pid false
          else ((d.count .adm 0 0x021).setPkt pid { d.pkt pid with trunc := true }).cutPkt pid true

/-- The bytes of a frame that its entry captures: 32 from CaptureOffset, through the FCS, zero past the frame's end; a frame that has not
ended yet, or that carries no FCS, counts with a good one (R372; DEDUCED, log entry 124). -/
def Dev.capture (d : Dev) (p : Pkt) (s : Nat) : List Byte :=
  sliceB (p.bytes ++ toLE 4 (p.tail.getD (crc32 p.bytes))) (min 224 (d.get SDL.STREAM_CFG.CaptureOffset 0 s)) 32

/-- The FCS of a merged packet comes to its entry, where that waits in the buffer of its stream (R372). -/
def Dev.captureFcs (d : Dev) (p : Pkt) : Dev :=
  let a := p.action.getD 0
  let s := bits a 8 4
  if !p.merged || !bit a 7 then d
  else
    let x : Stream := Tab.get {} d.sdl.streams s
    let buf := x.buf.map fun e =>
      if e.lost = 0 ∧ e.stamp = dtQuarter p.stamp ∧ e.port = p.port then { e with bytes := putB e.bytes 28 (d.capture p s) } else e
    { d with sdl := { d.sdl with streams := Tab.put {} d.sdl.streams s { x with buf := buf } } }

/-- FRAME_END: the frame has ended, with the FCS field `fcs` as a number of its four bytes in transmission order, lowest
first (R77, R78). Frames of host and recirculation ports carry no FCS and are good. -/
def execFrameEnd (pid fcs : Nat) (s : State) : Host.Outcome State Fault Refusal :=
  nextD s fun d =>
    match Tab.find d.pkts pid with
    | none => d
    | some p =>
      if p.ended || p.due ≠ 0 then d
      else
        let (good, len) := p.asCame.getD (crc32 p.bytes, p.len)
        let kind := if 128 ≤ p.port ∨ fcs = good then 0 else if fcs = 2 ^ 32 - 1 - good then 2 else 1
        let d := if kind = 1 then d.macCount p.port 7 else if kind = 2 then d.macCount p.port 8 else d
        let long := decide (10240 < len)
        let d := if long then d.count .prs p.slice 0x012 else d
        let p := { p with ended := true, fcs := kind, trunc := p.trunc || long, tail := some (if p.port < 128 then fcs % 2 ^ 32 else good) }
        let d := (d.setPkt pid p).captureFcs p
        if p.dropped then d.reap pid
        else if long then d.cutPkt pid true
        else if kind ≠ 0 then
          if !p.sent then d.dropPkt pid false
          else if p.merged && !p.punted then d.badFrame pid
          else d
        else if p.sent then d
        else d.sendDesc pid

end Sys2Proof.Machine
end

