-- ==== Sys2Proof/Machine/Ledger.lean ====
section
/-! DEFINITION. The yield of ledger entries at the merge (R371, R372, R385): a stream's horizon and buffer (R373), and a packet's
entry. -/

namespace Sys2Proof.Machine

/-- Entries a stream holds that are not yet chained. -/
def Stream.fill (x : Stream) : Nat := x.buf.length + (x.jobs.filter fun j => match j with
  | .entry _ _ => true
  | .close .. => false).length

/-- The buffer of a stream after its fill has changed: it is full at 4,096 entries, until it has drained to 2,048 (R385). -/
def Stream.level (x : Stream) : Stream :=
  { x with full := if 4096 ≤ x.fill then true else x.full && decide (2048 < x.fill) }

/-- A stream. -/
def Dev.stream (d : Dev) (s : Nat) : Stream := Tab.get {} d.sdl.streams s

/-- The device with a stream replaced, its STREAM_STAT brought up to date. -/
def Dev.setStream (d : Dev) (s : Nat) (x : Stream) : Dev :=
  let d := { d with sdl := { d.sdl with streams := Tab.put {} d.sdl.streams s x } }
  (d.set SDL.STREAM_STAT.Active (b2n x.active) 0 s).set SDL.STREAM_STAT.Fill x.fill 0 s

/-- The horizon of every stream (R373): Hold behind device time; stopped by a frequency-change hold, and afterwards at twice the
rate until it is Hold behind again. -/
def Dev.horizon (d : Dev) : Nat :=
  let base := d.dt - nsU (16 * max 1 (d.get SDL.MERGE_CFG.Hold))
  match d.sdl.holdAt with
  | some h => min base h
  | none => match d.sdl.holdEnd with
    | some (h, t) => min base (h + 2 * (d.dt - t))
    | none => base

/-- An entry takes its place in a buffer: Late entries first, in order of arrival, then by stamp and port (R373). -/
def ledInsert (x : LedEnt) : List LedEnt → List LedEnt
  | [] => [x]
  | e :: t =>
    if x.late then if e.late then e :: ledInsert x t else x :: e :: t
    else if e.late || decide (e.stamp < x.stamp) || (e.stamp == x.stamp && decide (e.port ≤ x.port)) then e :: ledInsert x t
    else x :: e :: t

/-- The LEDGER_ENTRY of a packet, with Index 0 (R372); outcome 0 forward, 1 punt, 2 dropped at the merge. -/
def Dev.ledgerBytes (d : Dev) (p : Pkt) (s outcome : Nat) (late : Bool) : List Byte :=
  let a := p.action.getD 0
  toLE 8 (compact p.stamp) ++ toLE 8 0 ++ toLE 4 (p.handle % 2 ^ 30 + 2 ^ 30 * bits a 3 2) ++ toLE 2 p.len ++
    toLE 1 p.port ++ toLE 1 (4 * b2n late + 8 * outcome) ++ toLE 4 p.calGen ++ d.capture p s ++ toLE 1 p.lane ++
    toLE 1 p.quality ++ [0, 0]

/-- A marked packet yields its entry (R371), or it is not recorded (R385). The Boolean says that Strict drops the packet. -/
def Dev.ledgerYield (d : Dev) (p : Pkt) (outcome : Nat) : Dev × Bool :=
  let a := p.action.getD 0
  let s := bits a 8 4
  if !bit a 7 || a % 4 == 3 then (d, false)
  else
    let x := d.stream s
    if !x.active || x.ending then (d.count .sdl 0 0x1A2, false)
    else if x.gap.isSome || x.full then
      let strict := d.flag SDL.STREAM_CFG.Strict 0 s
      let g := match x.gap with
        | some g => { g with count := g.count + 1, last := compact p.stamp, refused := g.refused || strict }
        | none => ⟨1, p.stamp, compact p.stamp, strict, false, p.calGen, p.quality⟩
      let d := d.setStream s { x with gap := some g }
      ((d.bump SDL.LOST.Lost 1 0 s).count .sdl 0 (0x180 + s), strict)
    else
      let t := dtQuarter p.stamp
      let late := decide (t < d.horizon)
      let e : LedEnt := ⟨t, p.port, late, d.ledgerBytes p s outcome late, 0⟩
      let d := d.setStream s { x with buf := ledInsert e x.buf }.level
      (if late then d.count .sdl 0 (0x190 + s) else d, false)

end Sys2Proof.Machine
end

