-- ==== Sys2Proof/Machine/Rewrite.lean ====
section
/-! DEFINITION. Rewrites of a packet: next hop (R234), NAT (R252), DSCP and DEI (R271, R299), with incremental checksum updates
after RFC 1624, header translation after RFC 7915, and address embedding after RFC 6052. -/

namespace Sys2Proof.Machine

/-! ### Checksums (RFC 1624) -/

/-- One's complement addition of 16-bit words. -/
def ocAdd (a b : Nat) : Nat := (a + b) % 65536 + (a + b) / 65536

/-- The 16-bit words of a byte string in network order. -/
def words16 : List Byte → List Nat
  | a :: b :: t => (256 * a.toNat + b.toNat) :: words16 t
  | [a] => [256 * a.toNat]
  | [] => []

/-- A checksum after the words `old` have given way to the words `new`: HC' = ~(~HC + ~m + m'). -/
def csumFix (hc : Nat) (old new : List Nat) : Nat :=
  65535 - (old.map (65535 - ·) ++ new).foldl ocAdd (65535 - hc)

/-- The frame with the checksum at `o` updated. -/
def fixAt (f : List Byte) (o : Nat) (old new : List Nat) : List Byte := putB f o (toBE 2 (csumFix (be f o 2) old new))

/-- The IPv4 header checksum of a header whose checksum field is 0. -/
def ipCsum (h : List Byte) : Nat := 65535 - (words16 h).foldl ocAdd 0

/-! ### L3 fields -/

/-- Whether the L4 header is in this packet: it is no fragment, or the first one (R254). -/
def l4Here (f : List Byte) (x : L3) : Bool :=
  !x.frag || (if x.v6 then be f (x.l4off - 6) 2 / 8 == 0 else be f (x.off + 6) 2 % 8192 == 0)

/-- DSCP rewritten, the IPv4 checksum with it. -/
def setDscp (f : List Byte) (x : L3) (dscp : Nat) : List Byte :=
  if x.v6 then putB f x.off (toBE 4 (putBits (be f x.off 4) 22 6 dscp))
  else
    let old := be f x.off 2
    let new := putBits old 2 6 dscp
    fixAt (putB f x.off (toBE 2 new)) (x.off + 10) [old] [new]

/-- TTL or hop limit decremented (R234). -/
def decTtl (f : List Byte) (x : L3) : List Byte :=
  if x.v6 then putB f (x.off + 7) (toBE 1 (be f (x.off + 7) 1 - 1))
  else
    let old := be f (x.off + 8) 2
    fixAt (putB f (x.off + 8) (toBE 2 (old - 256))) (x.off + 10) [old] [old - 256]

/-! ### NAT -/

/-- The L4 checksum of a transport protocol updated: offset `o` of the header; a zero UDP checksum over IPv4 stays zero, and a
sum of zero is sent as ones (RFC 768). -/
def fixL4 (f : List Byte) (o proto : Nat) (v6 : Bool) (old new : List Nat) : List Byte :=
  let c := o + (if proto = 6 then 16 else if proto = 17 then 6 else 2)
  if proto = 17 && be f c 2 == 0 && !v6 then f
  else
    let v := csumFix (be f c 2) old new
    putB f c (toBE 2 (if proto = 17 && v == 0 then 65535 else v))

/-- Ports, or the echo identifier, rewritten at the L4 header: the frame and the words changed. -/
def setPorts (f : List Byte) (o proto : Nat) (e : NatEdit) : List Byte × List Nat × List Nat :=
  let one := fun (s : List Byte × List Nat × List Nat) (p : Option Nat) (at_ : Nat) =>
    match p with
    | none => s
    | some v => (putB s.1 at_ (toBE 2 v), be s.1 at_ 2 :: s.2.1, v % 65536 :: s.2.2)
  if proto = 6 ∨ proto = 17 then one (one (f, [], []) e.sport o) e.dport (o + 2)
  else if proto = 1 ∨ proto = 58 then one (one (f, [], []) e.sport (o + 4)) e.dport (o + 4)
  else (f, [], [])

/-- A rewrite within IPv4 (R252). -/
def natSame (f : List Byte) (x : L3) (e : NatEdit) : List Byte :=
  let src := e.src.getD x.src
  let dst := e.dst.getD x.dst
  let old := words16 (x.src ++ x.dst)
  let new := words16 (src ++ dst)
  let f := fixAt (putB f (x.off + 12) (src ++ dst)) (x.off + 10) old new
  if !l4Here f x then f
  else
    let (f, po, pn) := setPorts f x.l4off x.proto e
    if x.proto = 6 ∨ x.proto = 17 then fixL4 f x.l4off x.proto false (old ++ po) (new ++ pn)
    else if x.proto = 1 ∧ !po.isEmpty then fixL4 f x.l4off x.proto false po pn
    else f

/-- The ICMP type across a translation (RFC 7915): echo request and reply. -/
def xlatIcmp (t : Nat) : Nat := if t = 128 then 8 else if t = 129 then 0 else if t = 8 then 128 else if t = 0 then 129 else t

/-- The L4 part of a translated packet: `o` is its header in `f`, `proto` the old protocol, `len` its length. -/
def xlatL4 (f : List Byte) (o proto len : Nat) (v6 : Bool) (src dst nsrc ndst : List Byte) (e : NatEdit) : List Byte :=
  let (f, po, pn) := setPorts f o proto e
  let old := words16 (src ++ dst)
  let new := words16 (nsrc ++ ndst)
  if proto = 6 ∨ proto = 17 then fixL4 f o proto v6 (old ++ po) (new ++ pn)
  else if proto = 1 ∨ proto = 58 then
    let w := be f o 2
    let w' := 256 * xlatIcmp (w / 256) + w % 256
    let f := putB f o (toBE 2 w')
    let psOld := if v6 then old ++ [len / 65536, len % 65536, 58] else []
    let psNew := if v6 then [] else new ++ [len / 65536, len % 65536, 58]
    fixL4 f o proto v6 (w :: po ++ psOld) (w' :: pn ++ psNew)
  else f

/-- The bytes ahead of a translated header: the EtherType before it becomes `et`, but for a header behind an MPLS stack, where that place
holds the bottom label. -/
def etherTo (f : List Byte) (x : L3) (mpls : Bool) (et : List Byte) : List Byte :=
  if mpls then f.take x.off else putB (f.take x.off) (x.off - 2) et

/-- IPv6 to IPv4 (RFC 7915, section 5). -/
def nat64 (f : List Byte) (x : L3) (mpls : Bool) (e : NatEdit) : List Byte :=
  let src := e.src.getD []
  let dst := e.dst.getD []
  let len := be f (x.off + 4) 2 + x.off + 40 - x.l4off
  let first := l4Here f x
  let f' := if first then xlatL4 f x.l4off x.proto len true x.src x.dst src dst e else f
  let frag := x.frag
  let fo := if frag then be f (x.l4off - 6) 2 else 0
  let total := len + 20
  let ident := if frag then be f (x.l4off - 4) 4 % 65536 else e.ident % 65536
  let flags := if frag then 2 ^ 13 * (fo % 2) + fo / 8 else if 1260 < total then 2 ^ 14 else 0
  let proto := if x.proto = 58 then 1 else x.proto
  let h0 := [0x45, BitVec.ofNat 8 x.tos] ++ toBE 2 total ++ toBE 2 ident ++ toBE 2 flags ++ toBE 1 x.ttl ++ toBE 1 proto ++
    [0, 0] ++ src ++ dst
  let h := putB h0 10 (toBE 2 (ipCsum h0))
  etherTo f' x mpls [0x08, 0x00] ++ h ++ f'.drop x.l4off

/-- IPv4 to IPv6 (RFC 7915, section 4); the packet has no options. -/
def nat46 (f : List Byte) (x : L3) (mpls : Bool) (e : NatEdit) : List Byte :=
  let src := e.src.getD []
  let dst := e.dst.getD []
  let len := be f (x.off + 2) 2 - 20
  let f' := if l4Here f x then xlatL4 f x.l4off x.proto len false x.src x.dst src dst e else f
  let fo := be f (x.off + 6) 2
  let proto := if x.proto = 1 then 58 else x.proto
  let fh := if x.frag then toBE 1 proto ++ [0] ++ toBE 2 (8 * (fo % 8192) + bits fo 13 1) ++ [0, 0] ++ toBE 2 (be f (x.off + 4) 2)
    else []
  let h := toBE 4 (6 * 2 ^ 28 + x.tos * 2 ^ 20) ++ toBE 2 (len + fh.length) ++ toBE 1 (if x.frag then 44 else proto) ++
    toBE 1 x.ttl ++ src ++ dst
  etherTo f' x mpls [0x86, 0xDD] ++ h ++ fh ++ f'.drop x.l4off

/-- The IPv6 address that embeds an IPv4 address in a NAT64 prefix (R252, RFC 6052). -/
def embed4 (p : NatPfx) (a : List Byte) : List Byte :=
  let pre := toBE 12 p.bits
  let z : List Byte := List.replicate 16 0
  let base := fun (n : Nat) => pre.take n
  let b := match p.len with
    | 0 => base 4 ++ a.take 4
    | 1 => base 5 ++ a.take 3 ++ [0] ++ a.drop 3
    | 2 => base 6 ++ a.take 2 ++ [0] ++ a.drop 2
    | 3 => base 7 ++ a.take 1 ++ [0] ++ a.drop 1
    | 4 => base 8 ++ [0] ++ a
    | _ => base 12 ++ a
  sliceB (b ++ z) 0 16

/-- The IPv4 address embedded in an IPv6 address at a prefix's length. -/
def extract4 (p : NatPfx) (a : List Byte) : List Byte :=
  let b := match p.len with
    | 0 => (a.drop 4).take 4
    | 1 => (a.drop 5).take 3 ++ (a.drop 9).take 1
    | 2 => (a.drop 6).take 2 ++ (a.drop 9).take 2
    | 3 => (a.drop 7).take 1 ++ (a.drop 9).take 3
    | 4 => (a.drop 9).take 4
    | _ => (a.drop 12).take 4
  sliceB b 0 4

/-! ### The whole rewrite -/

/-- The next hop's MAC addresses and VLAN (R234). -/
def setHop (f : List Byte) (tagged : Bool) (h : Hop) : List Byte :=
  let f := putB f 0 (toBE 6 h.dmac ++ toBE 6 h.smac)
  if tagged then
    if h.vlan = 0 then f.take 12 ++ f.drop 16 else putB f 14 (toBE 2 (putBits (be f 14 2) 0 12 h.vlan))
  else if h.vlan = 0 then f
  else f.take 12 ++ [0x81, 0x00] ++ toBE 2 (h.vlan % 4096) ++ f.drop 12

/-- The frame as the merge rewrites it: TTL, DSCP and DEI first, then NAT, then the next hop; one sent unrewritten stays as it came. -/
def applyEdits (p : Parsed) (e : Edits) (f : List Byte) : List Byte :=
  if e.raw then f
  else
  let l3 := fun (f : List Byte) (g : L3 → List Byte) => match p.outer with
    | some x => g x
    | none => f
  let tagged := !p.tags.isEmpty
  let f := match e.hop with
    | some h => if h.decTtl then l3 f (decTtl f) else f
    | none => f
  let f := match e.dscp with
    | some v => l3 f fun x => setDscp f x v
    | none => f
  let f := if e.dei && tagged then putB f 14 (toBE 2 (be f 14 2 ||| 0x1000)) else f
  let f := match e.nat with
    | none => f
    | some n => l3 f fun x =>
      let x := { x with tos := if x.v6 then bits (be f x.off 2) 4 8 else be f (x.off + 1) 1,
                        ttl := be f (x.off + (if x.v6 then 7 else 8)) 1 }
      match n.xlat with
      | 0 => natSame f x n
      | 1 => nat64 f x p.mpls n
      | _ => nat46 f x p.mpls n
  match e.hop with
  | some h => setHop f tagged h
  | none => f

end Sys2Proof.Machine
end

