-- ==== Sys2Proof/Machine/Merge.lean ====
section
/-! DEFINITION. The merge of step 7 (R271): forwarding results (R231 to R234, R246, R247), NAT decisions (R252 to R254), aggregate
meters (R296 to R299), Spillway (R97, R98), pins (R168), order numbers (R87), and ledger entries (R371). -/

namespace Sys2Proof.Machine

/-! ### Aggregate meters -/

/-- A meter's trTCM update for a frame of `len` bytes (R163, R297): the new state and the colour. -/
def meterRun (c : MtrCfg) (x : MtrState) (now len pre : Nat) : MtrState × Nat :=
  let e := (now + 2 ^ 32 - x.time) % 2 ^ 32
  let t := x.time
  let tc := min c.cbs (x.tokC + (t + e) * c.cir / 65536 - t * c.cir / 65536)
  let tp := min c.pbs (x.tokP + (t + e) * c.pir / 65536 - t * c.pir / 65536)
  let b := ((len : Int) + sint 8 (bits c.cfg 0 8)).toNat
  let x := { x with time := now, tokC := tc, tokP := tp }
  let pre := if bit c.cfg 8 then pre else 0
  if pre = 2 ∨ tp < b then ({ x with red := (x.red + 1) % 2 ^ 48 }, 2)
  else if pre = 1 ∨ tc < b then ({ x with tokP := tp - b, yellow := (x.yellow + 1) % 2 ^ 48 }, 1)
  else ({ x with tokC := tc - b, tokP := tp - b, green := (x.green + 1) % 2 ^ 48 }, 0)

/-- A meter's configuration in a packet's generation (R47). -/
def Dev.mtrOf (d : Dev) (gen m : Nat) : MtrCfg :=
  Tab.get {} (if gen = d.get GLB.COMMIT_STAT.Gen then d.mtr.cfg else d.old.mtr) m

/-- A packet's meter (R296): that of the filters, else that of its ingress port. -/
def Dev.meterOf (d : Dev) (gen port : Nat) (acl : Option Nat) : Option Nat :=
  let m := match acl with
    | some m => some m
    | none => if d.cfgOf gen MTR.PORT_MTR.Valid 0 port ≠ 0 then some (d.cfgOf gen MTR.PORT_MTR.Meter 0 port) else none
  m.filter fun m => bit (d.mtrOf gen m).cfg 31

/-- What a colour action does: drop, a DSCP, DEI. -/
structure MeterOut where
  drop : Bool := false
  dscp : Option Nat := none
  dei  : Bool := false
  deriving DecidableEq, Repr

/-- MTR detectors at a meter; `k` the colour of a counter (R302). -/
def Dev.mtrError (d : Dev) (det m k : Nat) : Dev :=
  let v : MtrCfg := Tab.get {} d.mtr.cfg m
  let x := d.meter m
  match det with
  | 0 => { d with mtr := { d.mtr with cfg := Tab.put {} d.mtr.cfg m { v with cfg := putBits v.cfg 31 1 0 } } }
  | 1 => d.setMeter m { x with tokC := v.cbs, tokP := v.pbs }
  | _ =>
    let x := match k with
      | 0 => { x with green := 0 }
      | 1 => { x with yellow := 0 }
      | _ => { x with red := 0 }
    d.setMeter m x

/-- A packet is metered (R297 to R299), each detector of MTR meeting its armed injection. Updates of one meter from one cycle come in the order of R298. -/
def Dev.meterPkt (d : Dev) (p : Pkt) (m : Nat) : Dev × MeterOut :=
  let (d, ok) := d.protect .mtr 0 0 m
  if !ok then (d.mtrError 0 m 0, {}) else
  let (d, ok) := d.protect .mtr 0 1 m
  let d := if ok then d else d.mtrError 1 m 0
  let c := d.mtrOf p.gen m
  let a := p.action.getD 0
  let tag := p.parsed.tags.headD 0
  let pre := if bits a 5 2 = 2 then 2 else if bits a 5 2 = 1 || bit tag 12 then 1 else 0
  let (x, col) := meterRun c (d.meter m) d.mclk p.len pre
  let (d, ok) := (d.setMeter m x).protect .mtr 0 2 m
  let d := if ok then d else d.mtrError 2 m col
  let d := d.count .mtr 0 (0x140 + col)
  let dscp := if col = 0 then (Config.greenDscp m).toNat else if col = 1 then bits c.cfg 15 6 else bits c.cfg 21 6
  match bits c.cfg (9 + 2 * col) 2 with
  | 0 => (d, {})
  | 1 => (d.count .mtr 0 0x143, { drop := true })
  | 2 => if p.parsed.outer.isSome then (d.count .mtr 0 0x144, { dscp := some dscp }) else (d, {})
  | _ => if p.parsed.tags.isEmpty then (d, {}) else (d.count .mtr 0 0x144, { dei := true })

/-! ### Where a packet goes -/

/-- A forwarding result: the egress ports (`none`: the packet is dropped), the next hop's rewrite, and a member chosen by the
stateless selection, which a pin update may record. -/
structure Fate where
  ports : Option (List Nat) := none
  hop : Option Hop := none
  member : Option Nat := none
  /-- The result names a multicast group, so that its copies are those of a multicast packet whatever their number (R80). -/
  mcast : Bool := false
  /-- The packet goes unrewritten (R234). -/
  raw : Bool := false
  deriving DecidableEq, Repr

/-- Ports of a multicast group for a packet of ingress port `port` (R79). -/
def Dev.mcastPorts (d : Dev) (g port : Nat) : List Nat :=
  let b := Tab.get 0 d.bsn.mcast g
  (List.range 138).filter fun n => bit b n && (n != port || bit b 138)

/-- Flooding to the FloodGroup of the packet's VLAN (R233, R242). -/
def Dev.flood (d : Dev) (p : Pkt) : Fate := { ports := some (d.mcastPorts (d.vlanOf p.vlan).1 p.port), mcast := true }

/-- Forwarding through a next hop (R234): NoRoute where it is not valid or names no port; a TTL that would not survive its
decrement goes to host port 128 unrewritten, or is dropped. -/
def Dev.viaHop (d : Dev) (p : Pkt) (nh : Nat) (member : Option Nat) : Dev × Fate :=
  let h : NextHop := Tab.get {} (d.fwdOf p.gen).nhs nh
  let ttl := (p.parsed.outer.map (·.ttl)).getD 255
  if !h.valid || 137 < h.port then (d.count .lpm 0 0x0F0, {})
  else if h.decTtl && decide (ttl ≤ 1) then
    let d := d.count .lpm 0 0x0F1
    (d, { ports := if d.flag LPM.CFG.TtlToHost then some [128] else none, raw := true })
  else
    let smac := d.cfgOf p.gen LPM.SMAC.SmacLo 0 h.smac + 2 ^ 32 * d.cfgOf p.gen LPM.SMAC.SmacHi 0 h.smac
    (d, { ports := some [h.port], hop := some ⟨h.dmac, smac, h.vlan, h.decTtl⟩, member := member })

/-- Forwarding to a member of a multipath group: the pinned member of the ACTION, or the stateless selection (R246, R247). -/
def Dev.viaGroup (d : Dev) (p : Pkt) (g : Nat) (pinned : Option Nat) : Dev × Fate :=
  let t := d.fwdOf p.gen
  let e := t.group g
  let stateless := fun (d : Dev) =>
    match t.stateless e (p.digest % 2 ^ 32) with
    | none => (d.count .ecm 0 0x0FC, {})
    | some s => d.viaHop p (t.slot (e.slotBase + s)).nextHop (some s)
  if p.look.ecmBad then (d.count .ecm 0 0x0FC, {})
  else match pinned with
  | none => stateless d
  | some m =>
    let st := if m < e.slotCount then (t.slot (e.slotBase + m)).state else 0
    if st = 1 ∨ st = 2 then d.viaHop p (t.slot (e.slotBase + m)).nextHop none
    else
      let d := d.count .ecm 0 0x0FB
      if e.staleDrop then (d, {}) else stateless d

/-- The forwarding result of a packet's lookups (R231 to R233, R242). -/
def Dev.lookupFate (d : Dev) (p : Pkt) (pinned : Option Nat) : Dev × Fate :=
  if p.look.learn = 2 then (d, d.flood p)
  else if !p.look.l2hit then (d.count .l2t 0 0x0F9, d.flood p)
  else if !p.look.l2router then (d, { ports := if 137 < p.look.l2port then none else some [p.look.l2port] })
  else match p.look.route with
    | none => (d.count .lpm 0 0x0F0, {})
    | some r =>
      let v := bits r 2 16
      match r % 4 with
      | 0 => d.viaHop p v none
      | 1 => d.viaGroup p (v % 2 ^ 14) pinned
      | 2 => (d, { ports := some (d.mcastPorts (v % 2 ^ 14) p.port), mcast := true })
      | _ => (d, { ports := if v % 4 = 1 then some [128] else if v % 4 = 2 then some [129] else none })

/-! ### NAT (R252, R254) -/

/-- A NAT decision: no rewrite, a drop as NatUnsupported or by an entry that is not valid, or a rewrite; the last Boolean says
that the annex is still to be read. -/
inductive NatFate where
  | none
  | unsupported
  | drop
  | edit (e : NatEdit) (annex : Bool)
  deriving DecidableEq, Repr

/-- The Next Header values that name an IPv6 extension header (IANA registry: PRESUMED, log entry 103): one of them behind the headers that
the parser walks is an extension header that R254 does not let a translation pass. -/
def extHeaders : List Nat := [0, 43, 44, 50, 51, 60, 135, 139, 140]

/-- Whether the outer header is of a kind that a translation drops (R254). -/
def natBad (p : Pkt) (x : L3) (xlat : Bool) : Bool :=
  let icmp := (x.proto == 1 && !x.v6) || (x.proto == 58 && x.v6)
  let t := be p.bytes x.l4off 1
  let echo := if x.v6 then t == 128 || t == 129 else t == 0 || t == 8
  (icmp && l4Here p.bytes x && !echo) ||
    (xlat && ((icmp && x.frag) || (!x.v6 && x.l4off != x.off + 20) ||
      (x.v6 && (x.l4off != x.off + (if x.frag then 48 else 40) || extHeaders.contains x.proto)) ||
      (!x.v6 && x.proto == 17 && l4Here p.bytes x && be p.bytes (x.l4off + 6) 2 == 0)))

/-- The NAT decision for a packet (R252, R254); `ident` is the Identification an IPv4 header takes. -/
def Dev.natFate (d : Dev) (p : Pkt) (ident : Nat) : NatFate :=
  let a := p.action.getD 0
  let fmt := bits a 12 2
  let aw := bits a 32 32
  let sw := bits a 64 32
  let t := d.fwdOf p.gen
  let checked := fun (x : L3) (xlat : Bool) (r : NatFate) =>
    if p.look.natBad || bit (p.key.getD 1 0).toNat 1 || natBad p x xlat then .unsupported else r
  match p.parsed.outer with
  | none => .none
  | some x =>
    if fmt = 2 then
      let e : NatAddr := Tab.get {} t.natAddr (aw / 65536)
      let src := toBE 4 e.address
      if p.look.natBad then .unsupported
      else if !e.valid then .drop
      else if !e.nat64 && !x.v6 then
        checked x false (.edit { src := some src, sport := if aw % 65536 = 0 then none else some (aw % 65536) } false)
      else if e.nat64 && x.v6 then
        let pfx : NatPfx := Tab.get {} t.natPfx e.pfx64
        checked x true (.edit { src := some src, dst := some (extract4 pfx x.dst), sport := some (aw % 65536), xlat := 1,
                                ident := ident } false)
      else checked x false .none
    else if fmt = 3 then
      let port := bits sw 16 16
      if x.v6 then checked x false .none
      else if !bit sw 15 then
        checked x false (.edit { dst := some (toBE 4 aw), dport := if port = 0 then none else some port } false)
      else
        let pfx : NatPfx := Tab.get {} t.natPfx (bits sw 12 3)
        checked x true (.edit { src := some (embed4 pfx x.src), dport := some port, xlat := 2 } true)
    else .none

/-! ### Order numbers -/

/-- The egress slices of a list of ports, in ascending order. -/
def portSlices (ports : List Nat) : List Nat := (List.range 8).filter fun e => ports.any fun p => portSlice p == e

/-- One number for each egress slice of a packet's copies (R87). -/
def Dev.assign (d : Dev) (pid : Nat) : Dev :=
  let p := d.pkt pid
  match p.domain with
  | none => d.setPkt pid { p with seqs := [], released := if p.punted then [] else portSlices p.targets }
  | some dom =>
    (portSlices p.targets).foldl (fun d e =>
      let k := seqKey dom e
      let n := Tab.get 0 d.eg.seq k
      let d := { d with eg := { d.eg with seq := Tab.put 0 d.eg.seq k ((n + 1) % 65536) } }
      let p := d.pkt pid
      d.setPkt pid { p with seqs := p.seqs ++ [(e, n, Tab.get 0 d.eg.tag (tagKey dom e))] }) (d.setPkt pid { p with seqs := [] })

/-- The frame as it leaves, under the edits of the packet. -/
def Dev.rewrite (d : Dev) (pid : Nat) : Dev :=
  let p := d.pkt pid
  d.setPkt pid { p with outB := applyEdits p.parsed p.edits p.bytes }

/-! ### The merge -/

/-- A packet dropped at the merge: its marked ACTION still yields an entry (R371), it receives no number, and its record update
stands (R16). -/
def Dev.mergeDrop (d : Dev) (pid : Nat) : Dev :=
  let (d, _) := d.ledgerYield (d.pkt pid) 2
  (d.setPkt pid { d.pkt pid with merged := true }).dropPkt pid false

/-- The pin update that a forward to a group's stateless member sends (R168). -/
def Dev.sendPin (d : Dev) (pid : Nat) : Dev :=
  let p := d.pkt pid
  match p.pin, p.loc with
  | some m, some l => d.sendReq l.ruu (.pin l p.handle m)
  | _, _ => d

/-- A packet is forwarded with its targets and edits: the entry, the numbers, the reference count (R80), the frame as it leaves;
a frame known bad leaves only by copies that cut through (R78). -/
def Dev.mergeForward (d : Dev) (pid : Nat) : Dev :=
  let (d, strict) := d.ledgerYield (d.pkt pid) 0
  let p := d.pkt pid
  if strict then (d.setPkt pid { p with merged := true }).dropPkt pid false
  else
    let d := d.setPkt pid { p with merged := true, refs := p.targets.length, multi := p.multi || decide (1 < p.targets.length) }
    let d := (d.assign pid).sendPin pid
    let d := if p.annexDue then d else d.rewrite pid
    if p.ended && p.fcs ≠ 0 then d.badFrame pid else d

/-- A packet is punted with its targets and numbers (R176, R187, R271). -/
def Dev.mergePunt (d : Dev) (pid : Nat) : Dev :=
  let (d, strict) := d.ledgerYield (d.pkt pid) 1
  let p := d.pkt pid
  if strict then (d.setPkt pid { p with merged := true }).dropPkt pid false
  else (d.setPkt pid { p with merged := true, punted := true, slow := true, multi := p.multi || decide (1 < p.targets.length) }).assign pid

/-- The NAT decision carried out on a packet that is forwarded under its ACTION: counted, and `false` where it is dropped. One sent
unrewritten (R234) takes none. -/
def Dev.natDecide (d : Dev) (pid : Nat) : Dev × Bool :=
  let p := d.pkt pid
  if p.edits.raw then (d, true)
  else match d.natFate p (Config.natIdent d.free).toNat with
  | .none => (d, true)
  | .unsupported => (d.count .nat 0 0x0FF, false)
  | .drop => (d, false)
  | .edit e annex =>
    let d := if e.xlat = 1 then { d with free := d.free + 1 } else d
    let d := if annex then d else d.count .nat 0 0x0FD
    (d.setPkt pid { p with edits := { p.edits with nat := some e }, annexDue := annex }, true)

/-- The merge once filters and meter have passed the packet: by its Action and, for Spillway, its SpillMode (R97, R98). Which Spillway
packets 0x061 counts: those that SpillMode 1 or 3 drops; one that another rule drops (no forwarding result, a filter, a meter, NAT, a full
FSC level) counts there only as that rule says (R99; DESIGN CHOICE, log entry 106). -/
def Dev.mergeAct (d : Dev) (pid : Nat) : Dev :=
  let p := d.pkt pid
  let a := p.action.getD 0
  let some_ := !p.targets.isEmpty
  match a % 4 with
  | 1 => d.mergeDrop pid
  | 2 => d.mergePunt pid
  | 0 =>
    if !some_ then d.mergeDrop pid
    else match d.natDecide pid with
      | (d, true) => d.mergeForward pid
      | (d, false) => d.mergeDrop pid
  | _ =>
    match d.cfgOf p.gen PRS.KP_CTL.SpillMode p.slice p.profile with
    | 0 => if some_ then (d.count .slc p.slice 0x060).mergeForward pid else d.mergeDrop pid
    | 2 => (d.count .slc p.slice 0x062).mergePunt pid
    | _ =>
      let d := (d.count .slc p.slice 0x061).setPkt pid { p with merged := true }
      (d.assign pid).dropPkt pid true

/-- The merge of a packet whose results have all arrived (R271). Its filter search ends with it, so that nothing can change a winner after its
hit has been counted (R272, R279). -/
def Dev.merge (d : Dev) (pid : Nat) : Dev :=
  let p := d.pkt pid
  let a := p.action.getD 0
  let (d, ws) := d.winners p.gen p.look.banks (List.range 4)
  let d := (d.searchDone p.look.banks ws).countWinners ws
  let drops := ws.filter fun w => w.act % 4 == 1
  if !drops.isEmpty then (drops.foldl (fun d w => d.count .acl w.bank 0x127) d).mergeDrop pid
  else
    let redirect := (ws.find? fun w => w.act % 4 == 2).map fun w => bits w.act 2 8
    let extra := (ws.find? fun w => w.act % 4 == 3).map fun w => bits w.act 2 8
    let queue := (ws.find? fun w => bit w.act 14).map fun w => bits w.act 10 4
    let meter := (ws.find? fun w => bit w.act 31).map fun w => bits w.act 15 16
    let dscp := (ws.find? fun w => bit w.act 38).map fun w => bits w.act 32 6
    let (d, mo) := match d.meterOf p.gen p.port meter with
      | some m => (d.inTurn (turnMeter m) (p.slice * 2 ^ 64 + pid)).meterPkt p m
      | none => (d, {})
    if mo.drop then d.mergeDrop pid
    else
      let pin := bits a 12 2 = 1 ∧ a % 4 ≠ 3
      let pinned := if pin ∧ bit a 2 ∧ bit a 63 then some (bits a 32 12) else none
      let grp := if pin ∧ bit a 62 then some (bits a 44 18) else none
      let (d, f) :=
        if a % 4 = 1 then (d, ({} : Fate))
        else match redirect with
          | some t => (d, { ports := some [t] })
          | none => d.lookupFate p pinned
      let ports := match extra with
        | some t => if (f.ports.getD []).contains t then f.ports.getD [] else f.ports.getD [] ++ [t]
        | none => f.ports.getD []
      let dscp := if mo.dscp.isSome then mo.dscp else if p.parsed.outer.isSome then dscp else none
      let p := { d.pkt pid with
        targets := ports, multi := f.mcast, queueSel := queue, group := grp, pin := if bit a 17 then f.member else none,
        edits := { raw := f.raw, hop := f.hop, nat := none, dscp := dscp, dei := mo.dei } }
      (d.setPkt pid p).mergeAct pid

/-- Whether a packet is due for its merge: ACTION, learn outcome and filter results there, and every earlier packet of its
domain merged or dropped (R87, R241, R264). -/
def Dev.mergeable (d : Dev) (pid : Nat) (p : Pkt) : Bool :=
  p.action.isSome && !p.merged && !p.dropped && p.look.learn != 1 && !(p.look.banks.any (·.again)) &&
    (p.domain.isNone || !d.pkts.any fun e => decide (e.1 < pid) && e.2.domain == p.domain && !e.2.merged && !e.2.dropped)

/-- ACTION_MERGE of a packet. -/
def execActionMerge (pid : Nat) (s : State) : Host.Outcome State Fault Refusal :=
  nextD s fun d =>
    match Tab.find d.pkts pid with
    | none => d
    | some p => if d.mergeable pid p then d.merge pid else d

/-- The annex entry of a NAT64 inbound packet, read through port 0 of the pseudo-channel of RUU h mod 384, decides (R253, R313); one that
HBC reports uncorrectable, here by `err`, is not usable. -/
def Chip.annexRead (c : Chip) (pid : Nat) (err : Bool) : Chip :=
  let p := c.dev.pkt pid
  let a := p.action.getD 0
  let at_ := annexAddr (bits a 32 30)
  let k := Mem.readN c.hbm at_ 48
  let bad := err || c.dev.spanBad at_ 48
  let c := c.hbmRead 0 (384 + p.slice) at_
  let ok := !bad && bit (k.getD 1 0).toNat 0 && be k 36 2 == bits a 80 16
  c.upd fun d =>
    if ok then
      let nat := p.edits.nat.map fun e => { e with dst := some ((k.drop 4).take 16) }
      ((d.setPkt pid { p with annexDue := false, edits := { p.edits with nat := nat } }).rewrite pid).count .nat 0 0x0FD
    else (d.count .nat 0 0x0FE).dropPkt pid true

/-- NAT64_ANNEX_READ of a packet. -/
def execNat64AnnexRead (pid : Nat) (err : Bool) (s : State) : Host.Outcome State Fault Refusal :=
  nextC s fun c => if (c.dev.pkt pid).annexDue && !(c.dev.pkt pid).dropped then c.annexRead pid err else c

end Sys2Proof.Machine
end

