-- ==== Sys2Proof/Machine/Rill.lean ====
section
/-! DEFINITION. Rill (R88 to R93, R96): release in order, gap timeouts, forced skips, late packets, voided numbers. -/

namespace Sys2Proof.Machine

/-- The next expected number of a domain. -/
def RillSt.expected (x : RillSt) (dom : Nat) : Nat := Tab.get 0 x.next dom

/-- The same with the next expected number of a domain set. -/
def RillSt.expect (x : RillSt) (dom n : Nat) : RillSt := { x with next := Tab.put 0 x.next dom (n % 65536) }

/-- How far a number is ahead of another (R88). -/
def ahead (n x : Nat) : Nat := (n + 65536 - x) % 65536

/-- Whether a packet still has copies to enqueue in an egress slice. -/
def Dev.owes (d : Dev) (e pid : Nat) : Bool := (d.pkt pid).targets.any fun t => portSlice t == e

/-- A Rill releases a packet. -/
def Dev.release (d : Dev) (e pid : Nat) : Dev :=
  let p := d.pkt pid
  let d := d.setPkt pid { p with released := if p.released.contains e then p.released else p.released ++ [e] }
  let x := d.rillOf e
  d.setRill e { x with order := x.order.filter (d.owes e) ++ [pid] }

/-- What follows the next expected number without a gap is released or passed over; fuel: packets held and voids. -/
def Dev.drain (e dom : Nat) : Nat → Dev → Dev
  | 0, d => d
  | k + 1, d =>
    let x := d.rillOf e
    let n := x.expected dom
    if x.voids.contains (dom, n) then
      Dev.drain e dom k (d.setRill e ({ x with voids := x.voids.filter (· != (dom, n)) }.expect dom (n + 1)))
    else match x.held.find? fun h => h.domain == dom && h.num == n with
      | none => d
      | some h =>
        let d := d.setRill e ({ x with held := x.held.filter (· != h) }.expect dom (n + 1))
        Dev.drain e dom k (d.release e h.pid)

/-- Drain with fuel enough. -/
def Dev.drainAll (d : Dev) (e dom : Nat) : Dev :=
  let x := d.rillOf e
  Dev.drain e dom (x.held.length + x.voids.length) d

/-- Held packets of a domain by how far they are ahead of `n0`. -/
def sortHeld (n0 : Nat) : List Held → List Held
  | [] => []
  | h :: t =>
    let rec ins : List Held → List Held
      | [] => [h]
      | g :: r => if ahead h.num n0 < ahead g.num n0 then h :: g :: r else g :: ins r
    ins (sortHeld n0 t)

/-- Every missing number of a domain below `n` is skipped and the packets held below it are released in order (R89, R90); the
skip is counted and posted. -/
def Dev.skipTo (d : Dev) (e dom n : Nat) (forced : Bool) : Dev :=
  let x := d.rillOf e
  let n0 := x.expected dom
  let span := ahead n n0
  let below := sortHeld n0 (x.held.filter fun h => h.domain == dom && decide (ahead h.num n0 < span))
  let voids := x.voids.filter fun v => v.1 == dom && decide (ahead v.2 n0 < span)
  let count := span - below.length - voids.length
  let first := ((List.range span).find? fun i =>
    let m := (n0 + i) % 65536
    !below.any (fun h => h.num == m) && !voids.contains (dom, m)).getD 0
  let y := { x with held := x.held.filter fun h => !below.contains h, voids := x.voids.filter fun v => !voids.contains v }
  let d := d.setRill e (y.expect dom n)
  let d := below.foldl (fun d h => d.release e h.pid) d
  let d := if forced then d.count .rsq e 0x051 else d.count .rsq e 0x050 count
  d.postSys .rsq e 1 [dom + 2 ^ 16 * ((n0 + first) % 65536) + 2 ^ 32 * (count % 65536) + 2 ^ 48 * b2n forced + 2 ^ 49 * e]

/-- The copies of a packet to one egress slice are dropped (R81, R91): as late at Rill (LateAction 1) or by a redirect. None of them was
refused, flushed or dropped at a port, so a late copy of a multicast packet does not count under MAC kind 1 (R99; DESIGN CHOICE, log
entry 106). -/
def Dev.dropSlice (d : Dev) (e pid : Nat) : Dev :=
  let p := d.pkt pid
  let keep := p.targets.filter fun t => portSlice t != e
  let refs := p.refs - (p.targets.length - keep.length)
  (d.setPkt pid { p with targets := keep, refs := refs, dropped := p.dropped || refs == 0 }).reap pid

/-- A numbered packet arrives with its number in force (R88, R90, R91). -/
def Dev.arrive (d : Dev) (e pid dom n : Nat) : Dev :=
  let x := d.rillOf e
  let a := ahead n (x.expected dom)
  if a = 0 then ((d.setRill e (x.expect dom (n + 1))).release e pid).drainAll e dom
  else if 32768 ≤ a || x.held.any (fun h => h.domain == dom && h.num == n) then
    let d := d.count .rsq e 0x052
    if d.flag RSQ.CFG.LateAction e then d.dropSlice e pid else d.release e pid
  else if min 4096 (max 1 (d.get RSQ.CFG.Window e)) ≤ a || 16384 ≤ x.held.length then
    let d := d.skipTo e dom n true
    ((d.setRill e ((d.rillOf e).expect dom (n + 1))).release e pid).drainAll e dom
  else d.setRill e { x with held := x.held ++ [⟨dom, n, pid, d.cyc⟩] }

/-- RILL_ARRIVAL: a packet reaches the Rill of an egress slice that holds one of its copies. One that was punted with no copies, and so with
no number, is released as one whose copies a routine has changed, and counted as redirected (R93 does not speak of it: DESIGN CHOICE, log
entry 110). -/
def execRillArrival (pid slice : Nat) (s : State) : Host.Outcome State Fault Refusal :=
  nextD s fun d =>
    match Tab.find d.pkts pid with
    | none => d
    | some p =>
      if !p.merged || p.dropped || p.punted || p.annexDue || p.arrived.contains slice || !d.owes slice pid ||
          !d.accepts .rsq slice then d
      else
        let d := d.setPkt pid { p with arrived := p.arrived ++ [slice] }
        match p.domain with
        | none => if p.released.contains slice then d else d.release slice pid
        | some dom =>
          match p.seqs.find? fun x => x.1 == slice with
          | none => (d.release slice pid).count .rsq slice 0x054
          | some (_, n, tag) =>
            if tag ≠ Tab.get 0 d.eg.tag (tagKey dom slice) then (d.release slice pid).count .rsq slice 0x054
            else d.arrive slice pid dom n

/-- GAP_TIMEOUT: the packet that has waited longest in a Rill reaches GapTimeout (R89). -/
def execGapTimeout (slice : Nat) (s : State) : Host.Outcome State Fault Refusal :=
  nextD s fun d =>
    let oldest := (d.rillOf slice).held.foldl (fun (b : Option Held) h => match b with
      | some x => if h.at0 < x.at0 then some h else b
      | none => some h) none
    match oldest with
    | none => d
    | some h =>
      let d := d.until (h.at0 + 20 * max 1 (d.get RSQ.CFG.GapTimeout slice))
      (d.skipTo slice h.domain h.num false).drainAll slice h.domain

/-- NUMBER_VOID: the oldest number waiting to be voided reaches its Rill (R92). -/
def execNumberVoid (s : State) : Host.Outcome State Fault Refusal :=
  nextD s fun d =>
    match d.eg.voidQ with
    | [] => d
    | (e, dom, n, tag) :: rest =>
      let d := { d with eg := { d.eg with voidQ := rest } }
      let d := d.count .rsq e 0x053
      let x := d.rillOf e
      let a := ahead n (x.expected dom)
      if tag ≠ Tab.get 0 d.eg.tag (tagKey dom e) || 32768 ≤ a then d
      else (d.setRill e { x with voids := x.voids ++ [(dom, n)] }).drainAll e dom

end Sys2Proof.Machine
end

