-- ==== Sys2Proof/Machine/Ptp.lean ====
section
/-! DEFINITION. PTP assist (R366 to R369): which frames are event messages, the PTP stamps, and what egress writes into them. -/

namespace Sys2Proof.Machine

/-- The PTP header of a frame that a port's rule allows (R366): its offset, its carriage and its messageType. -/
def Dev.ptpOf (d : Dev) (slice port : Nat) (f : List Byte) : Option (Nat × Nat × Nat) :=
  match (d.parse slice f).ptp with
  | none => none
  | some (o, k) =>
    let ok := if k = 0 then d.flag TIM.PTP_CFG.L2 0 port else if k = 1 then d.flag TIM.PTP_CFG.Udp4 0 port
      else d.flag TIM.PTP_CFG.Udp6 0 port
    if ok then some (o, k, be f o 1 % 16) else none

/-- The PTP Mode of a port; host and recirculation ports have none. -/
def Dev.ptpMode (d : Dev) (port : Nat) : Nat := if port < 128 then d.get TIM.PTP_CFG.Mode 0 port else 0

/-- A port's PTP stamps: its stamp with the board trace delay, in units of 2^−4 ns, applied (R367). -/
def Dev.ptpRx (d : Dev) (port stamp : Nat) : Nat := dtLess stamp (d.get TIM.TRACE.Rx 0 port * 2 ^ 36)
def Dev.ptpTx (d : Dev) (port stamp : Nat) : Nat := dtWrap (stamp + d.get TIM.TRACE.Tx 0 port * 2 ^ 36)

/-- A device time, and a compact stamp, in units of 2^−16 ns. -/
def ns16 (t : Nat) : Int := ((dtSec t * 1000000000 + dtNs t) * 65536 + dtFrac t : Nat)
def ns16c (c : Nat) : Int := ((c / 2 ^ 32 * 1000000000 + c % 2 ^ 32 / 4) * 65536 + c % 4 * 16384 : Nat)

/-- A device time less the compact stamp of one near it, in units of 2^−16 ns: the difference of least size modulo the 2^32 seconds of a
compact stamp (R361). -/
def sinceCompact (t c : Nat) : Int :=
  let m : Int := 2 ^ 32 * 1000000000 * 65536
  let x := (ns16 t - ns16c c) % m
  if 2 * x < m then x else x - m

/-- The stamp a host port's receive metadata carries for a packet, and whether it is the PTP stamp (R367, R434). -/
def Dev.hostStamp (d : Dev) (p : Pkt) : Nat × Bool :=
  match if p.port < 128 then d.ptpOf p.slice p.port p.bytes else none with
  | some (_, _, t) =>
    let m := d.ptpMode p.port
    if t < 4 ∧ (m = 1 ∨ (m = 3 ∧ (t = 2 ∨ t = 3))) then (compact (d.ptpRx p.port p.stamp), true) else (compact p.stamp, false)
  | none => (compact p.stamp, false)

/-- Bytes of a PTP message rewritten, with the UDP checksum updated incrementally where it is carried over UDP (R368). -/
def ptpPut (f : List Byte) (o k : Nat) (at_ : Nat) (new : List Byte) : List Byte :=
  let pos := o + at_
  let odd := pos % 2 ≠ (o - 8) % 2
  let lo := if odd then pos - 1 else pos
  let n := (if odd then 1 else 0) + new.length
  let n := n + n % 2
  let g := putB f pos new
  if k = 0 then g
  else
    let c := o - 2
    if k = 1 ∧ be f c 2 = 0 then g
    else
      let v := csumFix (be f c 2) (words16 (sliceB f lo n)) (words16 (sliceB g lo n))
      putB g c (toBE 2 (if v = 0 then 65535 else v))

/-- correctionField, 64 bits at offset 8 of the header, plus an amount in units of 2^−16 ns. -/
def ptpCorrect (f : List Byte) (o k : Nat) (x : Int) : List Byte :=
  ptpPut f o k 8 (toBE 8 (uint 64 ((be f (o + 8) 8 : Int) + x)))

/-- What egress writes into an event message leaving Ethernet port `port` at `stamp` (R367, R368); the Boolean says that a
correction was written. -/
def Dev.ptpWrite (d : Dev) (p : Pkt) (port stamp : Nat) (f : List Byte) : List Byte × Bool :=
  match d.ptpOf p.slice port f with
  | none => (f, false)
  | some (o, k, t) =>
    let m := d.ptpMode port
    let tx := d.ptpTx port stamp
    let host := decide (p.port = 128 ∨ p.port = 129)
    let transparent := decide (p.port < 128) && decide (2 ≤ d.ptpMode p.port) && (d.ptpOf p.slice p.port p.bytes).isSome
    let resid := ns16 tx - ns16 (d.ptpRx p.port p.stamp)
    if m = 1 && host && p.oneStep && t == 0 then
      let f := ptpPut f o k 34 (toBE 6 (dtSec tx) ++ toBE 4 (dtNs tx))
      (ptpCorrect f o k (dtFrac tx), true)
    else if m = 1 && host && p.oneStep && t == 3 then (ptpCorrect f o k (sinceCompact tx p.reqStamp), true)
    else if m = 2 && transparent && (t == 0 || t == 1) then (ptpCorrect f o k resid, true)
    else if m = 3 && transparent && t == 0 then (ptpCorrect f o k (resid + d.get TIM.LINK_DELAY.Delay 0 p.port), true)
    else (f, false)

/-- The PtpTx event of an event message sent with StampReq on a port of Mode 1 (R367, R369). -/
def Dev.ptpEvent (d : Dev) (p : Pkt) (port stamp : Nat) (f : List Byte) : Dev :=
  match d.ptpOf p.slice port f with
  | none => d
  | some (o, _, t) =>
    if d.ptpMode port = 1 && p.stampReq && decide (t < 4) && d.flag TIM.EVT_CFG.PtpTxEv then
      let item0 := port + 2 ^ 8 * t + 2 ^ 16 * be f (o + 30) 2 + 2 ^ 32 * be f (o + 4) 1
      (d.post .tim 0 1 (d.get TIM.EVT_CFG.Queue) [item0, compact (d.ptpTx port stamp)]).count .tim 0 0x164
    else d

end Sys2Proof.Machine
end

