-- ==== Sys2Proof/Machine/Egress.lean ====
section
/-! DEFINITION. Egress (03, 10): enqueue (R73, R75, R76, R81, R281, R282), shaper groups and the timing wheel (R285 to R291),
port scheduling (R292), transmission, and pauses (R293). -/

namespace Sys2Proof.Machine

/-! ### Ready lists -/

/-- The egress slice's configured entry of a queue. -/
def Dev.qcfg (d : Dev) (port q : Nat) : QCfg := Tab.get {} d.eg.qcfg (port * 16 + q)

/-- The entry that the lookups of a packet of generation `gen` use (R47). -/
def Dev.qcfgOf (d : Dev) (gen port q : Nat) : QCfg :=
  if gen = d.get GLB.COMMIT_STAT.Gen then d.qcfg port q else Tab.get {} d.old.qcfg (port * 16 + q)

/-- The virtual time of a port's level, 48 bits. -/
def Dev.vtime (d : Dev) (port level : Nat) : Nat := Tab.get 0 d.eg.vtime (port * 8 + level)

/-- Whether a queue is paused. -/
def EgQueue.paused (x : EgQueue) : Bool := x.pauseTo.isSome

/-- A copy joins its queue's ready list; a queue that becomes backlogged starts at its level's virtual time (R282, R292). -/
def Dev.ready (d : Dev) (c : Copy) : Dev :=
  let x := d.eq c.port c.queue
  let start := if x.ready.isEmpty && !x.paused then d.vtime c.port c.level else x.start
  d.setEq c.port c.queue { x with ready := x.ready ++ [c], start := start }

/-! ### Shaper groups -/

/-- A group's configuration. -/
def Dev.gcfg (d : Dev) (g : Nat) : GrpCfg := Tab.get {} d.eg.gcfg g

/-- The charge of a copy in its group, in bytes (R288). -/
def Copy.grpCharge (c : Copy) (g : GrpCfg) : Nat :=
  if c.forced || g.packets then c.pktLen else ((c.len : Int) + sint 8 g.overhead).toNat

/-- The charge of a copy of `len` bytes at its port in generation `gen` (R292). -/
def Dev.portCharge (d : Dev) (gen port len : Nat) : Nat :=
  let e := portSlice port
  let i := portIdx port
  if d.cfgOf gen EGS.PORT_CFG.ForcePackets e i ≠ 0 then d.cfgOf gen EGS.ACCT.PktLen e
  else ((len : Int) + sint 8 (d.cfgOf gen EGS.PORT_CFG.Overhead e i)).toNat

/-- A copy of a packet for a queue and group, with what its packet's generation gives it (R47). -/
def Dev.copyOf (d : Dev) (pid : Nat) (p : Pkt) (port q : Nat) (g : Option Nat) : Copy :=
  let c := d.qcfgOf p.gen port q
  let len := p.outB.length + 4
  { pid := pid, port := port, queue := q, group := g, len := len, cells := p.total, cut := false, ord := d.eg.ordNext,
    level := c.level, weight := c.weight, charge := d.portCharge p.gen port len,
    forced := d.cfgOf p.gen EGS.PORT_CFG.ForcePackets (portSlice port) (portIdx port) != 0,
    pktLen := d.cfgOf p.gen EGS.ACCT.PktLen (portSlice port) }

/-- Whether shaper time `a` is not before `b` (R284). -/
def notBefore (a b : Nat) : Bool := decide ((a + 2 ^ 64 - b % 2 ^ 64) % 2 ^ 64 < 2 ^ 63)

/-- The later of two shaper times. -/
def laterOf (a b : Nat) : Nat := if notBefore a b then a else b

/-- The evaluation of a head that became head `cyc` cycles after main PLL lock (R288 to R290): its eligible time and the state
after. In Mode 0 it is eligible at once, and the group's state is unused. -/
def evalHead (g : GrpCfg) (x : GrpState) (cyc charge : Nat) : Nat × GrpState :=
  let t := cyc * 2 ^ 24 % 2 ^ 64
  if g.mode = 0 then (t, x)
  else if g.mode = 1 then
    let tau := g.burst * g.cost
    let e := laterOf t ((x.tat + 2 ^ 64 - tau % 2 ^ 64) % 2 ^ 64)
    (e, { x with tat := (laterOf t x.tat + charge * g.cost) % 2 ^ 64 })
  else
    let q := max 1 g.quantum
    let k := boundaryOf cyc
    let c := min (g.burst : Int) (x.credit + ((k : Int) - x.k) * q)
    if 0 < c then (t, { x with credit := c - charge, k := k })
    else
      let n := ((1 - c) + q - 1).toNat / q
      let c' := min (g.burst : Int) (c + n * q)
      (boundaryAt (k + n) * 2 ^ 24 % 2 ^ 64, { x with credit := c' - charge, k := k + n })

/-! ### The timing wheel -/

/-- The level of an entry with due tick `w` placed at tick `c` (R285). -/
def wheelLevel (w c : Nat) : Nat :=
  if w / 2 ^ 12 ≤ c / 2 ^ 12 + 1 then 0 else if w / 2 ^ 24 ≤ c / 2 ^ 24 + 1 then 1 else 2

/-- The device with a slice's wheel replaced. -/
def Dev.setWheel (d : Dev) (e : Nat) (l : List WheelEnt) : Dev :=
  ({ d with eg := { d.eg with wheel := Tab.put [] d.eg.wheel e l } }).syncWheel e

/-- A group's entry is placed for eligible time `el`, at `cyc` cycles after main PLL lock; `none` where it is ready at once. -/
def dueTick (el cyc : Nat) : Option Nat :=
  let s := cyc * 2 ^ 24 % 2 ^ 64
  let w := ceilDiv ((el + 2 ^ 64 - s) % 2 ^ 64) (5 * 2 ^ 24)
  if w = 0 then none else some (cyc / 5 + w)

/-- A head that has been evaluated: it goes to its ready list and gives way to the next head, or to the wheel. -/
def Dev.placeHead (d : Dev) (g : Nat) : Dev :=
  let x := d.grp g
  match x.list, x.eval with
  | c :: rest, some el =>
    match dueTick el x.headAt with
    | none => (d.setGrp g { x with list := rest, eval := none }).ready c
    | some w =>
      let e := g / 32768
      d.setWheel e (Tab.get [] d.eg.wheel e ++ [⟨g, w, wheelLevel w d.tick⟩])
  | _, _ => d

/-- The group of a copy (R287): the ACTION's where it belongs to the egress slice, else the queue's default group. The Boolean
says that a bound group of another slice was passed over. -/
def Dev.groupOf (d : Dev) (p : Pkt) (port q : Nat) : Option Nat × Bool :=
  if 128 ≤ port then (none, false)
  else
    let e := portSlice port
    let c := d.qcfgOf p.gen port q
    let def_ := if c.defValid then some (e * 32768 + c.defGroup) else none
    match p.group with
    | some g => if g / 32768 = e then (some g, false) else (def_, true)
    | none => (def_, false)

/-! ### Enqueue -/

/-- The queue of a copy (R281). -/
def Dev.queueOf (d : Dev) (p : Pkt) (port : Nat) : Nat :=
  p.queueSel.getD (bits (d.cfgOf p.gen EGS.QMAP.Queues (portSlice port) (portIdx port)) (4 * p.cls) 4)

/-- The receive channel of a host port (R416, R434). -/
def Dev.rxChan (d : Dev) (port : Nat) : Option Nat :=
  (List.range (blkRow .dch).inst).find? fun c => d.get DMA.BIND.Endpoint 0 c == (if port = 128 then 4 else 6)

/-- Whether a port accepts an enqueue (R82, R434). -/
def Dev.portTakes (d : Dev) (port : Nat) : Bool :=
  if port < 128 then d.inUse port && (d.port port).state == 2
  else if port < 130 then match d.rxChan port with
    | some c => d.get DCH.STAT.State c == 1 || d.get DCH.STAT.State c == 2
    | none => false
  else true

/-- A copy goes: one target and one reference fewer (R80). -/
def Dev.loseCopy (d : Dev) (pid port : Nat) : Dev :=
  let p := d.pkt pid
  (d.setPkt pid { p with targets := p.targets.filter (· != port) }).unref pid

/-- Whether an earlier release still has its copy to the port to enqueue: of the same domain, or of any on a host port (R88,
R94). -/
def Dev.behind (d : Dev) (pid port : Nat) (dom : Option Nat) : Bool :=
  let o := (d.rillOf (portSlice port)).order
  o.contains pid && (o.takeWhile (· != pid)).any fun q =>
    (d.pkt q).targets.contains port && (decide (port = 128 ∨ port = 129) || (d.pkt q).domain == dom)

/-- A copy is enqueued (R73, R75, R282, R288). -/
def Dev.enqueue (d : Dev) (pid port : Nat) : Dev :=
  let p := d.pkt pid
  let e := portSlice port
  let q := d.queueOf p port
  let x := d.eq port q
  let (g, mismatch) := d.groupOf p port q
  let g := g.filter fun n => (d.gcfg n).mode ≠ 0
  let c0 := d.copyOf pid p port q g
  let now := d.sincePll
  let (eval, atOnce) := match g with
    | none => (none, true)
    | some n =>
      let r := evalHead (d.gcfg n) (d.grp n) now (c0.grpCharge (d.gcfg n))
      let t := now * 2 ^ 24 % 2 ^ 64
      (some r, (d.grp n).list.isEmpty && notBefore t r.1)
  let cut := d.mayCut p port && x.cells == 0 && atOnce && (p.ended || 1 ≤ p.cells)
  let refuse := fun (d : Dev) (kind : Nat) =>
    let d := if kind = 0 && 128 ≤ port then
        let d := d.count .dma 0 0x1C6
        match d.rxChan port with
        | some c => d.count .dch c 0x1C6
        | none => d
      else d.macCount port kind
    (if p.multi then d.macCount port 1 else d).loseCopy pid port
  if !cut && !p.ended then d
  else if !cut && p.fcs ≠ 0 then (if p.multi then d.macCount port 1 else d).loseCopy pid port
  else if !d.portTakes port then refuse d 0
  else if (d.admOf p.gen 1 port q).2 ≤ x.cells then refuse d 2
  else
    let c := { c0 with cut := cut }
    let d := if mismatch then d.count .egs e 0x133 else d
    let d := d.count .egs e 0x130
    let d := { d with eg := { d.eg with ordNext := d.eg.ordNext + 1 } }
    let d := d.setEq port q { d.eq port q with cells := x.cells + c.cells }
    let d := d.setPkt pid { p with targets := p.targets.filter (· != port) }
    let d := match (if port = 128 ∨ port = 129 then d.rxChan port else none) with
      | some n => d.touchLevel n
      | none => d
    match g, eval with
    | some n, some (el, st) =>
      if atOnce then ((d.setGrp n st).ready c).count .egs e 0x131
      else
        let d := d.count .egs e 0x132
        let y := d.grp n
        if y.list.isEmpty then (d.setGrp n { st with list := [c], headAt := now, eval := some el }).placeHead n
        else d.setGrp n { y with list := y.list ++ [c] }
    | _, _ => (d.ready c).count .egs e 0x131

/-- COPY_ENQUEUE of a packet's copy to a port: once Rill has released it, and the frame is whole or the copy cuts through
(R75, R76). -/
def execCopyEnqueue (pid port : Nat) (s : State) : Host.Outcome State Fault Refusal :=
  nextD s fun d =>
    match Tab.find d.pkts pid with
    | none => d
    | some p =>
      if !p.merged || p.dropped || p.punted || p.annexDue || !p.targets.contains port || !p.released.contains (portSlice port)
          || d.behind pid port p.domain || !d.accepts .egs (portSlice port) then d
      else d.enqueue pid port

/-- HEAD_EVALUATION of a group whose head has not been evaluated: at the time it became head (R288). -/
def execHeadEvaluation (grp : Nat) (s : State) : Host.Outcome State Fault Refusal :=
  nextD s fun d =>
    let x := d.grp grp
    match x.list, x.eval with
    | c :: _, none =>
      let (el, st) := evalHead (d.gcfg grp) x x.headAt (c.grpCharge (d.gcfg grp))
      (d.setGrp grp { st with eval := some el }).placeHead grp
    | _, _ => d

/-- The least of a list of numbers. -/
def leastOf : List Nat → Option Nat
  | [] => none
  | a :: t => match leastOf t with
    | none => some a
    | some b => some (min a b)

/-- The cycle after main PLL lock in which a group's head becomes eligible: the first at or after its E (R285, R286). -/
def GrpState.eligibleAt (x : GrpState) : Nat :=
  match x.eval with
  | none => x.headAt
  | some el => x.headAt + ceilDiv ((el + 2 ^ 64 - x.headAt * 2 ^ 24 % 2 ^ 64) % 2 ^ 64) (2 ^ 24)

/-- The cycle in which a level-0 entry is released: at its tick, and never before its E (R286). -/
def Dev.releaseAt (d : Dev) (w : WheelEnt) : Nat := max (5 * w.due) (d.grp w.grp).eligibleAt

/-- A wheel entry put into the order in which released entries join their ready lists: as they became eligible, and in one cycle in
the order of enqueue (R282). -/
def Dev.wheelInsert (d : Dev) (w : WheelEnt) : List WheelEnt → List WheelEnt
  | [] => [w]
  | v :: rest =>
    let key := fun (z : WheelEnt) => ((d.grp z.grp).eligibleAt, ((d.grp z.grp).list.head?.map (·.ord)).getD 0)
    if (key w).1 < (key v).1 ∨ ((key w).1 = (key v).1 ∧ (key w).2 < (key v).2) then w :: v :: rest else v :: d.wheelInsert w rest

/-- A released entry: its copy joins its ready list, and the group's next copy becomes head. -/
def Dev.wheelRelease (d : Dev) (slice : Nat) (e : WheelEnt) : Dev :=
  let d := if e.due < d.tick then d.count .egs slice 0x134 else d
  let x := d.grp e.grp
  match x.list with
  | [] => d
  | c :: rest => (d.setGrp e.grp { x with list := rest, headAt := d.sincePll, eval := none }).ready c

/-- WHEEL_TICK: when the earliest level-0 entry is due, up to 40 due entries join their ready lists in the order of R282 (R286; log
entry 105). -/
def execWheelTick (slice : Nat) (s : State) : Host.Outcome State Fault Refusal :=
  nextD s fun d =>
    let l := Tab.get [] d.eg.wheel slice
    let low := l.filter fun e => e.level == 0
    match leastOf (low.map d.releaseAt) with
    | none => d
    | some t =>
      let d := d.later (t - d.sincePll)
      let due := ((low.filter fun e => decide (d.releaseAt e ≤ d.sincePll)).foldl (fun q e => d.wheelInsert e q) []).take 40
      let d := d.setWheel slice (l.filter fun e => !due.contains e)
      due.foldl (fun d e => d.wheelRelease slice e) d

/-- The entry of a group re-placed by R285 with the tick and shaper time of re-placement, at `cyc` cycles after main PLL lock: its due
tick is computed again from its E. -/
def Dev.replaced (d : Dev) (e : WheelEnt) (cyc : Nat) : WheelEnt :=
  let w := match (d.grp e.grp).eval with
    | none => e.due
    | some el => cyc / 5 + ceilDiv ((el + 2 ^ 64 - cyc * 2 ^ 24 % 2 ^ 64) % 2 ^ 64) (5 * 2 ^ 24)
  { e with due := w, level := wheelLevel w (cyc / 5) }

/-- WHEEL_REPLACE: at the next level boundary that has entries to re-place; they move at 4 per CLK_CORE cycle (R286). -/
def execWheelReplace (slice : Nat) (s : State) : Host.Outcome State Fault Refusal :=
  nextD s fun d =>
    let l := Tab.get [] d.eg.wheel slice
    let at_ := fun (e : WheelEnt) => if e.level = 1 then (e.due / 2 ^ 12 - 1) * 2 ^ 12 else (e.due / 2 ^ 24 - 1) * 2 ^ 24
    match leastOf ((l.filter fun e => e.level != 0).map at_) with
    | none => d
    | some c =>
      let d := d.later (5 * c - d.sincePll)
      let (moved, rest) := l.partition fun e => e.level != 0 && decide (at_ e ≤ d.tick)
      d.setWheel slice (rest ++ moved.zipIdx.map fun x => d.replaced x.1 (d.sincePll + x.2 / 4))

/-- SHAPER_IDLE_VISIT of a group whose list is empty (R291). -/
def execShaperIdleVisit (grp : Nat) (s : State) : Host.Outcome State Fault Refusal :=
  nextD s fun d =>
    let x := d.grp grp
    if !x.list.isEmpty then d
    else
      let g := d.gcfg grp
      let tat := laterOf d.shaperTime x.tat
      let c := min (g.burst : Int) (x.credit + ((d.boundary : Int) - x.k) * max 1 g.quantum)
      if x.k ≤ d.boundary then d.setGrp grp { x with tat := tat, credit := if g.mode = 2 then c else x.credit, k := d.boundary }
      else d.setGrp grp { x with tat := tat }

/-! ### Port scheduling -/

/-- Whether tag `a` is before `b`, of 48 bits (R292). -/
def tagBefore (a b : Nat) : Bool := decide (2 ^ 47 ≤ (a + 2 ^ 48 - b) % 2 ^ 48)

/-- The Level of a backlogged queue: that of its head copy (R47, R292; DEDUCED, log entry 112). -/
def EgQueue.level (x : EgQueue) : Nat := (x.ready.head?.map (·.level)).getD 0

/-- The queue an Ethernet port serves next: the highest backlogged level, then the least start tag, then the lowest number. -/
def Dev.nextQueue (d : Dev) (port : Nat) : Option Nat :=
  let qs := (List.range 16).filter fun q => !(d.eq port q).ready.isEmpty && !(d.eq port q).paused
  qs.foldl (fun (b : Option Nat) q => match b with
    | none => some q
    | some r =>
      let lq := (d.eq port q).level
      let lr := (d.eq port r).level
      if lr < lq || (lr == lq && tagBefore (d.eq port q).start (d.eq port r).start) then some q else b) none

/-- The head copy of an Ethernet queue is taken, its level's virtual time and its own tags moved on (R292). -/
def Dev.takeCopy (d : Dev) (port q : Nat) : Option (Copy × Dev) :=
  let x := d.eq port q
  match x.ready with
  | [] => none
  | c :: rest =>
    let fin := (x.start + c.charge * (65536 / max 1 c.weight)) % 2 ^ 48
    let d := { d with eg := { d.eg with vtime := Tab.put 0 d.eg.vtime (port * 8 + c.level) x.start } }
    some (c, d.setEq port q { x with ready := rest, cells := x.cells - c.cells, finish := fin,
                                     start := if rest.isEmpty then x.start else fin })

/-- The head copy of a host or recirculation port, in order of enqueue over its queues (R283). -/
def Dev.takeFifo (d : Dev) (port : Nat) : Option (Copy × Dev) :=
  let heads := (List.range 16).filterMap fun q => (d.eq port q).ready.head?
  match leastOf (heads.map (·.ord)) with
  | none => none
  | some o =>
    match heads.find? fun c => c.ord == o with
    | none => none
    | some c =>
      let x := d.eq port c.queue
      some (c, d.setEq port c.queue { x with ready := x.ready.drop 1, cells := x.cells - c.cells })

/-- An Ethernet port starts transmitting a copy (R292): the egress stamp is taken on the lane that carries its first bit, and
PTP fields are written from it (R360, R367, R368). -/
def Dev.startTx (d : Dev) (port lane : Nat) : Dev :=
  match (d.nextQueue port).bind (d.takeCopy port) with
  | none => d
  | some (c, d) =>
    let p := d.pkt c.pid
    let stamp := dtWrap (d.dt + Tab.get 0 d.tim.tx lane * 2 ^ 32)
    let (f, wrote) := d.ptpWrite p port stamp p.outB
    let d := if wrote then d.count .tim 0 0x163 else d
    let d := d.ptpEvent p port stamp f
    d.setPort port { d.port port with tx := some c, txB := f }

/-- A host port takes a copy for its receive channel (R434): the frame, its stamp, InPort and classes. -/
def Dev.takeHost (d : Dev) (port : Nat) : Dev :=
  match d.takeFifo port with
  | none => d
  | some (c, d) =>
    let p := d.pkt c.pid
    let (st, ptp) := d.hostStamp p
    let h : HostCopy :=
      { pid := c.pid, queue := c.queue, bytes := p.outB, stamp := st,
        info := p.port + 2 ^ 8 * p.parsed.cls + 2 ^ 12 * p.cls + 2 ^ 15 * b2n ptp }
    let rx := Tab.get [] d.dma.hostRx port
    let d := { d with dma := { d.dma with hostRx := Tab.put [] d.dma.hostRx port (rx ++ [h]) } }
    d.bwTx port c.len

/-- A recirculation port takes a copy, which waits to enter its slice again (R15). -/
def Dev.takeRecirc (d : Dev) (port : Nat) : Dev :=
  match d.takeFifo port with
  | none => d
  | some (c, d) =>
    let s := port - 130
    let l := Tab.get [] d.eg.recirc s
    let d := { d with eg := { d.eg with recirc := Tab.put [] d.eg.recirc s (l ++ [(d.pkt c.pid).outB]) } }
    (d.bwTx port c.len).unref c.pid

/-- A transmission ends: the frame goes out, stomped where its source proved bad (R78), and the copy's reference falls. -/
def Dev.endTx (d : Dev) (port : Nat) (cutOff : Bool) : Dev :=
  let x := d.port port
  match x.tx with
  | none => d
  | some c =>
    let p := d.pkt c.pid
    let stomp := cutOff || (c.cut && (p.fcs != 0 || p.trunc || !p.ended))
    let f := if p.trunc || cutOff then x.txB.take (min (256 * p.cells) 10236) else x.txB
    let d := if stomp then d.macCount port 6 else d
    let d := (d.emit (.frame port f stomp)).bwTx port (f.length + 4)
    (d.setPort port { x with tx := none, txB := [] }).unref c.pid

/-- Copies of a packet in transmission end stomped, and it is dropped with the copies not begun (R495, BSN detector 0). -/
def Dev.stompPkt (d : Dev) (pid : Nat) : Dev :=
  let ports := (List.range 128).filter fun p => match (d.port p).tx with
    | some c => c.pid == pid
    | none => false
  (ports.foldl (fun d p => d.endTx p true) d).cutPkt pid true

/-- The cells of a packet are read: `true` where no armed injection of BSN detector 0 makes the read uncorrectable (R57, R495). -/
def Dev.cellRead (d : Dev) (pid : Nat) : Dev × Bool := d.protect .bsn 0 0 ((d.cellsOf pid).headD 0)

/-- The first cell of a copy is read as an Ethernet port starts it: a copy with an uncorrectable one is stomped. -/
def Dev.firstCell (d : Dev) (port : Nat) : Dev :=
  match (d.port port).tx with
  | none => d
  | some c => match d.cellRead c.pid with
    | (d, true) => d
    | (d, false) => d.stompPkt c.pid

/-- A host or recirculation port takes the copy at its head, if its cells can be read. -/
def Dev.takeWhole (d : Dev) (port : Nat) : Dev :=
  match d.takeFifo port with
  | none => d
  | some (c, _) => match d.cellRead c.pid with
    | (d, true) => if port < 130 then d.takeHost port else d.takeRecirc port
    | (d, false) => d.stompPkt c.pid

/-- PORT_SELECT: a port with room takes its next copy; `lane` is the lane that carries its first bit. -/
def execPortSelect (port lane : Nat) (s : State) : Host.Outcome State Fault Refusal :=
  nextD s fun d =>
    if !d.pathMoves then d
    else if port < 128 then
      let x := d.port port
      if x.state ≠ 2 || !x.link || x.tx.isSome || lane < port || port + (d.portMode port).1 ≤ lane then d
      else (d.startTx port lane).firstCell port
    else if port < 138 then d.takeWhole port
    else d

/-- COPY_TX_END: the last cell of the copy in transmission has been read (R80). While an Ethernet port's link is down its transmitter
sends nothing, and a transmission begun stands still (R83; log entry 38). -/
def execCopyTxEnd (port : Nat) (s : State) : Host.Outcome State Fault Refusal :=
  nextD s fun d =>
    match (d.port port).tx with
    | none => d
    | some c =>
      let p := d.pkt c.pid
      if (p.ended || p.trunc || p.dropped) && (decide (128 ≤ port) || (d.port port).link) then
        match d.cellRead c.pid with
        | (d, true) => d.endTx port false
        | (d, false) => d.stompPkt c.pid
      else d

/-! ### Pauses -/

/-- The pause of a queue is set, or ended. -/
def Dev.setPause (d : Dev) (port q : Nat) (till : Option Nat) : Dev :=
  let x := d.eq port q
  let wakes := x.paused && till.isNone && !x.ready.isEmpty
  let start := if wakes then d.vtime port x.level else x.start
  let d := d.setEq port q { x with pauseTo := till, start := start }
  let e := portSlice port
  let i := portIdx port
  let w := d.get EGS.PAUSE_STAT.Paused e i
  d.set EGS.PAUSE_STAT.Paused (putBits w q 1 (b2n till.isSome)) e i

/-- A pause quantum of 512 bit times at the port's speed, in CLK_CORE cycles of `n` quanta, rounded up. -/
def Dev.pauseCycles (d : Dev) (port n : Nat) : Nat := ceilDiv (n * 512 * 5) (4 * max 1 (d.speed port))

/-- PAUSE_RECEIVE: a PAUSE frame with time `times[0]`, or a PFC frame with its enable bits and eight times, in quanta (R293). -/
def execPauseReceive (port : Nat) (pfc : Bool) (enables : Nat) (times : List Nat) (s : State) :
    Host.Outcome State Fault Refusal :=
  nextD s fun d =>
    if !d.inUse port || (d.port port).state ≠ 2 then d
    else
      let e := portSlice port
      let i := portIdx port
      let on := if pfc then d.cfg EGS.PORT_CFG.PfcEn e i else d.cfg EGS.PORT_CFG.PauseEn e i
      if on = 0 then d
      else
        let till := fun (d : Dev) (n : Nat) => if n = 0 then none else some (d.cyc + d.pauseCycles port n)
        let d := d.count .egs e 0x135
        if !pfc then (List.range 16).foldl (fun d q => d.setPause port q (till d (times.headD 0))) d
        else (List.range 8).foldl (fun d p =>
          if !bit enables p then d
          else
            let m := d.cfg EGS.PFC_MAP.Queues e p
            (List.range 16).foldl (fun d q => if bit m q then d.setPause port q (till d (times.getD p 0)) else d) d) d

/-- PAUSE_EXPIRE: the earliest pause time of a port runs out. -/
def execPauseExpire (port : Nat) (s : State) : Host.Outcome State Fault Refusal :=
  nextD s fun d =>
    match leastOf ((List.range 16).filterMap fun q => (d.eq port q).pauseTo) with
    | none => d
    | some t =>
      let d := d.until t
      (List.range 16).foldl (fun d q => match (d.eq port q).pauseTo with
        | some u => if u ≤ d.cyc then d.setPause port q none else d
        | none => d) d

/-! ### Configuration commands (R300) -/

/-- COMMIT_MASK bit of EGS and its staging capacity per instance. -/
def egsBit : Nat := 7
def egsCap : Nat := 8192

/-- The port of a slice's port index (R63, R280), where the slice has it. -/
def portOfIdx (s i : Nat) : Option Nat :=
  if i < 16 then some (16 * s + i) else if i = 17 then some (130 + s)
  else if i = 16 ∧ s = 0 then some 128 else if i = 16 ∧ s = 4 then some 129 else none

/-- CMD_STAT after a QCMD or GRP_CMD write: 0 accepted, else the reason. -/
def Dev.egsStat (d : Dev) (slice reason : Nat) : Dev :=
  if reason = 0 then d.set EGS.CMD_STAT.Refused 0 slice
  else (d.set EGS.CMD_STAT.Refused 1 slice).set EGS.CMD_STAT.Reason reason slice

/-- A staged EGS write, or its refusal. -/
def Dev.egsStage (d : Dev) (slice : Nat) (w : StgWrite) : Dev :=
  match d.stage egsBit slice 1 egsCap w with
  | some d => d.egsStat slice 0
  | none => (d.egsStat slice 1).overflows egsBit

def execEgsQcmdStage (fn slice : Nat) (s : State) : Host.Outcome State Fault Refusal :=
  nextD s fun d => d.gate fn .egs slice 0x2A8 fun d =>
    match portOfIdx slice (d.get EGS.QSEL.Port slice) with
    | none => d.egsStat slice 2
    | some p =>
      let v : QCfg :=
        { level := d.get EGS.QCFG.Level slice, weight := d.get EGS.QCFG.Weight slice,
          defGroup := d.get EGS.QCFG.DefGroup slice, defValid := d.flag EGS.QCFG.DefValid slice }
      d.egsStage slice (.queue (p * 16 + d.get EGS.QSEL.Queue slice) v)

def execEgsQcmdLoad (fn slice : Nat) (s : State) : Host.Outcome State Fault Refusal :=
  nextD s fun d => d.gate fn .egs slice 0x2A8 fun d =>
    match portOfIdx slice (d.get EGS.QSEL.Port slice) with
    | none => d.egsStat slice 2
    | some p =>
      let v := d.qcfg p (d.get EGS.QSEL.Queue slice)
      let d := (d.set EGS.QCFG.Level v.level slice).set EGS.QCFG.Weight v.weight slice
      ((d.set EGS.QCFG.DefGroup v.defGroup slice).set EGS.QCFG.DefValid (b2n v.defValid) slice).egsStat slice 0

/-- The group that GRP_SEL names. -/
def Dev.selGroup (d : Dev) (slice : Nat) : Nat := slice * 32768 + d.get EGS.GRP_SEL.Group slice

def execEgsGrpStage (fn slice : Nat) (s : State) : Host.Outcome State Fault Refusal :=
  nextD s fun d => d.gate fn .egs slice 0x2F8 fun d =>
    if d.get EGS.GRP_CFG.Mode slice = 3 then d.egsStat slice 2
    else
      let v : GrpCfg :=
        { mode := d.get EGS.GRP_CFG.Mode slice, packets := d.flag EGS.GRP_CFG.Account slice,
          overhead := d.get EGS.GRP_CFG.Overhead slice, cost := d.get EGS.GRP_COST.Cost slice,
          burst := d.get EGS.GRP_BURST.Burst slice, quantum := d.get EGS.GRP_QUANTUM.Quantum slice }
      d.egsStage slice (.group (d.selGroup slice) v)

def execEgsGrpLoad (fn slice : Nat) (s : State) : Host.Outcome State Fault Refusal :=
  nextD s fun d => d.gate fn .egs slice 0x2F8 fun d =>
    let v := d.gcfg (d.selGroup slice)
    let d := (d.set EGS.GRP_CFG.Mode v.mode slice).set EGS.GRP_CFG.Account (b2n v.packets) slice
    let d := (d.set EGS.GRP_CFG.Overhead v.overhead slice).set EGS.GRP_COST.Cost v.cost slice
    ((d.set EGS.GRP_BURST.Burst v.burst slice).set EGS.GRP_QUANTUM.Quantum v.quantum slice).egsStat slice 0

/-- GRP_CMD bit 2: the state into GRP_STATE and GRP_DEPTH. -/
def execEgsGrpState (fn slice : Nat) (s : State) : Host.Outcome State Fault Refusal :=
  nextD s fun d => d.gate fn .egs slice 0x2F8 fun d =>
    let g := d.selGroup slice
    let x := d.grp g
    let v := if (d.gcfg g).mode = 2 then uint 32 x.credit else x.tat
    ((d.set EGS.GRP_STATE.State v slice).set EGS.GRP_DEPTH.Waiting x.list.length slice).egsStat slice 0

end Sys2Proof.Machine
end

