-- ==== Sys2Proof/Machine/Port.lean ====
section
/-! DEFINITION. Port states (R82 to R84): Enable, link changes, DownHold, Dusk and its flush. -/

namespace Sys2Proof.Machine

/-- A port changes state: its MAC event bit is set and the change is posted (R82, R467). -/
def Dev.changePort (d : Dev) (port new : Nat) : Dev :=
  let x := d.port port
  let d := d.setPort port { x with state := new }
  let d := d.event .mac (port / 8) (port % 8)
  d.postSys .mac (port / 8) 1 [port + 2 ^ 8 * x.state + 2 ^ 10 * new + 2 ^ 12 * b2n x.link]

/-- A Down port whose link is up goes to Up in the next cycle (R82). -/
def Dev.riseUp (d : Dev) (port : Nat) : Dev :=
  if (d.port port).state = 1 ∧ (d.port port).link then (d.later 1).changePort port 2 else d

/-- Frames that a port has received in part end here, dropped and bad (R78, R84). -/
def Dev.cutIngress (d : Dev) (port : Nat) : Dev :=
  (d.pkts.filter fun e => e.2.port == port && !e.2.ended && decide (port < 128)).foldl (fun d e =>
    (d.setPkt e.1 { d.pkt e.1 with ended := true, fcs := 1, trunc := true, due := 0 }).cutPkt e.1 (d.pkt e.1).merged) d

/-- Copies of a port that wait in its queues and in groups. -/
def Dev.portCopies (d : Dev) (port : Nat) : List Copy :=
  ((List.range 16).flatMap fun q => (d.eq port q).ready) ++ (d.eg.grps.flatMap fun g => g.2.list.filter fun c => c.port == port)

/-- A port enters Dusk (R84): it stops receiving, ends its transmission at once, stomped if it cuts through, and begins the flush
of its queues. A store-and-forward copy in transmission ends without a stomp; it was taken from its queue and partly sent, so it counts under
no kind of R99 (DESIGN CHOICE, log entry 106). -/
def Dev.enterDusk (d : Dev) (port : Nat) : Dev :=
  let d := d.cutIngress port
  let d := match (d.port port).tx with
    | none => d
    | some c =>
      if c.cut then d.endTx port true
      else (d.setPort port { d.port port with tx := none, txB := [] }).unref c.pid
  let left := ((d.portCopies port).map (·.cells)).foldl (· + ·) 0
  let d := d.setPort port { d.port port with holdTo := none, flushLeft := left }
  (d.macCount port 4).changePort port 3

/-- The flush removes every copy of a port from its queues and groups (R84, R294). -/
def Dev.flushPort (d : Dev) (port : Nat) : Dev :=
  let cs := d.portCopies port
  let cells : Nat := (cs.map (·.cells)).foldl (· + ·) 0
  let d := d.dropCopies (·.port == port)
  let d := (List.range 16).foldl (fun d q =>
    d.setEq port q { d.eq port q with ready := [], cells := 0, start := 0, finish := 0 }) d
  let d := if cells = 0 then d else d.macCount port 3 cells
  cs.foldl (fun d c =>
    let d := if (d.pkt c.pid).multi then d.macCount port 1 else d
    d.unref c.pid) d

/-- Dawn ends at the first write of Enable = 1 to a port (R506). -/
def Dev.dawnDone (d : Dev) : Dev := if d.get BOOT.STAT.Stage = 7 then d.set BOOT.STAT.Stage 8 else d

/-- PORT_CTL_WRITE of port `mac` × 8 + `i` (R82, R83, R509). -/
def execPortCtlWrite (fn mac i data : Nat) (s : State) : Host.Outcome State Fault Refusal :=
  nextD s fun d => d.gate fn .mac mac (0x200 + 8 * i) fun d =>
    let port := 8 * mac + i
    let on := data % 2 = 1
    let lanes := (d.portMode port).1
    let failed := (List.range lanes).any fun k => bit (d.get BOOT.LANE_FAIL.Lanes 0 ((port + k) / 32)) ((port + k) % 32)
    if 8 ≤ i ∨ (on ∧ failed) then d.miss
    else
      let d := if on then d.dawnDone else d
      let d := (d.set MAC.PORT_CTL.Enable (data % 2) mac i).set MAC.PORT_CTL.DownHold (bits data 1 10) mac i
      let x := d.port port
      if lanes = 0 then d
      else if on then if x.state = 0 then (d.changePort port 1).riseUp port else d
      else if x.state = 1 ∨ x.state = 2 then d.enterDusk port
      else d

/-- LINK_DOWN: the PCS reports loss of lock or a fault (R83). -/
def execLinkDown (port : Nat) (s : State) : Host.Outcome State Fault Refusal :=
  nextD s fun d =>
    let x := d.port port
    if !d.inUse port || !x.link then d
    else
      let hold := if x.state = 2 then some (d.cyc + nsCyc (1000 * d.get MAC.PORT_CTL.DownHold (port / 8) (port % 8))) else none
      (d.setPort port { x with link := false, holdTo := hold }).cutIngress port

/-- LINK_UP: the lanes have trained and the link comes up (R82, R83). A reset holds the PCS out of lock until the flush is
complete. A hold that has run out by now has put the port into Dusk first. -/
def execLinkUp (port : Nat) (s : State) : Host.Outcome State Fault Refusal :=
  nextD s fun d =>
    let x := d.port port
    if !d.inUse port || x.link || x.held then d
    else
      let expired := match x.holdTo with
        | some t => x.state == 2 && decide (t ≤ d.cyc)
        | none => false
      let d := if expired then d.enterDusk port else d
      let d := d.setPort port { d.port port with link := true, holdTo := none }
      if x.state = 1 then d.riseUp port
      else if x.state = 2 ∧ x.holdTo.isSome ∧ !expired then d.macCount port 5
      else d

/-- DOWNHOLD_EXPIRE: the hold of a port runs out with its link still down (R82). -/
def execDownholdExpire (port : Nat) (s : State) : Host.Outcome State Fault Refusal :=
  nextD s fun d =>
    let x := d.port port
    match x.holdTo with
    | none => d
    | some t => if x.state = 2 ∧ !x.link then (d.until t).enterDusk port else d

/-- DUSK_FLUSH_DONE (R82, R84). -/
def execDuskFlushDone (port : Nat) (s : State) : Host.Outcome State Fault Refusal :=
  nextD s fun d =>
    if 128 ≤ port || (d.port port).state ≠ 3 then d
    else
      let d := d.flushPort port
      let x := d.port port
      let d := d.setPort port { x with flushLeft := 0, held := false }
      let on := d.flag MAC.PORT_CTL.Enable (port / 8) (port % 8)
      d.changePort port (if !on then 0 else if x.link then 2 else 1)

end Sys2Proof.Machine
end

