-- ==== Sys2Proof/Machine/Basin.lean ====
section
/-! DEFINITION. The commands of Basin, admission and the aggregate meters (R74, R79, R297, R301), and the end of an admission
recount (R495). -/

namespace Sys2Proof.Machine

/-! ### Multicast groups (R79) -/

def execMcgCmdWrite (fn : Nat) (s : State) : Host.Outcome State Fault Refusal :=
  nextD s fun d => d.gate fn .bsn 0 0x218 fun d =>
    let v := d.get BSN.MCG_DATA0.Ports 0 0 + 2 ^ 32 * d.get BSN.MCG_DATA0.Ports 0 1 + 2 ^ 64 * d.get BSN.MCG_DATA0.Ports 0 2 +
      2 ^ 96 * d.get BSN.MCG_DATA0.Ports 0 3 + 2 ^ 128 * d.get BSN.MCG_DATA4.PortsHi + 2 ^ 138 * d.get BSN.MCG_DATA4.Hairpin
    { d with bsn := { d.bsn with mcast := Tab.put 0 d.bsn.mcast (d.get BSN.MCG_SEL.Group) v } }

def execMcgCmdRead (fn : Nat) (s : State) : Host.Outcome State Fault Refusal :=
  nextD s fun d => d.gate fn .bsn 0 0x218 fun d =>
    let v := Tab.get 0 d.bsn.mcast (d.get BSN.MCG_SEL.Group)
    let d := (List.range 4).foldl (fun d j => d.set BSN.MCG_DATA0.Ports (bits v (32 * j) 32) 0 j) d
    (d.set BSN.MCG_DATA4.PortsHi (bits v 128 10)).set BSN.MCG_DATA4.Hairpin (bits v 138 1)

/-! ### Admission limits (R74) -/

/-- COMMIT_MASK bit of ADM and its staging capacity. -/
def admBit : Nat := 1
def admCap : Nat := 2048

/-- The entry that SEL names: its key, or none where SEL is out of range. -/
def Dev.admSel (d : Dev) : Option Nat :=
  let k := d.get ADM.SEL.Kind
  let p := d.get ADM.SEL.Port
  let i := d.get ADM.SEL.Index
  if 137 < p ∨ (k = 0 ∧ 7 < i) then none else some (k * 4096 + p * 16 + i)

/-- A refused ADM write. -/
def Dev.admRefuse (d : Dev) (reason : Nat) : Dev := (d.set ADM.STAT.Refused 1).set ADM.STAT.Reason reason

def execAdmCmdWrite (fn : Nat) (s : State) : Host.Outcome State Fault Refusal :=
  nextD s fun d => d.gate fn .adm 0 0x20C fun d =>
    match d.admSel with
    | none => d.admRefuse 1
    | some k => match d.stage admBit 0 1 admCap (.limit k (d.get ADM.GUAR.Guarantee) (d.get ADM.LIMIT.Limit)) with
      | some d => d
      | none => (d.admRefuse 2).overflows admBit

def execAdmCmdRead (fn : Nat) (s : State) : Host.Outcome State Fault Refusal :=
  nextD s fun d => d.gate fn .adm 0 0x20C fun d =>
    match d.admSel with
    | none => d.admRefuse 1
    | some k =>
      let v := Tab.get (0, 0) d.bsn.lim k
      (d.set ADM.GUAR.Guarantee v.1).set ADM.LIMIT.Limit v.2

/-- ADM_RECOUNT_DONE: Used and SharedUsed have been recounted from the link entries, and normal admission returns (R495). The
recount gives each port and class its stored cells, and takes every cell above a guarantee as shared. -/
def execAdmRecountDone (s : State) : Host.Outcome State Fault Refusal :=
  nextD s fun d =>
    if !d.bsn.reserveOnly then d
    else
      let used := d.bsn.links.foldl (fun (t : Tab Nat) (e : Nat × Link) =>
        let k := e.2.port * 16 + e.2.cls
        Tab.put 0 t k (Tab.get 0 t k + 1)) []
      let shared := (used.map fun u => u.2 - (Tab.get (0, 0) d.bsn.lim u.1).1).foldl (· + ·) 0
      { d with bsn := { d.bsn with used := used, shared := shared, reserveOnly := false } }

/-! ### Aggregate meters (R297, R301) -/

/-- COMMIT_MASK bit of MTR and its staging capacity. -/
def mtrBit : Nat := 8
def mtrCap : Nat := 4096

/-- The CFG register as a word. -/
def Dev.mtrWord (d : Dev) : Nat :=
  d.get MTR.CFG.Adj + 2 ^ 8 * d.get MTR.CFG.ColourAware + 2 ^ 9 * d.get MTR.CFG.GreenAct + 2 ^ 11 * d.get MTR.CFG.YellowAct +
    2 ^ 13 * d.get MTR.CFG.RedAct + 2 ^ 15 * d.get MTR.CFG.YellowDscp + 2 ^ 21 * d.get MTR.CFG.RedDscp +
    2 ^ 31 * d.get MTR.CFG.Valid

def execMtrStage (fn : Nat) (s : State) : Host.Outcome State Fault Refusal :=
  nextD s fun d => d.gate fn .mtr 0 0x218 fun d =>
    let v : MtrCfg := ⟨d.get MTR.CIR.Cir, d.get MTR.PIR.Pir, d.get MTR.CBS.Cbs, d.get MTR.PBS.Pbs, d.mtrWord⟩
    match d.stage mtrBit 0 1 mtrCap (.meter (d.get MTR.SEL.Meter) v) with
    | some d => d
    | none => (d.set MTR.STAT.Refused 1).overflows mtrBit

def execMtrLoad (fn : Nat) (s : State) : Host.Outcome State Fault Refusal :=
  nextD s fun d => d.gate fn .mtr 0 0x218 fun d =>
    let v : MtrCfg := Tab.get {} d.mtr.cfg (d.get MTR.SEL.Meter)
    let d := ((d.set MTR.CIR.Cir v.cir).set MTR.PIR.Pir v.pir).set MTR.CBS.Cbs v.cbs
    let d := ((d.set MTR.PBS.Pbs v.pbs).set MTR.CFG.Adj (bits v.cfg 0 8)).set MTR.CFG.ColourAware (bits v.cfg 8 1)
    let d := ((d.set MTR.CFG.GreenAct (bits v.cfg 9 2)).set MTR.CFG.YellowAct (bits v.cfg 11 2)).set MTR.CFG.RedAct (bits v.cfg 13 2)
    ((d.set MTR.CFG.YellowDscp (bits v.cfg 15 6)).set MTR.CFG.RedDscp (bits v.cfg 21 6)).set MTR.CFG.Valid (bits v.cfg 31 1)

/-- A zero-length refill of a meter (R297). -/
def meterRefill (c : MtrCfg) (x : MtrState) (now : Nat) : MtrState :=
  let e := (now + 2 ^ 32 - x.time) % 2 ^ 32
  let t := x.time
  { x with
    time := now
    tokC := min c.cbs (x.tokC + (t + e) * c.cir / 65536 - t * c.cir / 65536)
    tokP := min c.pbs (x.tokP + (t + e) * c.pir / 65536 - t * c.pir / 65536) }

/-- CMD bit 2, with bit 3 for `clear`: tokens and counts loaded. -/
def execMtrStateLoad (fn : Nat) (clear : Bool) (s : State) : Host.Outcome State Fault Refusal :=
  nextD s fun d => d.gate fn .mtr 0 0x218 fun d =>
    let m := d.get MTR.SEL.Meter
    let x := d.meter m
    let d := (d.set MTR.TOKENS_C.TokensC x.tokC).set MTR.TOKENS_P.TokensP x.tokP
    let d := ((d.set MTR.GREEN.Green x.green).set MTR.YELLOW.Yellow x.yellow).set MTR.RED.Red x.red
    if clear then d.setMeter m { x with green := 0, yellow := 0, red := 0 } else d

/-- MTR_REFILL: every meter is refilled (R297); one that nothing has configured holds no tokens, and moves on to the present meter
clock. -/
def execMtrRefill (s : State) : Host.Outcome State Fault Refusal :=
  nextD s fun d =>
    let known := (d.mtr.cfg.map (·.1) ++ d.mtr.st.map (·.1)).eraseDups
    let st := known.foldl (fun (t : Tab MtrState) m => Tab.set t m (meterRefill (Tab.get {} d.mtr.cfg m) (d.meter m) d.mclk)) d.mtr.st
    { d with mtr := { d.mtr with st := st, refilled := d.mclk } }

end Sys2Proof.Machine
end

