-- ==== Sys2Proof/Machine/Evq.lean ====
section
/-! DEFINITION. The commands of the event queues (R453 to R466): posts and their completion, voiding, notices, reading, releases,
queue memory and the scrubber. -/

namespace Sys2Proof.Machine

/-- An event of a queue is counted in its page and in the control page (R471). -/
def Dev.countQ (d : Dev) (q code : Nat) (n : Nat := 1) : Dev := (d.count .evp q code n).count .evq 0 code n

/-- EVENT_POST: the instance whose first page is `page` reserves a packet (R456 to R458). A DMA channel requires its owner to own
the queue (R433). -/
def execEventPost (page typ queue items : Nat) (s : State) : Host.Outcome State Fault Refusal :=
  nextD s fun d =>
    match pageBlk page with
    | none => d
    | some (b, i) =>
      if items = 0 ∨ 8 < items ∨ 512 ≤ queue then d
      else (d.reserve b i (typ % 16) queue items (if b = .dch then some (d.get (HDR.OWNER.Function .dch) i) else none)).1

/-- POST_COMPLETE: the writer has written the payload and writes the header (R456). -/
def execPostComplete (queue seq : Nat) (payload : List Nat) (s : State) : Host.Outcome State Fault Refusal :=
  nextD s fun d => d.complete queue seq (payload.map (· % 2 ^ 64))

/-- EVQ completes a packet itself, with Void set, and posts a notice (R460), in the turn of a void (R459). -/
def Dev.voidPkt (d : Dev) (q : Nat) (p : EvPkt) : Dev :=
  let d := d.queueTurn q 2
  let d := (d.complete q p.seq [] true).set EVP.STALE.Seq p.seq q
  let d := ((d.bump EVP.STALE.Count 1 q).event .evp q 2).countQ q 0x1E4
  d.postSys .evq 0 1 [q + 2 ^ 16 * p.seq + 2 ^ 32 * p.src + 2 ^ 40 * p.typ]

/-- Open reservations of the writers that `f` names are voided at their reset (R460). -/
def Dev.voidWriters (d : Dev) (f : Nat → Bool) : Dev :=
  let open_ := d.evq.queues.flatMap fun (e : Nat × EvQueue) => (e.2.pkts.filter fun p => !p.complete && f p.writer).map fun p => (e.1, p)
  open_.foldl (fun d (e : Nat × EvPkt) => d.voidPkt e.1 e.2) d

/-- STALE_VOID: the oldest open reservation of a queue reaches StaleUs (R460). -/
def execStaleVoid (queue : Nat) (s : State) : Host.Outcome State Fault Refusal :=
  nextD s fun d =>
    match (d.queue queue).pkts.find? fun p => !p.complete with
    | none => d
    | some p => (d.until (p.at0 + nsCyc (1000 * max 1 (d.get EVQ.CFG.StaleUs)))).voidPkt queue p

/-- NOTIFY_TIMEOUT: the oldest complete packet has been held for NotifyUs (R465). -/
def execNotifyTimeout (queue : Nat) (s : State) : Host.Outcome State Fault Refusal :=
  nextD s fun d =>
    let us := d.get EVP.CFG.NotifyUs queue
    match (d.queue queue).complete.head? with
    | none => d
    | some p => if us = 0 then d else (d.until (p.at1 + nsCyc (1000 * us))).event .evp queue 0

/-- The header word of a packet (R455); a poisoned one may have lost its Source, Type and PostTime, which then are 0. -/
def EvPkt.header (p : EvPkt) : Nat :=
  p.items + 2 ^ 4 * p.typ + 2 ^ 8 * p.src + 2 ^ 16 * b2n p.lost + 2 ^ 17 * b2n p.poisoned + 2 ^ 18 * b2n p.void +
    2 ^ 32 * p.seq + 2 ^ 48 * p.postTime

/-- A word of a packet, 0 the header, is found uncorrectable (R470 detector 0). -/
def EvPkt.poison (p : EvPkt) (k : Nat) : EvPkt :=
  if k = 0 then { p with poisoned := true, src := 0, typ := 0, postTime := 0 }
  else { p with poisoned := true, payload := p.payload.set (k - 1) (2 ^ 64 - 1) }

/-- Queue memory is read with an error: 1 corrected, 2 uncorrectable, in word `word` of the packet with index `idx` (R454,
R470). -/
def Dev.queueError (d : Dev) (q idx word outcome : Nat) (injected : Bool) : Dev :=
  match outcome with
  | 1 => ((d.bump EVP.CORR.Count 1 q).countQ q 0x1E7).report .evp q 0 word false injected
  | 2 =>
    let x := d.queue q
    match x.pkts[idx]? with
    | none => d.report .evp q 0 word true injected
    | some p =>
      let pkts := if p.complete then x.pkts.set idx (p.poison word) else x.pkts
      ((d.setQueue q { x with pkts := pkts }).report .evp q 0 word true injected).event .evp q 4
  | _ => d

/-- An access to queue memory at a word of a packet, which an armed detector 0 corrupts (R57). -/
def Dev.queueAccess (d : Dev) (q idx word outcome : Nat) : Dev :=
  let (d, o) := d.inject .evp q 0
  d.queueError q idx word (max outcome o) (o != 0)

/-- A read of the lower word of ITEM[0] latches the packet at the read pointer for the function (R461). -/
def Dev.latchItem (d : Dev) (fn queue : Nat) : Dev × Nat :=
  let d := if (d.queue queue).held.isEmpty then d else d.queueAccess queue 0 0 0
  let x := d.queue queue
  match x.held.head? with
  | none => (d.setQueue queue { x with latch := Tab.del x.latch fn }, 0)
  | some p => (d.setQueue queue { x with latch := Tab.set x.latch fn (p.header :: p.payload) }, p.header)

/-- ITEM0_READ: a read of the lower word of ITEM[0], of 4 or 8 bytes (R461). -/
def execItem0Read (fn queue len : Nat) (s : State) : Host.Outcome State Fault Refusal :=
  nextD s fun d => d.readOwn fn .evp queue 0x300 len fun d => d.latchItem fn queue

/-- A doorbell write of a queue releases the packets up to a Seq (R462). -/
def Dev.evqBell (d : Dev) (fn window queue seq : Nat) : Dev :=
  d.doorbell fn window .evp queue (0x400 + 4 * queue) fun d =>
  let d := d.queueTurn queue 0
  let x := d.queue queue
  match x.held.findIdx? fun p => p.seq == seq % 65536 with
  | none => d.countQ queue 0x1E5
  | some k => d.setQueue queue { x with pkts := x.pkts.drop (k + 1) }

/-- EVQ_DOORBELL: a release of the packets up to a Seq, through window `window` of BAR2 (R33, R462). -/
def execEvqDoorbell (fn window queue seq : Nat) (s : State) : Host.Outcome State Fault Refusal :=
  nextD s fun d => (d.request fn).evqBell fn window queue seq

/-- Whether a queue qualifies for NEXT of a function (R463). -/
def Dev.qualifies (d : Dev) (owner q : Nat) : Bool :=
  d.get (HDR.OWNER.Function .evp) q == owner && d.flag EVP.CFG.Enable q && !(d.queue q).complete.isEmpty

/-- What NEXT answers in the page of a queue (R463). -/
def Dev.nextEvq (d : Dev) (queue : Nat) : Dev × Nat :=
    let o := d.get (HDR.OWNER.Function .evp) queue
    let last := Tab.get 511 d.evq.rr o
    let order := (List.range 512).map fun i => (last + 1 + i) % 512
    let pick := order.foldl (fun (b : Option Nat) q =>
      if !d.qualifies o q then b
      else match b with
        | none => some q
        | some c => if d.get EVP.CFG.Prio c < d.get EVP.CFG.Prio q then some q else b) none
    match pick with
    | none => (d, 0)
    | some q => ({ d with evq := { d.evq with rr := Tab.put 511 d.evq.rr o q } }, q + 2 ^ 15)

/-- NEXT_READ in the page of a queue (R463). -/
def execNextRead (fn queue : Nat) (s : State) : Host.Outcome State Fault Refusal :=
  nextD s fun d => d.readOwn fn .evp queue 0x224 4 fun d => d.nextEvq queue

/-- Every complete packet of a queue is discarded, not as Lost (R464). -/
def Dev.dropRemainder (d : Dev) (q : Nat) : Dev :=
  let x := d.queue q
  let n := x.complete.length
  (d.setQueue q { x with pkts := x.pkts.filter fun p => !p.complete }).countQ q 0x1E6 n

/-- DROP_REMAINDER: a write of QCMD (R464). -/
def execDropRemainder (fn queue : Nat) (s : State) : Host.Outcome State Fault Refusal :=
  nextD s fun d => d.gateOwn fn .evp queue 0x204 fun d => (d.queueTurn queue 1).dropRemainder queue

/-- Whether a range of queue memory, in words, overlaps that of an enabled queue other than `q` (R453). -/
def Dev.overlaps (d : Dev) (q start size : Nat) : Bool :=
  (List.range 512).any fun k => k != q && d.flag EVP.CFG.Enable k &&
    (let s := 64 * d.get EVQ.QMEM.Base 0 k
     decide (s < start + size) && decide (start < s + d.queueSize k))

/-- QMEM_WRITE of queue `queue` (R453). -/
def execQmemWrite (fn queue data : Nat) (s : State) : Host.Outcome State Fault Refusal :=
  nextD s fun d => d.gate fn .evq 0 (0x400 + 4 * queue) fun d =>
    let base := bits data 0 13
    let code := bits data 16 4
    let refuse := fun (r : Nat) => (d.set EVQ.QMEM_STAT.Refused 1).set EVQ.QMEM_STAT.Reason r
    if 512 ≤ queue then d.miss
    else if d.flag EVP.CFG.Enable queue then refuse 1
    else if 10 < code ∨ 524288 < 64 * base + 64 * 2 ^ code then refuse 2
    else if d.overlaps queue (64 * base) (64 * 2 ^ code) then refuse 3
    else ((d.set EVQ.QMEM.Base base 0 queue).set EVQ.QMEM.SizeCode code 0 queue).set EVQ.QMEM_STAT.Refused 0

/-- QUEUE_ENABLE_WRITE: a write of a queue's CFG (R453, R469). -/
def execQueueEnableWrite (fn queue data : Nat) (s : State) : Host.Outcome State Fault Refusal :=
  nextD s fun d => d.gateOwn fn .evp queue 0x200 fun d =>
    if data % 2 = 1 ∧ d.overlaps queue (64 * d.get EVQ.QMEM.Base 0 queue) (d.queueSize queue) then d.set EVP.QSTAT.EnableRefused 1 queue
    else
      let d := (d.set EVP.CFG.Enable (data % 2) queue).set EVP.CFG.Prio (bits data 1 2) queue
      (d.set EVP.CFG.NotifyPkts (bits data 8 8) queue).set EVP.CFG.NotifyUs (bits data 16 16) queue

/-- EVQ_SCRUB: the scrubber reads a word of a queue (R454). -/
def execEvqScrub (queue idx word outcome : Nat) (s : State) : Host.Outcome State Fault Refusal :=
  nextD s fun d => if 512 ≤ queue ∨ !d.live .evq then d else d.queueAccess queue idx word outcome

end Sys2Proof.Machine
end

