-- ==== Sys2Proof/Machine/Cistern.lean ====
section
/-! DEFINITION. Cistern (R443 to R451): pools, handles, allocation in port order, frees, references, hand-offs, reclaims. -/

namespace Sys2Proof.Machine

/-- Buffer size of a pool (R443). -/
def poolBytes : Nat → Nat
  | 0 => 128
  | 1 => 512
  | 2 => 2048
  | _ => 10240
/-- The key of a buffer, and the parts of a handle (R444). -/
def bufKey (pool num : Nat) : Nat := pool * 65536 + num
def handleKey (h : Nat) : Nat := h % 2 ^ 18
def handlePool (h : Nat) : Nat := bits h 16 2
def handleGen (h : Nat) : Nat := bits h 18 4
def emptyHandle : Nat := 0xFFFFFF

/-- A buffer, and the device with a buffer replaced. -/
def Dev.buf (d : Dev) (k : Nat) : CistBuf := Tab.get {} d.cpm.bufs k
def Dev.setBuf (d : Dev) (k : Nat) (b : CistBuf) : Dev := { d with cpm := { d.cpm with bufs := Tab.put {} d.cpm.bufs k b } }

/-- POOL.Free and POOL.Low of a pool brought up to date. -/
def Dev.syncPool (d : Dev) (p : Nat) : Dev :=
  let n := d.poolFree' p
  let low := min n (Tab.get (poolCount p) d.cpm.low p)
  { d with cpm := { d.cpm with low := Tab.set d.cpm.low p low } }

/-- The next buffer a pool issues: the never issued ones in number order, then those freed, oldest first (R446); a pool that
is being rebuilt gives none (R451). -/
def Dev.nextBuf (d : Dev) (p : Nat) : Option (Nat × Dev) :=
  let ok := fun (n : Nat) => decide (n < poolCount p) && !(d.buf (bufKey p n)).gone && !(d.buf (bufKey p n)).held
  if d.cpm.rebuilding.contains p then none
  else
    let f := Tab.get 0 d.cpm.fresh p
    let gone := (d.cpm.bufs.filter fun e => e.1 / 65536 == p && e.2.gone).length
    match ((List.range (gone + 1)).map (f + ·)).find? ok with
    | some n => some (n, { d with cpm := { d.cpm with fresh := Tab.put 0 d.cpm.fresh p (n + 1) } })
    | none =>
      let l := Tab.get [] d.cpm.freed p
      match l.find? ok with
      | some n => some (n, { d with cpm := { d.cpm with freed := Tab.put [] d.cpm.freed p (l.filter (· != n)) } })
      | none => none

/-- Whether a pool would issue a buffer. -/
def Dev.poolHas (d : Dev) (p : Nat) : Bool := (d.nextBuf p).isSome

/-- A buffer of pool `p` goes to a holder for an owner (R445). -/
def Dev.takeBuf (d : Dev) (p owner holder : Nat) : Option (Nat × Dev) :=
  (d.nextBuf p).map fun (n, d) =>
    let k := bufKey p n
    let g := ((d.buf k).gen + 1) % 16
    let d := d.setBuf k { d.buf k with held := true, gen := g, refs := 1, owner := owner, holder := holder, data := [], bad := false }
    (n + 2 ^ 16 * p + 2 ^ 18 * g, d.syncPool p)

/-- One allocation (R446): the smallest pool that covers the request and has a free buffer; the empty response where none has,
or the request is none of 1 to 10,240 bytes. -/
def Dev.allocBuf (d : Dev) (bytes owner holder : Nat) : Dev × Nat :=
  let fit := if bytes = 0 ∨ 10240 < bytes then [] else (List.range 4).filter fun p => bytes ≤ poolBytes p
  match fit.find? (d.poolHas ·) with
  | none => (d.count .cpm 0 0x1D2, emptyHandle)
  | some p => match d.takeBuf p owner holder with
    | none => (d.count .cpm 0 0x1D2, emptyHandle)
    | some (h, d) =>
      let d := d.count .cpm 0 0x1D0
      (if fit.head? = some p then d else d.count .cpm 0 0x1D1, h)

/-- A request of an allocation cycle: port, bytes, owner tag, holder tag. -/
structure AllocReq where
  port : Nat
  bytes : Nat
  owner : Nat
  holder : Nat
  deriving DecidableEq, Repr

/-- The pool a request would take from. -/
def Dev.wouldTake (d : Dev) (r : AllocReq) : Option Nat :=
  if r.bytes = 0 ∨ 10240 < r.bytes then none
  else ((List.range 4).filter fun p => r.bytes ≤ poolBytes p).find? (d.poolHas ·)

/-- Free buffers of a pool, as far as one: whether the pool has exactly one buffer to give. -/
def Dev.lastOne (d : Dev) (p : Nat) : Bool :=
  match d.takeBuf p 0 0 with
  | none => false
  | some (_, e) => !e.poolHas p

/-- One cycle's allocations in port order (R447): the order begins after the port that won the last contest for one pool's last
buffer. -/
def Dev.allocCycle (d : Dev) (rs : List AllocReq) : Dev × List (Nat × Nat) :=
  let order := (List.range 5).map fun k => (d.cpm.lastPort + 1 + k) % 5
  let sorted := order.filterMap fun p => rs.find? fun r => r.port == p
  let rec go : Dev → List AllocReq → List (Nat × Nat) → Dev × List (Nat × Nat)
    | d, [], got => (d, got)
    | d, r :: rest, got =>
      let contest := match d.wouldTake r with
        | some p => d.lastOne p && rest.any fun q => d.wouldTake q == some p
        | none => false
      let (d, h) := d.allocBuf r.bytes r.owner r.holder
      let d := if contest then { d with cpm := { d.cpm with lastPort := r.port } } else d
      go d rest (got ++ [(r.port, h)])
  go d sorted []

/-- A buffer becomes Free and goes to the end of its pool's free buffers (R446). -/
def Dev.putBack (d : Dev) (k : Nat) : Dev :=
  let p := k / 65536
  let d := d.setBuf k { d.buf k with held := false, refs := 0, data := [], bad := false }
  let l := Tab.get [] d.cpm.freed p
  let d := if (d.buf k).gone then d else { d with cpm := { d.cpm with freed := Tab.put [] d.cpm.freed p (l ++ [k % 65536]) } }
  d.syncPool p

/-- Whether a handle names a buffer of its pool. -/
def handleReal (h : Nat) : Bool := decide (h < 2 ^ 22) && decide (h % 65536 < poolCount (handlePool h))

/-- A free by a requester (R448): 0, or the refusal's reason. A handle that names no buffer is Stale. -/
def Dev.freeReason (d : Dev) (tag h : Nat) : Nat :=
  let b := d.buf (handleKey h)
  if !handleReal h || b.gen != handleGen h then 2
  else if !b.held then 1
  else if tag ≠ b.owner ∧ tag ≠ b.holder then 3
  else 0

/-- A free carried out, or refused: counted, latched and posted (R448). -/
def Dev.freeBuf (d : Dev) (tag h : Nat) : Dev :=
  match d.freeReason tag h with
  | 0 =>
    let k := handleKey h
    let b := d.buf k
    if b.refs ≤ 1 then d.putBack k else d.setBuf k { b with refs := b.refs - 1 }
  | r =>
    let d := d.count .cpm 0 (if r = 3 then 0x1D4 else 0x1D3)
    let d := (d.set CPM.REFUSE_LAST.Handle h).set CPM.REFUSE_LAST.Requester tag
    (d.set CPM.REFUSE_REASON.Reason r).post .cpm 0 1 (d.get CPM.EVT_CFG.Queue) [h % 2 ^ 24 + 2 ^ 24 * tag + 2 ^ 32 * r]

/-- A reclaim of an Owner tag's buffers (R449). -/
def Dev.reclaim (d : Dev) (owner : Nat) : Dev :=
  let ks := (d.cpm.bufs.filter fun e => e.2.held && e.2.owner == owner).map (·.1)
  let d := ks.foldl (fun d k => (d.setBuf k { d.buf k with gen := ((d.buf k).gen + 1) % 16 }).putBack k) d
  if ks.isEmpty then d else (d.bump CPM.RECLAIMED.Count ks.length).count .cpm 0 0x1D5 ks.length

/-- Whether a party may act on a handle as its Holder. -/
def Dev.holds (d : Dev) (tag h : Nat) : Bool :=
  let b := d.buf (handleKey h)
  handleReal h && b.held && b.gen == handleGen h && b.holder == tag

/-- A buffer is handed to a destination (R445); FSC takes a message as a host command (R191). -/
def Dev.handOff (d : Dev) (h dest : Nat) : Dev :=
  let k := handleKey h
  let d := d.setBuf k { d.buf k with holder := dest }
  if dest = 132 then { d with fsc := { d.fsc with inbox := d.fsc.inbox ++ [h] } } else d.emit (.cistern dest h)

/-- What a management core has left in a buffer it holds: the manual gives no command for a core's stores. -/
def Dev.coreData (d : Dev) (tag h : Nat) (data : List Byte) : Dev :=
  if 128 ≤ tag ∧ tag < 132 then
    d.setBuf (handleKey h) { d.buf (handleKey h) with data := data.take (poolBytes (handlePool h)) }
  else d

/-! ### Commands -/

/-- CISTERN_FREE by the party with tag `tag` (R448). -/
def execCisternFree (tag handle : Nat) (s : State) : Host.Outcome State Fault Refusal := nextD s (·.freeBuf tag handle)

/-- CISTERN_ADDREF by the party with tag `tag` (R445). -/
def execCisternAddref (tag handle : Nat) (s : State) : Host.Outcome State Fault Refusal :=
  nextD s fun d =>
    if !d.holds tag handle then d
    else
      let k := handleKey handle
      let b := d.buf k
      if 15 ≤ b.refs then { d with cpm := { d.cpm with addRefs := d.cpm.addRefs + 1 } } else d.setBuf k { b with refs := b.refs + 1 }

/-- CISTERN_HANDOFF by the Holder, with what a management core left in the buffer (R445). -/
def execCisternHandoff (tag handle dest : Nat) (data : List Byte) (s : State) : Host.Outcome State Fault Refusal :=
  nextD s fun d => if d.holds tag handle then (d.coreData tag handle data).handOff handle dest else d

/-- A CPM command starts (R448, R449); a Go while Busy is discarded and counted. -/
def Dev.cpmGo (d : Dev) (op arg : Nat) : Dev :=
  if d.flag CPM.CMD_STAT.Busy then d.miss
  else ({ d with cpm := { d.cpm with cmd := some (op, arg) } }).set CPM.CMD_STAT.Busy 1

/-- FREE_CMD written with Go (R448). -/
def execFreeCmd (fn handle : Nat) (s : State) : Host.Outcome State Fault Refusal :=
  nextD s fun d => d.gate fn .cpm 0 0x210 fun d => (d.set CPM.FREE_CMD.Handle handle).cpmGo 0 (handle % 2 ^ 24)

/-- RECLAIM written with Go (R449). -/
def execReclaim (fn owner : Nat) (s : State) : Host.Outcome State Fault Refusal :=
  nextD s fun d => d.gate fn .cpm 0 0x214 fun d => (d.set CPM.RECLAIM.Owner owner).cpmGo 1 (owner % 256)

/-- CPM_COMMAND_DONE: the command in progress is carried out and completes. -/
def execCpmCommandDone (s : State) : Host.Outcome State Fault Refusal :=
  nextD s fun d =>
    match d.cpm.cmd with
    | none => d
    | some (op, arg) =>
      let d := ({ d with cpm := { d.cpm with cmd := none } }).set CPM.CMD_STAT.Busy 0
      if op = 1 then (d.reclaim arg).set CPM.CMD_STAT.Done 1
      else
        let r := d.freeReason 0 arg
        let d := (d.freeBuf 0 arg).set CPM.CMD_STAT.Done 1
        if r = 0 then d else (d.set CPM.CMD_STAT.Refused 1).set CPM.CMD_STAT.Reason r

/-- The channel that takes messages for a function: its lowest-numbered Deliver channel (R450). -/
def Dev.deliverChan (d : Dev) (f : Nat) : Option Nat :=
  (List.range (blkRow .dch).inst).find? fun c => d.get DMA.BIND.Endpoint 0 c == 8 && d.get (HDR.OWNER.Function .dch) c == f

/-- DELIVER_SEND: management core `core` (0 to 3) sends the message in a buffer it holds to function `f` (R450). A refused send
leaves the buffer with the core. -/
def execDeliverSend (core f handle : Nat) (data : List Byte) (s : State) : Host.Outcome State Fault Refusal :=
  nextD s fun d =>
    if !d.holds (128 + core) handle then d
    else match d.deliverChan f with
      | none => d
      | some c =>
        let d := (d.coreData (128 + core) handle data)
        let k := handleKey handle
        let d := d.setBuf k { d.buf k with holder := 133 }
        let x := d.chan c
        (d.setChan c { x with msgs := x.msgs ++ [(core, handle)] }).touchLevel c

/-- POOL_REBUILD_DONE: a pool's free list has been rebuilt from the buffer states (R451): buffers in number order. -/
def execPoolRebuildDone (pool : Nat) (s : State) : Host.Outcome State Fault Refusal :=
  nextD s fun d =>
    if !d.cpm.rebuilding.contains pool then d
    else
      let f := Tab.get 0 d.cpm.fresh pool
      let free := (List.range f).filter fun n => !(d.buf (bufKey pool n)).held && !(d.buf (bufKey pool n)).gone
      { d with cpm := { d.cpm with rebuilding := d.cpm.rebuilding.filter (· != pool), freed := Tab.put [] d.cpm.freed pool free } }

end Sys2Proof.Machine
end

