-- ==== Sys2Proof/Machine/Dma.lean ====
section
/-! DEFINITION. DMA (R416 to R442, R450): binding, doorbells, descriptors, bursts, completion, write-back, host ports, halts. -/

namespace Sys2Proof.Machine

/-! ### Endpoints (R416) -/

/-- The endpoint a channel is bound to, whether an endpoint uses the write engine, and its host port. -/
def Dev.endpoint (d : Dev) (c : Nat) : Nat := d.get DMA.BIND.Endpoint 0 c
def writesHost (ep : Nat) : Bool := [2, 4, 6, 8, 9].contains ep
def isTx (ep : Nat) : Bool := ep == 3 || ep == 5
def isRx (ep : Nat) : Bool := ep == 4 || ep == 6
def hostPort (ep : Nat) : Nat := if ep = 3 ∨ ep = 4 then 128 else 129

/-- The number of channels. -/
def dmaChans : Nat := (blkRow .dch).inst

/-- The function a channel acts as. -/
def Dev.chanOwner (d : Dev) (c : Nat) : Nat := d.get (HDR.OWNER.Function .dch) c

/-- Whether a channel may start a request: its owner is in D0 with Bus Master Enable set (R392, R396). -/
def Dev.dmaMay (d : Dev) (c : Nat) : Bool :=
  let x := d.fn (d.chanOwner c)
  decide (c < dmaChans) && x.bme && !x.d3 && !x.flr && d.accepts .dma && d.accepts .dch c

/-- Whether a channel is Idle or Active and has not been told to stop. -/
def Dev.dmaRuns (d : Dev) (c : Nat) : Bool :=
  (d.get DCH.STAT.State c == 1 || d.get DCH.STAT.State c == 2) && !(d.chan c).stopping

/-- An event is counted in the control page and in the channel's page. -/
def Dev.countC (d : Dev) (c code : Nat) (n : Nat := 1) : Dev := (d.count .dma 0 code n).count .dch c code n

/-! ### Tags and staging (R392, R440) -/

/-- Staging blocks of 64 bytes that outstanding reads hold. -/
def DmaRead.blocks (r : DmaRead) : Nat := ceilDiv r.len 64
def DmaChan.blocks (x : DmaChan) : Nat := (x.reads.map (·.blocks)).foldl (· + ·) 0

/-- Tags in use, and staging blocks that the read engine and the write engine hold; the loader's and the walker's reads are of the read
engine (R418). -/
def Dev.tagsUsed (d : Dev) : Nat :=
  (d.dma.chans.map fun (e : Nat × DmaChan) => e.2.reads.length).foldl (· + ·) d.dma.ints.length
def Dev.blocksUsed (d : Dev) : Nat :=
  (d.dma.chans.map fun (e : Nat × DmaChan) => e.2.blocks).foldl (· + ·) ((d.dma.ints.map fun r => ceilDiv r.len 64).foldl (· + ·) 0)
def Dev.writeUsed (d : Dev) : Nat := (d.dma.chans.map fun (e : Nat × DmaChan) => e.2.staged).foldl (· + ·) 0

/-- TAGS and STG_STAT brought up to date (R413, R441). -/
def Dev.syncDma (d : Dev) : Dev :=
  let n := d.tagsUsed
  (((d.set HIF.TAGS.InUse n).raise HIF.TAGS.HighWater n).set DMA.STG_STAT.ReadUsed d.blocksUsed).set DMA.STG_STAT.WriteUsed d.writeUsed

/-- Staging blocks that the read engine may still take: what the write engine neither holds nor is kept (R440). -/
def Dev.readBlocks (d : Dev) : Nat := 32768 - max (d.get DMA.STG_CFG.WriteMin) d.writeUsed - d.blocksUsed

/-- The longest read of at most `n` bytes at an address that a channel may issue now: the Max Read Request Size, the 4 KiB
boundary, MaxBlocks, and the staging left (R440); 0 where no tag is free. -/
def Dev.readRoom (d : Dev) (c a n : Nat) : Nat :=
  let mine := max 1 (d.get DCH.STAGE.MaxBlocks c) - (d.chan c).blocks
  if 768 ≤ d.tagsUsed ∨ !d.dmaMay c then 0
  else min n (min (d.fn 0).mrrs (min (4096 - a % 4096) (64 * min mine d.readBlocks)))

/-- A read request is issued. -/
def Dev.issueRead (d : Dev) (c : Nat) (why : DmaWhy) (a len : Nat) : Dev :=
  let x := d.chan c
  let d := d.setChan c { x with reads := x.reads ++ [{ why := why, base := a, addr := a, len := len, at0 := d.cyc }] }
  ((d.countC c 0x1C1).emit (.read c (d.chanOwner c) a len)).syncDma

/-- Staging blocks that a channel of the write engine may hold now (R440). -/
def Dev.writeRoom (d : Dev) (c : Nat) : Nat :=
  min (max 1 (d.get DCH.STAGE.MaxBlocks c)) (32768 - max (d.get DMA.STG_CFG.ReadMin) d.blocksUsed - (d.writeUsed - (d.chan c).staged))

/-- The staging that a write engine's channel holds for its burst in progress, as far as there is any (R429, R440). -/
def Dev.stageBurst (d : Dev) (c : Nat) : Dev :=
  let x := d.chan c
  (d.setChan c { x with staged := match x.burst with
    | none => 0
    | some b => min (ceilDiv b 64) (d.writeRoom c) }).syncDma

/-- Write requests of a run of bytes: each at most the Max Payload Size and at most `lim` bytes, none across a 4 KiB boundary (R440). The
fuel is the length. -/
def Dev.emitWrites (d : Dev) (c lim : Nat) (relaxed : Bool) : Nat → Nat → List Byte → Dev
  | 0, _, _ => d
  | _ + 1, _, [] => d
  | k + 1, a, data =>
    let n := min (min (d.fn 0).mps lim) (4096 - a % 4096)
    let d := (d.countC c 0x1C2).emit (.write c (d.chanOwner c) a (data.take n) relaxed)
    Dev.emitWrites d c lim relaxed k (a + n) (data.drop n)

/-- Data written to the host for a channel, through the staging that it may hold (R432, R440). -/
def Dev.writeData (d : Dev) (c a : Nat) (data : List Byte) : Dev :=
  (d.emitWrites c (64 * max 1 (d.writeRoom c)) (d.flag DCH.CFG.RelaxedOrder c) data.length a data).bump DCH.BYTES.Bytes data.length c

/-! ### The loader's and the walker's reads (R418) -/

/-- The longest read of at most `n` bytes at an address that the loader or the walker may issue now, as PF0: IntTags beside the limits of
every read (R418, R440). -/
def Dev.intRoom (d : Dev) (a n : Nat) : Nat :=
  let x := d.fn 0
  if d.get DMA.INT_CFG.IntTags ≤ d.dma.ints.length ∨ 768 ≤ d.tagsUsed ∨ !x.bme ∨ x.d3 ∨ x.flr ∨ !d.accepts .dma then 0
  else min n (min x.mrrs (min (4096 - a % 4096) (64 * d.readBlocks)))

/-- Whether the loader, and the walker, have a read to issue and may issue it. -/
def Dev.loaderWants (d : Dev) : Bool :=
  match d.load with
  | none => false
  | some l => d.intRoom l.ask.1 l.ask.2 != 0
def Dev.walkerAt (d : Dev) : Nat := d.get SHW.BASE.Base + 32 * d.shw.idx
def Dev.walkerReads (d : Dev) : Bool := d.dma.ints.any fun r => r.walker && !r.drop
def Dev.walkerWants (d : Dev) : Bool := d.flag SHW.STAT.Active && !d.walkerReads && d.intRoom d.walkerAt 32 != 0

/-- A read of the loader or the walker is issued; both stand as channels 256 and 257 in the read engine's Prio 0 rotation (R418, R440). -/
def Dev.intIssue (d : Dev) (walker : Bool) (a n : Nat) : Dev :=
  let r : IntRead := { walker := walker, base := a, len := n, at0 := d.cyc }
  let d := { d with dma := { d.dma with ints := d.dma.ints ++ [r], rr := Tab.put 0 d.dma.rr 0 (257 + b2n walker) } }
  ((d.count .dma 0 0x1C1).emit (.read (256 + b2n walker) 0 a n)).syncDma

/-- The reads of the loader, or of the walker, have been answered. -/
def Dev.intsDone (d : Dev) (walker : Bool) : Dev :=
  ({ d with dma := { d.dma with ints := d.dma.ints.filter fun r => r.drop || r.walker != walker } }).syncDma

/-- What is still to come of the loader's, or the walker's, reads is discarded on arrival. -/
def Dev.intsDrop (d : Dev) (walker : Bool) : Dev :=
  { d with dma := { d.dma with ints := d.dma.ints.map fun r => if r.walker = walker then { r with drop := true } else r } }

/-! ### Levels and room (R426, R427) -/

/-- Bytes of a transmit frame that its host port keeps: a longer frame is dropped (R435). -/
def txMax : Nat := 10236

/-- Bytes that the frames in progress of a transmit channel hold in the ingress buffer. -/
def DmaChan.txHeld (x : DmaChan) : Nat :=
  ((x.descs.filter fun y => !y.whole).foldl (fun (s : Nat × Nat) y =>
    let old := if y.sop then 0 else s.2
    (s.1 + (min txMax (old + y.asked) - min txMax old), old + y.asked)) (0, 0)).1

/-- Bytes used or reserved of a host port's 64 KiB ingress buffer. -/
def Dev.txUsed (d : Dev) (port : Nat) : Nat :=
  let waiting := ((Tab.get [] d.dma.hostTx port).map fun f => f.bytes.length).foldl (· + ·) 0
  let mine := d.dma.chans.filter fun (e : Nat × DmaChan) => isTx (d.endpoint e.1) && hostPort (d.endpoint e.1) == port
  waiting + (mine.map fun (e : Nat × DmaChan) => e.2.txHeld + e.2.burst.getD 0).foldl (· + ·) 0

/-- Bytes of copies queued for a host port and not yet written (R426). -/
def Dev.rxWaiting (d : Dev) (port off : Nat) : Nat :=
  let len := fun (l : List Copy) => (l.map fun c => c.len - 4).foldl (· + ·) 0
  let qs := (d.eg.queues.filter fun (q : Nat × EgQueue) => q.1 / 16 == port).map fun (q : Nat × EgQueue) => len q.2.ready
  let gs := d.eg.grps.map fun (g : Nat × GrpState) => len (g.2.list.filter fun c => c.port == port)
  let rx := (Tab.get [] d.dma.hostRx port).map fun h => h.bytes.length
  (qs ++ gs ++ rx).foldl (· + ·) 0 - off

/-- Data of the message a handle names. -/
def Dev.msgData (d : Dev) (h : Nat) : List Byte := (d.buf (handleKey h)).data

/-- Descriptors that can take data now: on the read engine bytes not asked for, on the write engine bytes not written; Submit
works on one message at a time. -/
def Dev.room (d : Dev) (c : Nat) : Nat :=
  let ds := (d.chan c).descs.filter fun y => !y.whole
  let ep := d.endpoint c
  if ep = 7 then ((ds.head?).map fun y => y.len - y.asked).getD 0
  else if writesHost ep then (ds.map fun y => y.len - y.moved).foldl (· + ·) 0
  else (ds.map fun y => y.len - y.asked).foldl (· + ·) 0

/-- Whether an endpoint has a level: on the others a burst is due whenever credit is above 0 (R426). -/
def leveled (ep : Nat) : Bool := isTx ep || isRx ep || ep == 8 || ep == 9

/-- The level of a channel (R426); 0 on an endpoint that has none. -/
def Dev.dmaLevel (d : Dev) (c : Nat) : Nat :=
  let x := d.chan c
  let ep := d.endpoint c
  if isTx ep then 65536 - d.txUsed (hostPort ep)
  else if isRx ep then d.rxWaiting (hostPort ep) x.off
  else if ep = 8 then (x.msgs.map fun m => (d.msgData m.2).length).foldl (· + ·) 0 - x.off
  else if ep = 9 then (x.stream.map List.length).foldl (· + ·) 0
  else 0

/-- Whether a channel has credit left: descriptors to be fetched, or fetched ones with room (R424, R427). -/
def Dev.hasCredit (d : Dev) (c : Nat) : Bool := d.get DCH.STAT.Credit c != 0 || d.room c != 0

/-- Whether a burst of a running channel is due: one was left due at the last burst's end or by FlushUs, or its level is at HighMark; without
a level, whenever it has credit (R426, R427). -/
def Dev.dmaDue (d : Dev) (c : Nat) : Bool :=
  if leveled (d.endpoint c) then
    d.get DCH.STAT.State c == 2 || (d.hasCredit c && d.dmaLevel c != 0 && decide (64 * d.get DCH.TRIG.HighMark c ≤ d.dmaLevel c))
  else d.hasCredit c

/-- The State that a channel's STAT shows (R423): Active while a burst is in progress or due. -/
def Dev.chanState (d : Dev) (c : Nat) : Nat :=
  let s := d.get DCH.STAT.State c
  let x := d.chan c
  if s = 1 ∨ s = 2 then if !x.stopping && (x.burst.isSome || d.dmaDue c) then 2 else 1 else s

/-! ### Halting and stopping (R436 to R439) -/

/-- A channel's own reads of the general region: those that wait at client port 2 go, and those accepted serve it no longer. -/
def Dev.forgetReads (d : Dev) (c : Nat) : Dev :=
  { d with hbc := { d.hbc with pcs := d.hbc.pcs.map fun (p : Nat × HbmPc) => (p.1, { p.2 with
    waiting := p.2.waiting.filter fun x => x.chan != some c
    queue := p.2.queue.map fun x => if x.chan = some c then { x with chan := none } else x }) } }

/-- A channel lets go of its descriptors that have not completed: their reads are discarded, partial frames and messages too, and
HEAD goes back to the first of them. A Stream descriptor whose writes have been issued has completed (R430). With `all`, at an FLR, not even
completed ones stay, and the buffers of delivered messages are freed. The answer is the credit they took (R437, R439). -/
def Dev.cutChan (d : Dev) (c : Nat) (all : Bool) : Dev × Nat :=
  let x := d.chan c
  let ds := if d.endpoint c = 9 then x.descs.map fun y => if 0 < y.moved then { y with whole := true } else y else x.descs
  let keep := if all then [] else ds.filter (·.whole)
  let gone := if all then ds else ds.filter fun y => !y.whole
  let d := if all then (ds.filterMap (·.frees)).foldl (fun d h => d.freeBuf 133 h) d else d
  let d := d.forgetReads c
  let metas := (gone.filter fun y => y.metaW.isSome).length + (if x.metaW.isSome then 1 else 0)
  let first := match gone with
    | y :: _ => some ((y.metaW.map (·.1)).getD y.addr)
    | [] => x.metaW.map (·.1)
  let reads := x.reads.map fun r => if r.why == .flush && !all then r else { r with drop := true }
  let d := match x.buf with
    | some h => d.freeBuf 133 h
    | none => d
  let d := d.setChan c { x with descs := keep, reads := reads, metaW := none, inFrame := false, burst := none, since := none,
                                buf := none, retryAt := none, off := 0, asking := false, got := none, staged := 0 }
  (match first with
   | some a => d.set DCH.HEAD.Addr a c
   | none => d, gone.length + metas)

/-- The item of R433. -/
def Dev.dmaItem (d : Dev) (c typ reason : Nat) : Dev :=
  d.post .dch c 1 (d.get DCH.CFG.EvQueue c) [c + 2 ^ 8 * typ + 2 ^ 12 * reason + 2 ^ 16 * d.get DCH.DONE.Count c]
    (some (d.chanOwner c))

/-- The bit of a channel in HALTED. -/
def Dev.setHalted (d : Dev) (c : Nat) (on : Bool) : Dev :=
  d.set DMA.HALTED.Halted (putBits (d.get DMA.HALTED.Halted 0 (c / 32)) (c % 32) 1 (b2n on)) 0 (c / 32)

/-- A running channel halts (R437); one that is stopping, stopped or halted does not halt again (R439). -/
def Dev.haltChan (d : Dev) (c reason : Nat) (access : Bool) (addr desc : Nat) : Dev :=
  if !d.dmaRuns c then d else
  let (d, back) := d.cutChan c false
  let d := d.set DCH.STAT.Credit (min 65535 (d.get DCH.STAT.Credit c + back)) c
  let d := (d.set DCH.STAT.State 3 c).set DCH.HALT.Reason reason c
  let d := (d.set DCH.HALT.Direction (b2n (writesHost (d.endpoint c))) c).set DCH.HALT.DescAccess (b2n access) c
  let d := (d.set DCH.HALT_ADDR.Addr addr c).set DCH.HALT_DESC.Addr desc c
  let d := ((d.setHalted c true).countC c 0x1C3).syncDma
  if d.flag DCH.CFG.EvHalt c then d.dmaItem c 2 reason else d

/-! ### Descriptors (R419, R420, R424, R425) -/

/-- A DESC as posted (R419). -/
structure DescW where
  host : Nat
  next : Nat
  len  : Nat
  ctl  : Nat
  aux  : Nat
  deriving DecidableEq, Repr

def descOf (b : List Byte) : DescW :=
  { host := ofLE (sliceB b 0 8), next := ofLE (sliceB b 8 8), len := ofLE (sliceB b 16 4), ctl := ofLE (sliceB b 20 4),
    aux := ofLE (sliceB b 24 8) }

/-- Control fields. -/
def DescW.kind (w : DescW) : Nat := w.ctl % 4
def DescW.sop (w : DescW) : Bool := bit w.ctl 4
def DescW.eop (w : DescW) : Bool := bit w.ctl 5

/-- The address of the local range of an HbmIn or HbmOut descriptor: pseudo-channel and offset. -/
def auxHbm (aux : Nat) : Nat := hbmAddr (bits aux 29 9) (bits aux 0 29)

/-- The least bytes that a Stream descriptor of a channel must have room for: the entry size of the block source that uses the channel, of
several the smallest, of a source of entries of several sizes the smallest there is; 1 where none uses it (R420; DESIGN CHOICE, log entry
120). -/
def Dev.entryMin (d : Dev) (c : Nat) : Nat :=
  let use := fun (on : Bool) (f : Fld) (j size : Nat) => if on && d.get f 0 j == c then [size] else []
  let streams := (List.range 16).flatMap fun s =>
    let on := (Tab.get {} d.sdl.streams s : Stream).active
    use on SDL.STREAM_CFG.EntryChannel s 64 ++ use on SDL.STREAM_CFG.SealChannel s 288
  let sizes := use (d.flag FTB.EXPORT_STAT.Active) FTB.EXPORT_CFG.Channel 0 128 ++ use (!d.shw.dump.isEmpty) SHW.CFG.DumpChannel 0 32 ++
    use (d.flag PMC.IPX_STAT.Active) PMC.IPX_CFG.Channel 0 (d.get PMC.IPX_MSG.MaxMessage) ++ streams ++
    use (d.flag SDL.ANCHOR_CFG.Enable) SDL.ANCHOR_CFG.Channel 0 240 ++ use d.pmc.snap.isSome GTH.SNAP_CFG.Channel 0 32
  match sizes with
  | [] => 1
  | n :: t => t.foldl min n

/-- Whether a Data descriptor is outside R419 and R420 for a channel's endpoint. -/
def Dev.dataBad (d : Dev) (c ep : Nat) (w : DescW) : Bool :=
  if ep = 1 ∨ ep = 2 then
    let o := bits w.aux 0 29
    w.len % 8 != 0 || o % 8 != 0 || decide (2 ^ 38 ≤ w.aux) || decide (384 ≤ bits w.aux 29 9) ||
      decide (o < generalBase (d.get FTB.GEOM_STAT.MaxLog2)) || decide (generalEnd < o + w.len)
  else if ep = 7 then decide (w.aux < 1) || decide (5 < w.aux) || w.len == 0 || decide (10240 < w.len)
  else w.aux != 0 || (if isTx ep then w.len == 0 else decide (w.len < if ep = 9 then d.entryMin c else 64))

/-- Whether a descriptor is a BadDesc where it stands (R436). -/
def Dev.descBad (d : Dev) (c : Nat) (w : DescW) : Bool :=
  let x := d.chan c
  let ep := d.endpoint c
  let open_ := x.metaW.isSome
  w.next % 32 != 0 || decide (2 ^ 24 ≤ w.len) || decide (2 ^ 6 ≤ w.ctl) ||
  (match w.kind with
   | 0 => d.dataBad c ep w || (isTx ep && w.sop == x.inFrame)
   | 1 => w.next == 0 || w.host != 0 || w.len != 0 || w.aux != 0 || open_
   | 2 => !isTx ep || w.len != 0 || decide (4 ≤ w.aux) || open_ || x.inFrame
   | _ => true)

/-- A fetched descriptor is taken, or the channel halts; the answer tells whether the next 32 bytes follow it (R424, R425). -/
def Dev.takeDesc (d : Dev) (c a : Nat) (b : List Byte) : Dev × Bool :=
  let x := d.chan c
  let w := descOf b
  let credit := d.get DCH.STAT.Credit c
  let next := if w.next = 0 then a + 32 else w.next
  let goOn := w.next == 0 || w.next == a + 32
  if w.kind ≠ 1 ∧ credit = 0 then (d, false)
  else if d.descBad c w then (d.haltChan c 5 true a a, false)
  else
    let hops := x.hops + 1
    if w.kind ≠ 0 ∧ max 1 (d.get DCH.CFG.HopLimit c) ≤ hops then (d.haltChan c 1 true a a, false)
    else
      let d := d.set DCH.HEAD.Addr next c
      match w.kind with
      | 1 => (d.setChan c { x with hops := hops }, false)
      | 2 => ((d.set DCH.STAT.Credit (credit - 1) c).setChan c { x with hops := hops, metaW := some (a, w.host, w.aux) }, goOn)
      | _ =>
        let y : DmaDesc :=
          { id := x.nextId, addr := a, host := w.host, len := w.len, flush := bit w.ctl 2, notify := bit w.ctl 3,
            sop := w.sop, eop := w.eop, aux := w.aux, metaW := x.metaW,
            info := if isTx (d.endpoint c) then 2 ^ 16 * b2n w.sop + 2 ^ 17 * b2n w.eop else 0
            whole := (d.endpoint c == 1 || d.endpoint c == 2) && w.len == 0 }
        ((d.set DCH.STAT.Credit (credit - 1) c).setChan c
          { x with hops := 0, metaW := none, nextId := x.nextId + 1, descs := x.descs ++ [y],
                   inFrame := isTx (d.endpoint c) && !w.eop }, goOn)

/-- The descriptors of one fetch are taken in order. -/
def Dev.takeDescs (c : Nat) : Dev → Nat → List Byte → Nat → Dev
  | d, _, _, 0 => d
  | d, a, b, n + 1 =>
    let (d, more) := d.takeDesc c a (b.take 32)
    if more then Dev.takeDescs c d (a + 32) (b.drop 32) n else d

/-- DESCRIPTOR_FETCH: a running channel with credit reads up to 8 contiguous descriptors from HEAD (R424, R440). -/
def execDescriptorFetch (chan : Nat) (s : State) : Host.Outcome State Fault Refusal :=
  nextD s fun d =>
    let x := d.chan chan
    let a := d.get DCH.HEAD.Addr chan
    let n := d.readRoom chan a (32 * min 8 (d.get DCH.STAT.Credit chan)) / 32 * 32
    if !d.dmaRuns chan || d.endpoint chan == 0 || n == 0 || x.reads.any (fun r => r.why == .desc && !r.drop) then d
    else d.issueRead chan .desc a n

/-! ### The read engine (R427, R430, R435, R450) -/

/-- A channel's descriptor replaced by its number. -/
def DmaChan.upd (x : DmaChan) (y : DmaDesc) : DmaChan := { x with descs := x.descs.map fun z => if z.id = y.id then y else z }

/-- Reads of the burst in progress are issued as tags and staging permit. The fuel is the burst. -/
def Dev.pumpReads (c : Nat) : Nat → Dev → Dev
  | 0, d => d
  | k + 1, d =>
    let x := d.chan c
    match x.burst, x.descs.find? fun y => !y.whole && decide (y.asked < y.len) with
    | some b, some y =>
      let n := d.readRoom c (y.host + y.asked) (min b (y.len - y.asked))
      if n = 0 then d
      else
        let d := d.setChan c { (x.upd { y with asked := y.asked + n }) with burst := some (b - n) }
        Dev.pumpReads c k (d.issueRead c (.data y.id y.asked) (y.host + y.asked) n)
    | _, _ => d

/-- The bytes of a descriptor's data. -/
def DmaDesc.bytes (y : DmaDesc) : List Byte :=
  y.data.foldl (fun b e => putB b e.1 e.2) (List.replicate y.len 0)

/-- The first transmit frame in progress, where all of it has arrived. -/
def DmaChan.frameDone (x : DmaChan) : Option (List DmaDesc) :=
  let l := x.descs.filter fun y => !y.whole
  match l.findIdx? (·.eop) with
  | some i => if (l.take (i + 1)).all fun y => y.moved == y.len then some (l.take (i + 1)) else none
  | none => none

/-- Transmit frames that have arrived whole go to their host port's ingress buffer; one over 10,236 bytes is dropped with Status
TooLong (R435). The fuel is how many there can be. -/
def Dev.txFrames (c : Nat) : Nat → Dev → Dev
  | 0, d => d
  | k + 1, d =>
    let x := d.chan c
    match x.frameDone with
    | none => d
    | some l =>
      let bytes := l.flatMap DmaDesc.bytes
      let long := decide (txMax < bytes.length)
      let mark := fun (z : DmaDesc) =>
        if l.any (fun y => y.id == z.id) then { z with whole := true, status := if long then 3 else 0, data := [] } else z
      let d := d.setChan c { x with descs := x.descs.map mark }
      let port := hostPort (d.endpoint c)
      let f : TxFrame := { chan := c, bytes := bytes, metaW := (l.head?.bind (·.metaW)).map (·.2) }
      let d := if long then d else
        { d with dma := { d.dma with hostTx := Tab.put [] d.dma.hostTx port (Tab.get [] d.dma.hostTx port ++ [f]) } }
      Dev.txFrames c k d

/-- Data of a read reaches its endpoint (R430). -/
def Chip.readArrives (c : Chip) (n id off : Nat) (b : List Byte) : Chip :=
  let x := c.dev.chan n
  let ep := c.dev.endpoint n
  match x.descs.find? (·.id == id) with
  | none => c
  | some y =>
    let y := { y with moved := y.moved + b.length }
    let c := c.upd (·.bump DCH.BYTES.Bytes b.length n)
    if ep = 1 then
      let c := c.hbmWrite 2 n (auxHbm y.aux + off) b
      c.upd (·.setChan n (x.upd { y with whole := y.moved == y.len }))
    else
      let y := { y with data := y.data ++ [(off, b)] }
      if isTx ep then c.upd fun d => (d.setChan n (x.upd y)).txFrames n x.descs.length
      else if y.moved ≠ y.len then c.upd (·.setChan n (x.upd y))
      else match x.buf with
        | none => c
        | some h =>
          c.upd fun d =>
            let k := handleKey h
            let d := d.setBuf k { d.buf k with data := y.bytes }
            let d := d.setChan n { (x.upd { y with whole := true, stamp := h, data := [] }) with buf := none }
            d.handOff h (if y.aux = 1 then 132 else 126 + y.aux)

/-! ### The write engine (R427 to R430, R434, R450) -/

/-- The first descriptor that still takes data. -/
def DmaChan.taker (x : DmaChan) : Option DmaDesc := x.descs.find? fun y => !y.whole && decide (y.moved < y.len)

/-- A receive frame has been written whole: its descriptors complete together, with Sop, Eop, InPort, classes and Stamp (R434). -/
def DmaChan.frameWritten (x : DmaChan) (h : HostCopy) (last : Nat) : DmaChan :=
  let first := ((x.descs.find? fun y => !y.whole).map (·.id)).getD 0
  { x with descs := x.descs.map fun y =>
      if !y.whole && decide (y.id ≤ last) then
        { y with whole := true, info := h.info + 2 ^ 16 * b2n (y.id == first) + 2 ^ 17 * b2n (y.id == last), stamp := h.stamp }
      else y }

/-- One step of a receive channel: bytes of the frame at its host port's head. -/
def Dev.rxStep (d : Dev) (c b : Nat) : Option Dev :=
  let x := d.chan c
  let port := hostPort (d.endpoint c)
  match Tab.get [] d.dma.hostRx port, x.taker with
  | h :: rest, some y =>
    let n := min b (min (y.len - y.moved) (h.bytes.length - x.off))
    let d := d.writeData c (y.host + y.moved) (sliceB h.bytes x.off n)
    let x := { (x.upd { y with moved := y.moved + n }) with burst := some (b - n), off := x.off + n }
    if x.off < h.bytes.length then some (d.setChan c x)
    else
      let d := { d with dma := { d.dma with hostRx := Tab.put [] d.dma.hostRx port rest } }
      some ((d.setChan c { (x.frameWritten h y.id) with off := 0 }).unref h.pid)
  | _, _ => none

/-- One step of a Deliver channel: bytes of one message, one message to a descriptor, cut to it (R450). A message whose buffer is
no longer the channel's is passed over. -/
def Dev.deliverStep (d : Dev) (c b : Nat) : Option Dev :=
  let x := d.chan c
  match x.msgs with
  | [] => none
  | (core, h) :: rest =>
    if !d.holds 133 h then some (d.setChan c { x with msgs := rest, off := 0 })
    else match x.taker with
      | none => none
      | some y =>
        let m := d.msgData h
        let all := min m.length y.len
        let n := min b (all - x.off)
        let d := d.writeData c (y.host + x.off) (sliceB m x.off n)
        let bad := (d.buf (handleKey h)).bad
        let y := { y with moved := y.moved + n, stamp := 128 + core, frees := some h,
                          status := if bad then 2 else if y.len < m.length then 1 else 0 }
        if x.off + n < all then some (d.setChan c { (x.upd y) with burst := some (b - n), off := x.off + n })
        else
          let x := x.upd { y with whole := true }
          some (d.setChan c { x with burst := some (b - n - (m.length - all)), off := 0, msgs := rest })

/-- A Stream channel has written an entry: a snapshot leaves the GTH buffer with the request that carries it (R429, R482, R483). -/
def Dev.snapTaken (d : Dev) (c : Nat) : Dev :=
  match d.pmc.snap with
  | some b => match b.sent with
    | some (ch, n) =>
      if ch ≠ c then d
      else if n = 0 then (({ d with pmc := { d.pmc with snap := none } }).set GTH.SNAP_STAT.Held 0).count .gth 0 0x1F8
      else { d with pmc := { d.pmc with snap := some { b with sent := some (ch, n - 1) } } }
    | none => d
  | none => d

/-- One step of a Stream channel: a whole entry into the first descriptor with room for it; a descriptor that has not room is
complete, or is a BadDesc while it is empty (R420, R427), and the descriptor of a burst's last entry is complete (R430). -/
def Dev.streamStep (d : Dev) (c b : Nat) : Option Dev :=
  let x := d.chan c
  match x.stream, x.taker with
  | e :: rest, some y =>
    if y.len < y.moved + e.length then
      if y.moved = 0 then some (d.haltChan c 5 true y.addr y.addr) else some (d.setChan c (x.upd { y with whole := true }))
    else
      let d := d.writeData c (y.host + y.moved) e
      let n := y.moved + e.length
      some ((d.setChan c { (x.upd { y with moved := n, whole := n == y.len || decide (b ≤ e.length) }) with
        burst := some (b - e.length), stream := rest }).snapTaken c)
  | _, _ => none

/-- An HbmOut channel has read the burst at an HBM address, or asks for it through client port 2, where it may have to wait (R313). -/
def Chip.hbmAsk (ch : Chip) (c a : Nat) : Chip :=
  let x := ch.dev.chan c
  if x.got.isSome || x.asking then ch
  else (ch.upd fun d => d.setChan c { x with asking := true }).hbmIssue (a / 2 ^ 29) { readOf 2 c a with chan := some c }

/-- One step of an HbmOut channel: bytes of the general region, as they stand at the acceptance of their read (R310); a burst with the check
pattern makes Status SourceError (R421, R331). -/
def Chip.hbmOutStep (ch : Chip) (c b : Nat) : Option Chip :=
  match (ch.dev.chan c).taker with
  | none => none
  | some y =>
    let a := auxHbm y.aux + y.moved
    let ch := ch.hbmAsk c a
    let n := min b (min (y.len - y.moved) (64 - a % 64))
    match (ch.dev.chan c).got with
    | none => some ch
    | some (bytes, bad) => some <| ch.upd fun d =>
      let d := d.writeData c (y.host + y.moved) ((bytes.drop (a % 64)).take n)
      let y := { y with moved := y.moved + n, whole := y.moved + n == y.len, status := if bad then 2 else y.status }
      d.setChan c { ((d.chan c).upd y) with burst := some (b - n), asking := false, got := none }

/-- One step of a write engine's channel, where its source and its descriptors have one. -/
def Chip.writeStep (ch : Chip) (c b : Nat) : Option Chip :=
  let d := ch.dev
  let ep := d.endpoint c
  let dev := fun (r : Option Dev) => r.map fun d => { ch with dev := d }
  if !d.dmaMay c || d.writeRoom c == 0 then none
  else if isRx ep then dev (d.rxStep c b)
  else if ep = 8 then dev (d.deliverStep c b)
  else if ep = 9 then dev (d.streamStep c b)
  else if ep = 2 then ch.hbmOutStep c b
  else none

/-- Write requests of the burst in progress are issued as far as its source and its descriptors reach. -/
def Chip.pumpWrites (c : Nat) : Nat → Chip → Chip
  | 0, ch => ch
  | k + 1, ch =>
    match (ch.dev.chan c).burst with
    | none => ch
    | some 0 => ch
    | some b => match ch.writeStep c b with
      | some ch => Chip.pumpWrites c k ch
      | none => ch

/-- The engine of a channel carries its burst on. -/
def Chip.pump (ch : Chip) (c : Nat) : Chip :=
  let n := 2 * (ch.dev.chan c).burst.getD 0 + 2
  if writesHost (ch.dev.endpoint c) then (ch.pumpWrites c n).upd (·.stageBurst c) else ch.upd (·.pumpReads c n)

/-! ### Bursts (R427, R428, R440) -/

/-- Bytes of whole entries within a limit, at least the first entry (R427). -/
def wholeEntries (lim : Nat) : Nat → List (List Byte) → Nat
  | n, [] => n
  | n, e :: t => if n = 0 ∨ n + e.length ≤ lim then wholeEntries lim (n + e.length) t else n

/-- Bytes that a burst of a channel would reserve. -/
def Dev.burstSize (d : Dev) (c : Nat) : Nat :=
  let lim := min (d.get DCH.BURST.Bytes c) (if leveled (d.endpoint c) then min (d.dmaLevel c) (d.room c) else d.room c)
  if d.endpoint c = 9 then (if d.room c = 0 then 0 else wholeEntries lim 0 (d.chan c).stream) else lim

/-- Whether a channel is ready for a burst: one is due, and there are bytes for it to move (R427). A Submit channel has its buffer or asks
for it. -/
def Dev.dmaReady (d : Dev) (c : Nat) : Bool :=
  let x := d.chan c
  d.dmaRuns c && d.dmaMay c && x.burst.isNone && d.burstSize c != 0 && x.retryAt.isNone && d.dmaDue c

/-- The channel an engine takes next: Prio 1 first, then Prio 0, round robin in each class; none while it runs 4 bursts (R440). The loader and
the walker, as 256 and 257, take part in the read engine's Prio 0 (R418). -/
def Dev.dmaPick (d : Dev) (write : Bool) : Option Nat :=
  let mine := (List.range dmaChans).filter fun c => writesHost (d.endpoint c) == write
  let busy := (mine.filter fun c => (d.chan c).burst.isSome).length
  let cls := fun (p : Nat) =>
    let last := Tab.get 0 d.dma.rr (2 * b2n write + p)
    let order := (List.range (dmaChans + 2)).map fun k => (last + k) % (dmaChans + 2)
    order.find? fun c =>
      if c < dmaChans then writesHost (d.endpoint c) == write && d.get DCH.CFG.Prio c == p && d.dmaReady c
      else !write && p == 0 && (if c = dmaChans then d.loaderWants else d.walkerWants)
  if 4 ≤ busy then none else (cls 1).orElse fun _ => cls 0

/-- A Submit channel asks Cistern for its message's buffer on port 0; on an empty response it asks again after 1 µs (R450). -/
def Dev.submitAsk (d : Dev) (c : Nat) : Dev :=
  let x := d.chan c
  match x.buf, x.descs.find? fun y => !y.whole with
  | none, some y =>
    let (d, h) := d.allocBuf y.len (d.chanOwner c) 133
    if h = emptyHandle then d.setChan c { x with retryAt := some (d.cyc + nsCyc 1000) }
    else d.setChan c { x with buf := some h, retryAt := none }
  | _, _ => d

/-- A burst of a channel starts, where the engine's turn is its (R427, R440). -/
def Chip.startBurst (ch : Chip) (c : Nat) : Chip :=
  let d := ch.dev
  let ep := d.endpoint c
  let w := writesHost ep
  if dmaChans ≤ c ∨ d.dmaPick w ≠ some c then ch
  else
    let key := 2 * b2n w + d.get DCH.CFG.Prio c
    let d := { d with dma := { d.dma with rr := Tab.put 0 d.dma.rr key (c + 1) } }
    let d := d.set DCH.STAT.State 2 c
    let d := if ep = 7 then d.submitAsk c else d
    if ep = 7 ∧ (d.chan c).buf.isNone then { ch with dev := d }
    else ({ ch with dev := d.setChan c { d.chan c with burst := some (d.burstSize c), since := none } } : Chip).pump c

/-- Entries of a Dump go to its channel as far as it has room, and Done is set with the last (R256, R407). -/
def Dev.dumpOn : Nat → Dev → Dev
  | 0, d => d
  | k + 1, d =>
    let c := d.get SHW.CFG.DumpChannel
    match d.shw.dump with
    | [] => d
    | e :: rest =>
      if !d.streamRoom c then d
      else
        let d := ({ d with shw := { d.shw with dump := rest } }).streamPut c e
        if rest.isEmpty then d.set SHW.STAT.Done 1 else Dev.dumpOn k d
def Dev.dumpMore (d : Dev) : Dev := d.dumpOn d.shw.dump.length

/-- BURST_START of a channel. -/
def execBurstStart (chan : Nat) (s : State) : Host.Outcome State Fault Refusal :=
  nextC s fun c => (c.startBurst chan).upd (·.dumpMore)

/-- FLUSHUS_EXPIRE: the level has been above 0 for FlushUs µs in Idle (R427): a burst is due, and starts in its turn. -/
def execFlushusExpire (chan : Nat) (s : State) : Host.Outcome State Fault Refusal :=
  nextC s fun c =>
    let d := c.dev
    let us := d.get DCH.TRIG.FlushUs chan
    match (d.chan chan).since with
    | none => c
    | some t =>
      if d.chanState chan ≠ 1 ∨ !d.dmaRuns chan ∨ us = 0 ∨ d.dmaLevel chan = 0 ∨ !d.hasCredit chan then c
      else ((c.upd fun d => ((d.until (t + nsCyc (1000 * us))).set DCH.STAT.State 2 chan).countC chan 0x1C5).startBurst chan).upd (·.dumpMore)

/-- BURST_END: the engine carries the burst on; once it has moved its bytes, the next is due, where the level is at LowMark and credit
remains, or the channel goes Idle (R427, R428). Bytes that have left their source meanwhile are no longer the burst's. -/
def execBurstEnd (chan : Nat) (s : State) : Host.Outcome State Fault Refusal :=
  nextC s fun c =>
    let ep := c.dev.endpoint chan
    (Chip.pump (c.upd fun d =>
      let x := d.chan chan
      d.setChan chan (if isRx ep || ep == 8 || ep == 9 then { x with burst := x.burst.map (min (d.dmaLevel chan)) } else x)) chan).upd fun d =>
    let x := d.chan chan
    match x.burst with
    | some 0 =>
      let descs := if ep = 9 then x.descs.map fun y => if 0 < y.moved then { y with whole := true } else y else x.descs
      let d := d.setChan chan { x with burst := none, descs := descs }
      if leveled ep ∧ 64 * d.get DCH.TRIG.LowMark chan ≤ d.dmaLevel chan ∧ d.dmaLevel chan ≠ 0 ∧ d.hasCredit chan then d.dumpMore
      else
        let d := d.set DCH.STAT.State 1 chan
        (d.setChan chan { d.chan chan with since := if d.dmaLevel chan = 0 then none else some d.cyc }).dumpMore
    | _ => d.dumpMore

/-- SUBMIT_RETRY: 1 µs after an empty response a Submit channel asks again (R450). -/
def execSubmitRetry (chan : Nat) (s : State) : Host.Outcome State Fault Refusal :=
  nextD s fun d =>
    match (d.chan chan).retryAt with
    | none => d
    | some t => ((d.until t).countC chan 0x1C7).submitAsk chan

/-- CISTERN_ALLOCATE: the allocations of one cycle (R447): management cores 0 to 3 by port 1 to 4, each with its bytes and Owner
tag, and a Submit channel on port 0 where one is named. -/
def execCisternAllocate (cores : List (Nat × Nat × Nat)) (chan : Option Nat) (s : State) : Host.Outcome State Fault Refusal :=
  nextD s fun d =>
    let sub := chan.bind fun c =>
      let x := d.chan c
      if d.endpoint c = 7 && d.dmaRuns c && d.dmaMay c && x.buf.isNone && x.retryAt.isNone then
        (x.descs.find? fun y => !y.whole).map fun y => (c, y.len)
      else none
    let mine : List AllocReq := match sub with
      | some (c, n) => [⟨0, n, d.chanOwner c, 133⟩]
      | none => []
    let theirs := (cores.filter fun r => 1 ≤ r.1 && r.1 ≤ 4).map fun r => AllocReq.mk r.1 r.2.1 (r.2.2 % 256) (127 + r.1)
    let (d, got) := d.allocCycle (mine ++ theirs)
    got.foldl (fun d (g : Nat × Nat) =>
      match g.1, sub with
      | 0, some (c, _) =>
        let x := d.chan c
        if g.2 = emptyHandle then d.setChan c { x with retryAt := some (d.cyc + nsCyc 1000) } else d.setChan c { x with buf := some g.2 }
      | p, _ => d.emit (.cistern (127 + p) g.2)) d

/-! ### Completion and write-back (R421, R430 to R433) -/

/-- The write-back of a completed descriptor, the Notify item, and the free of a delivered message's buffer (R421, R433, R450). -/
def Dev.descWriteBack (d : Dev) (c : Nat) (y : DmaDesc) : Dev :=
  let x := d.chan c
  let d := d.setChan c { x with descs := x.descs.filter (·.id != y.id) }
  let info := y.info + 2 ^ 18 * b2n y.flush + 2 ^ 31
  let bytes := toLE 4 (y.moved % 2 ^ 24 + 2 ^ 24 * y.status) ++ toLE 4 info ++ toLE 8 y.stamp
  let d := d.emitWrites c (d.fn 0).mps false 16 (y.addr + 16) bytes
  let d := (d.bump DCH.DONE.Count 1 c).countC c 0x1C0
  let d := match y.frees with
    | some h => d.freeBuf 133 h
    | none => d
  if y.notify then d.dmaItem c 1 0 else d

/-- DESCRIPTOR_COMPLETE: the oldest completed descriptor is written back, after its flush read where Flush asks for one, and on HbmIn
once the controllers have accepted the channel's writes, which is its fence (R311, R430, R431). -/
def execDescriptorComplete (chan : Nat) (s : State) : Host.Outcome State Fault Refusal :=
  nextD s fun d =>
    let x := d.chan chan
    match x.descs with
    | [] => d
    | y :: _ =>
      if !y.whole || !d.dmaMay chan || (d.endpoint chan == 1 && d.unaccepted 2 chan) then d
      else if y.flush && writesHost (d.endpoint chan) && !y.flushed then
        if y.flushSent || 768 ≤ d.tagsUsed then d
        else ((d.setChan chan (x.upd { y with flushSent := true })).countC chan 0x1C4).issueRead chan .flush y.host 0
      else d.descWriteBack chan y

/-- A read of a channel goes: its tag and its staging are free. -/
def Dev.freeRead (d : Dev) (c i : Nat) : Dev :=
  let x := d.chan c
  (d.setChan c { x with reads := x.reads.eraseIdx i }).syncDma

/-- A flush read has come back, and its descriptor is written back, once its function may issue requests (R392, R396, R431). -/
def Dev.flushBack (d : Dev) (c i : Nat) : Dev :=
  let d := d.freeRead c i
  match (d.chan c).descs with
  | [] => d
  | y :: _ =>
    let y := { y with flushed := y.flushSent }
    if !y.flushSent then d else if d.dmaMay c then d.descWriteBack c y else d.setChan c ((d.chan c).upd y)

/-- FLUSH_READ_DONE of a channel. -/
def execFlushReadDone (chan : Nat) (s : State) : Host.Outcome State Fault Refusal :=
  nextD s fun d =>
    match (d.chan chan).reads.findIdx? fun r => r.why == .flush && !r.drop with
    | none => d
    | some i => d.flushBack chan i

/-- The descriptor a read serves. -/
def DmaChan.served (x : DmaChan) (r : DmaRead) : Nat :=
  match r.why with
  | .desc => r.base
  | .flush => (x.descs.head?.map (·.addr)).getD 0
  | .data id _ => ((x.descs.find? (·.id == id)).map (·.addr)).getD 0

/-- A descriptor whose flush read has failed: it has completed, but it is not written back, since nothing has shown its data to have arrived;
the buffer of a delivered message goes (R430, R431; DESIGN CHOICE, log entry 119). -/
def Dev.flushLost (d : Dev) (c : Nat) : Dev :=
  let x := d.chan c
  match x.descs with
  | [] => d
  | y :: rest =>
    if !y.flushSent then d
    else
      let d := d.setChan c { x with descs := rest }
      match y.frees with
      | some h => d.freeBuf 133 h
      | none => d

/-- A read of a channel fails: the channel halts (R436). -/
def Dev.readFails (d : Dev) (c i reason : Nat) : Dev :=
  let x := d.chan c
  match x.reads[i]? with
  | none => d
  | some r =>
    let d := d.freeRead c i
    if r.drop then d
    else
      let access := match r.why with
        | .data _ _ => false
        | _ => true
      (if r.why = .flush then d.flushLost c else d).haltChan c reason access r.base (x.served r)

/-- A channel's descriptor prefetch buffer is found uncorrectable: descriptors not begun are fetched again, and nothing is lost (R451). -/
def Dev.refetch (d : Dev) (c : Nat) : Dev :=
  let x := d.chan c
  let begun := fun (y : DmaDesc) => y.whole || y.asked != 0 || y.moved != 0
  let fresh : List DmaDesc := (x.descs.reverse.takeWhile fun y => !begun y).reverse
  let kept := x.descs.take (x.descs.length - fresh.length)
  let metas := (fresh.filter fun y => y.metaW.isSome).length + b2n x.metaW.isSome
  let first : Option Nat := match fresh with
    | y :: _ => some ((y.metaW.map (·.1)).getD y.addr)
    | [] => x.metaW.map (·.1)
  match first with
  | none => d
  | some a =>
    let reads := x.reads.map fun r => if r.why = .desc then { r with drop := true } else r
    let d := (d.set DCH.HEAD.Addr a c).set DCH.STAT.Credit (min 65535 (d.get DCH.STAT.Credit c + fresh.length + metas)) c
    d.setChan c { x with descs := kept, metaW := none, inFrame := isTx (d.endpoint c) && (kept.getLast?.map fun (y : DmaDesc) => !y.eop).getD false
                         reads := reads }

/-! ### Registers (R417, R422, R438, R439, R441) -/

/-- BIND_WRITE of channel `chan` (R417). -/
def execBindWrite (fn chan data : Nat) (s : State) : Host.Outcome State Fault Refusal :=
  nextD s fun d =>
    if dmaChans ≤ chan then d.miss
    else d.gate fn .dma 0 (0x400 + 4 * chan) fun d =>
      let v := data % 16
      let n := ((List.range dmaChans).filter fun k => k != chan && d.endpoint k == v).length
      if d.get DCH.STAT.State chan ≠ 0 ∨ 10 ≤ v ∨ (isRx v && 1 ≤ n) ∨ (isTx v && 16 ≤ n) then d.set DMA.BIND_STAT.Refused 1
      else d.set DMA.BIND.Endpoint v 0 chan

/-- STG_CFG_WRITE (R441). -/
def execStgCfgWrite (fn data : Nat) (s : State) : Host.Outcome State Fault Refusal :=
  nextD s fun d => d.gate fn .dma 0 0x200 fun d =>
    if 32768 < bits data 0 15 + bits data 16 15 then d.miss
    else (d.set DMA.STG_CFG.ReadMin (bits data 0 15)).set DMA.STG_CFG.WriteMin (bits data 16 15)

/-- A doorbell write of a channel adds descriptors to its credit (R422). -/
def Dev.dmaBell (d : Dev) (fn window chan add : Nat) : Dev :=
  d.doorbell fn window .dch chan (4 * chan) fun d =>
  let n := d.get DCH.STAT.Credit chan + add % 65536
  if 65535 < n then d.bump DMA.DB_OVF.Count else (d.set DCH.STAT.Credit n chan).dumpMore

/-- DMA_DOORBELL: descriptors are added to a channel's credit, through window `window` of BAR2 (R33, R422). -/
def execDmaDoorbell (fn window chan add : Nat) (s : State) : Host.Outcome State Fault Refusal :=
  nextD s fun d => (d.request fn).dmaBell fn window chan add

/-- A write of a channel's CTL (R423, R438, R439): Run and Resume. -/
def Dev.ctlWrite (d : Dev) (c : Nat) (run resume : Bool) : Dev :=
  let st := d.get DCH.STAT.State c
  let x := d.chan c
  let go := fun (d : Dev) =>
    let d := (d.set DCH.CTL.Run 1 c).set DCH.STAT.State 1 c
    let d := d.setChan c { d.chan c with hops := 0 }
    (d.setChan c { d.chan c with since := if d.dmaLevel c = 0 then none else some d.cyc }).dumpMore
  if !run then
    let d := (d.set DCH.CTL.Run 0 c).set DCH.STAT.Credit 0 c
    if st = 3 then (d.set DCH.STAT.State 0 c).setHalted c false
    else if st = 0 ∨ x.stopping then d
    else
      let d := (d.cutChan c false).1
      (d.setChan c { d.chan c with stopping := true }).syncDma
  else if x.stopping ∨ d.endpoint c = 0 then d
  else if st = 0 then go d
  else if st = 3 ∧ resume then
    go ((((d.set DCH.HALT.Reason 0 c).set DCH.HALT.Direction 0 c).set DCH.HALT.DescAccess 0 c).setHalted c false)
  else d.set DCH.CTL.Run 1 c

/-- DMA_RUN_SET: CTL is written with Run = 1 and Resume = 0. -/
def execDmaRunSet (fn chan : Nat) (s : State) : Host.Outcome State Fault Refusal :=
  nextD s fun d => d.gateOwn fn .dch chan 0x204 fun d => d.ctlWrite chan true false

/-- DMA_RUN_CLEAR: CTL is written with Run = 0. -/
def execDmaRunClear (fn chan : Nat) (s : State) : Host.Outcome State Fault Refusal :=
  nextD s fun d => d.gateOwn fn .dch chan 0x204 fun d => d.ctlWrite chan false false

/-- DMA_RESUME: CTL is written with Resume = 1 and Run as given (R438). -/
def execDmaResume (fn chan : Nat) (run : Bool) (s : State) : Host.Outcome State Fault Refusal :=
  nextD s fun d => d.gateOwn fn .dch chan 0x204 fun d => d.ctlWrite chan run true

/-- DMA_STOPPED: every issued request and write-back of a stopping channel has completed (R439). -/
def execDmaStopped (chan : Nat) (s : State) : Host.Outcome State Fault Refusal :=
  nextD s fun d =>
    let x := d.chan chan
    if !x.stopping || !x.reads.isEmpty || !x.descs.isEmpty then d
    else (d.setChan chan { x with stopping := false }).set DCH.STAT.State 0 chan

/-- DMA_HEAD_WRITE: both words of HEAD are written, lower first (R45, R438). -/
def execDmaHeadWrite (fn chan addr : Nat) (s : State) : Host.Outcome State Fault Refusal :=
  nextD s fun d => d.gateOwn fn .dch chan 0x208 fun d =>
    if d.get DCH.STAT.State chan = 0 ∨ d.get DCH.STAT.State chan = 3 then d.set DCH.HEAD.Addr (addr / 32 * 32) chan else d.miss

/-! ### Host ports (R435) -/

/-- TX_FRAME_ENTER: the oldest whole frame of a host port enters its slice as an ingress packet, padded to 60 bytes (R15, R435). -/
def execTxFrameEnter (port : Nat) (s : State) : Host.Outcome State Fault Refusal :=
  nextD s fun d =>
    if port ≠ 128 ∧ port ≠ 129 then d
    else match Tab.get [] d.dma.hostTx port with
      | [] => d
      | f :: rest =>
        if !d.arbiterOn (portSlice port) then d
        else
          let d := d.inTurn (turnAccept (portSlice port)) (portIdx port)
          let d := { d with dma := { d.dma with hostTx := Tab.put [] d.dma.hostTx port rest } }
          let w := f.metaW.getD (0, 0)
          d.accept port 255 d.dt 0 (f.bytes ++ List.replicate (60 - f.bytes.length) 0) (bit w.2 0) (bit w.2 1) w.1

end Sys2Proof.Machine
end

