-- ==== Sys2Proof/Machine/Ecdsa.lean ====
section
/-! DEFINITION. ECDSA with SHA-384 over the two prime curves the device uses: brainpoolP384r1 (RFC 5639) for images, tokens,
anchors, seals and certificates (R212, R216, R377, R382, R383, R522), and NIST P-384 for attestation (R411, R516). A point is
a pair of coordinates; `none` is the point at infinity. -/

namespace Sys2Proof.Machine

/-- A short Weierstrass curve y² = x³ + a·x + b over the integers modulo `p`, with a base point of order `n`. -/
structure Curve where
  p : Nat
  a : Nat
  b : Nat
  gx : Nat
  gy : Nat
  n : Nat

/-- brainpoolP384r1 (RFC 5639). -/
def brainpool : Curve where
  p := 0x8CB91E82A3386D280F5D6F7E50E641DF152F7109ED5456B412B1DA197FB71123ACD3A729901D1A71874700133107EC53
  a := 0x7BC382C63D8C150C3C72080ACE05AFA0C2BEA28E4FB22787139165EFBA91F90F8AA5814A503AD4EB04A8C7DD22CE2826
  b := 0x04A8C7DD22CE28268B39B55416F0447C2FB77DE107DCD2A62E880EA53EEB62D57CB4390295DBC9943AB78696FA504C11
  gx := 0x1D1C64F068CF45FFA2A63A81B7C13F6B8847A3E77EF14FE3DB7FCAFE0CBD10E8E826E03436D646AAEF87B2E247D4AF1E
  gy := 0x8ABE1D7520F9C2A45CB1EB8E95CFD55262B70B29FEEC5864E19C054FF99129280E4646217791811142820341263C5315
  n := 0x8CB91E82A3386D280F5D6F7E50E641DF152F7109ED5456B31F166E6CAC0425A7CF3AB6AF6B7FC3103B883202E9046565

/-- NIST P-384. -/
def nistP384 : Curve where
  p := 0xFFFFFFFFFFFFFFFFFFFFFFFFFFFFFFFFFFFFFFFFFFFFFFFFFFFFFFFFFFFFFFFEFFFFFFFF0000000000000000FFFFFFFF
  a := 0xFFFFFFFFFFFFFFFFFFFFFFFFFFFFFFFFFFFFFFFFFFFFFFFFFFFFFFFFFFFFFFFEFFFFFFFF0000000000000000FFFFFFFC
  b := 0xB3312FA7E23EE7E4988E056BE3F82D19181D9C6EFE8141120314088F5013875AC656398D8A2ED19D2A85C8EDD3EC2AEF
  gx := 0xAA87CA22BE8B05378EB1C71EF320AD746E1D3B628BA79B9859F741E082542A385502F25DBF55296C3A545E3872760AB7
  gy := 0x3617DE4A96262C6F5D9E98BF9292DC29F8F41DBD289A147CE9DA3113B5F0B8C00A60B1CE1D7E819D7A431D7C90EA0E5F
  n := 0xFFFFFFFFFFFFFFFFFFFFFFFFFFFFFFFFFFFFFFFFFFFFFFFFC7634D81F4372DDF581A0DB248B0A77AECEC196ACCC52973

/-- `b` to the power of the number whose binary digits are the low `k` bits of `e`, modulo `m`. -/
def powMod (m b e : Nat) : Nat → Nat
  | 0 => 1 % m
  | k + 1 =>
    let r := powMod m b (e / 2) k
    let r2 := r * r % m
    if e % 2 = 1 then r2 * b % m else r2

/-- The inverse modulo a 384-bit prime. -/
def invMod (m x : Nat) : Nat := powMod m (x % m) (m - 2) 384

/-- Subtraction modulo `m` of reduced values. -/
def subMod (m x y : Nat) : Nat := (x + (m - y % m)) % m

/-- The sum of two points. -/
def Curve.add (c : Curve) : Option (Nat × Nat) → Option (Nat × Nat) → Option (Nat × Nat)
  | none, q => q
  | p, none => p
  | some (x1, y1), some (x2, y2) =>
    if x1 = x2 ∧ (y1 + y2) % c.p = 0 then none
    else
      let l := if x1 = x2 then (3 * x1 * x1 + c.a) * invMod c.p (2 * y1) % c.p
        else subMod c.p y2 y1 * invMod c.p (subMod c.p x2 x1) % c.p
      let x := subMod c.p (subMod c.p (l * l % c.p) x1) x2
      some (x, subMod c.p (l * subMod c.p x1 x % c.p) y1)

/-- The multiple of a point by the low `k` bits of `e`. -/
def Curve.mul (c : Curve) (e : Nat) (p : Option (Nat × Nat)) : Nat → Option (Nat × Nat)
  | 0 => none
  | k + 1 =>
    let r := c.mul (e / 2) p k
    let d := c.add r r
    if e % 2 = 1 then c.add d p else d

/-- The base point. -/
def Curve.base (c : Curve) : Option (Nat × Nat) := some (c.gx, c.gy)

/-- Whether a point lies on the curve. -/
def Curve.on (c : Curve) (x y : Nat) : Bool :=
  decide (x < c.p) && decide (y < c.p) && y * y % c.p == (x * x % c.p * x + c.a * x + c.b) % c.p

/-- ECDSA verification of a digest `e` against a public point. -/
def Curve.verify (c : Curve) (x y e r s : Nat) : Bool :=
  decide (0 < r) && decide (r < c.n) && decide (0 < s) && decide (s < c.n) && c.on x y &&
    (let w := invMod c.n s
     match c.add (c.mul (e * w % c.n) c.base 384) (c.mul (r * w % c.n) (some (x, y)) 384) with
     | none => false
     | some (v, _) => v % c.n == r)

/-- ECDSA signature of a digest `e` with a private key and a per-signature secret. -/
def Curve.sign (c : Curve) (d e k : Nat) : Nat × Nat :=
  let k := k % (c.n - 1) + 1
  let r := ((c.mul k c.base 384).getD (0, 0)).1 % c.n
  (r, invMod c.n k * ((e + r * d) % c.n) % c.n)

/-- A public key in uncompressed encoding: 0x04, X, Y (R211). -/
def Curve.pub (c : Curve) (d : Nat) : List Byte :=
  let q := (c.mul d c.base 384).getD (0, 0)
  4 :: (toBE 48 q.1 ++ toBE 48 q.2)

/-- A signature as 96 bytes, r then s (R211). -/
def Curve.sig (c : Curve) (d k : Nat) (msg : List Byte) : List Byte :=
  let (r, s) := c.sign d (ofBE (sha384 msg)) k
  toBE 48 r ++ toBE 48 s

/-- Whether a 96-byte signature over a message verifies under a 97-byte public key on brainpoolP384r1 (R212). -/
def verifySig (key msg sig : List Byte) : Bool :=
  key.headD 0 == 4 && key.length == 97 &&
    brainpool.verify (ofBE ((key.drop 1).take 48)) (ofBE ((key.drop 49).take 48)) (ofBE (sha384 msg)) (ofBE (sig.take 48))
      (ofBE ((sig.drop 48).take 48))

end Sys2Proof.Machine
end

