-- ==== Sys2Proof/Machine/Store.lean ====
section
/-! DEFINITION. A microcode store's banks: their states, the registers that show them, and poisoned words (R200, R227, R228). -/

namespace Sys2Proof.Machine

/-- State of a bank (R200), and the device with it set. -/
def Dev.bankState (d : Dev) (c b : Nat) : Nat := if b = 0 then d.get UCS.STAT.StateA c else d.get UCS.STAT.StateB c
def Dev.setBankState (d : Dev) (c b v : Nat) : Dev := if b = 0 then d.set UCS.STAT.StateA v c else d.set UCS.STAT.StateB v c

/-- VERSION of a bank: vendor and customer ImageVersion, 0 for a part not loaded. -/
def Bank.version (x : Bank) : Nat := ((x.vendor.map (·.1)).getD 0) + 2 ^ 32 * ((x.cust.map (·.1)).getD 0)

/-- VERSION, VERSION_ALT, SECVER and KEYS of a cluster brought up to date (R228). -/
def Dev.syncStore (d : Dev) (c : Nat) : Dev :=
  let ab := d.activeBank c
  let x := (d.store c).bank ab
  let y := (d.store c).bank (1 - ab)
  let sv := fun (p : Option (Nat × Nat)) => (p.map (·.2)).getD 0
  let d := (d.set UCS.VERSION.Version x.version c).set UCS.VERSION_ALT.Version y.version c
  let d := d.set UCS.SECVER.SecVer (sv x.vendor + 2 ^ 8 * sv x.cust + 2 ^ 16 * sv y.vendor + 2 ^ 24 * sv y.cust) c
  (d.set UCS.KEYS.ActiveKey x.key c).set UCS.KEYS.AltKey y.key c

/-- The device with a bank replaced; the words of `clean` are no longer poisoned. -/
def Dev.setBank' (d : Dev) (c b : Nat) (x : Bank) (clean : Nat → Bool) : Dev :=
  let s := d.store c
  let s := if b = 0 then { s with a := x } else { s with b := x }
  (d.setStore c { s with poison := s.poison.filter fun p => !(p / 32768 == b && clean (p % 32768)) }).syncStore c

/-- A bank holds nothing usable (R200). -/
def Dev.emptyBank (d : Dev) (c b : Nat) : Dev := (d.setBank' c b {} fun _ => true).setBankState c b 0

/-- A word has an uncorrectable error (R227): recorded first only, posted; an inactive bank becomes Empty. -/
def Dev.poisonWord (d : Dev) (c b a det : Nat) : Dev :=
  let d := if d.flag UCS.POISON.Valid c then d
    else ((d.set UCS.POISON.Address a c).set UCS.POISON.Bank b c).set UCS.POISON.Valid 1 c
  let d := d.postSys .ucs c 2 [c + 2 ^ 4 * (a % 2 ^ 15) + 2 ^ 19 * b]
  let x := d.store c
  let d := if det = 0 then d.setStore c { x with poison := x.poison ++ [b * 32768 + a] }
    else
      let y := x.bank b
      let y := { y with disp := Tab.put 0 y.disp a (putBits (Tab.get 0 y.disp a) 15 1 0) }
      d.setStore c (if b = 0 then { x with a := y } else { x with b := y })
  if b = d.activeBank c then d else d.emptyBank c b

end Sys2Proof.Machine
end

