-- ==== Sys2Proof/Machine/Engine.lean ====
section
/-! DEFINITION. Flow engines and their scheduler (R174 to R197), microwords (R202 to R209): punt entries, dispatch, the issue of one
microword, requests, the write journal and its seals, dispositions, aborts, and host commands. -/

namespace Sys2Proof.Machine

/-! ### Levels and threads -/

/-- A priority level's entries, and the device with a level replaced, LVL_STAT and LVL_HWM brought up to date. -/
def Dev.lvl (d : Dev) (l : Nat) : List FscEntry := Tab.get [] d.fsc.levels l
def Dev.setLvl (d : Dev) (l : Nat) (x : List FscEntry) : Dev :=
  let d := { d with fsc := { d.fsc with levels := Tab.put [] d.fsc.levels l x } }
  (d.set FSC.LVL_STAT.Waiting x.length 0 l).raise FSC.LVL_HWM.HighWater x.length 0 l

/-- Threads running at a level, and in a cluster. -/
def Dev.running (d : Dev) (l : Nat) : Nat := (d.threads.filter fun (e : Nat × Thread) => e.2.level == l).length
def Dev.busyThreads (d : Dev) (c : Nat) : List Nat := (d.threads.filter fun (e : Nat × Thread) => e.1 / 256 == c).map fun (e : Nat × Thread) => e.1 % 256

/-- A thread that runs. -/
def Dev.thr (d : Dev) (c t : Nat) : Option Thread := Tab.find d.threads (c * 256 + t)

/-- The device with a running thread's context replaced; `none` ends the thread. THR_COUNT, THR_STAT and LVL_STAT follow. -/
def Dev.setThr (d : Dev) (c t : Nat) (x : Option Thread) : Dev :=
  let k := c * 256 + t
  let lev := (match x with
    | some y => some y.level
    | none => (d.thr c t).map fun (y : Thread) => y.level).getD 0
  let threads := match x with
    | some y => Tab.set d.threads k y
    | none => Tab.del d.threads k
  let d := { d with threads := threads }
  let d := d.set FEN.THR_COUNT.Running (d.busyThreads c).length c
  let d := d.set FEN.THR_STAT.Busy (putBits (d.get FEN.THR_STAT.Busy c (t / 32)) (t % 32) 1 (b2n x.isSome)) c (t / 32)
  d.set FSC.LVL_STAT.Running (d.running lev) 0 lev

/-- A vendor-region address (R198), and whether an entry into it is legal (R209). -/
def vendorAddr (a : Nat) : Bool := decide (a < 0x6000)
def Dev.gateOk (d : Dev) (c b a : Nat) : Bool := !vendorAddr a || bit (d.microword c b a) 39

/-- The device's location of a dispatch entry (R210). -/
def Dev.dispEntry (d : Dev) (c op : Nat) : Nat := Tab.get 0 ((d.store c).bank (d.activeBank c)).disp op

/-! ### Host commands: replies (R194) -/

/-- A reply to a host command, or its loss. -/
def Dev.reply (d : Dev) (m : HostMsg) (status reason value : Nat) (items : List Nat) : Dev :=
  if d.get (HDR.OWNER.Function .evp) m.replyQ ≠ m.fn || m.stale then d.bump FSC.HCMD_STAT.ReplyDrop
  else
    let i0 := m.tag % 2 ^ 32 + 2 ^ 32 * m.opcode + 2 ^ 40 * status + 2 ^ 44 * reason + 2 ^ 48 * items.length + 2 ^ 51 * (value % 2 ^ 13)
    d.post .fsc 0 1 m.replyQ (i0 :: items)

/-- A host command answered without running: the reply, its buffer back in its pool (R191, R192). -/
def Dev.answerCmd (d : Dev) (m : HostMsg) (status : Nat) : Dev := (d.reply m status 0 0 []).freeBuf 132 m.handle

/-! ### Entries (R176, R179) -/

/-- A punted packet continues as a Forward with the ACTION it carries (R179). -/
def Dev.resumeForward (d : Dev) (pid : Nat) : Dev :=
  if (d.pkt pid).targets.isEmpty then d.dropPkt pid true
  else match d.natDecide pid with
    | (d, false) => d.dropPkt pid true
    | (d, true) =>
      let p := d.pkt pid
      let d := d.setPkt pid { p with
        punted := false, refs := p.targets.length, released := if p.domain.isNone then portSlices p.targets else p.released }
      let d := d.sendPin pid
      let d := if (d.pkt pid).annexDue then d else d.rewrite pid
      if p.ended && p.fcs ≠ 0 then d.badFrame pid else d

/-- An entry is refused at, or removed from, a level (R179). -/
def Dev.turnAway (d : Dev) (l : Nat) (w : Work) : Dev :=
  let d := d.count .fsc 0 (0x0B8 + l)
  match w with
  | .cmd m => d.answerCmd m 4
  | .pkt pid =>
    let p := d.pkt pid
    if p.action.getD 0 % 4 = 3 then d.dropPkt pid true
    else if d.flag FSC.LVL_CFG.Overflow 0 l then d.resumeForward pid
    else d.dropPkt pid false

/-- The order in which work of one cycle joins its level: by ingress slice, host commands last (R176). -/
def Dev.workRank (d : Dev) : Work → Nat
  | .pkt pid => (d.pkt pid).slice % 8
  | .cmd _ => 8

/-- Work joins a level, or is refused (R176, R179). -/
def Dev.enterLevel (d : Dev) (l : Nat) (w : Work) : Dev :=
  if min 32768 (d.get FSC.LVL_CFG.Limit 0 l) ≤ (d.lvl l).length ∨ 32768 ≤ d.fscUsed then d.turnAway l w
  else
    let es := d.lvl l
    let k := es.length - (es.reverse.takeWhile fun e => e.at0 == d.cyc && decide (d.workRank w < d.workRank e.work)).length
    d.setLvl l (es.take k ++ ⟨w, d.cyc⟩ :: es.drop k)

/-- FSC_ENTRY_ARRIVE of a punted packet (R176). -/
def execFscEntryArrive (pid : Nat) (s : State) : Host.Outcome State Fault Refusal :=
  nextD s fun d =>
    match Tab.find d.pkts pid with
    | none => d
    | some p =>
      if !p.punted || p.inFsc || p.dropped then d
      else
        let d := d.setPkt pid { p with inFsc := true }
        let a := p.action.getD 0
        d.enterLevel (if a % 4 = 3 then d.get FSC.CFG.SpillPrio else bits a 14 3) (.pkt pid)

/-- The oldest entry of a level that has waited Expire is removed (R179). -/
def execEntryExpire (level : Nat) (s : State) : Host.Outcome State Fault Refusal :=
  nextD s fun d =>
    match d.lvl level with
    | [] => d
    | e :: rest =>
      let x := d.get FSC.LVL_TIME.Expire 0 level
      if x = 0 then d else (((d.until (e.at0 + 20 * x)).setLvl level rest).turnAway level e.work)

/-- Whether a cluster takes part in dispatch (R177, R221). -/
def Dev.cluOn (d : Dev) (c : Nat) : Bool :=
  bit (d.get FSC.CLU_EN.Enable) c && d.accepts .fen c && !d.flag UCS.STAT.Draining c

/-- A HOST_CMD message as its buffer holds it (R191); a short message reads as zeros beyond its end. -/
def Dev.hostMsg (d : Dev) (h : Nat) : HostMsg × Bool :=
  let b := d.buf (handleKey h)
  let x := sliceB b.data 0 16
  let len := be x 9 1 * 256 + be x 8 1
  let prio := be x 1 1
  let rq := be x 3 1 * 256 + be x 2 1
  let m : HostMsg :=
    { fn := b.owner, handle := h, opcode := be x 0 1, replyQ := rq % 512,
      prio := if b.owner = 0 then prio % 8 else min (prio % 8) (d.get FSC.HCMD_CFG.VfMaxPrio),
      tag := ofLE (sliceB x 4 4), operands := sliceB b.data 16 (min len 496) }
  (m, !b.bad && decide (len ≤ 496) && decide (prio < 8) && decide (rq < 512) && ofLE (sliceB x 10 6) == 0)

/-- HOST_CMD_SUBMIT: FSC takes the next message handed to it (R191, R192). A message whose buffer is corrupt is Malformed (R451). A dispatch
entry that is not valid in any cluster's active bank answers NoEntry at once; otherwise the cluster that takes the entry reads its own. Where
several of NoEntry, Denied and Malformed hold, R192 does not say which is given: the first in its order is (DESIGN CHOICE, log entry
115). -/
def execHostCmdSubmit (s : State) : Host.Outcome State Fault Refusal :=
  nextD s fun d =>
    match d.fsc.inbox with
    | [] => d
    | h :: rest =>
      let d := { d with fsc := { d.fsc with inbox := rest } }
      let d := d.count .fsc 0 0x0C1
      let (m, ok) := d.hostMsg h
      let es := (List.range 16).map fun c => d.dispEntry c m.opcode
      if (d.buf (handleKey h)).bad then (d.count .fsc 0 0x0C2).answerCmd m 3
      else if !es.any (bit · 15) then (d.count .fsc 0 0x0C2).answerCmd m 1
      else if m.fn ≠ 0 && !es.any (fun e => bit e 15 && bit e 16) then (d.count .fsc 0 0x0C2).answerCmd m 2
      else if !ok then (d.count .fsc 0 0x0C2).answerCmd m 3
      else d.enterLevel m.prio (.cmd m)

/-! ### Requests and results (R180, R207, R208) -/

/-- A result is on its way to its thread. -/
def Dev.sendResult (d : Dev) (r : EngResult) : Dev := { d with results := d.results ++ [r] }

/-- The home RUU of a request's record; none for a location whose Ruu the cluster refuses itself (R145). -/
def Dev.tgtHome (d : Dev) : EngTgt → Option Nat
  | .digest dg => some (homeRuu dg)
  | .key k => some (homeRuu (cmacWhole d.ftb.digestKey 3 (sliceB k 0 48)))
  | .loc l _ => if l.ruu < 384 then some l.ruu else none

/-- A record request goes to its home RUU, or the cluster answers it Refused. -/
def Dev.sendEng (d : Dev) (src : EngSrc) (tgt : EngTgt) (kind : EngKind) : Dev :=
  match d.tgtHome tgt with
  | some r => d.sendReq r (.engine src tgt kind)
  | none => d.sendResult { src := src, status := 7 }

/-- The 16 bytes of a record request's status (R208). -/
def statusBytes (r : EngResult) (epoch : Nat) : List Byte :=
  toLE 8 (b2n (r.status == 0) + 2 ^ 4 * r.status + 2 ^ 8 * r.handle) ++
    toLE 8 (((r.loc.map Loc.word).getD 0) + (if r.loc.isSome then 2 ^ 32 * epoch else 0))

/-- The result of a routine's filter search (R277): the group's winner, its action word read; its banks' results are counted (R279), its
entries' hits are not (R272). -/
def Dev.searchResult (d : Dev) (x : AclSearch) : Dev × List Byte :=
  let second := b2n (x.banks.any fun h => h.masked.isSome)
  let (d, ws) := d.winners x.gen x.banks [x.group]
  (d.searchDone x.banks ws, match ws with
    | w :: _ => toLE 8 (1 + 2 * w.bank + 2 ^ 5 * w.idx + 2 ^ 17 * w.count + 2 ^ 25 * second) ++ toLE 8 w.act
    | [] => toLE 8 (2 ^ 25 * second) ++ toLE 8 0)

/-- The 16 bytes of a result as it arrives: `err` says that HBC has found the word that a general-region or map entry read needs
uncorrectable. A NAT lookup of an entry read from HBM, and a filter search, are made here. -/
def Chip.resultBytes (c : Chip) (r : EngResult) (err : Bool) : Chip × List Byte :=
  match r.nat, r.search, r.raw with
  | some a, _, _ =>
    let (c, v) := c.natLookup a err
    (c, toLE 8 v ++ toLE 8 0)
  | none, some x, _ =>
    let (d, b) := c.dev.searchResult x
    ({ c with dev := d }, b)
  | none, none, some b => (c, if r.flag && err then toLE 8 (2 ^ 4 * 8) ++ toLE 8 0 else b)
  | none, none, none => (c, statusBytes r (c.dev.get FTB.EPOCH.Epoch))

/-- RESULT_ARRIVE: the next result arrives in its slot, and in the record buffer where the request loads it (R180, R189, R208). What its lookup
does stands also where the thread has ended (R251). -/
def execResultArrive (err : Bool) (s : State) : Host.Outcome State Fault Refusal :=
  nextC s fun c =>
    match c.dev.results with
    | [] => c
    | r :: rest =>
      let (c, b) := (c.upd fun d => { d with results := rest }).resultBytes r err
      c.upd fun d =>
        match d.thr r.src.cluster r.src.thread with
        | none => d
        | some x =>
          if x.run ≠ r.src.run then d
          else d.setThr r.src.cluster r.src.thread (some { x with
            slots := putB x.slots (16 * r.src.slot) b
            wait := x.wait.erase r.src.slot
            recB := if r.src.load && r.status == 0 then sliceB r.data 0 64 else x.recB })

/-- The filter search of a routine at the current generation (R277): both passes of its banks, whose results go on to the thread. -/
def Dev.routineSearch (d : Dev) (op : List Byte) : Dev × AclSearch :=
  let gen := d.get GLB.COMMIT_STAT.Gen
  let g := be op 0 1 % 4
  let fk := sliceB op 8 80
  let ns := (List.range 16).filter fun n => d.cfgOf gen ACL.BANK_CFG.Group n == g && d.searches gen n (be op 1 1 % 8) (be op 2 1 % 16)
  let (d, hs) := ns.foldl (fun (s : Dev × List BankHit) n =>
    let (d, h) := (s.1.count .acl n 0x129).firstPass gen n fk
    (d, s.2 ++ [h])) (d, [])
  let (d, hs) := d.eachBank hs fun d h => if h.again then d.secondPass gen h.bank fk h else (d, h)
  (d, { gen := gen, group := g, fkey := fk, banks := hs })

/-- The result of a lookup in LPM, L2T or ECM (R255): its 16 bytes. -/
def Dev.tableLookup (d : Dev) (sub : Nat) (op : List Byte) : List Byte :=
  match sub with
  | 0 =>
    let v6 := bit (be op 0 1) 0
    match d.fwd.lpm v6 (be op 1 1) (be op 16 (if v6 then 16 else 4)) with
    | none => toLE 16 0
    | some (len, res) => toLE 8 (1 + 2 ^ 8 * len + 2 ^ 16 * res) ++ toLE 8 0
  | 1 =>
    match d.l2Find (be op 0 6) (ofLE (sliceB op 6 2) % 4096) with
    | none => toLE 16 0
    | some (_, e) => toLE 8 (1 + 2 * e.port + 2 ^ 9 * b2n e.static + 2 ^ 10 * b2n e.router + 2 ^ 11 * b2n e.learned) ++ toLE 8 0
  | _ =>
    let g := d.fwd.group (ofLE (sliceB op 0 2))
    let pick := if bit (be op 14 1) 0 then
        let m := ofLE (sliceB op 12 2)
        if m < g.slotCount then some m else none
      else d.fwd.stateless g (ofLE (sliceB op 8 4))
    match pick with
    | none => toLE 16 0
    | some m =>
      let x := d.fwd.slot (g.slotBase + m)
      toLE 8 (1 + 2 * m + 2 ^ 13 * x.nextHop + 2 ^ 29 * x.state) ++ toLE 8 0

/-- A lookup of a routine (R255, R277) sets out; its result goes to `src`. A NAT lookup whose map entry is in HBM reads it through port 5, and
waits there for room (R250, R313). -/
def Chip.sendLookup (c : Chip) (src : EngSrc) (sub : Nat) (op : List Byte) : Chip :=
  let r : EngResult := { src := src, status := 0, look := some sub }
  match sub with
  | 3 =>
    match c.dev.natReads (be op 0 4) with
    | some a => c.hbmIssue (a / 2 ^ 29) { readOf 5 0 a with eng := some (src, 0), nat := some (be op 0 4) }
    | none => c.upd (·.sendResult { r with nat := some (be op 0 4) })
  | 4 => c.upd fun d =>
      let (d, x) := d.routineSearch op
      d.sendResult { r with search := some x }
  | _ => c.upd fun d => d.sendResult { r with raw := some (d.tableLookup sub op) }

/-! ### Disposition (R185, R186, R93) -/

/-- A packet's copy targets change: numbers of slices it no longer targets are voided (R93). -/
def Dev.retarget (d : Dev) (pid : Nat) (ports : List Nat) (mcast : Bool) : Dev :=
  let p := d.pkt pid
  let keep := portSlices ports
  let gone := p.seqs.filter fun x => !keep.contains x.1
  let vs := match p.domain with
    | some dom => gone.map fun x => (x.1, dom, x.2.1, x.2.2)
    | none => []
  let d := d.setPkt pid { p with targets := ports, seqs := p.seqs.filter fun x => keep.contains x.1,
                                 multi := mcast || decide (1 < ports.length) }
  { d with eg := { d.eg with voidQ := d.eg.voidQ ++ vs } }

/-- The head of a packet is rewritten into new cells (R186); `false` where admission refuses one. -/
def Dev.headWrite (d : Dev) (pid : Nat) (head : List Byte) (cluster : Nat) : Dev × Bool :=
  let n := ceilDiv head.length 256
  let p := d.pkt pid
  let old := d.cellsOf pid
  let (d, got) := (List.range n).foldl (fun (s : Dev × Nat) _ =>
    let (d, ok) := s.1.admitCell p.gen p.port p.cls
    if ok then (d.linkCell pid p.port p.cls, s.2 + 1) else (d, s.2)) (d.noHead pid, 0)
  if got < n then
    let d := d.giveCells pid
    let heads := match old with
      | c :: _ => Tab.set d.bsn.heads pid c
      | [] => d.bsn.heads
    ({ d with bsn := { d.bsn with heads := heads } }.count .fen cluster 0x0DD, false)
  else
    let d := (old.take 1).foldl Dev.giveCell (d.joinCells pid (old.drop 1))
    let bytes := head ++ p.bytes.drop 256
    let came := if p.ended then p.asCame else some (p.asCame.getD (crc32 p.bytes, p.len))
    (d.setPkt pid { p with cells := p.cells + n - 1, total := p.total + n - 1, bytes := bytes, outB := bytes, len := bytes.length + 4,
                           asCame := came, parsed := d.parse p.slice bytes }, true)

/-- A Forward of a packet that has not been dropped meanwhile is carried out at the seal of the end microword (R185, R187); `targets` are those of the descriptor area. -/
def Dev.engForward (d : Dev) (pid kind port queue group headLen cluster : Nat) (head : List Byte) (targets : List Nat) : Dev :=
  let p := d.pkt pid
  if p.dropped then d else
  let ports := if kind = 0 then targets else if kind = 1 then (if port < 138 then [port] else []) else d.mcastPorts (group % 2 ^ 14) p.port
  let (d, ok) := if headLen = 0 then (d, true) else d.headWrite pid (sliceB head 0 headLen) cluster
  if !ok || ports.isEmpty then d.dropPkt pid true
  else
    let d := d.retarget pid ports (kind == 2 || (kind == 0 && p.multi))
    let p := d.pkt pid
    let p := { p with punted := false, refs := ports.length, released := if p.domain.isNone then portSlices ports else p.released,
                      queueSel := if kind = 1 then some (queue % 16) else p.queueSel,
                      edits := if kind = 0 then p.edits else { p.edits with raw := false, hop := none } }
    let d := (d.setPkt pid p).rewrite pid
    if p.ended && p.fcs ≠ 0 then d.badFrame pid else d

/-! ### Seals (R181 to R184) -/

/-- One sealed entry is sent to its target. -/
def Chip.sendEntry (c : Chip) (cl t : Nat) (x : Thread) (i : Nat) (j : Journal) : Chip :=
  let src := fun (slot : Nat) (load : Bool) => ({ cluster := cl, thread := t, run := x.run, slot := slot, load := load, sealed := some i } : EngSrc)
  let eng := fun (slot : Nat) (load : Bool) (tgt : EngTgt) (k : EngKind) => c.upd fun d =>
    let d := match d.thr cl t with
      | some y => if y.run = x.run then d.setThr cl t (some { y with wait := y.wait ++ [slot] }) else d
      | none => d
    d.sendEng (src slot load) tgt k
  match j with
  | .ops tgt ws slot => eng slot true tgt (.ops ws)
  | .write tgt mask img slot => eng slot false tgt (.write mask img)
  | .insert tgt img slot => eng slot false tgt (.insert img)
  | .delete tgt slot => eng slot false tgt .delete
  | .gen a v => c.hbmWrite 1 (threadSrc cl t) a (toLE 8 v)
  | .event q items => c.upd (·.post .fen cl 1 q items)
  | .forward k port queue group hl => match x.work with
    | .pkt pid => c.upd (·.engForward pid k port queue group hl cl x.head ((x.pktDesc.map (·.targets)).getD []))
    | .cmd _ => c
  | .drop => match x.work with
    | .pkt pid => c.upd (·.dropPkt pid true)
    | .cmd _ => c
  | .reply items v => match x.work with
    | .cmd m => c.upd (·.reply m 0 0 v items)
    | .pkt _ => c
  | .fence => c

/-- Whether an entry disposes of the thread's work. -/
def Journal.disposes : Journal → Bool
  | .forward .. => true
  | .drop => true
  | .reply .. => true
  | _ => false

/-- A routine that ends without a disposition, or a reply (R185, R193). -/
def Dev.noDisposition (d : Dev) (cl : Nat) (x : Thread) : Dev :=
  match x.work with
  | .pkt pid => (d.count .fen cl 0x0DC).dropPkt pid true
  | .cmd m => d.reply m 6 0 0 []

/-- Entries of a seal are sent in journal order, and those left behind a fence that has not completed (R311): a write of the thread to
the general region is still to be accepted. -/
def Chip.sendEntries (cl t : Nat) (x : Thread) : List (Nat × Journal) → Chip → Chip × List (Nat × Journal)
  | [], c => (c, [])
  | e :: rest, c =>
    if e.2 = .fence && c.dev.unaccepted 1 (threadSrc cl t) then (c, e :: rest) else Chip.sendEntries cl t x rest (c.sendEntry cl t x e.1 e.2)

/-- The last entries of a routine's end microword have been sent: one that had no disposition or reply among them, also because an error took
it (R190), ends without one (DESIGN CHOICE, log entry 98). -/
def Chip.sealDone (c : Chip) (cl : Nat) (x : Thread) (was left : List (Nat × Journal)) : Chip :=
  match x.sealing with
  | none => c
  | some sl => if sl.fin && left.isEmpty && !was.any (fun e => e.2.disposes) then c.upd (·.noDisposition cl x) else c

/-- The sealed entries that an aborted thread left behind a fence are sent as far as its fences let them (R189, R311). -/
def Chip.sendOrphan (c : Chip) (o : Orphan) : Chip :=
  let (c, left) := Chip.sendEntries o.cluster o.thread o.ctx o.left c
  let c := c.upd fun d => { d with fsc := { d.fsc with
    orphans := d.fsc.orphans.flatMap fun y => if y ≠ o then [y] else if left.isEmpty then [] else [{ o with left := left }] } }
  c.sealDone o.cluster o.ctx o.left left

/-- The orphans that `sel` selects. -/
def Chip.sendOrphans (c : Chip) (sel : Orphan → Bool) : Chip := (c.dev.fsc.orphans.filter sel).foldl Chip.sendOrphan c

/-- The entries of a seal still to be sent are sent as far as its fences let them. -/
def Chip.sendSeal (c : Chip) (cl t : Nat) : Chip :=
  match c.dev.thr cl t with
  | none => c
  | some x => match x.sealing with
    | none => c
    | some sl =>
      let (c, left) := Chip.sendEntries cl t x sl.left c
      let c := c.upd fun d => match d.thr cl t with
        | none => d
        | some y => d.setThr cl t (some { y with sealing := some { sl with left := left, sent := left.isEmpty } })
      if sl.sent then c else c.sealDone cl x sl.left left

/-! ### Ends and aborts (R189) -/

/-- A thread leaves: its context goes, and a host command's buffer returns to its pool (R175, R191). -/
def Dev.endThread (d : Dev) (cl t : Nat) (x : Thread) : Dev :=
  let d := d.setThr cl t none
  match x.work with
  | .cmd m => d.freeBuf 132 m.handle
  | .pkt _ => d

/-- Whether a cluster's trial is running: its TrialTime has not run out (R222). -/
def Dev.onTrial (d : Dev) (c : Nat) : Bool :=
  d.flag UCS.STAT.Trial c && match (d.store c).trialEnd with
    | some t => decide (d.cyc < t)
    | none => true

/-- A thread aborts (R189): what it has sealed is carried out, what a fence holds of it once the fence completes; its unsealed entries and
context go. -/
def Chip.abortThread (c : Chip) (cl t reason : Nat) : Chip :=
  let c := c.sendSeal cl t
  match c.dev.thr cl t with
  | none => c
  | some x => c.upd fun d =>
    let done := (x.sealing.map (·.fin)).getD false
    let left := (x.sealing.map (·.left)).getD []
    let d := d.endThread cl t x
    let d := if left.isEmpty then d else { d with fsc := { d.fsc with orphans := d.fsc.orphans ++ [⟨cl, t, x, left⟩] } }
    let d := match x.work with
      | .pkt pid => if (d.pkt pid).punted && !(done && !left.isEmpty) then d.dropPkt pid false else d
      | .cmd m => if reason = 7 || done then d else d.reply m 5 reason 0 []
    let d := d.count .fen cl (0x0D3 + reason)
    let d := ((d.set FEN.ABORT_LAST.Reason reason cl).set FEN.ABORT_LAST.Thread t cl).set FEN.ABORT_LAST.Address x.pc cl
    let d := d.set FEN.ABORT_LAST.Bank x.bank cl
    let d := if d.onTrial cl && (reason == 4 || reason == 5) then
        d.setStore cl { d.store cl with trialAborts := (d.store cl).trialAborts + 1 } else d
    d.postSys .fen cl 2 [cl + 2 ^ 4 * t + 2 ^ 12 * x.pc + 2 ^ 27 * x.bank + 2 ^ 28 * reason]

/-- A gate violation is counted, and aborts as Illegal (R209). -/
def Chip.gateAbort (c : Chip) (cl t : Nat) : Chip := (c.upd (·.count .ucs cl 0x0E5)).abortThread cl t 5

/-! ### Dispatch (R177, R178, R175) -/

/-- A fresh context for a packet's routine. -/
def Dev.packetThread (d : Dev) (pid l bank : Nat) : Thread :=
  let p := d.pkt pid
  let a := p.action.getD 0
  let entry := if a % 4 = 3 then
      bits ((d.tplOf p.gen).word (d.cfgOf p.gen PRS.KP_TPL.TplSel p.slice p.profile) 0) 32 15
    else bits a 96 15
  { run := d.fsc.nextRun, work := .pkt pid, level := l, bank := bank, pc := entry, at0 := d.cyc,
    desc := toLE 16 a ++ sliceB p.key 0 48,
    pktDesc := some ⟨p.port, p.cls, compact p.stamp, p.seqs, p.targets⟩,
    head := sliceB (p.bytes.take 256) 0 512,
    recB := if bit a 2 then toLE 64 p.recB else List.replicate 64 0 }

/-- A fresh context for a host command's routine. -/
def Dev.cmdThread (d : Dev) (m : HostMsg) (l bank entry : Nat) : Thread :=
  { run := d.fsc.nextRun, work := .cmd m, level := l, bank := bank, pc := entry, at0 := d.cyc,
    desc := sliceB (d.buf (handleKey m.handle)).data 0 16 ++ List.replicate 48 0,
    head := sliceB m.operands 0 512 }

/-- The lowest-numbered free thread of a cluster: one that does not run, and of which nothing sealed is left to send (R311). -/
def Dev.freeThread (d : Dev) (c : Nat) : Option Nat :=
  let busy := d.busyThreads c
  (List.range 256).find? fun t => !busy.contains t && !d.fsc.orphans.any fun o => o.cluster == c && o.thread == t

/-- The enabled cluster with the most free threads, the lower number on a tie. -/
def Dev.bestCluster (d : Dev) : Option Nat :=
  ((List.range 16).filter fun c => d.cluOn c && (d.freeThread c).isSome).foldl (fun (b : Option Nat) c =>
    match b with
    | none => some c
    | some x => if (d.busyThreads c).length < (d.busyThreads x).length then some c else b) none

/-- The level the next dispatch takes from, and whether by ageing (R177). -/
def Dev.nextLevel (d : Dev) : Option (Nat × Bool) :=
  let ok := fun (l : Nat) => !(d.lvl l).isEmpty &&
    (let m := d.get FSC.LVL_CFG.MaxThreads 0 l
     m == 0 || decide (d.running l < m))
  let aged := fun (l : Nat) => match d.lvl l with
    | [] => false
    | e :: _ =>
      let w := d.get FSC.LVL_TIME.MaxWait 0 l
      w != 0 && decide (e.at0 + 20 * w ≤ d.cyc)
  let down := [7, 6, 5, 4, 3, 2, 1, 0].filter ok
  match down.find? aged with
  | some l => some (l, true)
  | none => down.head?.map fun l => (l, false)

/-- One entry is dispatched to the lowest-numbered free thread of its cluster (R177); a routine whose first word is a vendor word
without Gate aborts (R209); a command whose dispatch entry refuses it is answered (R192). -/
def Chip.dispatchOne (c : Chip) : Chip :=
  let d := c.dev
  match d.nextLevel, d.bestCluster with
  | some (l, aged), some cl =>
    match d.lvl l with
    | [] => c
    | e :: rest =>
      let d := (d.setLvl l rest).count .fsc 0 (0x0B0 + l)
      let d := if aged then d.count .fsc 0 0x0C0 else d
      let t := (d.freeThread cl).getD 0
      let bank := d.activeBank cl
      let start := fun (d : Dev) (x : Thread) =>
        let d := { d with fsc := { d.fsc with nextRun := d.fsc.nextRun + 1 } }
        let c : Chip := { c with dev := (d.setThr cl t (some x)).count .fen cl 0x0D0 }
        if d.gateOk cl bank x.pc then c else c.gateAbort cl t
      match e.work with
      | .pkt pid => start d (d.packetThread pid l bank)
      | .cmd m =>
        let en := d.dispEntry cl m.opcode
        if !bit en 15 then { c with dev := (d.count .fsc 0 0x0C2).answerCmd m 1 }
        else if m.fn ≠ 0 && !bit en 16 then { c with dev := (d.count .fsc 0 0x0C2).answerCmd m 2 }
        else start d (d.cmdThread m l bank (bits en 0 15))
  | _, _ => c

/-- `n` dispatches. -/
def Chip.dispatchN : Nat → Chip → Chip
  | 0, c => c
  | n + 1, c => Chip.dispatchN n c.dispatchOne

/-- FSC_DISPATCH: the dispatches of one CLK_CORE cycle (R177); none while the levels are recounted (R190) or a soft reset runs. -/
def execFscDispatch (s : State) : Host.Outcome State Fault Refusal :=
  nextC s fun c =>
    if c.dev.fsc.recount || !c.dev.accepts .fsc || c.dev.glb.dpr ≠ .idle then c
    else Chip.dispatchN (min 4 (max 1 (c.dev.get FSC.CFG.Rate))) c

/-- FSC_LEVEL_RECOUNT_DONE (R190). -/
def execFscLevelRecountDone (s : State) : Host.Outcome State Fault Refusal :=
  nextD s fun d => { d with fsc := { d.fsc with recount := false } }

/-! ### One microword (R202 to R208) -/

/-- Result, carry or borrow of an ALU operation (R205). -/
def aluOp (op a b now : Nat) : Nat × Bool :=
  let m := 2 ^ 64
  let sh := b % 64
  match op with
  | 1 => (b, false)
  | 2 => ((a + b) % m, decide (m ≤ a + b))
  | 3 => ((a + m - b) % m, decide (a < b))
  | 4 => (a &&& b, false)
  | 5 => (a ||| b, false)
  | 6 => (a ^^^ b, false)
  | 7 => (a * 2 ^ sh % m, false)
  | 8 => (a / 2 ^ sh, false)
  | 9 => (uint 64 (sint 64 a / (2 ^ sh : Nat)), false)
  | 10 => ((a + m - b) % m, decide (a < b))
  | 11 => (a &&& b, false)
  | 12 => (let k := bits b 8 6
           if k = 0 then a / 2 ^ sh else a / 2 ^ sh % 2 ^ k, false)
  | 13 => (ofLE (toLE 8 a).reverse, false)
  | 14 => (now, false)
  | _ => (0, false)

/-- Whether a condition holds (R204). -/
def Thread.cond (x : Thread) : Nat → Bool
  | 0 => true
  | 1 => x.z
  | 2 => !x.z
  | 3 => x.n
  | 4 => !x.n
  | 5 => x.c
  | 6 => !x.c
  | _ => bit (be x.desc 0 1) 2

/-- A context area, and the thread with an area replaced (R206). -/
def Thread.area (x : Thread) : Nat → List Byte
  | 0 => x.desc
  | 1 => x.head
  | 2 => x.recB
  | 3 => x.slots
  | _ => x.scratch
def Thread.setArea (x : Thread) (k : Nat) (b : List Byte) : Thread :=
  match k with
  | 1 => { x with head := b }
  | 2 => { x with recB := b }
  | 4 => { x with scratch := b }
  | _ => x

/-- The request space (R207). -/
def Thread.reqSpace (x : Thread) : List Byte := sliceB x.scratch 0 512 ++ sliceB x.head 0 512

/-- Whether an operand of `n` bytes at `o` is 8-byte aligned and lies in one area. -/
def operandOk (o n : Nat) : Bool := o % 8 == 0 && (decide (o + n ≤ 512) || (decide (512 ≤ o) && decide (o + n ≤ 1024)))

/-- What a word's request port asks for: nothing, an Illegal abort, a request sent now, a lookup, a general-region read, or a
journal entry. -/
inductive PortAsk where
  | none
  | illegal
  | read (tgt : EngTgt)
  | look (sub : Nat) (op : List Byte)
  | gen (a : Nat)
  | jot (j : Journal)
  deriving DecidableEq, Repr

/-- The key of the thread's packet, and its digest. -/
def Dev.ownKey (d : Dev) (x : Thread) : Option (List Byte × Nat) :=
  match x.work with
  | .pkt pid => some ((d.pkt pid).key, (d.pkt pid).digest)
  | .cmd _ => none

/-- Bytes of an operand's header and address for a ReqSub. -/
def addrLen : Nat → Nat
  | 0 => 8
  | 1 => 24
  | 2 => 16
  | _ => 56

/-- The record a request names (R207). -/
def Dev.reqTgt (d : Dev) (x : Thread) (sub : Nat) (op : List Byte) (ins : Bool) : Option EngTgt :=
  match sub with
  | 0 => (d.ownKey x).map fun k => if ins then .key k.1 else .digest k.2
  | 1 => some (.digest (ofLE (sliceB op 8 16)))
  | 2 => some (.loc (locOfWord (ofLE (sliceB op 8 4))) (ofLE (sliceB op 12 2)))
  | 3 => some (.key (sliceB op 8 48))
  | _ => none

/-- The HBM address a GenRead or GenWrite names, where it lies in the general region (R102, R207). -/
def Dev.genAddr (d : Dev) (op : List Byte) : Option Nat :=
  let w := ofLE (sliceB op 0 8)
  let a := bits w 0 29
  let r := bits w 29 9
  if a % 8 ≠ 0 ∨ 383 < r ∨ a < generalBase (d.get FTB.GEOM_STAT.MaxLog2) ∨ generalEnd < a + 8 then none else some (hbmAddr r a)

/-- Items of a list of bytes. -/
def items64 (b : List Byte) (n : Nat) : List Nat := (List.range n).map fun i => ofLE (sliceB b (8 * i) 8)

/-- The request of a word (R207, R208). Of these the manual does not speak, and they are Illegal (DESIGN CHOICE, log entry 43): an EventPost with
no item at all, an EventPost with ReqSub 1 in a host-command routine, which has no FLOW_KEY, and a Reply with Items above 6. -/
def Dev.portAsk (d : Dev) (x : Thread) (w : Nat) : PortAsk :=
  let op := bits w 97 4
  let sub := bits w 101 4
  let slot := bits w 105 4
  let fin := bit w 38
  let pkt := match x.work with
    | .pkt _ => true
    | .cmd _ => false
  let o := (x.gp.getD (bits w 109 4) 0)
  let b := x.reqSpace.drop o
  let hdr := ofLE (sliceB b 0 8)
  let need := fun (n : Nat) (k : PortAsk) => if operandOk o n then k else .illegal
  let record := fun (n : Nat) (ins : Bool) (k : EngTgt → PortAsk) => match d.reqTgt x sub b ins with
    | none => .illegal
    | some t => need (max n (addrLen sub)) (k t)
  match op with
  | 0 => .none
  | 1 => record 8 false fun t => .read t
  | 2 =>
    let n := hdr % 16
    if 8 < n then .illegal else record (64 + 8 * n) false fun t => .jot (.ops t (items64 (b.drop 64) n) slot)
  | 3 => record 128 false fun t => .jot (.write t (bits hdr 4 5) (ofLE (sliceB b 64 64)) slot)
  | 4 => if sub ≠ 0 ∧ sub ≠ 3 then .illegal else record 128 true fun t => .jot (.insert t (ofLE (sliceB b 64 64)) slot)
  | 5 => record 8 false fun t => .jot (.delete t slot)
  | 6 => if 4 < sub then .illegal else
      need (match sub with
        | 0 => 32
        | 1 => 8
        | 2 => 16
        | 3 => 4
        | _ => 88) (.look sub (b.take 88))
  | 7 => need 8 (match d.genAddr b with
      | none => .illegal
      | some a => .gen a)
  | 8 => need 16 (match d.genAddr b with
      | none => .illegal
      | some a => .jot (.gen a (ofLE (sliceB b 8 8))))
  | 9 =>
    let n := be b 2 1
    let own := if sub = 1 then (d.ownKey x).map fun k => items64 k.1 6 else if sub = 0 then some [] else Option.none
    match own with
    | Option.none => .illegal
    | some more => if 7 < n + more.length ∨ n + more.length = 0 then .illegal
        else need (8 + 8 * n) (.jot (.event (ofLE (sliceB b 0 2) % 512) (items64 (b.drop 8) n ++ more)))
  | 10 =>
    let hl := ofLE (sliceB b 8 2)
    if !fin || !pkt || decide (2 < be b 0 1) || decide (512 < hl) then .illegal
    else need 10 (.jot (.forward (be b 0 1) (ofLE (sliceB b 2 2)) (be b 4 1) (ofLE (sliceB b 6 2)) hl))
  | 11 => if !fin || !pkt then .illegal else .jot .drop
  | 12 =>
    let n := be b 0 1
    if !fin || pkt || decide (6 < n) then .illegal
    else need (8 + 8 * n) (.jot (.reply (items64 (b.drop 8) n) (ofLE (sliceB b 2 2) % 2 ^ 13)))
  | 13 => .jot .fence
  | _ => .illegal

/-- Whether a word breaks R202 to R206 by itself. -/
def wordIllegal (w : Nat) : Bool :=
  let fin := bit w 38
  let seq := bits w 30 3
  let xop := bits w 40 5
  let yop := bits w 59 5
  let cop := bits w 76 3
  let area := bits w 79 3
  let off := bits w 82 9
  let wid := 2 ^ bits w 91 2
  let xw := xop != 0 && xop != 10 && xop != 11
  let yw := yop != 0
  let cw := cop == 1 || cop == 3
  let xd := bits w 45 4
  let yd := bits w 64 4
  let cd := bits w 93 4
  bits w 113 15 != 0 ||
    (!fin && (decide (4 < seq) || (seq == 1 && decide (7 < bits w 33 4)) || (seq == 2 && w % 16 != 0))) ||
    decide (14 < xop) || (xop != 0 && decide (1 < bits w 57 2)) || decide (13 < yop) || yop == 10 || yop == 11 ||
    (cop != 0 && (decide (4 < cop) || decide (4 < area) || off % wid != 0 ||
      decide ((match area with
        | 0 => 64
        | 1 => 512
        | 2 => 64
        | 3 => 256
        | _ => 512) < off + wid) || ((cop == 2 || cop == 4) && (area == 0 || area == 3)))) ||
    (xw && yw && xd == yd) || (xw && cw && xd == cd) || (yw && cw && yd == cd)

/-- The next address and return stack (R204); `Except.error true` is a gate violation, `false` any other Illegal. A Multi in a word whose XOp
is NOP, to which R205 gives no result, takes 0 as the result's bits (DESIGN CHOICE, log entry 117). -/
def Dev.nextPc (d : Dev) (cl : Nat) (x : Thread) (w xres : Nat) : Except Bool (Nat × List Nat) :=
  let next := bits w 0 15
  let alt := bits w 15 15
  let go := fun (a : Nat) (call : Bool) (st : List Nat) =>
    if vendorAddr a && !vendorAddr x.pc && (!call || !d.gateOk cl x.bank a) then .error true else .ok (a, st)
  match bits w 30 3 with
  | 0 => go next false x.stack
  | 1 => go (if x.cond (bits w 33 4) then next else alt) false x.stack
  | 2 => go (next + xres % 16) false x.stack
  | 3 => if 4 ≤ x.stack.length then .error false else go next true (alt :: x.stack)
  | 4 => match x.stack with
    | [] => .error false
    | a :: st => .ok (a, st)
  | _ => .error false

/-- The units of a word read, then write together (R203): ALUs and context port. -/
def Thread.units (x : Thread) (w now : Nat) : Thread × Nat :=
  let gp := fun (i : Nat) => x.gp.getD i 0
  let xop := bits w 40 5
  let yop := bits w 59 5
  let cop := bits w 76 3
  let area := bits w 79 3
  let off := bits w 82 9
  let wid := 2 ^ bits w 91 2
  let creg := bits w 93 4
  let xb := if bits w 57 2 = 1 then bits w 128 64 else gp (bits w 53 4)
  let (xr, xc) := aluOp xop (gp (bits w 49 4)) xb now
  let (yr, _) := aluOp yop (gp (bits w 68 4)) (gp (bits w 72 4)) now
  let ld := sliceB (x.area area) off wid
  let ldv := if cop = 1 then ofLE ld else ofBE ld
  let regs := x.gp
  let regs := if xop ≠ 0 ∧ xop ≠ 10 ∧ xop ≠ 11 then regs.set (bits w 45 4) xr else regs
  let regs := if yop ≠ 0 then regs.set (bits w 64 4) yr else regs
  let regs := if cop = 1 ∨ cop = 3 then regs.set creg ldv else regs
  let y := if cop = 2 then x.setArea area (putB (x.area area) off (toLE wid (gp creg)))
    else if cop = 4 then x.setArea area (putB (x.area area) off (toBE wid (gp creg)))
    else x
  let y := { y with gp := regs }
  (if xop = 0 then y else { y with z := xr == 0, n := bit xr 63, c := xc }, xr)

/-- A request that leaves at once, or a journal entry (R180, R184). -/
def Chip.askPort (c : Chip) (cl t slot : Nat) (x : Thread) : PortAsk → Chip × Thread
  | .none => (c, x)
  | .illegal => (c, x)
  | .read tgt =>
    let src : EngSrc := { cluster := cl, thread := t, run := x.run, slot := slot, load := true }
    (c.upd (·.sendEng src tgt .read), { x with wait := x.wait ++ [slot] })
  | .look sub op =>
    (c.sendLookup { cluster := cl, thread := t, run := x.run, slot := slot } sub op, { x with wait := x.wait ++ [slot] })
  | .gen a =>
    let src : EngSrc := { cluster := cl, thread := t, run := x.run, slot := slot }
    (c.hbmIssue (a / 2 ^ 29) { readOf 1 (threadSrc cl t) a with eng := some (src, a % 2 ^ 29) }, { x with wait := x.wait ++ [slot] })
  | .jot j =>
    let n := x.journal.length + 1
    (c.upd (·.raise FEN.JRN_HWM.HighWater n cl), { x with journal := x.journal ++ [j] })

/-- Whether a request is journalled. -/
def PortAsk.jots : PortAsk → Bool
  | .jot _ => true
  | _ => false

/-- Whether a thread is ready (R174): it runs, and waits neither at a safe point nor for a result slot that its next word uses. -/
def Dev.threadReady (d : Dev) (cl t : Nat) : Bool :=
  match d.thr cl t with
  | none => false
  | some x =>
    let w := d.microword cl x.bank x.pc
    x.sealing.isNone && ((d.store cl).poison.contains (x.bank * 32768 + x.pc) || wordIllegal w || !(wordSlots w).any x.wait.contains)

/-- The thread that an engine picks: the first ready one after the thread that issued last, in round-robin order (R174). Before its first
issue the order begins with thread 0, of which the manual does not speak (DESIGN CHOICE, log entry 116). -/
def Dev.enginePick (d : Dev) (cl e : Nat) : Option Nat :=
  let last := Tab.get 31 d.fsc.rotor (8 * cl + e)
  ((List.range 32).map fun k => (last + 1 + k) % 32).find? fun k => d.threadReady cl (32 * e + k)

/-- An engine issues a word of a thread: one each CLK_FE cycle, of which there are four to three CLK_CORE cycles (R19, R174). A CLK_FE
cycle in which an engine of the cluster issues is counted once (R197). -/
def Dev.engineIssue (d : Dev) (cl t : Nat) : Dev :=
  let k := 8 * cl + t / 32
  let fe := max (d.cyc * 4 / 3) (Tab.get 0 d.fsc.feNext k)
  let new := decide (Tab.get 0 d.fsc.feSeen cl ≤ fe)
  let d := { d with fsc := { d.fsc with
    rotor := Tab.set d.fsc.rotor k (t % 32), feNext := Tab.set d.fsc.feNext k (fe + 1)
    feSeen := if new then Tab.set d.fsc.feSeen cl (fe + 1) else d.fsc.feSeen } }
  if new then d.count .fen cl 0x0DE else d

/-- A fetched word is protected by detector 0: an injected error is corrected and counted, or poisons the word (R57, R227, R230). -/
def Dev.fetchWord (d : Dev) (cl bank pc : Nat) : Dev :=
  match d.inject .ucs cl 0 with
  | (d, 0) => d
  | (d, 1) => (d.count .ucs cl 0x0E4).report .ucs cl 0 pc false true
  | (d, _) => (d.report .ucs cl 0 pc true true).poisonWord cl bank pc 0

/-- A thread that its engine picks issues its next word (R174, R203): nothing while it waits at a safe point or for a result slot, or
another ready thread of the engine comes first. -/
def Chip.issueWord (c : Chip) (cl t : Nat) : Chip :=
  match c.dev.thr cl t with
  | none => c
  | some x =>
    let d := c.dev
    let w := d.microword cl x.bank x.pc
    if d.enginePick cl (t / 32) ≠ some (t % 32) then c
    else
    let c := c.upd fun d => (d.engineIssue cl t).fetchWord cl x.bank x.pc
    let d := c.dev
    if (d.store cl).poison.contains (x.bank * 32768 + x.pc) then c.abortThread cl t 4
    else if wordIllegal w then c.abortThread cl t 5
    else
      let ask := d.portAsk x w
      if ask = .illegal then c.abortThread cl t 5
      else if ask.jots && decide (16 ≤ x.journal.length) then c.abortThread cl t 2
      else
        let (y, xr) := x.units w (compact d.dt)
        let fin := bit w 38
        match if fin then .ok (x.pc, x.stack) else d.nextPc cl x w xr with
        | .error true => c.gateAbort cl t
        | .error false => c.abortThread cl t 5
        | .ok (pc, st) =>
          let (c, y) := c.askPort cl t (bits w 105 4) y ask
          let y := { y with pc := pc, stack := st }
          let safe := fin || bit w 37
          let y := if safe then
              { y with journal := [], sealing := some { left := y.journal.zipIdx.map fun e => (e.2, e.1), fin := fin } }
            else y
          c.upd fun d =>
            let d := d.setThr cl t (some y)
            if safe then d.count .fen cl 0x0D2 else d

/-- MICROWORD_ISSUE (R203). -/
def execMicrowordIssue (cluster thread : Nat) (s : State) : Host.Outcome State Fault Refusal := nextC s (·.issueWord cluster thread)

/-- The thread's next word, issued where its request is of the given kind. -/
def Chip.issueAs (c : Chip) (cl t op : Nat) : Chip :=
  match c.dev.thr cl t with
  | none => c
  | some x => if bits (c.dev.microword cl x.bank x.pc) 97 4 = op then c.issueWord cl t else c

def execRecRead (cluster thread : Nat) (s : State) : Host.Outcome State Fault Refusal := nextC s (·.issueAs cluster thread 1)
def execRecOps (cluster thread : Nat) (s : State) : Host.Outcome State Fault Refusal := nextC s (·.issueAs cluster thread 2)
def execRecWrite (cluster thread : Nat) (s : State) : Host.Outcome State Fault Refusal := nextC s (·.issueAs cluster thread 3)
def execRecInsert (cluster thread : Nat) (s : State) : Host.Outcome State Fault Refusal := nextC s (·.issueAs cluster thread 4)
def execRecDelete (cluster thread : Nat) (s : State) : Host.Outcome State Fault Refusal := nextC s (·.issueAs cluster thread 5)
def execRoutineLookup (cluster thread : Nat) (s : State) : Host.Outcome State Fault Refusal := nextC s (·.issueAs cluster thread 6)
def execGenRead (cluster thread : Nat) (s : State) : Host.Outcome State Fault Refusal := nextC s (·.issueAs cluster thread 7)
def execGenWrite (cluster thread : Nat) (s : State) : Host.Outcome State Fault Refusal := nextC s (·.issueAs cluster thread 8)
def execEventPostReq (cluster thread : Nat) (s : State) : Host.Outcome State Fault Refusal := nextC s (·.issueAs cluster thread 9)
def execForward (cluster thread : Nat) (s : State) : Host.Outcome State Fault Refusal := nextC s (·.issueAs cluster thread 10)
def execDrop (cluster thread : Nat) (s : State) : Host.Outcome State Fault Refusal := nextC s (·.issueAs cluster thread 11)
def execReply (cluster thread : Nat) (s : State) : Host.Outcome State Fault Refusal := nextC s (·.issueAs cluster thread 12)
def execFenceReq (cluster thread : Nat) (s : State) : Host.Outcome State Fault Refusal := nextC s (·.issueAs cluster thread 13)

/-- SEAL: the entries of the thread's seal are sent in order to their targets (R181), as are those that an aborted thread of its number had
sealed (R189). -/
def execSeal (cluster thread : Nat) (s : State) : Host.Outcome State Fault Refusal :=
  nextC s fun c =>
    if c.dev.pathMoves then (c.sendOrphans fun o => o.cluster == cluster && o.thread == thread).sendSeal cluster thread else c

/-- Whether an entry of a seal still waits at its source for admission. -/
def Dev.sealWaits (d : Dev) (cl t run : Nat) : Bool :=
  d.ruus.any fun r => r.2.waiting.any fun q => match q with
    | .engine src _ _ => src.cluster == cl && src.thread == t && src.run == run && src.sealed.isSome
    | _ => false

/-- SEAL_ADMITTED: every sealed entry has been admitted; the thread continues with an empty journal, ends, or is killed (R181,
R189). -/
def execSealAdmitted (cluster thread : Nat) (s : State) : Host.Outcome State Fault Refusal :=
  nextC s fun c =>
    match c.dev.thr cluster thread with
    | none => c
    | some x => match x.sealing with
      | none => c
      | some sl =>
        if !sl.sent || c.dev.sealWaits cluster thread x.run || c.dev.unaccepted 1 (threadSrc cluster thread) then c
        else if x.kill then c.abortThread cluster thread 8
        else if sl.fin then c.upd fun d => (d.endThread cluster thread x).count .fen cluster 0x0D1
        else c.upd (·.setThr cluster thread (some { x with sealing := none }))

/-- RUNLIMIT_EXPIRE (R188): 64 CLK_FE cycles are 48 CLK_CORE cycles (R19). -/
def execRunlimitExpire (cluster thread : Nat) (s : State) : Host.Outcome State Fault Refusal :=
  nextC s fun c =>
    match c.dev.thr cluster thread with
    | none => c
    | some x =>
      (c.upd fun d => d.until (x.at0 + 48 * max 1 (d.get FEN.CFG.RunLimit cluster))).abortThread cluster thread 1

/-- KILL (R189, R196): a write of FEN.KILL with Go. -/
def execKill (fn cluster thread : Nat) (s : State) : Host.Outcome State Fault Refusal :=
  nextD s fun d => d.gate fn .fen cluster 0x208 fun d =>
    let d := d.set FEN.KILL.Thread thread cluster
    match d.thr cluster (thread % 256) with
    | none => d
    | some x => d.setThr cluster (thread % 256) (some { x with kill := true })

end Sys2Proof.Machine
end

