-- ==== Sys2Proof/Machine/Ucs.lean ====
section
/-! DEFINITION. Microcode stores (R198 to R230): images and their checks, keys and enrolment, loads and clones, swaps, trials,
confirms, scrubbing, and reading a bank. -/

namespace Sys2Proof.Machine

/-! ### MRAM writes that R520 limits -/

/-- Whether an accepted enrolment is about to write the security region. -/
def Dev.enrolling (d : Dev) : Bool :=
  match d.load with
  | some l => l.op == 3 && l.result == 0
  | none => false

/-- Whether SEC accepts a write of a region now (R520): 0 security region, 1 persistent configuration, 2 + n image slot n. -/
def Dev.mramOpen (d : Dev) (r : Nat) : Bool :=
  !(r == 0 && d.enrolling) &&
    match Tab.find d.sec.wrote r with
    | none => true
    | some t => decide (t + secCyc ≤ d.cyc)

/-- A write of `bytes` bytes to a region is made. -/
def Dev.mramTouch (d : Dev) (r bytes : Nat) : Dev :=
  ({ d with sec := { d.sec with wrote := Tab.set d.sec.wrote r d.cyc } }).mramWords bytes

/-! ### Registers that follow the keys -/

/-- FLOOR and KEY_STAT of UCS0 brought up to date (R229). -/
def Dev.syncKeys (d : Dev) : Dev :=
  let m := d.mram
  let d := (d.set UCS.FLOOR.VendorFloor m.vendorFloor).set UCS.FLOOR.CustomerFloor m.custFloor
  let en := (m.keys.map fun (k : Nat × KeySlot) => 2 ^ (k.1 - 1)).foldl (· + ·) 0
  let ad := (m.keys.map fun (k : Nat × KeySlot) => if k.2.admin then 2 ^ (k.1 - 1) else 0).foldl (· + ·) 0
  (d.set UCS.KEY_STAT.Enrolled en).set UCS.KEY_STAT.Admin ad

/-! ### Images (R211 to R215) -/

/-- A section of an image. -/
structure Section where
  typ : Nat
  base : Nat
  payload : List Byte
  deriving DecidableEq, Repr

/-- Little-endian field of an image. -/
def le (f : List Byte) (o n : Nat) : Nat := ofLE (sliceB f o n)

/-- The sections of an image with `n` descriptors; none where a descriptor is malformed or lies outside the image. -/
def sections (img : List Byte) (n : Nat) : Option (List Section) :=
  (List.range n).foldr (fun k (acc : Option (List Section)) =>
    let o := 96 + 16 * k
    let typ := le img o 2
    let base := le img (o + 2) 2
    let off := le img (o + 4) 4
    let len := le img (o + 8) 4
    let sane := (typ = 1 ∧ len % 24 = 0) ∨ (typ = 2 ∧ len % 4 = 0) ∨
      (typ = 3 ∧ len = 16 ∧ base = 0 ∧ le img (off + 4) 12 = 0)
    if sane ∧ 96 + 16 * n ≤ off ∧ off + len ≤ img.length - 96 ∧ le img (o + 12) 4 = 0 then
      acc.map (⟨typ, base, sliceB img off len⟩ :: ·)
    else none) (some [])

/-- Whether an image's header stands (R211), its Kind and its sections. -/
def imageParts (img : List Byte) : Option (Nat × List Section) :=
  let kind := le img 6 1
  let n := le img 24 2
  if le img 0 4 = 0x4355584B ∧ le img 4 2 = 1 ∧ le img 16 4 = 0x2560 ∧ (kind = 1 ∨ kind = 2) ∧ 1 ≤ n ∧ n ≤ 16 ∧
      le img 28 4 = img.length ∧ img.length ≤ 1048576 ∧ 192 + 16 * n ≤ img.length ∧ le img 21 3 = 0 ∧ le img 26 2 = 0 ∧
      le img 80 16 = 0 ∧ (kind = 2 ∨ le img 12 4 = 0) then
    (sections img n).map fun s => (kind, s)
  else none

/-- The public key of a key slot (R214). -/
def Dev.verifyKey (d : Dev) (slot : Nat) : Option (List Byte) :=
  if slot = 0 then some Config.vendorKey else (Tab.find d.mram.keys slot).map (·.key)

/-- Whether a section keeps to its Kind's part of a bank (R198, R210). -/
def regionOk (kind : Nat) (s : Section) : Bool :=
  let words := s.payload.length / 24
  let ents := s.payload.length / 4
  match s.typ with
  | 1 => if kind = 1 then decide (s.base + words ≤ 0x6000) else decide (0x6000 ≤ s.base) && decide (s.base + words ≤ 0x8000)
  | 2 =>
    if kind = 1 then decide (s.base + ents ≤ 32)
    else decide (32 ≤ s.base) && decide (s.base + ents ≤ 256) &&
      (List.range ents).all fun i => !vendorAddr (le s.payload (4 * i) 4 % 2 ^ 15)
  | _ => true

/-- The checks of a Load on an image, in the order of R218; 0 where all pass, 13 while the verify engine has stopped (R495). -/
def Dev.imageCheck (d : Dev) (img : List Byte) : Nat :=
  match imageParts img with
  | none => 1
  | some (kind, ss) =>
    let slot := le img 7 1
    let allowed := if kind = 1 then slot = 0 else 1 ≤ slot ∧ slot ≤ 4
    match d.verifyKey slot with
    | none => 3
    | some key =>
      if ¬ allowed ∨ sha384 key ≠ sliceB img 32 48 then 3
      else if d.sec.stopped then 13
      else if !verifySig key (img.take (img.length - 96)) (img.drop (img.length - 96)) then 2
      else if le img 20 1 < (if kind = 1 then d.mram.vendorFloor else d.mram.custFloor) then 4
      else if !ss.all (regionOk kind) then 5
      else match ss.filter (·.typ == 3) with
        | [] => 6
        | cs => if cs.all fun s => decide (le s.payload 0 1 ≤ 16) && decide (le s.payload 1 1 ≤ 4) then 0 else 6

/-- A bank with an image's Kind written: its sections, versions and key (R219). -/
def Bank.write (x : Bank) (img : List Byte) : Bank :=
  match imageParts img with
  | none => x
  | some (kind, ss) =>
    let x := ss.foldl (fun (x : Bank) s =>
      match s.typ with
      | 1 => (List.range (s.payload.length / 24)).foldl (fun (x : Bank) i =>
          { x with words := Tab.put 0 x.words (s.base + i) (le s.payload (24 * i) 24) }) x
      | 2 => (List.range (s.payload.length / 4)).foldl (fun (x : Bank) i =>
          { x with disp := Tab.put 0 x.disp (s.base + i) (le s.payload (4 * i) 4) }) x
      | _ => x) x
    let v := (le img 8 4, le img 20 1)
    let h := sha384 (img.take (img.length - 96))
    if kind = 1 then { x with vendor := some v, vendorHash := h }
    else { x with cust := some v, requires := le img 12 4, key := le img 7 1, custHash := h }

/-- The words an image writes. -/
def imageWords (img : List Byte) (a : Nat) : Bool :=
  match imageParts img with
  | none => false
  | some (_, ss) => ss.any fun s => s.typ == 1 && decide (s.base ≤ a) && decide (a < s.base + s.payload.length / 24)

/-- The state of a written bank (R219): Incompatible without a vendor part or with one older than the customer part requires. -/
def Bank.readiness (x : Bank) : Nat :=
  match x.vendor with
  | none => 4
  | some (v, _) => if x.cust.isSome ∧ v < x.requires then 4 else 2

/-! ### Loads, clones, enrolments -/

/-- The loader's reads of what it still has to ask for, as far as tags and its turns allow (R418, R440). The fuel is how many they can be. -/
def Dev.loaderReads : Nat → Dev → Dev
  | 0, d => d
  | k + 1, d =>
    match d.load with
    | none => d
    | some l =>
      let n := d.intRoom l.ask.1 l.ask.2
      if d.dmaPick false ≠ some dmaChans then d
      else Dev.loaderReads k (({ d with load := some { l with ask := (l.ask.1 + n, l.ask.2 - n) } }).intIssue false l.ask.1 n)

/-- Every read that the loader has to issue is issued and answered, unless something holds it: then some bytes stay to be asked for. -/
def Dev.loaderRun : Nat → Dev → Dev
  | 0, d => d
  | k + 1, d =>
    let d' := (d.intsDone false).loaderReads 768
    if d'.load = d.load then d' else Dev.loaderRun k d'

/-- Whether the loader has bytes still to ask for. -/
def Dev.loaderWaits (d : Dev) : Bool := ((d.load.map (·.ask.2)).getD 0) != 0

/-- A load, clone or enrolment starts with its outcome known. -/
def Dev.loadStart (d : Dev) (l : LoadSt) : Dev :=
  let d := l.targets.foldl (fun d c => d.setBankState c (1 - d.activeBank c) 1) d
  ({ d with load := some l }).set UCS.LOAD_STAT.Busy 1

/-- ENR_NONCE is drawn afresh (R216), unless the TRNG's tests fail (R495). -/
def Dev.newNonce (d : Dev) : Dev :=
  if d.sec.trngBad then d
  else
    let (n, d) := Dev.draw 2 d
    d.set UCS.ENR_NONCE.Nonce n

/-- Whether a load or clone of the given targets is refused as Busy (R218). -/
def Dev.loadBusy (d : Dev) (targets : List Nat) : Bool :=
  targets.any fun c => d.flag UCS.STAT.Draining c || d.onTrial c || d.bankState c (1 - d.activeBank c) == 1

/-- A Go while a load runs is refused as Busy: the load in progress keeps LOAD_STAT.Busy. -/
def Dev.loadTwice (d : Dev) : Dev := (d.set UCS.LOAD_STAT.Result 7).count .ucs 0 0x0E1

/-- The clusters of LOAD_CFG. -/
def Dev.loadTargets (d : Dev) : List Nat := (List.range 16).filter fun c => bit (d.get UCS.LOAD_CFG.Clusters) c

/-- UCS_LOAD: LOAD_CTL.Go with Op 1. `image` is what the DMA read engine returns for a host-memory image, `err` that a read of it
failed (R218, R418). Its first reads go out; LOAD_DONE waits for the rest. -/
def execUcsLoad (fn : Nat) (image : List Byte) (err : Bool) (s : State) : Host.Outcome State Fault Refusal :=
  nextD s fun d => d.gate fn .ucs 0 0x310 fun d =>
    if d.get UCS.LOAD_CFG.Op ≠ 1 then d
    else if d.load.isSome then d.loadTwice
    else
      let ts := d.loadTargets
      if d.loadBusy ts then d.loadStart ⟨1, [], 7, [], [], false, 0, ts, (0, 0)⟩
      else
        let host := !d.flag UCS.LOAD_CFG.Source
        let n := d.get UCS.LOAD_LEN.Length
        let ask := if host && !err then (d.get UCS.LOAD_ADDR.Addr, n) else (0, 0)
        let img := if host then sliceB image 0 n else Tab.get [] d.mram.images (d.get UCS.LOAD_CFG.MramSlot)
        let r := if host && err then 8 else d.imageCheck img
        let l : LoadSt := if r = 0 then ⟨1, ts, 0, [], img, false, 0, ts, ask⟩ else ⟨1, [], r, [], [], false, 0, ts, ask⟩
        (d.loadStart l).loaderReads 768

/-- UCS_CLONE: LOAD_CTL.Go with Op 2 (R218). -/
def execUcsClone (fn : Nat) (s : State) : Host.Outcome State Fault Refusal :=
  nextD s fun d => d.gate fn .ucs 0 0x310 fun d =>
    if d.get UCS.LOAD_CFG.Op ≠ 2 then d
    else if d.load.isSome then d.loadTwice
    else
      let ts := d.loadTargets
      if d.loadBusy ts then d.loadStart ⟨2, [], 7, [], [], false, 0, ts, (0, 0)⟩
      else d.loadStart ⟨2, ts, 0, [], [], d.flag UCS.LOAD_CFG.Self, d.get UCS.LOAD_CFG.CloneSrc, ts, (0, 0)⟩

/-- The checks of an ENROLL record (R216, R217); 0 where it is accepted. -/
def Dev.enrolCheck (d : Dev) (r : List Byte) : Nat :=
  let op := le r 4 1
  let slot := le r 5 1
  let flags := le r 6 1
  let signer := le r 7 1
  let key := sliceB r 16 97
  let keys := d.mram.keys
  let admins := keys.filter fun (k : Nat × KeySlot) => k.2.admin
  if r.length ≠ 212 ∨ le r 0 4 ≠ 0x4E45584B ∨ (op ≠ 1 ∧ op ≠ 2) ∨ slot = 0 ∨ 4 < slot ∨ 1 < flags ∨ 4 < signer ∨
      le r 113 3 ≠ 0 ∨ (op = 1 ∧ le r 16 1 ≠ 4) ∨ (op = 2 ∧ ofLE key ≠ 0) then 1
  else if le r 8 8 ≠ d.get UCS.ENR_NONCE.Nonce then 10
  else
    let by_ := if keys.isEmpty then (if op = 1 ∧ signer = 0 ∧ flags = 1 then some key else none)
      else (admins.find? fun k => k.1 == signer).map fun k => k.2.key
    match by_ with
    | none => 11
    | some k =>
      if d.sec.stopped then 13
      else if !verifySig k (r.take 116) (r.drop 116) then 2
      else if op = 2 ∧ !(admins.any fun k => k.1 != slot) then 11
      else 0

/-- An accepted ENROLL record puts its key in its slot or empties the slot (R217). -/
def Dev.enrol (d : Dev) (r : List Byte) : Dev :=
  let slot := le r 5 1
  let keys := if le r 4 1 = 1 then Tab.set d.mram.keys slot ⟨sliceB r 16 97, le r 6 1 == 1⟩ else Tab.del d.mram.keys slot
  (({ d with mram := { d.mram with keys := keys } }).mramTouch 0 104).syncKeys

/-- UCS_ENROL: LOAD_CTL.Go with Op 3; `record` is what the DMA read engine returns (R216, R217, R520). An accepted record waits for
LOAD_DONE, since a read of it may still fail. -/
def execUcsEnrol (fn : Nat) (record : List Byte) (err : Bool) (s : State) : Host.Outcome State Fault Refusal :=
  nextD s fun d => d.gate fn .ucs 0 0x310 fun d =>
    if d.get UCS.LOAD_CFG.Op ≠ 3 then d
    else if d.load.isSome then d.loadTwice.newNonce
    else
      let n := d.get UCS.LOAD_LEN.Length
      let ask := if err then (0, 0) else (d.get UCS.LOAD_ADDR.Addr, n)
      let r := sliceB record 0 n
      let open_ := d.mramOpen 0
      let res := if err then 8 else if !open_ || d.sec.trngBad then 7 else d.enrolCheck r
      let d := if !open_ then d.count .sec 0 0x229 else d
      (d.newNonce.loadStart ⟨3, [], res, [], if res = 0 then r else [], false, 0, [], ask⟩).loaderReads 768

/-- The state of a bank that nothing is loading, from what it holds: Empty without a part, else that of a written bank (R200, R219). -/
def Dev.restState (d : Dev) (c b : Nat) : Dev :=
  let x := (d.store c).bank b
  d.setBankState c b (if x.vendor.isNone && x.cust.isNone then 0 else x.readiness)

/-- A read of the loader has failed or timed out: the operation ends with FetchError and changes no bank (R218, R418, R219). -/
def Dev.loadFails (d : Dev) (result : Nat) : Dev :=
  match d.load with
  | none => d
  | some l =>
    let d := (l.targets.filter fun c => !l.fail.contains c).foldl (fun d c => d.restState c (1 - d.activeBank c)) d
    ({ d with load := some { l with result := result, targets := [], ask := (0, 0) } }).intsDrop false

/-- LOAD_DONE: the operation in progress ends (R219), once its reads have been issued and answered. `bad` are the targets whose bank failed its comparison. Where targets end
differently, the Result is 13 before 14 before 9 (DESIGN CHOICE, log entry 87: the manual names no order). -/
def execLoadDone (bad : List Nat) (s : State) : Host.Outcome State Fault Refusal :=
  nextD s fun d =>
    let d := d.loaderRun (((d.load.map (·.ask.2)).getD 0) + 1)
    match d.load with
    | none => d
    | some l =>
      if d.loaderWaits then d else
      let d := { d with load := none }
      let ts := l.targets.filter fun c => !l.fail.contains c
      let d := ts.foldl (fun d c =>
        let b := 1 - d.activeBank c
        if bad.contains c then d.emptyBank c b
        else
          let old := (d.store c).bank b
          let from_ := if l.self then c else l.src
          let x := if l.op = 1 then old.write l.image else (d.store from_).bank (d.activeBank from_)
          (d.setBank' c b x fun a => l.op == 2 || imageWords l.image a).setBankState c b x.readiness) d
      let inc := ts.filter fun c => !bad.contains c && d.bankState c (1 - d.activeBank c) == 4
      let failed := ts.filter bad.contains
      let res := if l.result ≠ 0 then l.result else if !failed.isEmpty then 13 else if !l.fail.isEmpty then 14
        else if !inc.isEmpty then 9 else 0
      let mask := ((l.fail ++ failed ++ inc).map fun c => 2 ^ c).foldl (· + ·) 0
      let d := if l.op = 3 ∧ res = 0 then d.enrol l.image else d
      let d := ((d.set UCS.LOAD_STAT.Busy 0).set UCS.LOAD_STAT.Done 1).set UCS.LOAD_STAT.Result res
      let d := d.set UCS.LOAD_STAT.FailMask mask
      if res = 0 then d.count .ucs 0 0x0E0 else if res = 9 then d else d.count .ucs 0 0x0E1

/-! ### Swaps (R220 to R225) -/

/-- Whether a SecurityVersion of a bank is below its floor (R220, R225). -/
def Dev.belowFloor (d : Dev) (c b : Nat) : Bool :=
  let x := (d.store c).bank b
  let below := fun (p : Option (Nat × Nat)) (f : Nat) => match p with
    | some (_, v) => decide (v < f)
    | none => false
  below x.vendor d.mram.vendorFloor || below x.cust d.mram.custFloor

/-- The reason to refuse a swap; 0 for none (R220). Where several hold, the lowest number is reported (DESIGN CHOICE, log entry 87: the
manual names no order). A load is running from its Go until LOAD_STAT.Busy clears, whatever its result. -/
def Dev.swapReason (d : Dev) (c : Nat) : Nat :=
  if d.bankState c (1 - d.activeBank c) ≠ 2 then 1
  else if (match d.load with
    | some l => l.asked.contains c
    | none => false) then 2
  else if d.flag UCS.STAT.Draining c then 3
  else if d.belowFloor c (1 - d.activeBank c) then 4
  else if d.fab.inReset.contains (Blk.fen.page c) then 5
  else 0

/-- SWAP: a write of SWAP_CTL.Swap (R220, R224). -/
def execSwap (fn cluster : Nat) (s : State) : Host.Outcome State Fault Refusal :=
  nextD s fun d => d.gate fn .ucs cluster 0x204 fun d =>
    let r := d.swapReason cluster
    if r ≠ 0 then (d.set UCS.SWAP_STAT.Refused 1 cluster).set UCS.SWAP_STAT.Reason r cluster
    else
      let trial := d.onTrial cluster
      let d := d.setStore cluster { d.store cluster with back := trial, rollback := false, trialEnd := none, trialAborts := 0 }
      (d.set UCS.STAT.Trial 0 cluster).set UCS.STAT.Draining 1 cluster

/-- A draining swap completes (R221 step 3). -/
def Dev.swapDone (d : Dev) (c : Nat) : Dev :=
  let x := d.store c
  let ab := d.activeBank c
  let old := (x.bank ab).version
  let d := ((d.setBankState c ab 2).setBankState c (1 - ab) 3).set UCS.STAT.ActiveBank (1 - ab) c
  let d := (d.bump UCS.SWAP_STAT.SwapCount 1 c).set UCS.STAT.Draining 0 c
  let t := d.get UCS.SWAP_CFG.TrialTime c
  let trial := t != 0 && !x.back
  let d := d.setStore c { x with back := false, rollback := false, trialAborts := 0,
                                 trialEnd := if trial then some (d.cyc + t * msCyc) else none }
  let d := ((d.set UCS.STAT.Trial (b2n trial) c).syncStore c).count .ucs c 0x0E2
  d.postSys .ucs c 1 [c + 2 ^ 4 * b2n x.rollback, old, (x.bank (1 - ab)).version]

/-- SWAP_DRAIN_DONE: the first CLK_FE cycle with no thread of the cluster running (R221). -/
def execSwapDrainDone (cluster : Nat) (s : State) : Host.Outcome State Fault Refusal :=
  nextD s fun d =>
    if d.flag UCS.STAT.Draining cluster && (d.busyThreads cluster).isEmpty then d.swapDone cluster else d

/-- TRIAL_ROLLBACK: the trial's aborts have reached TrialAborts before TrialTime runs out (R222). The bank to return to must be Ready,
since only such a bank can be made active (R200), and not below a floor, since no such bank is swapped in (R225): else the trial goes
on to its end (DESIGN CHOICE, log entry 87). -/
def execTrialRollback (cluster : Nat) (s : State) : Host.Outcome State Fault Refusal :=
  nextD s fun d =>
    let x := d.store cluster
    if !d.onTrial cluster || !d.flag UCS.SWAP_CFG.AutoRollback cluster || d.flag UCS.STAT.Draining cluster ||
        decide (x.trialAborts < max 1 (d.get UCS.SWAP_CFG.TrialAborts cluster)) ||
        d.bankState cluster (1 - d.activeBank cluster) != 2 || d.belowFloor cluster (1 - d.activeBank cluster) then d
    else
      let d := d.setStore cluster { x with rollback := true, back := false, trialEnd := none }
      let d := (d.set UCS.STAT.Trial 0 cluster).set UCS.STAT.Draining 1 cluster
      (d.set UCS.SWAP_STAT.RolledBack 1 cluster).count .ucs cluster 0x0E3

/-- A trial ends without a swap. -/
def Dev.endTrial (d : Dev) (c : Nat) : Dev :=
  (d.setStore c { d.store c with trialEnd := none, trialAborts := 0 }).set UCS.STAT.Trial 0 c

/-- TRIAL_EXPIRE (R222). -/
def execTrialExpire (cluster : Nat) (s : State) : Host.Outcome State Fault Refusal :=
  nextD s fun d =>
    match (d.store cluster).trialEnd with
    | none => d
    | some t => (d.until t).endTrial cluster

/-- The floors rise to the versions of a cluster's active bank (R225), where SEC accepts the write (R520). -/
def Dev.raiseFloors (d : Dev) (c : Nat) : Dev :=
  let x := (d.store c).bank (d.activeBank c)
  let v := max d.mram.vendorFloor ((x.vendor.map (·.2)).getD 0)
  let u := max d.mram.custFloor ((x.cust.map (·.2)).getD 0)
  if v = d.mram.vendorFloor ∧ u = d.mram.custFloor then d
  else if !d.mramOpen 0 then d.count .sec 0 0x229
  else (({ d with mram := { d.mram with vendorFloor := v, custFloor := u } }).mramTouch 0 8).syncKeys

/-- CONFIRM: a write of SWAP_CTL.Confirm, with RaiseFloor (R225). -/
def execConfirm (fn cluster : Nat) (raise : Bool) (s : State) : Host.Outcome State Fault Refusal :=
  nextD s fun d => d.gate fn .ucs cluster 0x204 fun d =>
    let d := if raise then d.raiseFloors cluster else d
    d.endTrial cluster

/-! ### Poison, scrub and reads (R227, R228) -/

/-- POISON_CLR (R228). -/
def execUcsPoisonClr (fn cluster : Nat) (s : State) : Host.Outcome State Fault Refusal :=
  nextD s fun d => d.gate fn .ucs cluster 0x22C fun d =>
    ((d.set UCS.POISON.Address 0 cluster).set UCS.POISON.Bank 0 cluster).set UCS.POISON.Valid 0 cluster

/-- UCS_READ: READ_CTL.Go (R198, R228). -/
def execUcsRead (fn cluster : Nat) (s : State) : Host.Outcome State Fault Refusal :=
  nextD s fun d => d.gate fn .ucs cluster 0x234 fun d =>
    let x := (d.store cluster).bank (d.get UCS.READ_SEL.Bank cluster)
    let a := d.get UCS.READ_SEL.Addr cluster
    let v := if d.flag UCS.READ_SEL.Dispatch cluster then Tab.get 0 x.disp (a % 256)
      else if vendorAddr a then 0 else Tab.get 0 x.words a
    (List.range 6).foldl (fun d j => d.set UCS.READ_DATA.Data (bits v (32 * j) 32) cluster j) d

/-- UCS_SCRUB: the scrubber checks its next word; `outcome` 0 good, 1 a single-bit error, 2 uncorrectable (R227). -/
def execUcsScrub (cluster outcome : Nat) (s : State) : Host.Outcome State Fault Refusal :=
  nextD s fun d =>
    let x := d.store cluster
    let pos := x.scrub
    let b := pos / 33024
    let i := pos % 33024
    let det := if i < 32768 then 0 else 1
    let a := if i < 32768 then i else i - 32768
    let (d, o) := (d.setStore cluster { x with scrub := (pos + 1) % 66048 }).inject .ucs cluster det
    match max outcome o with
    | 0 => d
    | 1 => (d.count .ucs cluster 0x0E4).report .ucs cluster det a false (o != 0)
    | _ => (d.report .ucs cluster det a true (o != 0)).poisonWord cluster b a det

end Sys2Proof.Machine
end

