-- ==== Sys2Proof/Machine/Reset.lean ====
section
/-! DEFINITION. Resets below cold reset: what registers return to (R8, R9, R550), the scopes of R25, and the datapath soft reset
(R138, R226, R295, R336, R499, R500). -/

namespace Sys2Proof.Machine

/-! ### Registers -/

/-- Whether bit `k` of an instance's run is the low bit of an element of a register row. -/
def RegRow.covers (r : RegRow) (k : Nat) : Bool :=
  let lo := r.fld.off * 8 + r.fld.lo
  (List.range r.n).any fun j => k == lo + 8 * r.fld.step * j

/-- Whether a row's fields keep their values through every reset below cold reset (R9, R550). -/
def RegRow.kept (r : RegRow) : Bool := r.staged || r.acc == .rws || r.acc == .ros

/-- Whether a register field, by bit address, keeps its value. -/
def keepsKey (b : Blk) (i k : Nat) : Bool :=
  let o := k - b.base i * 8
  (allRows b).any fun r => r.kept && r.covers o

/-- The registers of the selected instances return to their Reset values, and their live counters to 0 (R9, R483, R550). -/
def Dev.resetRegs (d : Dev) (sel : Blk → Nat → Bool) : Dev :=
  let regs := d.regs.filter fun (e : Nat × Nat) => match locate (e.1 / 8) with
    | none => true
    | some (b, i, _) => !sel b i || keepsKey b i e.1
  let ctr := d.fab.ctr.filter fun (e : Nat × Ctr) => match locate (e.1 / 16 * 4096) with
    | none => true
    | some (b, i, _) => !sel b i
  { d with regs := regs, fab := { d.fab with ctr := ctr } }

/-- UCS0's registers after their reset: a load that is still running reads Busy (R226), and ENR_NONCE is drawn afresh, as its Reset
value is the TRNG's (R229). -/
def Dev.loaderBack (d : Dev) : Dev := (if d.load.isSome then d.set UCS.LOAD_STAT.Busy 1 else d).newNonce

/-- An instance enters reset (R35); its open reservations in event queues are voided (R460, R466). -/
def Dev.beginReset (d : Dev) (b : Blk) (i : Nat) : Dev :=
  let d := (d.resetRegs fun b' i' => b' == b && i' == i).voidWriters (· == b.page i)
  if d.fab.inReset.contains (b.page i) then d else { d with fab := { d.fab with inReset := d.fab.inReset ++ [b.page i] } }

/-! ### Lane, port, MAC block (R25, R82) -/

/-- The port that a lane belongs to, where it belongs to one (R14). -/
def Dev.portOfLane (d : Dev) (lane : Nat) : Option Nat :=
  [lane, lane / 2 * 2, lane / 4 * 4, lane / 8 * 8].find? fun p => decide (lane < p + (d.portMode p).1)

/-- A reset takes a port's link away: an Up or Down port enters Dusk, and the PCS stays out of lock until its flush is
complete (R25, R82). -/
def Dev.dropLink (d : Dev) (port : Nat) : Dev :=
  let x := d.port port
  let d := d.setPort port { x with link := false, holdTo := none, held := x.state != 0 }
  if x.state = 1 ∨ x.state = 2 then d.enterDusk port else d

def Dev.laneReset (d : Dev) (lane : Nat) : Dev :=
  let d := d.beginReset .ser lane
  match d.portOfLane lane with
  | none => d
  | some p => d.dropLink p

/-- A MAC block reset takes its 8 lanes with it. -/
def Dev.macReset (d : Dev) (m : Nat) : Dev :=
  let d := d.beginReset .mac m
  let d := (List.range 8).foldl (fun d k => d.beginReset .ser (8 * m + k)) d
  let d := (List.range 8).foldl (fun d k => d.setPort (8 * m + k) (d.port (8 * m + k))) d
  (List.range 8).foldl (fun d k => if (d.portMode (8 * m + k)).1 = 0 then d else d.dropLink (8 * m + k)) d

/-! ### Port reconfiguration (R14, R26, R27) -/

/-- The port modes of R343: lanes, and the rate of a lane in Gb/s (200 for 212.5, 100 for 106.25, 50 for 53.125, 25 for 25.78125). -/
def portModes : List (Nat × Nat) :=
  [(8, 200), (4, 200), (8, 100), (2, 200), (4, 100), (1, 200), (2, 100), (4, 50), (1, 100), (2, 50), (4, 25), (1, 50), (1, 25), (1, 10)]

/-- The ports of a MAC block from its first lane on, each with its lanes and the rate of a lane; a list that does not fill the 8 lanes
with ports of a mode of R343, each at a multiple of its width, is none (R14). -/
def portLanes : Nat → List (Nat × Nat) → Option (List (Nat × Nat × Nat))
  | lane, [] => if lane = 8 then some [] else none
  | lane, (w, r) :: rest =>
    if portModes.contains (w, r) ∧ lane % w = 0 ∧ lane + w ≤ 8 then
      (portLanes (lane + w) rest).map fun l => (lane, w, r) :: l
    else none

/-- PORT_RECONFIGURATION of MAC block `mac`, armed for act time `act` (R26, R27): refused with a lead below 420 ns; otherwise
it acts in the cycle of its act time, after the snapshot and the commit of that cycle. The manual gives no register that
arms it or holds the port modes; the command carries both. A port whose lanes or rate change loses its link: an Up or Down port enters
Dusk (DESIGN CHOICE, log entry 34). -/
def execPortReconfiguration (act mac : Nat) (ports : List (Nat × Nat)) (s : State) : Host.Outcome State Fault Refusal :=
  nextD s fun d =>
    if act < d.dt + armLead then d.refuseArm 2 1
    else
      let d := (d.untilAct act).dueSnap.dueCommit
      match portLanes 0 ports with
      | none => d
      | some l =>
        if 16 ≤ mac then d
        else
          let clear := (List.range 8).foldl (fun (t : Tab (Nat × Nat)) k => Tab.put lanePort t (8 * mac + k) (0, 0)) d.eg.width
          let width := l.foldl (fun (t : Tab (Nat × Nat)) e => Tab.put lanePort t (8 * mac + e.1) e.2) clear
          let changed := ((List.range 8).map (8 * mac + ·)).filter fun p => decide (Tab.get lanePort width p ≠ d.portMode p)
          let d := changed.foldl (fun d p => d.dropLink p) d
          { d with eg := { d.eg with width := width } }

/-! ### Slice (R25, R95, R96, R295) -/

/-- The ports of a slice. -/
def slicePorts (s : Nat) : List Nat := (List.range 138).filter fun p => portSlice p == s

/-- The reset tags of the counters that `hit` names advance (R96). -/
def Dev.advanceTags (d : Dev) (hit : Nat → Nat → Bool) : Dev :=
  let keys := (List.range 64).filter fun k => hit (k / 8) (k % 8)
  let tag := keys.foldl (fun t k => Tab.put 0 t k ((Tab.get 0 t k + 1) % 4)) d.eg.tag
  let seq := d.eg.seq.filter fun (e : Nat × Nat) => !hit (e.1 / 8 / 8192) (e.1 % 8)
  { d with eg := { d.eg with tag := tag, seq := seq } }

/-- A Rill releases the held packets of an ingress slice's domains in number order, and expects 0 of each (R96). -/
def Dev.releaseDomains (d : Dev) (e s : Nat) : Dev :=
  let x := d.rillOf e
  let own := fun (dom : Nat) => dom / 8192 == s
  let held := x.held.filter fun h => own h.domain
  let y := { x with held := x.held.filter (fun h => !own h.domain), next := x.next.filter (fun (n : Nat × Nat) => !own n.1),
                    voids := x.voids.filter fun v => !own v.1 }
  let d := d.setRill e y
  (held.map (·.domain)).eraseDups.foldl (fun d dom =>
    (sortHeld (x.expected dom) (held.filter fun h => h.domain == dom)).foldl (fun d h => d.release e h.pid) d) d

/-- Egress scheduling of a slice returns to its start: wheel and lists empty, group states as after a Mode change, virtual times
0 (R295). The waiting copies are gone already. -/
def Dev.resetSched (d : Dev) (s : Nat) : Dev :=
  let mine := fun (g : Nat) => g / 32768 == s
  let grps := d.eg.grps.filter fun (g : Nat × GrpState) => !mine g.1
  let d := { d with eg := { d.eg with
    grps := grps
    wheel := Tab.del d.eg.wheel s
    queues := d.eg.queues.filter fun (q : Nat × EgQueue) => portSlice (q.1 / 16) != s
    vtime := d.eg.vtime.filter fun (v : Nat × Nat) => portSlice (v.1 / 8) != s } }
  d.eg.gcfg.foldl (fun d (g : Nat × GrpCfg) => if mine g.1 then d.setGrp g.1 (d.freshGrp {} g.2) else d) d

/-- Packets still in their ingress slice are dropped with their cells freed (R25). -/
def Dev.dropIngress (d : Dev) (s : Nat) : Dev :=
  (d.pkts.filter fun (e : Nat × Pkt) => e.2.slice == s && (!e.2.merged || e.2.annexDue)).foldl (fun d (e : Nat × Pkt) =>
    (d.setPkt e.1 { d.pkt e.1 with ended := true, due := 0 }).dropPkt e.1 false) d

/-- Copies for a slice whose packets have reached its Rill are dropped (R25, R95). -/
def Dev.dropArrived (d : Dev) (s : Nat) : Dev :=
  (d.pkts.filter fun (e : Nat × Pkt) => e.2.arrived.contains s && e.2.targets.any fun t => portSlice t == s).foldl
    (fun d (e : Nat × Pkt) => d.dropSlice s e.1) d

def Dev.sliceReset (d : Dev) (s : Nat) : Dev :=
  let d := [Blk.prs, .slc, .rsq, .egs].foldl (fun d b => d.beginReset b s) d
  let d := (d.macReset (2 * s)).macReset (2 * s + 1)
  let d := d.dropIngress s
  let d := (d.dropArrived s).setRill s {}
  let d := (slicePorts s).foldl (fun d p =>
    let d := d.flushPort p
    d.setPort p { d.port p with flushLeft := 0 }) d
  let d := d.resetSched s
  let d := { d with eg := { d.eg with recirc := Tab.del d.eg.recirc s } }
  let d := d.advanceTags fun i e => i == s || e == s
  (List.range 8).foldl (fun d e => if e = s then d else d.releaseDomains e s) d

/-! ### Quadrant (R25, R189, R226) -/

/-- Every running thread of the selected clusters aborts with reason Reset. -/
def Chip.abortClusters (c : Chip) (sel : Nat → Bool) : Chip :=
  (c.dev.threads.filter fun (e : Nat × Thread) => sel (e.1 / 256)).foldl (fun c (e : Nat × Thread) =>
    c.abortThread (e.1 / 256) (e.1 % 256) 6) c

/-- What a reset does to a microcode store (R226). -/
def Dev.resetStore (d : Dev) (c : Nat) : Dev :=
  let d := match d.load with
    | none => d
    | some l =>
      if l.targets.contains c && !l.fail.contains c then
        ({ d with load := some { l with fail := l.fail ++ [c] } }).emptyBank c (1 - d.activeBank c)
      else d
  let d := if d.flag UCS.STAT.Draining c then d.swapDone c else d
  d.setStore c { d.store c with scrub := 0 }

def Chip.quadrantReset (c : Chip) (q : Nat) : Chip :=
  let c := c.abortClusters fun cl => cl / 4 == q
  c.upd fun d =>
    let d := (List.range 4).foldl (fun d k =>
      ((d.resetStore (4 * q + k)).beginReset .fen (4 * q + k)).beginReset .ucs (4 * q + k)) d
    let d := if q = 0 then d.loaderBack else d
    (d.sliceReset (2 * q)).sliceReset (2 * q + 1)

/-! ### BLOCK_RESET (R35, R171, R466) -/

/-- A record cache partition is reset: dirty lines with correct data go back, then every line is invalid, and the RUU runs
uncached until the reset ends (R171). -/
def Chip.rccReset (c : Chip) (r : Nat) : Chip :=
  (c.writeBack r).upd fun d => (d.invalidate r).beginReset .rcc r

/-- An event queue page returns to its reset values but for OWNER; the read pointer moves to the tail, open reservations are
voided under R460 and their packets, complete then, discarded, and latches are cleared (R466). CTL.Enable returns to 0 with the other
fields. -/
def Dev.clearQueue (d : Dev) (q : Nat) : Dev :=
  let d := ((d.queue q).pkts.filter fun p => !p.complete).foldl (fun d p => d.voidPkt q p) d
  let owner := d.get (HDR.OWNER.Function .evp) q
  let lo := Blk.evp.base q * 8
  let regs := d.regs.filter fun (e : Nat × Nat) => !(decide (lo ≤ e.1) && decide (e.1 < lo + 4096 * 8))
  let ctr := d.fab.ctr.filter fun (e : Nat × Ctr) => e.1 / 16 != Blk.evp.page q
  let x := d.queue q
  let d := { d with regs := regs, fab := { d.fab with ctr := ctr } }
  (d.setQueue q { x with pkts := [], latch := [], lostNext := false }).set (HDR.OWNER.Function .evp) owner q

/-- The reset of an instance by the scope of its level (R25), where its chapter permits one. -/
def Chip.instReset (c : Chip) (b : Blk) (i : Nat) : Option Chip :=
  match b with
  | .ser => some (c.upd (·.laneReset i))
  | .mac => some (c.upd (·.macReset i))
  | .prs | .slc | .rsq => some (c.upd (·.sliceReset i))
  | .fen => some (c.quadrantReset (i / 4))
  | .rcc => some (c.rccReset i)
  | .evp => some (c.upd (·.clearQueue i))
  | _ => none

/-- QuiesceReq takes a value; clearing it resumes the block, and Quiesced clears with it. -/
def Dev.quiesce (d : Dev) (b : Blk) (i : Nat) (on : Bool) : Dev :=
  let d := d.set (HDR.CTL.QuiesceReq b) (b2n on) i
  if on then d else d.set (HDR.STAT.Quiesced b) 0 i

/-- BLOCK_RESET of the instance whose first page has index `page` (R35). One that is refused leaves QuiesceReq as it is
(DESIGN CHOICE, log entry 88). CTL is PF0-only (R39). -/
def execBlockReset (fn page : Nat) (s : State) : Host.Outcome State Fault Refusal :=
  nextC s fun c =>
    match pageBlk page with
    | none => c.upd fun d => (d.request fn).miss
    | some (b, i) =>
      let c := c.upd (·.request fn)
      if !c.dev.reachable fn then c.upd (·.emit (.unsupported fn))
      else if !isPf fn then c.upd (·.deny fn false (b.base i + 8))
      else
        let c := c.upd (·.bump (HDR.FENCE.WriteSeq b) 1 i)
        match c.instReset b i with
        | some c => c.upd (·.quiesce b i false)
        | none => c.upd (·.set (HDR.STAT.ResetRefused b) 1 i)

/-- BLOCK_RESET_END: the instance's reset ends (R35). -/
def execBlockResetEnd (page : Nat) (s : State) : Host.Outcome State Fault Refusal :=
  nextD s fun d => { d with fab := { d.fab with inReset := d.fab.inReset.filter (· != page) } }

/-! ### Datapath soft reset (R499, R500) -/

/-- Blocks that a datapath soft reset resets: the RUUs and their caches, the flow engines, their scheduler and stores, Basin and
its admission, Rill and the egress schedulers (R25, R499). -/
def dprBlk : Blk → Bool
  | .ruu | .rcc | .fen | .fsc | .ucs | .bsn | .adm | .rsq | .egs => true
  | _ => false

/-- First page indices of the instances that a datapath soft reset resets. -/
def dprPages : List Nat := (blkTable.filter fun r => dprBlk r.blk).flatMap fun r => (List.range r.inst).map r.blk.page

/-- Reads that wait at their ports are discarded with the reset of their sources (R336). -/
def Dev.dropWaitingReads (d : Dev) : Dev :=
  { d with
    hbc := { d.hbc with pcs := d.hbc.pcs.map fun (p : Nat × HbmPc) => (p.1, { p.2 with waiting := p.2.waiting.filter (·.write) }) }
    dma := { d.dma with chans := d.dma.chans.map fun (e : Nat × DmaChan) => (e.1, { e.2 with asking := e.2.asking && e.2.got.isSome }) } }

/-- Everything that HBC has accepted or has waiting is carried out, and with it what aborted threads had sealed behind their fences (R189, R336).
The fuel is how many sealed entries are left. -/
def Chip.settle : Nat → Chip → Chip
  | n, c =>
    let c := c.dev.hbc.pcs.foldl (fun c (p : Nat × HbmPc) => Chip.drainPc p.1 p.2.waiting.length c) c
    match n with
    | 0 => c
    | n + 1 => if c.dev.fsc.orphans.isEmpty then c else Chip.settle n (c.sendOrphans fun _ => true)

/-- A datapath soft reset begins: arbiters stop, transmissions end stomped, threads abort, FSC entries go, caches write back, and
the stacks go into self-refresh (R499). `lost` are the dirty lines whose data is not correct, by RUU and position: the HBM
copy stays as last written, and that is posted (R138). -/
def Chip.dprStart (c : Chip) (cause : Nat) (lost : List (Nat × Nat)) : Chip :=
  let c := c.upd fun d =>
    let d := { d with glb := { d.glb with dpr := .begun, dprAt := d.cyc, dprWait := none } }
    let d := ((d.set GLB.DPR_STAT.Active 1).set GLB.DPR_STAT.Cause cause).bump GLB.DPR_STAT.Count
    (List.range 128).foldl (fun d p => d.endTx p true) (d.count .glb 0 0x214)
  let c := c.abortClusters fun _ => true
  let c := c.upd fun d =>
    let cmds := d.fsc.levels.flatMap fun (l : Nat × List FscEntry) => l.2.filterMap fun e => match e.work with
      | .cmd m => some m.handle
      | .pkt _ => none
    let d := (List.range 8).foldl (fun d l => d.setLvl l []) d
    cmds.foldl (fun d h => d.freeBuf 132 h) d
  let c := c.upd fun d => lost.foldl (fun d (e : Nat × Nat) =>
    match ((d.ruu e.1).lines.filter (·.dirty))[e.2]? with
    | none => d
    | some v =>
      let x := d.ruu e.1
      let l : Loc := ⟨e.1, v.set, v.way, v.idx⟩
      let d := d.setRuu e.1 { x with lines := x.lines.filter (· != v) }
      (d.report .rcc e.1 0 l.word true).postSys .ruu e.1 1 [l.word, d.get FTB.EPOCH.Epoch + 2 ^ 16 * 2]) d
  let c := (List.range 384).foldl (fun c r => if (c.dev.ruu r).lines.isEmpty then c else c.writeBack r) c
  let c := c.upd (·.dropWaitingReads)
  let c := Chip.settle (c.dev.fsc.orphans.foldl (fun n o => n + o.left.length) 0) c
  c.upd fun d =>
    let newStacks := (List.range 6).foldl (fun (t : Tab HbmStack) k => Tab.set t k { Tab.get {} t k with selfRef := true }) d.hbc.stackTab
    { d with hbc := { d.hbc with stackTab := newStacks } }

/-- A datapath soft reset is asked for (R499, R500): it begins, waits for a frequency change to end, or is merged with the one in
progress. -/
def Chip.dprAsk (c : Chip) (cause : Nat) (lost : List (Nat × Nat)) : Chip :=
  if c.dev.glb.dpr ≠ .idle then c
  else if c.dev.glb.hold = 1 then
    c.upd fun d => { d with glb := { d.glb with dprWait := d.glb.dprWait.orElse fun _ => some cause } }
  else c.dprStart cause lost

/-- A request of a source at die level, which is issued again after the reset (R138). -/
def ReqKind.reissued : ReqKind → Bool
  | .sweep _ | .migrate _ | .exportRead .. | .host _ | .poison _ => true
  | _ => false

/-- An RUU after the reset: stock, removals and cursors kept, requests of die-level sources waiting again (R138). -/
def Ruu.afterReset (x : Ruu) : Ruu :=
  { waiting := ((x.service.map (·.req)) ++ x.queue ++ x.waiting).filter (·.reissued)
    recent := x.recent, stock := x.stock, cursor := x.cursor, sweepPos := x.sweepPos, exportPos := x.exportPos }

/-- The 36 µs step: RUUs, flow engines, Basin, Rill and the schedulers are reset; every packet is dropped (R95, R138, R226, R295,
R499). -/
def Dev.dprReset (d : Dev) : Dev :=
  let d := (List.range 16).foldl (fun d c => d.resetStore c) d
  let d := ((d.resetRegs fun b _ => dprBlk b).loaderBack).voidWriters dprPages.contains
  let d := { d with
    fab := { d.fab with inReset := d.fab.inReset.filter (fun p => !dprPages.contains p) ++ dprPages }
    pkts := [], results := []
    ruus := d.ruus.map fun (r : Nat × Ruu) => (r.1, r.2.afterReset)
    l2 := { d.l2 with reqs := [] }
    fsc := { d.fsc with levels := [], recount := false }
    bsn := { d.bsn with used := [], cells := 0, shared := 0, freeLow := 786432, reserveOnly := false, withdrawn := 0,
                        links := [], heads := [], fresh := 0, freed := [] }
    eg := { d.eg with rill := [], recirc := [], voidQ := [] }
    dma := { d.dma with hostRx := [], chans := d.dma.chans.map fun (e : Nat × DmaChan) =>
      if [4, 6].contains (d.get DMA.BIND.Endpoint 0 e.1) then
        (e.1, { e.2 with off := 0, descs := e.2.descs.map fun (y : DmaDesc) => if y.whole then y else { y with moved := 0 } })
      else e } }
  let d := (List.range 128).foldl (fun d p => d.setPort p { d.port p with tx := none, txB := [] }) d
  let d := (List.range 8).foldl (fun d s => (d.setRill s {}).resetSched s) d
  let d := d.advanceTags fun _ _ => true
  (d.ruus.map (·.1)).foldl (fun d r => d.syncQueue r) d

/-- The reset in progress leaves the 25 µs step, unless Hold keeps it there (R499, R500). -/
def Dev.dprGoOn (d : Dev) : Dev :=
  if d.glb.dpr ≠ .begun || d.flag GLB.DPR_CTL.Hold then d
  else { d.dprReset with glb := { d.glb with dpr := .refreshed } }

/-- Whether a PF0-only register of an instance takes a function's write (R35, R39). -/
def Dev.admits (d : Dev) (f : Nat) (b : Blk) (i off : Nat) : Bool := d.reachable f && (d.live b i || decide (off < 0x200)) && isPf f

/-- DPR_CTL is written: Hold takes its value, and Go asks for a reset (R499, R504). -/
def Chip.dprCtl (c : Chip) (fn data : Nat) (lost : List (Nat × Nat)) : Chip :=
  let go := data % 2 == 1 && c.dev.admits fn .glb 0 0x240
  let c := c.upd fun d => d.gate fn .glb 0 0x240 fun d =>
    { d.set GLB.DPR_CTL.Hold (bits data 1 1) with glb := { d.glb with hotHold := d.glb.hotHold && bit data 1 } }
  if go then c.dprAsk 0 lost else c

end Sys2Proof.Machine
end

