-- ==== Sys2Proof/Machine/Hbm.lean ====
section
/-! DEFINITION. The HBM controllers (R304 to R336): mapping, writes and reads at the pseudo-channels, scheduling, refresh windows
with live calibration, temperature, scrubbing, retries, and the frequency change. -/

namespace Sys2Proof.Machine

/-! ### Serving (R304, R319) -/

/-- The controller of a pseudo-channel carries out accepted requests: not in self-refresh, no frequency change or soft reset, and not
inside a refresh window (R319, R327, R336). -/
def Dev.hbmServes (d : Dev) (r : Nat) : Bool :=
  d.live .hbc (r / 64) && !(d.stack (r / 64)).selfRef && d.pathMoves && decide ((d.hpc r).winEnd ≤ d.cyc)

/-! ### Urgency and acceptance (R310, R314) -/

/-- The bytes of a write under a mask, by local address. -/
def maskedPut (addr mask : Nat) (data : List Byte) : List (Nat × Byte) :=
  ((List.range 64).filter (bit mask)).map fun i => (addr + i, data.getD i 0)

/-- Whether an address lies in what Clear or ResizeClear zeroes: the annex and the target set, or the new set (R131, R133). -/
def Dev.beingCleared (d : Dev) (addr : Nat) : Bool :=
  let x := d.get FTB.GEOM_STAT.MaxLog2
  let within := fun (s : Nat × Nat) => decide (s.1 ≤ addr) && decide (addr < s.2)
  match d.phase with
  | 1 => decide (addr < annexSize x) || within (setRange x (d.get FTB.GEOM_STAT.CapLog2) (d.get FTB.GEOM_STAT.ActiveSet))
  | 3 => within (setRange x d.ftb.target (1 - d.get FTB.GEOM_STAT.ActiveSet))
  | _ => false

/-- Whether a client may write a burst (R24, R131, R133, R313): an RUU its slots and annex, where none of its reads of the burst is on
its way (R309); FTB's clears, through port 5, the annex and the set that Clear or ResizeClear zeroes; every other port the general
region only. -/
def Dev.hbmMayWrite (d : Dev) (pc port addr : Nat) (data : List Byte) : Bool :=
  let base := generalBase (d.get FTB.GEOM_STAT.MaxLog2)
  let clears := d.beingCleared addr && data.all (· == 0)
  if port = 0 then !((d.hpc pc).queue ++ (d.hpc pc).waiting).any fun y => y.port == 0 && y.t == addr / 64 && !y.write
  else decide (base ≤ addr) || (port == 5 && clears)

/-- Positions of the new set that ResizeClear has zeroed once it has come to an address: a position is a slot of each way (R136). -/
def Dev.clearedTo (d : Dev) (addr : Nat) : Nat :=
  (addr - (setRange (d.get FTB.GEOM_STAT.MaxLog2) d.ftb.target (1 - d.get FTB.GEOM_STAT.ActiveSet)).1) / 128

/-- HBM_WRITE_ACCEPT: a client's write of up to 64 bytes at a burst, under a byte mask, enters the queue of pseudo-channel `pc` and
becomes visible to later reads (R305, R310). ResizeClear's writes are marked background, or raised for MinRate (R136, R313). -/
def execHbmWriteAccept (pc port addr mask : Nat) (data : List Byte) (s : State) : Host.Outcome State Fault Refusal :=
  nextC s fun c =>
    let d := c.dev
    let put := maskedPut addr mask data
    let x : HbmReq := { port := port, write := true, t := addr / 64, merge := putMerges put, put := put,
                        mark := if port = 5 ∧ d.phase = 3 then some (d.migMark (d.clearedTo addr)) else none }
    if 384 ≤ pc ∨ 6 < port ∨ 0x18000000 ≤ addr ∨ addr % 64 ≠ 0 ∨ !d.hbmTakes pc ∨ !d.hbmMayWrite pc port addr data then c
    else if d.hbmCapped pc x then c.upd (·.count .hbc (pc / 64) 0x157)
    else if !d.hbmFree pc x then c
    else c.hbmIssue pc x

/-- HBM_COMMAND_ISSUE: the next command of a pseudo-channel: a column command to an open row, an activate, or a precharge (R315,
R316). -/
def execHbmCommandIssue (pc : Nat) (s : State) : Host.Outcome State Fault Refusal :=
  nextC s fun c =>
    if 384 ≤ pc ∨ !c.dev.hbmServes pc then c
    else (c.admitPc pc).upd fun d =>
      let p := d.hpc pc
      let late := p.queue.filter fun x => !x.urgent && d.urgency pc x == 3
      let d := d.setHpc pc { p with queue := p.queue.map fun x => if d.urgency pc x == 3 then { x with urgent := true } else x }
      Dev.corrupted pc 2 4 (Dev.corrupted pc 1 4 ((d.count .hbc (pc / 64) 0x156 late.length).hbmCommand pc))

/-! ### Returns, retries, timeouts (R330, R331) -/

/-- The oldest read of a pseudo-channel whose column command has gone out. -/
def HbmPc.due (p : HbmPc) : Option HbmReq := p.queue.find? fun x => x.col && !x.write

/-- The shadow samplers of a pseudo-channel's four byte lanes sample returned data, one sample a read; after each the phase offset
moves by one step through −32 to +32 (R322; DESIGN CHOICE, log entry 90). -/
def Dev.sampled (d : Dev) (pc : Nat) : Dev :=
  (List.range 4).foldl (fun d i =>
    let s := d.stack (pc / 64)
    let lane := 4 * (pc % 64) + i
    let x : HbmLane := Tab.get {} s.lanes lane
    d.setStack (pc / 64) { s with lanes := Tab.put {} s.lanes lane { x with phase := (x.phase + 1) % 65, samples := x.samples + 1 } }) d

/-- HBM_READ_RETURN (R330): `outcome` is 0 for clean data, 1 corrected, 2 uncorrectable, which poisons the client's data. The scrubber has
dealt with the outcome of its own read. -/
def execHbmReadReturn (pc outcome : Nat) (s : State) : Host.Outcome State Fault Refusal :=
  nextD s fun d =>
    let p := d.hpc pc
    match p.due with
    | none => d
    | some x =>
      ((d.setHpc pc { p with queue := p.queue.erase x }).sampled pc).readEnds pc x outcome false

/-- COMMAND_RETRY: the stack reports a parity error (`crc` false) or a CRC error on the last command (R331). -/
def execCommandRetry (pc : Nat) (crc : Bool) (s : State) : Host.Outcome State Fault Refusal :=
  nextD s fun d =>
    match (d.hpc pc).lastCmd with
    | none => d
    | some x =>
      if crc && !x.write then d else d.retryLast pc (if crc then 2 else 1) false

/-- READ_RETURN_TIMEOUT: the oldest accepted read returns no data within 4 µs and completes as uncorrectable (R331). -/
def execReadReturnTimeout (pc : Nat) (s : State) : Host.Outcome State Fault Refusal :=
  nextD s fun d =>
    match (d.hpc pc).queue.find? (!·.write) with
    | none => d
    | some x =>
      let d := d.until (x.at0 + nsCyc 4000)
      let p := d.hpc pc
      (((d.setHpc pc { p with queue := p.queue.erase x }).poisonClient x).count .hbc (pc / 64) 0x15A).report .hbc (pc / 64) 3 (burstAddr pc x.t) true

/-- Every request that waits at a stack's ports is accepted as far as there is room. -/
def Chip.admitStack (c : Chip) (k : Nat) : Chip := (List.range 64).foldl (fun c i => c.admitPc (64 * k + i)) c

/-- CAP_WINDOW_END: the next 1 µs boundary; capped requests may be accepted again (R317). -/
def execCapWindowEnd (stack : Nat) (s : State) : Host.Outcome State Fault Refusal :=
  nextC s fun c =>
    (c.upd fun d =>
      let d := d.later (1250 - d.sincePll % 1250)
      d.setStack stack { d.stack stack with capBytes := [] }).admitStack stack

/-! ### Refresh and live calibration (R319 to R325) -/

/-- Nominal timing of a rate in CLK_MEM cycles (R325): tRCD, tRP, tRAS, tRC, tFAW, tRRD, tRFC, tREFI. -/
def nominal : Nat → List Nat
  | 1 => [13, 13, 26, 39, 13, 4, 224, 3120]
  | 2 => [10, 10, 20, 30, 10, 3, 168, 2340]
  | _ => [16, 16, 32, 48, 16, 4, 280, 3900]

/-- A timing set (R325): the derated one adds a quarter, rounded up, to tRCD, tRP, tRAS, tRC and tFAW; tREFI halves when Hot. -/
def timingSet (rate : Nat) (hot derated : Bool) : List Nat :=
  (nominal rate).zipIdx.map fun e =>
    if e.2 < 5 then (if derated then e.1 + ceilDiv e.1 4 else e.1) else if e.2 = 7 ∧ hot then e.1 / 2 else e.1

/-- The shadow set of a stack: that of the rate to come and of its temperature flags, which a pseudo-channel takes up at its next window,
or at the end of a frequency change (R321, R325, R327). -/
def Dev.shadowSet (d : Dev) (k : Nat) : List Nat :=
  timingSet (if d.hbc.freqAt.isSome then d.hbc.freqRate else d.get HBC.FREQ_STAT.Current) (d.flag HBC.TEMP_STAT.Hot k)
    (d.flag HBC.TEMP_STAT.Derate k)

/-- TIM_STAT of a stack brought up to date with its active set: the derated values, and the halved tREFI, once every pseudo-channel has
them (R325, R337). -/
def Dev.syncTiming (d : Dev) (k : Nat) : Dev :=
  let all := fun (f : HbmPc → Bool) => (List.range 64).all fun i => f (d.hpc (64 * k + i))
  let n := fun (i : Nat) => (timingSet (d.get HBC.FREQ_STAT.Current) (all (·.hot)) (all (·.derated))).getD i 0
  let d := (((d.set HBC.TIM_STAT0.Trcd (n 0) k).set HBC.TIM_STAT0.Trp (n 1) k).set HBC.TIM_STAT0.Tras (n 2) k).set HBC.TIM_STAT0.Tfaw (n 4) k
  let d := (d.set HBC.TIM_STAT1.Trfc (n 6) k).set HBC.TIM_STAT1.Trefi (n 7) k
  d.set HBC.TIM_STAT1.Derated (b2n (all (·.derated))) k

/-- tREFI of a pseudo-channel in ns (R319), and the phase of its windows (R320). -/
def HbmPc.trefi (p : HbmPc) : Nat := if p.hot then 1950 else 3900
def Dev.refPhase (d : Dev) (r : Nat) : Nat :=
  if d.flag HBC.REF_CFG.Stagger (r / 64) then (6 * (r % 64) + r / 64) * (d.hpc r).trefi / 384 else 0

/-- A signed field value moved by at most one step towards another. -/
def stepTo (v goal : Int) : Int := if v < goal then v + 1 else if goal < v then v - 1 else v

/-- What a lane's shadow sampler has estimated by a calibration slot (R322, R323): centre, eye width and so the edges, and the widest
VREF, which its sweep finds at most one code from the current one. -/
def HbmLane.estimated (x : HbmLane) (mid : Int) (vref width : Nat) : HbmLane :=
  { x with width := min 127 width, mid := mid, left := mid - (width / 2 : Nat), right := mid - (width / 2 : Nat) + width
           widest := max (x.vref - 1) (min (x.vref + 1) vref) % 64 }

/-- The calibration slot's effect on one lane: estimated centre, widest VREF, eye width and write-eye centre (R323, R324). The estimates
are of R322, which does not ask for CAL_CFG.Enable; what live calibration moves stays while that is 0. -/
def Dev.calLane (d : Dev) (k lane : Nat) (cal strobe : Bool) (est : Int × Nat × Nat × Int) : Dev :=
  let s := d.stack k
  let x : HbmLane := (Tab.get {} s.lanes lane : HbmLane).estimated est.1 est.2.1 est.2.2.1
  let c := if cal then uint 8 (stepTo (sint 8 x.centre) x.mid) else x.centre
  let v := if cal then (stepTo x.vref x.widest).toNat else x.vref
  let st := if cal && strobe then uint 6 (stepTo (sint 6 x.strobe) est.2.2.2) else x.strobe
  let level := d.get HBC.CAL_CFG.MarginAlarm k
  let steps := b2n (c != x.centre) + b2n (v != x.vref) + b2n (st != x.strobe)
  let low := decide (x.width < level)
  let y : HbmLane := { x with centre := c, vref := v % 64, strobe := st, alarm := low || (x.alarm && decide (x.width ≤ level)) }
  let d := d.setStack k { s with lanes := Tab.put {} s.lanes lane y }
  let d := (d.bumpSat HBC.CAL_STAT.Steps steps k).count .hbc k 0x15D steps
  if low && !x.alarm then d.report .hbc k 5 lane false else d

/-- The 64 bytes that the next write eye measurement writes to the calibration row of one bank group, in rotation over the 12 of a
pseudo-channel; the manual does not give the pattern, which is a free value (R304, R323; log entry 90). -/
def Dev.calPattern (d : Dev) (pc : Nat) : Dev :=
  let (v, d) := Dev.draw 16 d
  let p := d.hpc pc
  d.setHpc pc { p with cal := Tab.set p.cal p.calNext v, calNext := (p.calNext + 1) % 12 }

/-- One refresh window of a pseudo-channel, beginning in cycle `start` (R319, R323); with `temps` it takes up the stack's temperature flags
(R321). `est` are the estimates of its four byte lanes. -/
def Dev.window (d : Dev) (pc start : Nat) (zq temps : Bool) (est : List (Int × Nat × Nat × Int)) : Dev :=
  let k := pc / 64
  let p := d.hpc pc
  let n := p.windows + 1
  let cal := d.flag HBC.CAL_CFG.Enable k
  let latch := zq || (cal && n % max 1 (d.get HBC.CAL_CFG.ZqEvery k) == 0)
  let banks := p.banks.map fun (b : Nat × HbmBank) => (b.1, { b.2 with row := none, openTo := none, held := false })
  let d := d.setHpc pc { p with
    winEnd := start + nsCyc 350, windows := n, zq := p.zq + b2n latch, banks := banks
    hot := if temps then d.flag HBC.TEMP_STAT.Hot k else p.hot, derated := if temps then d.flag HBC.TEMP_STAT.Derate k else p.derated }
  let d := d.count .hbc k 0x158
  let write := cal && n % 64 == 0
  let d := if write then d.calPattern pc else d
  let d := (est.take 4).zipIdx.foldl (fun d (e : (Int × Nat × Nat × Int) × Nat) => d.calLane k (4 * (pc % 64) + e.2) cal write e.1) d
  d.syncTiming k

/-- REFRESH_WINDOW: the next window of a pseudo-channel starts (R319, R320). The refresh time base counts from main PLL lock. -/
def execRefreshWindow (pc : Nat) (est : List (Int × Nat × Nat × Int)) (s : State) : Host.Outcome State Fault Refusal :=
  nextD s fun d =>
    if 384 ≤ pc ∨ !d.live .hbc (pc / 64) ∨ (d.stack (pc / 64)).selfRef then d
    else
      let t := (d.hpc pc).trefi
      let from_ := max d.sincePll ((d.hpc pc).winEnd - d.pllAt.getD 0)
      let ns := ceilDiv (from_ * 4) 5
      let start := ns + (d.refPhase pc + t - ns % t) % t
      let d := d.later (nsCyc start - d.sincePll)
      d.window pc d.cyc false true est

/-- The window that each pseudo-channel makes as the stacks leave self-refresh, with a ZQ latch, from cycle `start` on, staggered in the order
of their phase indices over 1,150 ns, so that the last ends 1.5 µs after the first begins (R320, R327, R336; the spacing is a DESIGN CHOICE,
log entry 90). -/
def Dev.exitWindows (d : Dev) (start : Nat) (temps : Bool) : Dev :=
  (List.range 384).foldl (fun d j =>
    let r := 64 * (j % 6) + j / 6
    d.window r (start + (if d.flag HBC.REF_CFG.Stagger (r / 64) then nsCyc (j * 1150 / 384) else 0)) true temps []) d

/-! ### Temperature (R321, R501) -/

/-- A thermal report starts a datapath soft reset with Cause 2 and Hold set, where its CONTAIN_CFG bit is 1 (R501). -/
def Chip.thermal (c : Chip) (on : Bool) : Chip :=
  if on then (c.dprAsk 2 []).upd fun d => { d.set GLB.DPR_CTL.Hold 1 with glb := { d.glb with hotHold := true } } else c

/-- HBM_TEMP_READ: a stack's case temperature, every 256 µs (R321). -/
def execHbmTempRead (stack : Nat) (reading : Int) (s : State) : Host.Outcome State Fault Refusal :=
  nextC s fun c =>
    if 6 ≤ stack ∨ !c.dev.live .hbc stack then c
    else
      let c := c.upd fun d =>
        let d := d.later ((320000 - d.sincePll % 320000) % 320000)
        let hot := d.flag HBC.TEMP_STAT.Hot stack
        let der := d.flag HBC.TEMP_STAT.Derate stack
        let hot' := if 85 < reading then true else if reading ≤ 83 then false else hot
        let der' := if 95 < reading then true else if reading ≤ 93 then false else der
        let d := (d.set HBC.TEMP_STAT.Case (uint 8 reading) stack).set HBC.TEMP_STAT.Hot (b2n hot') stack
        let d := d.set HBC.TEMP_STAT.Derate (b2n der') stack
        let d := if sint 8 (d.get HBC.TEMP_STAT.Max stack) < reading then d.set HBC.TEMP_STAT.Max (uint 8 reading) stack else d
        let note := fun (d : Dev) => d.postSys .hbc stack 1
          [stack + 2 ^ 8 * uint 8 reading + 2 ^ 16 * b2n hot' + 2 ^ 17 * b2n der']
        let d := if hot = hot' then d else note d
        let d := if der = der' then d else note d
        if 105 < reading then d.report .hbc stack 4 stack true false (if d.flag ERR.CONTAIN_CFG.HbmThermal then 8 else 0) else d
      c.thermal (decide (105 < reading) && c.dev.flag ERR.CONTAIN_CFG.HbmThermal)

/-! ### Scrubbing (R332) -/

/-- Bursts of a pseudo-channel that the scrubber reads: the local address space and 12 calibration rows of 16 bursts. -/
def scrubBursts : Nat := 6291456 + 192

/-- The urgency of a scrubber's reads: 1 while it has made more than 1 % fewer of a pass's reads than Period has it make since the pass
began (R332). -/
def Dev.scrubMark (d : Dev) (k : Nat) : Nat :=
  let x := d.stack k
  let done := 64 * d.get HBC.SCRUB_POS.Position k + x.scrubPc
  let pass := 3600 * secCyc * max 1 (d.get HBC.SCRUB_CFG.Period k)
  b2n (decide (100 * done * pass < 99 * (64 * scrubBursts) * (d.cyc - x.scrubAt)))

/-- HBM_SCRUB: the scrubber of a stack reads its next burst, where port 6 has room for the read; `outcome` as for HBM_READ_RETURN
(R332). -/
def execHbmScrub (stack outcome : Nat) (s : State) : Host.Outcome State Fault Refusal :=
  nextC s fun c =>
    let d := c.dev
    let x := d.stack stack
    let pc := 64 * stack + x.scrubPc
    let t := d.get HBC.SCRUB_POS.Position stack
    let rd : HbmReq := { port := 6, write := false, t := t, taken := true, mark := some (d.scrubMark stack) }
    if 6 ≤ stack ∨ !d.flag HBC.SCRUB_CFG.Enable stack ∨ !d.pathMoves ∨ !d.hbmFree pc rd then c
    else
      let c := if t = 0 ∧ x.scrubPc = 0 then c.upd fun d => d.setStack stack { d.stack stack with scrubAt := d.cyc } else c
      (c.hbmIssue pc rd).upd fun d =>
        let d := d.hbmData pc t ((d.hpc pc).finds t outcome) false
        if x.scrubPc < 63 then d.setStack stack { d.stack stack with scrubPc := x.scrubPc + 1 }
        else
          let d := d.setStack stack { d.stack stack with scrubPc := 0 }
          if t + 1 < scrubBursts then d.set HBC.SCRUB_POS.Position (t + 1) stack
          else (d.set HBC.SCRUB_POS.Position 0 stack).bump HBC.SCRUB_STAT.Passes 1 stack

/-! ### Frequency change (R326 to R328) -/

/-- Why a change is refused; 0 where it is not (R326). Where several reasons hold, the lowest is reported (DESIGN CHOICE, log entry 87). -/
def Dev.freqReason (d : Dev) (rate : Nat) : Nat :=
  if rate = d.get HBC.FREQ_STAT.Current then 1
  else if d.hbc.freqAt.isSome then 2
  else if (d.hbc.freqEnd.map fun t => decide (d.cyc < t + 10 * msCyc)).getD false then 3
  else if rate = 3 then 4
  else if !((List.range 6).all fun k => d.live .hbc k && d.flag (HDR.CTL.Enable .hbc) k) ∨ d.get BOOT.STAT.Stage < 8 then 5
  else 0

/-- A stack's lanes stored under a rate, and those of a rate taken up (R327). -/
def HbmStack.store (x : HbmStack) (rate : Nat) : HbmStack :=
  { x with stored := x.lanes.foldl (fun t (e : Nat × HbmLane) => Tab.set t (rate * 256 + e.1) e.2) x.stored }
def HbmStack.recall (x : HbmStack) (rate : Nat) : HbmStack :=
  { x with lanes := (x.stored.filter fun (e : Nat × HbmLane) => e.1 / 256 == rate).map fun e => (e.1 % 256, e.2) }

/-- FREQ_CHANGE: a write of HBC0.FREQ_CTL (R326, R327). The ports stop, accepted requests complete, the stacks go into
self-refresh, the Sundial horizon stops, and the hold is kept for the seals of the epochs that include it (R373, R375). -/
def execFreqChange (fn data : Nat) (s : State) : Host.Outcome State Fault Refusal :=
  nextD s fun d => d.gate fn .hbc 0 0x280 fun d =>
    let rate := data % 4
    if !bit data 4 then d.set HBC.FREQ_CTL.Rate rate
    else
      let d := d.set HBC.FREQ_CTL.Rate rate
      let why := d.freqReason rate
      if why ≠ 0 then (d.set HBC.FREQ_STAT.Refused 1).set HBC.FREQ_STAT.Reason why
      else
        let h := d.horizon
        let d := d.hbc.pcs.foldl (fun d (p : Nat × HbmPc) => d.completeAll p.1 false) d
        let cur := d.get HBC.FREQ_STAT.Current
        let newStacks := (List.range 6).foldl (fun (t : Tab HbmStack) k =>
          Tab.set t k { (Tab.get {} t k).store cur with selfRef := true }) d.hbc.stackTab
        let d := { d with
          hbc := { d.hbc with stackTab := newStacks, freqAt := some d.cyc, freqRate := rate }
          glb := { d.glb with hold := 1 }, sdl := { d.sdl with holdAt := some h, holdEnd := none, holds := (d.dt, none) :: d.sdl.holds } }
        d.set HBC.FREQ_STAT.Busy 1

/-- FREQ_HOLD_END: the hold ends 17 µs after it began: every pseudo-channel has had a ZQ latch and a window at the new rate, and a
soft reset asked for meanwhile begins. A change of the temperature flags read during the hold waits for the first window after it (R327,
R328). -/
def execFreqHoldEnd (s : State) : Host.Outcome State Fault Refusal :=
  nextC s fun c =>
    match c.dev.hbc.freqAt with
    | none => c
    | some t =>
      let cause := c.dev.glb.dprWait
      let c := (List.range 6).foldl Chip.admitStack <| c.upd fun d =>
        let d := d.until (t + nsCyc 17000)
        let n := d.cyc - t
        let d := (List.range 6).foldl (fun d k => d.count .hbc k 0x15F (n * 1000 / d.memCyc 1000)) d
        let rate := d.hbc.freqRate
        let newStacks := (List.range 6).foldl (fun (t : Tab HbmStack) k =>
          Tab.set t k { (Tab.get {} t k).recall rate with selfRef := d.glb.dpr != .idle }) d.hbc.stackTab
        let d := { d with
          hbc := { d.hbc with stackTab := newStacks, freqAt := none, freqEnd := some d.cyc }
          glb := { d.glb with hold := 0 }
          sdl := { d.sdl with
            holdAt := none, holdEnd := d.sdl.holdAt.map fun h => (h, d.dt)
            holds := d.sdl.holds.map fun (h : Nat × Option Nat) => (h.1, some (h.2.getD d.dt)) } }
        let d := ((d.set HBC.FREQ_STAT.Current rate).set HBC.FREQ_STAT.Busy 0).set HBC.FREQ_STAT.Done 1
        let d := d.set HBC.FREQ_STAT.LastHold (n / 40)
        d.exitWindows (t + nsCyc 15000) false
      match cause with
      | none => c
      | some k => c.dprAsk k []

/-- MAP_CFG takes a value, which is refused while Enable is 1 or where an order is 3 (R307, R308). -/
def Dev.mapCfg (d : Dev) (k v : Nat) : Dev :=
  let a := bits v 0 2
  let b := bits v 2 2
  if d.flag (HDR.CTL.Enable .hbc) k || a == 3 || b == 3 then
    (d.bumpSat (HDR.ERR_COUNT.Count .hbc) 1 k).postSys .hbc k 2 [k + 2 ^ 4 * a + 2 ^ 6 * b]
  else (d.set HBC.MAP_CFG.TableOrder a k).set HBC.MAP_CFG.GenOrder b k

/-- MAP_CFG_WRITE. What is written takes effect when Dawn next enables the controller (R308). -/
def execMapCfgWrite (fn inst data : Nat) (s : State) : Host.Outcome State Fault Refusal :=
  nextD s fun d => d.gate fn .hbc inst 0x200 (·.mapCfg inst data)

/-- A controller is enabled: its close predictors start (R316). -/
def Dev.hbcStart (d : Dev) (k : Nat) : Dev :=
  { d with hbc := { d.hbc with pcs := d.hbc.pcs.map fun (p : Nat × HbmPc) => if p.1 / 64 = k then (p.1, { p.2 with banks := [] }) else p } }

/-- Dawn enables a controller, and the mapping takes effect (R308). -/
def Dev.hbcEnable (d : Dev) (k : Nat) : Dev :=
  let x := d.stack k
  (d.setStack k { x with tableOrder := d.get HBC.MAP_CFG.TableOrder k, genOrder := d.get HBC.MAP_CFG.GenOrder k }).hbcStart k

end Sys2Proof.Machine
end

