-- ==== Sys2Proof/Machine/Sundial.lean ====
section
/-! DEFINITION. Sundial (R373 to R387): chaining, epochs and seals, runs, the gap entry, staging, anchors and key rotation. -/

namespace Sys2Proof.Machine

/-! ### Chaining (R374, R386) -/

/-- Entries that the staging ring of a stream holds, and the HBM address of entry `j` (R386). -/
def Dev.ringSize (d : Dev) : Nat := 384 * 2 ^ d.get SDL.STAGE_SLOTS.SlotsLog2
def Dev.ringAddr (d : Dev) (s j : Nat) : Nat :=
  let n := 2 ^ d.get SDL.STAGE_SLOTS.SlotsLog2
  hbmAddr (j % 384) (d.get SDL.STAGE_CFG.Offset + 64 * (n * s + j / 384 % n))

/-- The hash unit chains one entry, which takes its Index, and it goes to the staging ring (R374, R386). -/
def Chip.chainEntry (c : Chip) (s : Nat) (e : List Byte) (lost : Nat) : Chip :=
  let x := c.dev.stream s
  let b := sliceB (putB e 8 (toLE 8 x.index)) 0 64
  let late := (e.getD 23 0).getLsbD 2
  let y := { x with h := sha384 (x.h ++ b.take 63), index := x.index + 1, lost := x.lost + lost, put := x.put + 1,
                    flags := if late then x.flags ||| 2 else x.flags }.level
  (c.hbmWrite 3 s (c.dev.ringAddr s x.put) b).upd fun d => (d.setStream s y).count .sdl 0 (0x170 + s)

/-- The Hold flag of an epoch from `start` to `stop`: set where it includes a frequency-change hold, in part or whole (R375). A hold closes no
epoch at an instant of its own, as EpochEnd has none such (R376; DEDUCED, log entry 125). -/
def Dev.holdFlag (d : Dev) (start stop : Nat) : Nat :=
  if d.sdl.holds.any fun h => decide (h.1 < stop) && (h.2.map fun e => decide (start < e)).getD true then 4 else 0

/-- Where the epoch begins that is open once a stream's jobs are done. -/
def Stream.opens (x : Stream) : Nat := x.jobs.foldl (fun a j => match j with
  | .entry _ _ => a
  | .close _ _ _ _ start _ => start) x.start

/-- The open epoch of a stream closes (R375, R380, R384), with CAL_GEN of its end: its seal waits to be signed. -/
def Dev.closeEpoch (d : Dev) (s flags : Nat) (fin : Bool) (stop calGen start bound : Nat) : Dev :=
  let x := d.stream s
  let rot := x.rotate && !fin
  let new := d.mram.ledgerSerial
  let r : SealReq :=
    { kind := if fin then 3 else if rot then 2 else 0, flags := x.flags ||| flags, index := x.sealIndex, start := x.start, stop := stop
      calGen := calGen, first := x.first, count := x.index - x.first, lost := x.lost, key := x.key
      run := x.run, chain := x.h, aux := if rot then toLE 4 new ++ List.replicate 12 0 else List.replicate 16 0, after := x.put }
  d.setStream s { x with
    seals := x.seals ++ [r], sealIndex := x.sealIndex + 1, start := start, first := x.index, lost := 0, flags := 0, bound := bound
    key := if rot then new else x.key, rotate := false }

/-- The staging ring of a stream has no free place (R386). -/
def Dev.ringFull (d : Dev) (s : Nat) : Bool := decide (d.ringSize ≤ (d.stream s).put - (d.stream s).got)

/-- The jobs of a stream are carried out in order, as far as the ring has room; the fuel is their number. -/
def Chip.runJobs (s : Nat) : Nat → Chip → Chip
  | 0, c => c
  | n + 1, c =>
    let x := c.dev.stream s
    match x.jobs with
    | [] => c
    | .entry b lost :: rest =>
      if c.dev.ringFull s then c
      else Chip.runJobs s n ((c.upd (·.setStream s { x with jobs := rest })).chainEntry s b lost)
    | .close f fin stop gen start bound :: rest =>
      Chip.runJobs s n (c.upd fun d => (d.setStream s { x with jobs := rest }).closeEpoch s f fin stop gen start bound)

/-- The gap entry of a run of entries not recorded (R372, R385). -/
def LedGap.bytes (g : LedGap) : List Byte :=
  toLE 8 (compact g.first) ++ List.replicate 15 0 ++ toLE 1 (1 + 2 ^ 5 * b2n g.refused + 2 ^ 6 * b2n g.error) ++ toLE 4 g.calGen ++
    toLE 8 g.count ++ toLE 8 g.last ++ List.replicate 17 0 ++ toLE 1 g.quality ++ [0, 0]

/-- A marker entry: type 1 Step with its offset in 2^−16 ns, 2 Set with the new time (R372). -/
def Dev.markerBytes (d : Dev) (typ : Nat) (offset : Int) : List Byte :=
  let cap := if typ = 1 then [1, 0, 0, 0, 0, 0, 0, 0] ++ toLE 8 (uint 64 offset) ++ List.replicate 16 0
    else [2, 0, 0, 0, 0, 0, 0, 0] ++ toLE 6 (dtSec d.dt) ++ [0, 0] ++ toLE 4 (dtNs d.dt) ++ List.replicate 12 0
  toLE 8 (compact d.dt) ++ List.replicate 15 0 ++ [2] ++ toLE 4 (d.get TIM.CAL_GEN.Generation) ++ cap ++ [0] ++
    toLE 1 (d.get TIM.TIME_QUAL.Quality) ++ [0, 0]

/-- What a stream has buffered becomes jobs in chain order: when a gap is pending, its entry comes once 2,048 are left (R385). -/
def Stream.flush (x : Stream) : Stream :=
  let es := x.buf.map fun e => LedJob.entry e.bytes e.lost
  let g := match x.gap with
    | none => []
    | some g => [LedJob.entry g.bytes g.count]
  let k := es.length - 2048
  { x with jobs := x.jobs ++ es.take k ++ g ++ es.drop k, buf := [], gap := none }.level

/-- The first whole multiple of a stream's epoch length after a device time (R375). -/
def Dev.nextBound (d : Dev) (s t : Nat) : Nat :=
  let e := nsU (1000 * d.get SDL.EPOCH.EpochUs 0 s)
  (t / e + 1) * e

/-- A Set or Step: each active stream closes its epoch at `old`, chains everything buffered, and begins the next epoch at the
present device time with a marker (R375). A hold in progress goes on in the new time. -/
def Chip.stepStreams (c : Chip) (old typ : Nat) (offset : Int) : Chip :=
  let c := (List.range 16).foldl (fun c s =>
    let x := c.dev.stream s
    if !x.active || x.ending then c
    else
      let d := c.dev
      let y := x.flush
      let y : Stream := { y with jobs := y.jobs ++ [
        .close (1 + d.holdFlag y.opens old) false old (d.get TIM.CAL_GEN.Generation) d.dt (d.nextBound s d.dt),
        .entry (d.markerBytes typ offset) 0] }
      Chip.runJobs s y.jobs.length (c.upd (·.setStream s y.level))) c
  c.upd fun d =>
    let holds := (d.sdl.holds.filter fun h => h.2.isNone).map fun h => (d.dt, h.2)
    { d with sdl := { d.sdl with holds := holds } }

/-- A run ends with a final seal: everything buffered is chained first (R380, R390). -/
def Chip.endRun (c : Chip) (s flags : Nat) : Chip :=
  let x := c.dev.stream s
  if !x.active || x.ending then c
  else
    let y := x.flush
    let t := c.dev.dt
    let y := { y with
      ending := true
      jobs := y.jobs ++ [.close (flags + c.dev.holdFlag y.opens t) true t (c.dev.get TIM.CAL_GEN.Generation) t (c.dev.nextBound s t)] }
    Chip.runJobs s y.jobs.length (c.upd (·.setStream s y))

/-- A run ends without a final seal, by SDL detector 1 or 2 (R390): what is buffered is lost, and the end is posted. -/
def Dev.cutRun (d : Dev) (s det : Nat) (tim : Bool) : Dev :=
  let x := d.stream s
  let d := d.setStream s { x with active := false, ending := false, jobs := [], buf := [], full := false, gap := none, seals := [], rotate := false }
  let d := d.set SDL.STREAM_CFG.Enable 0 0 s
  d.postSys .sdl 0 1 [s + 2 ^ 4 * x.run + 2 ^ 36 * det + 2 ^ 40 * b2n tim]

/-! ### Runs (R378 to R380) -/

/-- The sum over active streams of seals per second (R378). -/
def Dev.sealRate (d : Dev) : Nat :=
  (((List.range 16).filter fun s => (d.stream s).active).map fun s => 1000000 / d.get SDL.EPOCH.EpochUs 0 s).foldl (· + ·) 0

/-- The last ANCHOR in MRAM: the valid slot with the higher AnchorSeq is the one written last (R382). -/
def MramSt.anchor (m : MramSt) : List Byte := if m.anchorLast = 0 then m.anchorA else m.anchorB

/-- Why an enable is refused; 0 where it is not (R379). After a fault of the time base time counts as not valid until a Set, also where a
Step has set Valid (R354, R390). Where several reasons hold, the lowest is reported (DESIGN CHOICE, log entry 87). -/
def Dev.enableReason (d : Dev) (s : Nat) : Nat :=
  let us := d.get SDL.EPOCH.EpochUs 0 s
  if !d.flag TIM.TIME_STAT.Valid || d.tim.fault then 1
  else if 18000 < d.sealRate + 1000000 / us then 2
  else if us < 100 ∨ 1000000 < us ∨ 1000000 % us ≠ 0 then 3
  else if !d.sdl.bootOk then 4
  else if (d.stream s).active then 5
  else 0

/-- A refused STREAM_CFG or EPOCH write. -/
def Dev.refuseStream (d : Dev) (s reason : Nat) : Dev :=
  (d.set SDL.STREAM_STAT.Refused 1 0 s).set SDL.STREAM_STAT.Reason reason 0 s

/-- The fields of STREAM_CFG other than Enable. -/
def Dev.setStreamCfg (d : Dev) (s data : Nat) : Dev :=
  let d := (d.set SDL.STREAM_CFG.Strict (bits data 1 1) 0 s).set SDL.STREAM_CFG.CaptureOffset (bits data 8 8) 0 s
  (d.set SDL.STREAM_CFG.EntryChannel (bits data 16 8) 0 s).set SDL.STREAM_CFG.SealChannel (bits data 24 8) 0 s

/-- Whether a write leaves the fields of STREAM_CFG other than Enable as they are. -/
def Dev.sameStreamCfg (d : Dev) (s data : Nat) : Bool :=
  d.get SDL.STREAM_CFG.Strict 0 s == bits data 1 1 && d.get SDL.STREAM_CFG.CaptureOffset 0 s == bits data 8 8 &&
    d.get SDL.STREAM_CFG.EntryChannel 0 s == bits data 16 8 && d.get SDL.STREAM_CFG.SealChannel 0 s == bits data 24 8

/-- A run begins with its start seal (R379). -/
def Dev.startRun (d : Dev) (s : Nat) : Dev :=
  let x := d.stream s
  let a := d.mram.anchor
  let p := if x.nextRun = 0 then (if a.isEmpty then List.replicate 48 0 else sha384 a) else x.prevSeal
  let h := sha384 (p ++ toLE 8 d.mram.boot ++ toLE 1 s ++ toLE 4 x.nextRun)
  let key := d.mram.ledgerSerial
  let r : SealReq :=
    { kind := 1, flags := 0, index := 0, start := d.dt, stop := d.dt, calGen := d.get TIM.CAL_GEN.Generation, first := 0, count := 0
      lost := 0, key := key, run := x.nextRun, chain := h, aux := sliceB a 16 8 ++ sliceB a 8 8, after := x.put }
  d.setStream s { x with
    active := true, ending := false, run := x.nextRun, nextRun := x.nextRun + 1, h := h, index := 0, jobs := [], buf := [], full := false, gap := none
    start := d.dt, first := 0, lost := 0, flags := 0, bound := d.nextBound s d.dt, seals := x.seals ++ [r], sealIndex := 1
    prevSeal := p, lastIndex := 0, key := key, rotate := false }

/-- STREAM_ENABLE: a write of STREAM_CFG with Enable = 1 (R379, R380). -/
def execStreamEnable (fn stream data : Nat) (s : State) : Host.Outcome State Fault Refusal :=
  nextD s fun d => d.gate fn .sdl 0 (0x200 + 16 * stream) fun d =>
    if 16 ≤ stream then d.miss
    else
      let x := d.stream stream
      if x.active && !x.ending then if d.sameStreamCfg stream data then d else d.refuseStream stream 6
      else if x.active && !d.sameStreamCfg stream data then d.refuseStream stream 6
      else
        let d := d.setStreamCfg stream data
        let r := d.enableReason stream
        if r ≠ 0 then d.refuseStream stream r else (d.set SDL.STREAM_CFG.Enable 1 0 stream).startRun stream

/-- STREAM_DISABLE: a write of STREAM_CFG with Enable = 0 (R380). -/
def execStreamDisable (fn stream data : Nat) (s : State) : Host.Outcome State Fault Refusal :=
  nextC s fun c =>
    let d := c.dev
    let x := d.stream stream
    let ok := d.admits fn .sdl 0 (0x200 + 16 * stream) && decide (stream < 16) && x.active && !x.ending && d.sameStreamCfg stream data
    let c := c.upd fun d => d.gate fn .sdl 0 (0x200 + 16 * stream) fun d =>
      if 16 ≤ stream then d.miss
      else if x.active then
        if d.sameStreamCfg stream data then d.set SDL.STREAM_CFG.Enable 0 0 stream else d.refuseStream stream 6
      else (d.setStreamCfg stream data).set SDL.STREAM_CFG.Enable 0 0 stream
    if ok then c.endRun stream 0 else c

/-- Whether the horizon runs Hold behind device time: no frequency-change hold keeps it back (R373). -/
def Dev.horizonFree (d : Dev) : Bool :=
  d.sdl.holdAt.isNone && d.horizon == d.dt - nsU (16 * max 1 (d.get SDL.MERGE_CFG.Hold))

/-- LEDGER_CHAIN: the hash unit of a stream chains what it must regardless of the horizon, or else the next entry, whose Stamp the
horizon passes first (R373, R374, R386); a gap entry that is due goes before it (R385). -/
def execLedgerChain (stream : Nat) (s : State) : Host.Outcome State Fault Refusal :=
  nextC s fun c =>
    let x := c.dev.stream stream
    if !x.active || c.dev.ringFull stream then c
    else if !x.jobs.isEmpty then Chip.runJobs stream x.jobs.length c
    else if x.gap.isSome ∧ x.buf.length ≤ 2048 then c
    else match x.buf with
      | [] => c
      | e :: rest =>
        let c := if e.late || !c.dev.horizonFree then c
          else c.upd fun d => d.untilDt (e.stamp + 1 + nsU (16 * max 1 (d.get SDL.MERGE_CFG.Hold)))
        if !e.late && (decide (c.dev.horizon ≤ e.stamp) || decide (x.bound ≤ e.stamp)) then c
        else (c.upd (·.setStream stream { x with buf := rest })).chainEntry stream e.bytes e.lost

/-- GAP_ENTRY: a buffer that was full has drained to 2,048 (R385). -/
def execGapEntry (stream : Nat) (s : State) : Host.Outcome State Fault Refusal :=
  nextC s fun c =>
    let x := c.dev.stream stream
    match x.gap with
    | none => c
    | some g =>
      if !x.active || c.dev.ringFull stream || !x.jobs.isEmpty || 2048 < x.buf.length then c
      else (c.upd (·.setStream stream { x with gap := none })).chainEntry stream g.bytes g.count

/-- EPOCH_CLOSE: the horizon of a stream passes its next boundary, and every earlier entry has been chained (R375). -/
def execEpochClose (stream : Nat) (s : State) : Host.Outcome State Fault Refusal :=
  nextD s fun d =>
    let x := d.stream stream
    let early := (x.buf.head?.map fun e => e.late || decide (e.stamp < x.bound)).getD false
    if !x.active || x.ending || !x.jobs.isEmpty || early then d
    else
      let d := if !d.horizonFree then d else d.untilDt (x.bound + nsU (16 * max 1 (d.get SDL.MERGE_CFG.Hold)))
      if d.horizon < x.bound then d
      else d.closeEpoch stream (d.holdFlag x.start x.bound) false x.bound (d.genAgo (d.dt - x.bound)).1 x.bound (x.bound + nsU (1000 * d.get SDL.EPOCH.EpochUs 0 stream))

/-! ### Seals (R376, R377) -/

/-- A signature of SEC on brainpoolP384r1, its secret drawn afresh (R377). -/
def Dev.secSign (d : Dev) (key : Nat) (msg : List Byte) : List Byte × Dev :=
  let (k, d) := Dev.draw 12 d
  (brainpool.sig key k msg, d)

/-- Whether SEC signs: its engine runs, the TRNG passes its tests and the key is there (R495, R531). -/
def Dev.canSign (d : Dev) (serial : Nat) : Option Nat :=
  if d.sec.stopped || d.sec.trngBad then none else Tab.find d.mram.ledgerKeys serial

/-- The bytes of a SEAL before its signature (R376). -/
def SealReq.bytes (r : SealReq) (s boot : Nat) (prev : List Byte) : List Byte :=
  [0x4B, 0x58, 0x53, 0x4C] ++ toLE 2 1 ++ toLE 1 s ++ toLE 1 r.kind ++ toLE 8 boot ++ toLE 8 r.index ++ toLE 8 (compact r.start) ++
    toLE 8 (compact r.stop) ++ toLE 2 (dtSec r.stop / 2 ^ 32) ++ toLE 2 r.flags ++ toLE 4 r.calGen ++ toLE 8 r.first ++
    toLE 8 r.count ++ toLE 8 r.lost ++ toLE 4 r.key ++ toLE 4 r.run ++ sliceB r.chain 0 48 ++ sliceB prev 0 48 ++ sliceB r.aux 0 16

/-- Signed seals whose entries have left go to the seal channel, in order (R386); the fuel is their number. -/
def Dev.sendSeals (s : Nat) : Nat → Dev → Dev
  | 0, d => d
  | n + 1, d =>
    let x := d.stream s
    let ec := d.get SDL.STREAM_CFG.EntryChannel 0 s
    let sc := d.get SDL.STREAM_CFG.SealChannel 0 s
    match x.signed with
    | [] => d
    | (after, b) :: rest =>
      if x.got < after || (ec != sc && !(d.chan ec).stream.isEmpty) then d
      else Dev.sendSeals s n ((d.setStream s { x with signed := rest }).streamPut sc b)

/-- SEAL_SIGNED: SEC signs the oldest closed epoch of a stream, and seals that may go are delivered (R377, R380). -/
def execSealSigned (stream : Nat) (s : State) : Host.Outcome State Fault Refusal :=
  nextD s fun d =>
    let x := d.stream stream
    let d := match x.seals with
      | [] => d
      | r :: rest => match d.canSign r.key with
        | none => d
        | some key =>
          let body := r.bytes stream d.mram.boot x.prevSeal
          let (sig, d) := d.secSign key body
          let b := body ++ sig
          let fin := r.kind == 3
          let d := d.setStream stream { x with
            seals := rest, signed := x.signed ++ [(r.after, b)], prevSeal := sha384 b, lastIndex := r.index
            active := x.active && !fin, ending := x.ending && !fin }
          d.count .sdl 0 0x1A0
    Dev.sendSeals stream (d.stream stream).signed.length d

/-- STAGING_DELIVER: the next entry of a stream's ring is read through port 3 and goes to its entry channel, once its write has been
accepted and the port takes the read (R312, R313, R386); an uncorrectable read ends the run (R390 detector 2). -/
def execStagingDeliver (stream : Nat) (s : State) : Host.Outcome State Fault Refusal :=
  nextC s fun c =>
    let x := c.dev.stream stream
    let ec := c.dev.get SDL.STREAM_CFG.EntryChannel 0 stream
    let a := c.dev.ringAddr stream x.got
    if x.put ≤ x.got || !c.dev.streamRoom ec || !c.dev.pathMoves || !c.dev.hbmMayRead 3 a then c
    else (c.hbmRead 3 stream a).upd fun d =>
      let d' := d.setStream stream { x with got := x.got + 1 }
      if c.dev.burstBad a then (d'.report .sdl 0 2 stream true).cutRun stream 2 false
      else Dev.sendSeals stream x.signed.length (d'.streamPut ec (Mem.readN c.hbm a 64))

/-! ### Anchors (R382) -/

/-- An ANCHOR is made, signed, written to the MRAM slot opposite the last one, and sent (R382). -/
def Dev.makeAnchor (d : Dev) : Dev :=
  let serial := d.mram.ledgerSerial
  match d.canSign serial with
  | none => d
  | some key =>
    let act := (List.range 16).filter fun s => (d.stream s).active
    let prev := d.mram.anchor
    let mask := (act.map fun s => 2 ^ s).foldl (· + ·) 0
    let dig := sha384 (act.flatMap fun s =>
      let x := d.stream s
      toLE 1 s ++ toLE 4 x.run ++ toLE 8 x.lastIndex ++ sliceB x.prevSeal 0 48)
    let seq := ofLE (sliceB prev 16 8) + 1
    let body := [0x4B, 0x58, 0x41, 0x4E] ++ toLE 2 1 ++ toLE 2 mask ++ toLE 8 d.mram.boot ++ toLE 8 seq ++ toLE 8 (compact d.dt) ++
      toLE 2 (dtSec d.dt / 2 ^ 32) ++ [0, 0] ++ toLE 4 serial ++ List.replicate 8 0 ++ dig ++
      (if prev.isEmpty then List.replicate 48 0 else sha384 prev)
    let (sig, d) := d.secSign key body
    let a := body ++ sig
    let m := d.mram
    let m := if m.anchorLast = 1 then { m with anchorA := a, anchorLast := 0 } else { m with anchorB := a, anchorLast := 1 }
    let d := { d with mram := m, sdl := { d.sdl with anchorAt := some d.cyc } }
    let d := ((d.mramWords 240).set SDL.ANCHOR_SEQ.Seq seq).count .sdl 0 0x1A1
    d.streamPut (d.get SDL.ANCHOR_CFG.Channel) a

/-- ANCHOR_PERIODIC: the next period ends; not within 1 s of the last anchor (R382). -/
def execAnchorPeriodic (s : State) : Host.Outcome State Fault Refusal :=
  nextD s fun d =>
    if !d.flag SDL.ANCHOR_CFG.Enable || !d.live .sdl || (d.canSign d.mram.ledgerSerial).isNone then d
    else
      let period := secCyc * max 1 (d.get SDL.ANCHOR_CFG.Period)
      let due := d.sdl.anchorDue.getD period
      let d := d.until (max due ((d.sdl.anchorAt.map (· + secCyc)).getD 0))
      let next := if d.cyc < due + period then due + period else d.cyc + period
      { d.makeAnchor with sdl := { d.makeAnchor.sdl with anchorDue := some next } }

/-- ANCHOR_CFG has been written: the period begins afresh where the write has enabled anchors or changed Period (R382; DESIGN CHOICE, log
entry 126). -/
def Dev.anchorSet (d was : Dev) : Dev :=
  if d.flag SDL.ANCHOR_CFG.Enable && !(was.flag SDL.ANCHOR_CFG.Enable && d.get SDL.ANCHOR_CFG.Period == was.get SDL.ANCHOR_CFG.Period) then
    { d with sdl := { d.sdl with anchorDue := some (d.cyc + secCyc * max 1 (d.get SDL.ANCHOR_CFG.Period)) } }
  else d

/-- ANCHOR_NOW: a write of ANCHOR_CTL.Now (R382). Without ANCHOR_CFG.Enable no anchor is made (DEDUCED, log entry 70). -/
def execAnchorNow (fn : Nat) (s : State) : Host.Outcome State Fault Refusal :=
  nextD s fun d => d.gate fn .sdl 0 0x314 fun d =>
    if (d.sdl.anchorAt.map fun t => decide (d.cyc < t + secCyc)).getD false then d.count .sdl 0 0x1A4
    else if d.flag SDL.ANCHOR_CFG.Enable then d.makeAnchor
    else d

/-! ### Ledger keys (R383, R384) -/

/-- SEC makes a ledger key and its certificate, signed by the identity key (R383). -/
def Dev.makeLedgerKey (d : Dev) : Dev :=
  let (k, d) := Dev.draw 12 d
  let key := k % (brainpool.n - 1) + 1
  let old := d.mram.ledgerSerial
  let serial := old + 1
  let body := [0x4B, 0x58, 0x4C, 0x4B] ++ toLE 2 1 ++ [0, 0] ++ toLE 4 serial ++ toLE 4 old ++ toLE 8 d.mram.boot ++
    toLE 8 (compact d.dt) ++ toLE 2 (dtSec d.dt / 2 ^ 32) ++ List.replicate 14 0 ++ brainpool.pub key ++ List.replicate 15 0 ++
    sha384 (brainpool.pub Config.identityKey)
  let (sig, d) := d.secSign Config.identityKey body
  let m := { d.mram with ledgerKeys := Tab.set d.mram.ledgerKeys serial key
                         ledgerCerts := Tab.set d.mram.ledgerCerts serial (body ++ sig), ledgerSerial := serial }
  (({ d with mram := m }).mramWords 48).mramWords 304

/-- Active streams that have not made their rotation seal (R384). -/
def Dev.rotPending (d : Dev) : Nat := ((List.range 16).filter fun s => (d.stream s).active && (d.stream s).rotate).length

/-- ROTATION_GO: a write of ROT_CTL.Go (R384). -/
def execRotationGo (fn : Nat) (s : State) : Host.Outcome State Fault Refusal :=
  nextD s fun d => d.gate fn .sdl 0 0x32C fun d =>
    let refuse := fun (r : Nat) => (d.set SDL.ROT_STAT.Refused 1).set SDL.ROT_STAT.Reason r
    if d.flag SDL.ROT_STAT.Busy then refuse 1
    else if 1024 ≤ d.mram.ledgerCerts.length then refuse 2
    else ({ d with sdl := { d.sdl with rotKey := some (d.mram.ledgerSerial + 1) } }).set SDL.ROT_STAT.Busy 1

/-- ROTATION_KEY_READY: the new key and certificate are made, and every active stream owes a rotation seal (R384). -/
def execRotationKeyReady (s : State) : Host.Outcome State Fault Refusal :=
  nextD s fun d =>
    match d.sdl.rotKey with
    | none => d
    | some n =>
      if d.mram.ledgerSerial ≠ n - 1 || d.sec.stopped || d.sec.trngBad then d
      else
        let d := d.makeLedgerKey
        let d := d.set SDL.KEY_SERIAL.Serial n
        let d := (List.range 16).foldl (fun d k =>
          let x := d.stream k
          if x.active && !x.ending then d.setStream k { x with rotate := true } else d) d
        d.set SDL.ROT_STAT.Pending d.rotPending

/-- ROTATION_DONE: every stream has made its rotation seal; the old private key is erased (R384). -/
def execRotationDone (s : State) : Host.Outcome State Fault Refusal :=
  nextD s fun d =>
    match d.sdl.rotKey with
    | none => d
    | some n =>
      let owed := (List.range 16).any fun k => (d.stream k).rotate || (d.stream k).seals.any fun r => r.key != n
      let old := (List.range 16).any fun k => (d.stream k).active && (d.stream k).key != n
      if d.mram.ledgerSerial ≠ n || owed || old then d.set SDL.ROT_STAT.Pending d.rotPending
      else
        let m := { d.mram with ledgerKeys := Tab.del d.mram.ledgerKeys (n - 1) }
        let d := ({ d with mram := m, sdl := { d.sdl with rotKey := none } }).mramWords 48
        ((d.set SDL.ROT_STAT.Pending 0).set SDL.ROT_STAT.Busy 0).set SDL.ROT_STAT.Done 1

end Sys2Proof.Machine
end

