-- ==== Sys2Proof/Machine/Time.lean ====
section
/-! DEFINITION. The time base (R352 to R359), calibration (R364, R365), 1PPS and 10 MHz. -/

namespace Sys2Proof.Machine

/-- An event of TIM is posted to its queue where its enable is 1 (R467). -/
def Dev.timPost (d : Dev) (on : Bool) (typ : Nat) (items : List Nat) : Dev :=
  if on then d.post .tim 0 typ (d.get TIM.EVT_CFG.Queue) items else d

/-- A Set (type 2) or a Step (type 1) takes effect in the next CLK_TIME cycle, the step cycle: device time becomes `new` of what it
would be, with the effects of R354, R355 and R484: a snapshot and a commit whose act times it passes act in that cycle, in the order of R27
(the command of a port reconfiguration carries its own act time). -/
def Chip.stepTime (c : Chip) (typ : Nat) (offset : Int) (new : Nat → Nat) : Chip :=
  let old := c.dev.dt
  let c := c.upd fun d =>
    let d := d.later 1
    let d := d.notePast ((dtWrap (new d.dt) : Int) - d.dt)
    let d := { d with dt := dtWrap (new d.dt), tim := { d.tim with fault := d.tim.fault && typ == 1 } }
    let d := d.dueSnap.dueCommit.bwCut
    let d := ((d.set TIM.TIME_STAT.Valid 1).set TIM.TIME_STAT.Stepped 1).bump TIM.TIME_STAT.StepCount
    let d := d.count .tim 0 0x160
    d.timPost (d.flag TIM.EVT_CFG.StepEv) 3 [compact d.dt, uint 64 (if typ = 1 then offset else 0)]
  c.stepStreams old typ offset

/-- The operand of a Step, in 2^−16 ns (R354). -/
def Dev.stepOffset (d : Dev) : Int := sint 32 (d.get TIM.STEP_NS.Nanoseconds) * 65536 + d.get TIM.STEP_FRAC.Fraction

/-- A Step by the operand of STEP_*. -/
def Chip.step (c : Chip) : Chip :=
  let o := c.dev.stepOffset
  c.stepTime 1 o fun t => (((t : Int) + o * 2 ^ 24) % ((2 ^ 48 * secUnits : Nat) : Int)).toNat

/-- A Set to SET_*. -/
def Chip.setTime (c : Chip) : Chip :=
  let d := c.dev
  let t := dtOf (d.get TIM.SET_SEC_LO.SecondsLo + 2 ^ 32 * d.get TIM.SET_SEC_HI.SecondsHi) (d.get TIM.SET_NS.Nanoseconds)
  c.stepTime 2 0 fun _ => t

/-- TIME_SET: a TIME_CTL write with Set = 1, and with Step = 1 too where `andStep` is true (R354). -/
def execTimeSet (fn : Nat) (andStep : Bool) (s : State) : Host.Outcome State Fault Refusal :=
  nextC s fun c =>
    let ok := c.dev.admits fn .tim 0 0x22C
    let bad := decide (999999999 < c.dev.get TIM.SET_NS.Nanoseconds)
    let c := c.upd fun d => d.gate fn .tim 0 0x22C fun d =>
      if bad then (d.set TIM.TIME_STAT.Refused 1).count .tim 0 0x161 else d
    if !ok || bad then c else if andStep then c.setTime.step else c.setTime

/-- TIME_STEP: a TIME_CTL write with Step alone (R354). -/
def execTimeStep (fn : Nat) (s : State) : Host.Outcome State Fault Refusal :=
  nextC s fun c =>
    let ok := c.dev.admits fn .tim 0 0x22C
    let c := c.upd fun d => d.gate fn .tim 0 0x22C fun d => d
    if ok then c.step else c

/-- INCR_WRITE: INCR written as a whole (`whole`), or its upper word, the lower word having been written first (R45, R353). The new
rate counts from the next CLK_TIME cycle. -/
def execIncrWrite (fn : Nat) (whole : Bool) (data : Nat) (s : State) : Host.Outcome State Fault Refusal :=
  nextD s fun d => d.gate fn .tim 0 0x210 fun d =>
    let lo := Tab.get (d.get TIM.INCR.Incr % 2 ^ 32) d.fab.hold (Blk.tim.base 0 + 0x210)
    let v := (if whole then data else lo + 2 ^ 32 * (data % 2 ^ 32)) % 2 ^ 48
    let d := { d with fab := { d.fab with hold := Tab.del d.fab.hold (Blk.tim.base 0 + 0x210) } }
    if v < 878729692919 ∨ 880488911523 < v then d.count .tim 0 0x161
    else (d.later 1).set TIM.INCR.Incr v

/-- A read of TIM.TIME_NS latches the other parts of device time (R370). -/
def Dev.latchTime (d : Dev) : Dev × Nat :=
  let sec := dtSec d.dt
  let d := (d.set TIM.TIME_NS.Nanoseconds (dtNs d.dt)).set TIM.TIME_SEC_LO.SecondsLo sec
  ((d.set TIM.TIME_SEC_HI.SecondsHi (sec / 2 ^ 32)).set TIM.TIME_FRAC.Fraction (dtFrac d.dt), dtNs d.dt)

/-- TIME_READ (R370). -/
def execTimeRead (fn : Nat) (s : State) : Host.Outcome State Fault Refusal :=
  nextD s fun d => d.readGate fn .tim 0 0x200 4 Dev.latchTime

/-- PPS_OUT_PULSE: device time passes the next whole second plus PPS_OUT_OFS (R356). -/
def execPpsOutPulse (s : State) : Host.Outcome State Fault Refusal :=
  nextD s fun d =>
    if !d.flag TIM.PPS_OUT_CFG.Enable ∨ d.tim.ppsOut then d
    else
      let ofs := nsU (d.get TIM.PPS_OUT_OFS.Offset)
      let b := (d.dt + secUnits - ofs) / secUnits * secUnits + ofs
      let d := d.untilDt b
      { d with tim := { d.tim with ppsOut := true, ppsAt := d.cyc } }.emit (.pin "PPS_OUT" true)

/-- PPS_OUT_FALL: the pulse has lasted Width ms (R356). -/
def execPpsOutFall (s : State) : Host.Outcome State Fault Refusal :=
  nextD s fun d =>
    if !d.tim.ppsOut then d
    else
      let d := d.until (d.tim.ppsAt + msCyc * max 1 (d.get TIM.PPS_OUT_CFG.Width))
      { d with tim := { d.tim with ppsOut := false } }.emit (.pin "PPS_OUT" false)

/-- PPS_IN_EDGE (R357). -/
def execPpsInEdge (falling : Bool) (s : State) : Host.Outcome State Fault Refusal :=
  nextD s fun d =>
    if !d.flag TIM.PPS_IN_CFG.Enable ∨ d.flag TIM.PPS_IN_CFG.Falling ≠ falling then d
    else if (d.tim.ppsInAt.map fun t => decide (d.cyc < t + secCyc / 2)).getD false then d.count .tim 0 0x165
    else
      let d := { d with tim := { d.tim with ppsInAt := some d.cyc } }
      let d := d.set TIM.PPS_IN_STAMP.Stamp (compact d.dt)
      d.timPost (d.flag TIM.EVT_CFG.PpsEv) 2 [compact d.dt]

/-- TEN_MHZ_MEASURE: the 10,000,000th edge since the previous measurement (R358). The first one has none to measure from. -/
def execTenMhzMeasure (s : State) : Host.Outcome State Fault Refusal :=
  nextD s fun d =>
    if !d.flag TIM.TEN_CFG.Enable then d
    else
      let prev := d.tim.tenAt
      let d := { d with tim := { d.tim with tenAt := some d.dt } }
      match prev with
      | none => d
      | some t =>
        let e := uint 48 (((d.dt / 2 ^ 24 : Nat) : Int) - ((t / 2 ^ 24 : Nat) : Int))
        let d := (d.set TIM.TEN_ELAPSED.Elapsed e).bump TIM.TEN_STAT.Count
        d.timPost (d.flag TIM.EVT_CFG.TenEv) 5 [e]

/-- CAL_MEASUREMENT: a lane's measurement in one direction completes, with the sum of its 2^AvgLog2 samples in 2^−8 ns (R364, R365).
A change that is not a whole number of 2^−8 ns is cut towards 0. -/
def execCalMeasurement (lane : Nat) (transmit : Bool) (sum : Int) (s : State) : Host.Outcome State Fault Refusal :=
  nextD s fun d =>
    let linked := (d.portOfLane lane).any fun p => (d.port p).link
    if 128 ≤ lane || !d.flag TIM.CAL_CFG.Enable || !linked then d
    else
      let n : Int := 2 ^ d.get TIM.CAL_CFG.AvgLog2
      let tab := if transmit then d.tim.tx else d.tim.rx
      let c : Int := (Tab.get 0 tab lane : Nat)
      let diff := sum - c * n
      let d := if transmit then d else { d with tim := { d.tim with est := Tab.put 0 d.tim.est lane (uint 20 (sum / n)) } }
      if diff.natAbs < (8 * n).toNat then d
      else
        let by_ : Int := min 16 ((diff.natAbs : Int) / n)
        let c' := uint 20 (if 0 < diff then c + by_ else c - by_)
        let tab := Tab.put 0 tab lane c'
        let d := d.notePast 0 (if transmit then none else some (lane, c.toNat))
        let d := { d with tim := if transmit then { d.tim with tx := tab } else { d.tim with rx := tab } }
        let d := (d.bump TIM.CAL_GEN.Generation).count .tim 0 0x162
        d.timPost (d.flag TIM.EVT_CFG.CalEv) 4
          [d.get TIM.CAL_GEN.Generation + 2 ^ 32 * lane + 2 ^ 39 * b2n transmit + 2 ^ 40 * c']

end Sys2Proof.Machine
end

