-- ==== Sys2Proof/Machine/Boot.lean ====
section
/-! DEFINITION. Cold reset, Dawn, the boot flash, image stores, the persistent configuration and secure debug unlock (R25, R381,
R506 to R523). -/

namespace Sys2Proof.Machine

/-! ### Text (R524 to R527) -/

/-- The bytes of a text. -/
def str (s : String) : List Byte := s.toList.map fun c => BitVec.ofNat 8 c.toNat

/-- A hexadecimal digit, and `n` of them, highest first. -/
def hexDigit (v : Nat) : Byte := BitVec.ofNat 8 (if v < 10 then 48 + v else 55 + v)
def hexN : Nat → Nat → List Byte
  | 0, _ => []
  | n + 1, v => hexN n (v / 16) ++ [hexDigit (v % 16)]

/-- Groups of four hexadecimal digits joined by underscores. -/
def hexGroups : Nat → Nat → List Byte
  | 0, _ => []
  | 1, v => hexN 4 v
  | n + 1, v => hexGroups n (v / 65536) ++ str "_" ++ hexN 4 v

/-- A number in decimal. -/
def dec (n : Nat) : List Byte := (Nat.toDigits 10 n).map fun c => BitVec.ofNat 8 c.toNat

/-- A version as major.minor.patch.build (R211). -/
def verText (v : Nat) : List Byte :=
  dec (bits v 24 8) ++ str "." ++ dec (bits v 16 8) ++ str "." ++ dec (bits v 8 8) ++ str "." ++ dec (bits v 0 8)

/-- A line of the monitor. -/
def Dev.line (d : Dev) (t : List Byte) : Dev := d.emit (.uart (t ++ [13, 10]))

/-- The text of a monitor error code (R526). -/
def errText : Nat → String
  | 1 => "syntax"
  | 2 => "unknown"
  | 3 => "level"
  | 4 => "denied"
  | 5 => "host lock"
  | 6 => "refused"
  | 7 => "busy"
  | _ => "timeout"

/-- The prompt of the level in force (R526). -/
def Dev.prompt (d : Dev) : Dev := d.emit (.uart (str "kx" ++ dec (d.get MON.STAT.Level) ++ str "> "))

/-- A monitor command ends: its final line, `OK` for 0 or the error, and the prompt (R526). -/
def Dev.monEnd (d : Dev) (code : Nat) : Dev :=
  let d := { d with mon := { d.mon with ready := none, ask := 0, dp := none } }
  (d.line (if code = 0 then str "OK" else str "ERR " ++ dec code ++ str " " ++ str (errText code))).prompt

/-! ### Cold reset and release (R25, R506, R507) -/

/-- Cold reset clears everything but MRAM and the flash; `power` says that PWR_OK fell, which releases THERMTRIP# (R544). -/
def Dev.cold (d : Dev) (power : Bool) : Dev :=
  { Dev.reset with
    mram := d.mram, boot := { flash := d.boot.flash }, tmp := { trip := d.tmp.trip && !power }, out := d.out, free := d.free }

/-- A cold reset of the chip. -/
def Chip.cold (c : Chip) (power : Bool) : Chip := { hbm := [], dev := c.dev.cold power }

/-- PERST# is asserted, or PWR_OK falls (`power`). -/
def execPerst (power : Bool) (s : State) : Host.Outcome State Fault Refusal := nextC s (·.cold power)

/-- RESET_RELEASE with the level of BOOT_RCV: Dawn stage 1 starts (R506, R511). -/
def execResetRelease (rcv : Bool) (s : State) : Host.Outcome State Fault Refusal :=
  nextD s fun d =>
    if d.boot.relAt.isSome then d
    else
      let d := { d with boot := { d.boot with relAt := some d.cyc, rcv := rcv } }
      (d.set BOOT.STAT.Stage 1).set BOOT.STAT.Recovery (b2n rcv)

/-- Dawn releases blocks, writing CTL.Enable = 1 in each instance (R507). -/
def Dev.release' (d : Dev) (bs : List Blk) : Dev :=
  bs.foldl (fun d b =>
    let d := if d.fab.released.contains b then d else { d with fab := { d.fab with released := d.fab.released ++ [b] } }
    (List.range (blkRow b).inst).foldl (fun d i => d.set (HDR.CTL.Enable b) 1 i) d) d

/-! ### The persistent configuration (R521) -/

/-- Whether a PCFG record has its Magic and Format. -/
def pcfgOk (r : List Byte) : Bool := ofLE (sliceB r 0 4) == 0x4350584B && ofLE (sliceB r 4 2) == 1

/-- The defaults, with which a device without a record runs. -/
def pcfgDefault : List Byte :=
  List.replicate 8 0 ++ toLE 2 Config.vendorId.toNat ++ [0, 0, 4] ++ List.replicate 243 0

/-- The latest valid record, or the defaults. -/
def MramSt.pcfg (m : MramSt) : List Byte :=
  let (x, y) := if m.pcfgLast = 0 then (m.pcfgA, m.pcfgB) else (m.pcfgB, m.pcfgA)
  if pcfgOk x then x else if pcfgOk y then y else pcfgDefault

/-- The copy of the record at BOOT.PCFG, and the device with it set. -/
def Dev.pcfgCopy (d : Dev) : List Byte := (List.range 64).flatMap fun k => toLE 4 (d.get BOOT.PCFG.Record 0 k)
def Dev.setPcfgCopy (d : Dev) (r : List Byte) : Dev :=
  (List.range 64).foldl (fun d k => d.set BOOT.PCFG.Record (ofLE (sliceB r (4 * k) 4)) 0 k) d

/-- Baud index of a record: values above 6 act as 0. -/
def pcfgBaud (r : List Byte) : Nat := let b := ofLE (sliceB r 14 1); if 6 < b then 0 else b

/-! ### Boot images (R510 to R513) -/

/-- `n` flash bytes from an address. -/
def Dev.flashB (d : Dev) (a n : Nat) : List Byte := (List.range n).map fun i => BitVec.ofNat 8 (Tab.get 255 d.boot.flash ((a + i) % 2 ^ 24))

/-- Whether 512 bytes are a valid FLASH_DIR. -/
def dirOk (b : List Byte) : Bool :=
  le b 0 4 == 0x4446584B && le b 4 2 == 1 && decide (1 ≤ le b 6 2) && decide (le b 6 2 ≤ 30) && le b 496 4 == crc32 (b.take 496)

/-- The directory in use, and whether a copy is invalid. -/
def Dev.flashDir (d : Dev) : Option (List Byte) × Bool :=
  let a := d.flashB 0 512
  let b := d.flashB 0x10000 512
  match dirOk a, dirOk b with
  | true, true => (some (if le a 8 4 < le b 8 4 then b else a), false)
  | true, false => (some a, true)
  | false, true => (some b, true)
  | false, false => (none, true)

/-- The entries of a Type in directory order: number and image. -/
def Dev.dirEntries (d : Dev) (dir : List Byte) (typ : Nat) : List (Nat × List Byte) :=
  ((List.range (le dir 6 2)).filter fun n => le dir (16 + 16 * n) 4 == typ && le dir (28 + 16 * n) 4 == 0).map fun n =>
    (n, d.flashB (le dir (20 + 16 * n) 4) (min (2 ^ 24) (le dir (24 + 16 * n) 4)))

/-- Whether a BOOT_IMAGE of a Kind passes (R512, R513). -/
def Dev.fwOk (d : Dev) (kind : Nat) (f : List Byte) : Bool :=
  let n := 128 + le f 28 4 + 96
  let img := f.take n
  le f 0 4 == 0x5442584B && le f 4 2 == 1 && le f 6 1 == kind && le f 7 1 == 0 && le f 13 3 == 0 && le f 16 4 == 0x2560 &&
    decide (le f 28 4 ≤ 262144) && le f 32 4 == n && decide (n ≤ f.length) && le f 36 12 == 0 && le f 96 32 == 0 &&
    sliceB f 48 48 == sha384 Config.vendorKey && verifySig Config.vendorKey (img.take (n - 96)) (img.drop (n - 96)) &&
    decide (d.mram.fwFloor ≤ le f 12 1)

/-- The first entry of a Type that passes, with the number of entries refused before it. -/
def firstOk (ok : List Byte → Bool) : List (Nat × List Byte) → Nat → Option (Nat × List Byte) × Nat
  | [], n => (none, n)
  | e :: t, n => if ok e.2 then (some e, n) else firstOk ok t (n + 1)

/-- The entry taken for a Type shows in DIR_USED. -/
def Dev.dirUsed (d : Dev) (typ n : Nat) : Dev :=
  d.set BOOT.DIR_USED.Entries (putBits (d.get BOOT.DIR_USED.Entries) (8 * (typ - 1)) 8 n)

/-- Dawn tries the entries of a Type (R511). -/
def Dev.tryType (d : Dev) (typ : Nat) (ok : List Byte → Bool) : Dev × Option (List Byte) × Nat :=
  let es := match d.flashDir.1 with
    | some dir => d.dirEntries dir typ
    | none => []
  match firstOk ok es 0 with
  | (some (n, f), bad) => ((d.dirUsed typ n).count .boot 0 0x220 bad, some f, bad + 1)
  | (none, bad) => (d.count .boot 0 0x220 bad, none, bad)

/-! ### Dawn (R506 to R509) -/

/-- Blocks whose pages stage 3 releases, and those that a stop in stage 1 or 2 releases (R506, R508). -/
def stage3Blocks : List Blk := [.glb, .boot, .mon, .tmp, .err, .sec, .hif, .pmc, .gth, .tim]
def stopBlocks : List Blk := [.glb, .boot, .mon, .sec]

/-- The persistent configuration is applied (R521). -/
def Dev.applyPcfg (d : Dev) : Dev :=
  let r := d.mram.pcfg
  let d := { d with boot := { d.boot with pcfg := r, hostUp := true }, mon := { d.mon with baud := pcfgBaud r } }
  (d.setPcfgCopy r).set MON.CTL.HostLock (ofLE (sliceB r 15 1) % 2)

/-- A stopping fault ends Dawn at its stage (R508). -/
def Dev.dawnStop (d : Dev) (fault info : Nat) : Dev :=
  let d := { d with boot := { d.boot with stopped := true } }
  let d := (d.set BOOT.STAT.Fault fault).set BOOT.STAT.FaultInfo info
  if d.get BOOT.STAT.Stage ≤ 2 then d.applyPcfg.release' stopBlocks else d

/-- Stage 1: the main PLL has locked, keys and nonces are drawn, the boot counter rises, and the first Dawn makes the attestation
key and the first ledger key (R109, R240, R381, R383, R516). -/
def Dev.stageRom (d : Dev) (counterFail : Bool) : Dev :=
  let d := { d with pllAt := some d.cyc }
  let (key, d) := Dev.draw 4 d
  let (seed, d) := Dev.draw 2 d
  let (dbg, d) := Dev.draw 2 d
  let (enr, d) := Dev.draw 2 d
  let d := { d with ftb := { d.ftb with digestKey := key }, l2 := { d.l2 with seed := seed } }
  let d := (d.set SEC.DBG_NONCE.Nonce dbg).set UCS.ENR_NONCE.Nonce enr
  let d := if counterFail then d.set BOOT.STAT.BootCounterFail 1
    else { d with mram := { d.mram with boot := d.mram.boot + 1, bootRec := (d.mram.bootRec + 1) % 256 }
                  sdl := { d.sdl with bootOk := true } }
  let d := if d.mram.attest.isSome then d
    else
      let (k, d) := Dev.draw 12 d
      { d with mram := { d.mram with attest := some (k % (nistP384.n - 1) + 1) } }
  let d := if d.mram.ledgerSerial = 0 then d.makeLedgerKey else d
  let d := (d.set SDL.BOOT.Boot d.mram.boot).set SDL.KEY_SERIAL.Serial d.mram.ledgerSerial
  let d := d.set SDL.ANCHOR_SEQ.Seq (le d.mram.anchor 16 8)
  (d.set BOOT.SECVER.FwFloor d.mram.fwFloor).syncKeys

/-- The banner line (R524). -/
def Dev.banner (d : Dev) : Dev :=
  d.line (str "KX2560 Novyx " ++ verText (d.get BOOT.FW_VER.Monitor) ++ str " serial " ++ hexGroups 4 Config.serial.toNat ++
    str " stage " ++ dec (d.get BOOT.STAT.Stage))

/-- Stage 2: the flash directory, the monitor image and the management firmware (R511, R513); or the fault that stops it. -/
def Dev.stageFirmware (d : Dev) : Dev × Option (Nat × Nat) :=
  if d.boot.rcv then (d, some (4, 0))
  else
    let d := if d.flashDir.2 then d.set BOOT.STAT.FlashCopy 1 else d
    match d.tryType 1 (d.fwOk 1) with
    | (d, none, n) => (d, some (4, n))
    | (d, some m, _) =>
      let d := (d.set BOOT.FW_VER.Monitor (le m 8 4)).set BOOT.SECVER.Monitor (le m 12 1)
      match d.tryType 2 (d.fwOk 2) with
      | (d, none, n) => (d, some (5, n))
      | (d, some f, _) =>
        let d := (d.set BOOT.MGMT_VER.Firmware (le f 8 4)).set BOOT.SECVER.Firmware (le f 12 1)
        let own := fun (x : List Byte) => x.take (le x 32 4)
        ({ d with boot := { d.boot with fwHash := sha384 (own m ++ own f) } }.banner, none)

/-- Stage 4: the controllers are enabled, each rate's calibration is stored, and every burst is zero (R308, R327). An order 3 in PCFG
is refused as at any write (R307). `cal` gives stack, rate × 256 + lane, centre, eye width, VREF and strobe. -/
def Chip.stageMemory (c : Chip) (cal : List (Nat × Nat × Nat × Nat × Nat × Nat)) : Chip :=
  let d := c.dev
  let order := ofLE (sliceB d.boot.pcfg 12 1)
  let d := (List.range 6).foldl (fun d k =>
    let d := d.mapCfg k order
    let d := (d.set (HDR.CTL.Enable .hbc) 1 k).hbcEnable k
    let mine := cal.filter fun e => e.1 == k
    let x := d.stack k
    let put := fun (t : Tab HbmLane) (e : Nat × Nat × Nat × Nat × Nat × Nat) =>
      Tab.set t e.2.1 { centre := e.2.2.1, width := e.2.2.2.1, vref := e.2.2.2.2.1, strobe := e.2.2.2.2.2 }
    let x := { x with stored := mine.foldl put x.stored }
    (d.setStack k (x.recall 0)).syncTiming k) d
  { hbm := [], dev := { d with hbc := { d.hbc with pcs := d.hbc.pcs.map fun (p : Nat × HbmPc) => (p.1, { p.2 with bad := [], flips := [], cal := [] }) } } }

/-- Bank A of every cluster is written with images and made active (R201). -/
def Dev.dawnBank (d : Dev) (imgs : List (List Byte)) : Dev :=
  let x := imgs.foldl Bank.write ({} : Bank)
  (List.range 16).foldl (fun d c =>
    let d := d.set UCS.STAT.ActiveBank 0 c
    (d.setBank' c 0 x fun _ => true).setBankState c 0 3) d

/-- Stage 5: the vendor image and the Dawn customer image (R201, R511); or the fault that stops it. -/
def Dev.stageMicrocode (d : Dev) : Dev × Option (Nat × Nat) :=
  let ok := fun (kind : Nat) (f : List Byte) => le f 6 1 == kind && d.imageCheck f == 0
  match d.tryType 3 (ok 1) with
  | (d, none, n) => (d, some (7, n))
  | (d, some v, _) =>
    let fits := fun (f : List Byte) => ok 2 f && (Bank.write (Bank.write {} v) f).readiness == 2
    let src := ofLE (sliceB d.boot.pcfg 13 1)
    let img := Tab.get [] d.mram.images (bits src 2 3)
    let (d, cust) := if bits src 0 2 = 1 then (let r := d.tryType 4 fits; (r.1, r.2.1))
      else if bits src 0 2 = 2 then (d, if fits img then some img else none)
      else (d, none)
    match cust with
    | some f => (d.dawnBank [v, f], none)
    | none => ((if bits src 0 2 = 1 ∨ bits src 0 2 = 2 then d.set BOOT.STAT.CustomerFail 1 else d).dawnBank [v], none)

/-- Stage 6: lane constants are measured (lane, receive, transmit), and lanes that failed are marked (R364, R508). -/
def Dev.stageLanes (d : Dev) (lanes : List (Nat × Nat × Nat)) (failed : List Nat) : Dev :=
  let put := fun (f : Nat × Nat × Nat → Nat) => lanes.foldl (fun (t : Tab Nat) e => Tab.put 0 t (e.1 % 128) (f e % 2 ^ 20)) []
  let rx := put (·.2.1)
  let tx := put (·.2.2)
  let d := { d with tim := { d.tim with rx := rx, tx := tx, est := rx, dawnRx := rx, dawnTx := tx } }
  let d := d.set TIM.CAL_GEN.Generation 0
  let d := failed.foldl (fun d l =>
    d.set BOOT.LANE_FAIL.Lanes (putBits (d.get BOOT.LANE_FAIL.Lanes 0 (l % 128 / 32)) (l % 32) 1 1) 0 (l % 128 / 32)) d
  if failed.isEmpty then d else d.set BOOT.STAT.LaneFail 1

/-- Stage 7: every other block is released, and BOOT event 0 is set (R506). -/
def Dev.stageReady (d : Dev) : Dev := (d.release' ((blkTable.map (·.blk)).filter fun b => !stage3Blocks.contains b)).event .boot 0 0

/-- DAWN_STAGE_END: the stage in progress ends `us` µs after reset release. What Dawn cannot know beforehand comes with the event:
a fault of stages 1 and 4 with its FaultInfo (R508), whether the boot counter's write failed, the calibration of stage 4, and the
lane constants and failed lanes of stage 6. What the images decide, the flash decides. -/
def execDawnStageEnd (us fault info : Nat) (counterFail : Bool) (cal : List (Nat × Nat × Nat × Nat × Nat × Nat))
    (lanes : List (Nat × Nat × Nat)) (failed : List Nat) (s : State) : Host.Outcome State Fault Refusal :=
  nextC s fun c =>
    let stage := c.dev.get BOOT.STAT.Stage
    match c.dev.boot.relAt with
    | none => c
    | some t =>
      if c.dev.boot.stopped ∨ stage = 0 ∨ 7 ≤ stage then c
      else
        let c := c.upd (·.until (t + us * 1250))
        let ends := fun (c : Chip) => c.upd fun d =>
          (d.set BOOT.STAGE_US.Us ((d.cyc - t) / 1250) 0 (stage - 1)).set BOOT.STAT.Stage (stage + 1)
        let either := fun (r : Dev × Option (Nat × Nat)) =>
          match r.2 with
          | some (f, i) => { c with dev := r.1.dawnStop f i }
          | none => ends { c with dev := r.1 }
        match stage with
        | 1 => if 1 ≤ fault ∧ fault ≤ 3 then c.upd (·.dawnStop fault info) else ends (c.upd (·.stageRom counterFail))
        | 2 => either c.dev.stageFirmware
        | 3 => ends (c.upd fun d => d.applyPcfg.release' stage3Blocks)
        | 4 => if fault = 1 ∨ fault = 6 then c.upd (·.dawnStop fault info) else ends (c.stageMemory cal)
        | 5 => either c.dev.stageMicrocode
        | _ => (ends (c.upd (·.stageLanes lanes failed))).upd (·.stageReady)

/-! ### The boot flash (R514) -/

/-- A FLASH_CMD write with Go: the operation starts, or is discarded and counted while one is busy. -/
def Dev.flashGo (d : Dev) (op : Nat) : Dev :=
  if d.boot.op.isSome then d.miss
  else (({ d with boot := { d.boot with op := some (op, d.get BOOT.FLASH_ADDR.Addr) } }).set BOOT.FLASH_CMD.Op op).set BOOT.FLASH_STAT.Busy 1

def execFlashRead (fn : Nat) (s : State) : Host.Outcome State Fault Refusal :=
  nextD s fun d => d.gate fn .boot 0 0x284 (·.flashGo 1)
def execFlashProgram (fn : Nat) (s : State) : Host.Outcome State Fault Refusal :=
  nextD s fun d => d.gate fn .boot 0 0x284 (·.flashGo 2)
def execFlashErase (fn : Nat) (s : State) : Host.Outcome State Fault Refusal :=
  nextD s fun d => d.gate fn .boot 0 0x284 (·.flashGo 3)

/-- Flash bytes replaced. -/
def Dev.flashPut (d : Dev) (a : Nat) (b : List Nat) : Dev :=
  { d with boot := { d.boot with flash := b.zipIdx.foldl (fun t (e : Nat × Nat) => Tab.put 255 t ((a + e.2) % 2 ^ 24) e.1) d.boot.flash } }

/-- FLASH_DONE: the operation in progress ends in time, or not (`late`). A program clears bits, as NOR flash does. Dawn's own reads
go first (R514). -/
def execFlashDone (late : Bool) (s : State) : Host.Outcome State Fault Refusal :=
  nextD s fun d =>
    let stage := d.get BOOT.STAT.Stage
    match d.boot.op with
    | none => d
    | some (op, addr) =>
      if !d.boot.stopped && (stage == 2 || stage == 5) then d
      else
        let a := if op = 1 then addr else if op = 2 then addr / 256 * 256 else addr / 65536 * 65536
        let buf := (List.range 64).flatMap fun k => (toLE 4 (d.get BOOT.FLASH_BUF.Buf 0 k)).map (·.toNat)
        let torn := fun (n : Nat) => (List.range n).map fun i => (Config.flashTorn d.free (a + i)).toNat
        let d := { d with boot := { d.boot with op := none } }
        let d := if op = 1 then
            (List.range 64).foldl (fun d k => d.set BOOT.FLASH_BUF.Buf (ofLE (d.flashB (a + 4 * k) 4)) 0 k) d
          else
            let n := if op = 2 then 256 else 65536
            let new := if late then torn n
              else if op = 2 then List.zipWith (· &&& ·) buf ((d.flashB a 256).map (·.toNat)) else List.replicate n 255
            ({ (d.flashPut a new) with free := d.free + b2n late }).count .boot 0 0x221
        let d := (d.set BOOT.FLASH_STAT.Busy 0).set BOOT.FLASH_STAT.Done 1
        if late && op != 1 then d.set BOOT.FLASH_STAT.Error 1 else d

/-! ### The firmware floor (R513) and image stores (R515) -/

/-- FLOOR_CTL.Raise: the floor rises to the lower running SecurityVersion, where SEC accepts the write (R520). -/
def Dev.raiseFw (d : Dev) : Dev :=
  let v := min (d.get BOOT.SECVER.Monitor) (d.get BOOT.SECVER.Firmware)
  if v ≤ d.mram.fwFloor then d
  else if !d.mramOpen 0 then d.count .sec 0 0x229
  else (({ d with mram := { d.mram with fwFloor := v } }).mramTouch 0 8).set BOOT.SECVER.FwFloor v

def execFloorRaise (fn : Nat) (s : State) : Host.Outcome State Fault Refusal :=
  nextD s fun d => d.gate fn .boot 0 0x240 (·.raiseFw)

/-- STORE_GO of a slot: the image is fetched (`image`; `err`: a read of it failed) and checked as a Load (R515, R520). The slot reads as
empty from the start of its store (R519). -/
def execStoreGo (fn slot : Nat) (image : List Byte) (err : Bool) (s : State) : Host.Outcome State Fault Refusal :=
  nextD s fun d => d.gate fn .boot 0 0x60C fun d =>
    if d.boot.storing.isSome then d.miss
    else
      let k := slot % 8
      let n := d.get BOOT.STORE_LEN.Length
      let d := d.set BOOT.STORE_CFG.Slot k
      let img := sliceB image 0 n
      let fetch := d.mramOpen (2 + k) && n != 0 && decide (n ≤ 786432)
      let d := if fetch then d.emit (.read 256 0 (d.get BOOT.STORE_ADDR.Addr) n) else d
      let res := if !d.mramOpen (2 + k) then 7
        else if n = 0 then 0
        else if 786432 < n then 1
        else if err then 8
        else d.imageCheck img
      let d := if res = 7 then d.count .sec 0 0x229 else d
      let d := if res = 0 then { d with mram := { d.mram with images := Tab.del d.mram.images k } } else d
      ({ d with boot := { d.boot with storing := some (k, img, res) } }).set BOOT.STORE_STAT.Busy 1

/-- STORE_DONE: the store in progress ends; `bad`: the MRAM read-back failed (R515, R531). -/
def execStoreDone (bad : Bool) (s : State) : Host.Outcome State Fault Refusal :=
  nextD s fun d =>
    match d.boot.storing with
    | none => d
    | some (k, img, res) =>
      let d := { d with boot := { d.boot with storing := none } }
      let d := (d.set BOOT.STORE_STAT.Busy 0).set BOOT.STORE_STAT.Done 1
      if res ≠ 0 then d.set BOOT.STORE_STAT.Result res
      else if bad then d.set BOOT.STORE_STAT.Result 13
      else
        let images := if img.isEmpty then d.mram.images else Tab.set d.mram.images k img
        let d := ({ d with mram := { d.mram with images := images } }).mramTouch (2 + k) img.length
        (d.set BOOT.STORE_STAT.Result 0).count .boot 0 0x222

/-! ### PCFG (R520, R521) -/

/-- A commit of a record starts, or is refused, or finds SEC busy. -/
def Dev.pcfgCommit (d : Dev) (r : List Byte) : Dev :=
  if !pcfgOk r then d.set BOOT.PCFG_STAT.Refused 1
  else if d.boot.commit.isSome then d
  else if !d.mramOpen 1 then d.count .sec 0 0x229
  else ({ d with boot := { d.boot with commit := some r } }).set BOOT.PCFG_STAT.Busy 1

def execPcfgCommit (fn : Nat) (s : State) : Host.Outcome State Fault Refusal :=
  nextD s fun d => d.gate fn .boot 0 0x500 fun d => d.pcfgCommit d.pcfgCopy

def execPcfgReload (fn : Nat) (s : State) : Host.Outcome State Fault Refusal :=
  nextD s fun d => d.gate fn .boot 0 0x500 fun d => d.setPcfgCopy d.mram.pcfg

/-- PCFG_COMMIT_DONE: the record is in the slot opposite the latest; or its read-back failed (`bad`), and the earlier slot stays (R519,
R531). -/
def execPcfgCommitDone (bad : Bool) (s : State) : Host.Outcome State Fault Refusal :=
  nextD s fun d =>
    match d.boot.commit with
    | none => d
    | some r =>
      let d := ({ d with boot := { d.boot with commit := none } }).set BOOT.PCFG_STAT.Busy 0
      if bad then d.set BOOT.PCFG_STAT.Refused 1
      else
        let m := d.mram
        let m := if m.pcfgLast = 1 then { m with pcfgA := r, pcfgLast := 0 } else { m with pcfgB := r, pcfgLast := 1 }
        (({ d with mram := m }).mramTouch 1 256).set BOOT.PCFG_STAT.Done 1

/-! ### Secure debug unlock (R522, R523) -/

/-- Why a DEBUG_TOKEN is refused; 0 where it is accepted. -/
def Dev.tokenReason (d : Dev) (t : List Byte) : Nat :=
  let slot := le t 24 1
  let key := if slot = 0 then some Config.vendorKey
    else ((Tab.find d.mram.keys slot).filter (·.admin)).map (·.key)
  if le t 0 4 ≠ 0x5544584B ∨ le t 4 2 ≠ 1 ∨ 8 ≤ le t 6 2 ∨ le t 25 7 ≠ 0 then 6
  else if le t 16 8 ≠ d.get SEC.DBG_NONCE.Nonce then 1
  else if le t 8 8 ≠ Config.serial.toNat then 2
  else match key with
    | none => 5
    | some k =>
      if slot ≠ 0 ∧ bit (le t 6 2) 0 then 4
      else if !verifySig k (t.take 32) (sliceB t 32 96) then 3
      else 0

/-- An attempt to unlock: scopes open, or a refusal; the nonce is drawn afresh. While the TRNG or the verify engine serves nothing the
attempt is refused (R495). -/
def Dev.unlock (d : Dev) (t : List Byte) : Dev × Nat :=
  let off := d.sec.stopped || d.sec.trngBad
  let why := if off then 3 else d.tokenReason t
  let (nonce, d) := if d.sec.trngBad then (d.get SEC.DBG_NONCE.Nonce, d) else Dev.draw 2 d
  let d := d.set SEC.DBG_NONCE.Nonce nonce
  if why ≠ 0 then (((d.set SEC.DBG_STAT.Refused 1).set SEC.DBG_STAT.Reason why).count .sec 0 0x22A, why)
  else
    let scope := le t 6 2
    let d := d.set SEC.DBG_STAT.Scope (d.get SEC.DBG_STAT.Scope ||| scope)
    let d := d.postSys .sec 0 1 [scope + 2 ^ 8 * le t 24 1]
    (d.report .sec 0 5 0 true, 0)

/-- DBG_SUBMIT: DBG_CTL.Submit with the token of DBG_TOKEN. -/
def execDbgSubmit (fn : Nat) (s : State) : Host.Outcome State Fault Refusal :=
  nextD s fun d => d.gate fn .sec 0 0x214 fun d =>
    (d.unlock ((List.range 32).flatMap fun k => toLE 4 (d.get SEC.DBG_TOKEN.Token 0 k))).1

end Sys2Proof.Machine
end

