-- ==== Sys2Proof/Machine/Shadow.lean ====
section
/-! DEFINITION. The shadow walker (R256, R407, R418): passes over the host's shadow of a table, checks and repairs, dumps. -/

namespace Sys2Proof.Machine

/-- The keys of the device's host entries of a table, for COUNT and Dump. Index tables count the entries that are not
empty. -/
def Chip.shwKeys (c : Chip) (tab : Nat) : List Nat :=
  let d := c.dev
  match tab with
  | 1 => d.fwd.routes.map fun e => routeShw e.1
  | 2 => d.fwd.nhs.map (·.1)
  | 3 => d.l2.ents.filterMap fun e => if e.2.static && !e.2.learned then some (l2Shw e.2.mac e.2.vlan) else none
  | 4 => d.fwd.groups.map (·.1)
  | 5 => d.fwd.slots.map (·.1)
  | 6 => d.fwd.natAddr.map (·.1)
  | 7 => (d.madeGen.filter fun e => e.1.1 = 7).map (·.1.2)
  | 8 => (List.range 64).filter fun r => d.cfg NAT.SUB.Valid 0 r ≠ 0
  | _ => []

/-- While a pass is active, the next shadow entry is read from host memory (R256): 32 bytes at BASE + 32 × its index, in two requests where
they cross a 4 KiB boundary, once the read engine's turn is the walker's (R418, R440). -/
def Dev.shwFetch (d : Dev) : Dev :=
  if d.dmaPick false ≠ some (dmaChans + 1) then d
  else
    let n := d.intRoom d.walkerAt 32
    let d := d.intIssue true d.walkerAt n
    if n < 32 then d.intIssue true (d.walkerAt + n) (32 - n) else d

/-- A pass ends with FetchError; what is still to come of its read is discarded (R256, R407, R418). -/
def Dev.shwFails (d : Dev) : Dev :=
  if d.flag SHW.STAT.Active then ((d.set SHW.STAT.Active 0).set SHW.STAT.FetchError 1).intsDrop true else d

/-- A pass ends with COUNT against the device's `n` host entries (R256). -/
def Dev.shwDone (d : Dev) (n : Nat) : Dev :=
  let d := ((d.set SHW.STAT.Active 0).set SHW.STAT.Done 1).set SHW.DEVCOUNT.DevCount n
  if d.get SHW.COUNT.Count ≠ n then d.set SHW.STAT.Surplus 1 else d

/-- SHW CTL Start: a pass from the first shadow entry, its counts cleared; with none to check it ends at once. -/
def execShwStart (fn : Nat) (s : State) : Host.Outcome State Fault Refusal :=
  nextC s fun c =>
    let n := (c.shwKeys (c.dev.get SHW.CFG.Table)).length
    c.upd fun d => d.gate fn .shw 0 0x210 fun d =>
      if d.flag SHW.STAT.Active || !d.shw.dump.isEmpty then d
      else
        let d := { d with shw := { d.shw with idx := 0 } }
        let d := (((d.set SHW.CHECKED.Checked 0).set SHW.MISMATCH.Mismatch 0).set SHW.PENDING.Pending 0).set SHW.REPAIRED.Repaired 0
        if d.get SHW.COUNT.Count = 0 then d.shwDone n else (d.set SHW.STAT.Active 1).shwFetch

/-- SHW CTL Stop: a pass ends, as does a dump that is paused. -/
def execShwStop (fn : Nat) (s : State) : Host.Outcome State Fault Refusal :=
  nextD s fun d => d.gate fn .shw 0 0x210 fun d => ({ d with shw := { d.shw with dump := [] } }.set SHW.STAT.Active 0).intsDrop true

/-- The generation that made a host entry active. -/
def Dev.genOf (d : Dev) (tab key : Nat) : Nat := ((d.madeGen.find? fun e => e.1 = (tab, key)).map (·.2)).getD 0

/-- A SHADOW_ENTRY of 32 bytes. -/
def Chip.shadowBytes (c : Chip) (tab key : Nat) : List Byte :=
  [BitVec.ofNat 8 tab, 0] ++ toLE 2 (c.dev.genOf tab key) ++ toLE 20 key ++ toLE 8 ((c.shwEntry tab key).getD 0)

/-- SHW CTL Dump: each host entry of the table, as it stands, goes to DumpChannel as far as the channel has room; the rest waits, and Done is set
with the last (R256, R407, R429; DESIGN CHOICE, log entry 121). -/
def execShwDump (fn : Nat) (s : State) : Host.Outcome State Fault Refusal :=
  nextC s fun c =>
    let tab := c.dev.get SHW.CFG.Table
    let es := (c.shwKeys tab).map (c.shadowBytes tab)
    c.upd fun d => d.gate fn .shw 0 0x210 fun d =>
      if d.flag SHW.STAT.Active || !d.shw.dump.isEmpty then d
      else if es.isEmpty then d.set SHW.STAT.Done 1
      else ({ d with shw := { d.shw with dump := es } }).dumpMore

/-- The end of a pass: COUNT against the device's host entries (R256). -/
def Chip.shwEnd (c : Chip) : Chip :=
  let n := (c.shwKeys (c.dev.get SHW.CFG.Table)).length
  c.upd (·.shwDone n)

/-- A check of the next shadow entry (R256): `entry` is what host memory returns for it, `err` a failed read. While its read has not been issued,
it is issued in its turn. -/
def Chip.shwCheck (c : Chip) (entry : List Byte) (err : Bool) : Chip :=
  if !c.dev.flag SHW.STAT.Active then c
  else if !c.dev.walkerReads then c.upd (·.shwFetch)
  else if err then c.upd (·.shwFails)
  else
    let c := c.upd (·.intsDone true)
    let d := c.dev
    let i := d.shw.idx
    let tab := d.get SHW.CFG.Table
    let e := sliceB entry 0 32
    let gen := ofLE ((e.drop 2).take 2)
    let key := ofLE ((e.drop 4).take 20)
    let data := ofLE ((e.drop 24).take 8)
    let ahead := (gen + 65536 - d.get GLB.COMMIT_STAT.Gen) % 65536
    let c := if 1 ≤ ahead ∧ ahead ≤ 32767 then c.upd (·.bump SHW.PENDING.Pending)
      else
        let c := c.upd (·.bump SHW.CHECKED.Checked)
        let dev := c.shwEntry tab key
        let same := match dev with
          | some v => decide (v % 2 ^ 64 = data)
          | none => false
        if same then c
        else
          let missing := dev.isNone
          c.upd fun d =>
            let d := ((d.bump SHW.MISMATCH.Mismatch).count .shw 0 0x110).post .shw 0 1 (d.get SHW.EVQ.Queue)
              [i + 2 ^ 24 * tab + 2 ^ 28 * b2n missing, data, dev.getD 0 % 2 ^ 64]
            if d.flag SHW.CFG.Mode then d.shwRepair tab key (data + 2 ^ 64 * ((dev.getD 0) / 2 ^ 64)) else d
    let c := c.upd fun d => { d with shw := { d.shw with idx := i + 1 } }
    if d.get SHW.COUNT.Count ≤ i + 1 then c.shwEnd else c.upd (·.shwFetch)

def execShadowCheck (entry : List Byte) (err : Bool) (s : State) : Host.Outcome State Fault Refusal :=
  nextC s fun c => c.shwCheck entry err

end Sys2Proof.Machine
end

