-- ==== Sys2Proof/Machine/Hif.lean ====
section
/-! DEFINITION. The host interface (R392 to R412): link and functions, Function Level Reset, the mailbox, and SPDM over DOE. -/

namespace Sys2Proof.Machine

/-! ### Completions of reads (R418, R430, R436) -/

/-- CLK_CORE cycles of a Completion Timeout Value: the upper end of its PCIe range, and 10 ms for 0 (R436). -/
def cplTimeout : Nat → Nat
  | 1 => nsCyc 100000
  | 2 => nsCyc 10000000
  | 5 => nsCyc 55000000
  | 6 => nsCyc 210000000
  | 9 => nsCyc 900000000
  | 10 => nsCyc 3500000000
  | 13 => nsCyc 13000000000
  | 14 => nsCyc 64000000000
  | _ => nsCyc 10000000

/-- Read `idx` of the loader or the walker, oldest first, where there is one. -/
def Dev.intAt (d : Dev) (walker : Bool) (idx : Nat) : Option IntRead := (d.dma.ints.filter fun r => r.walker == walker)[idx]?

/-- Such a read goes: its tag and its staging are free. -/
def Dev.intFree (d : Dev) (r : IntRead) : Dev := ({ d with dma := { d.dma with ints := d.dma.ints.erase r } }).syncDma

/-- A completion of a read of the loader or the walker: what the loader fetches is the operand of UCS_LOAD or UCS_ENROL, and what the walker
fetches that of SHADOW_CHECK, whose read stays until then. -/
def Dev.intAnswered (d : Dev) (walker : Bool) (idx : Nat) : Dev :=
  match d.intAt walker idx with
  | none => d
  | some r => if walker && !r.drop then d else d.intFree r

/-- A read of the loader or the walker fails, or with `late` has no completion within the timeout of PF0: its operation ends with FetchError
(R418). -/
def Dev.intFails (d : Dev) (walker : Bool) (idx : Nat) (late : Bool) : Dev :=
  match d.intAt walker idx with
  | none => d
  | some r =>
    let d := if late then (d.until (r.at0 + cplTimeout (d.fn 0).cto)).bump HIF.CPL_TIMEOUT.Count else d
    let d := d.intFree r
    if r.drop then d else if walker then d.shwFails else d.loadFails 8

/-- PCIE_COMPLETION of read `idx` of a channel, oldest first: `status` 0 success, 1 UR, 2 CA; `ep` the poison bit. A completion
with fewer bytes than the read leaves the rest outstanding. Channels 256 and 257 are the loader and the walker (R418). -/
def execPcieCompletion (chan idx status : Nat) (ep : Bool) (data : List Byte) (s : State) : Host.Outcome State Fault Refusal :=
  nextC s fun c =>
    if dmaChans ≤ chan then c.upd fun d => if status = 0 ∧ !ep then d.intAnswered (chan != dmaChans) idx else d.intFails (chan != dmaChans) idx false
    else
    let x := c.dev.chan chan
    match x.reads[idx]? with
    | none => c
    | some r =>
      if status ≠ 0 then c.upd (·.readFails chan idx 3)
      else if ep then c.upd (·.readFails chan idx 4)
      else if r.why = .flush then c.upd fun d => if r.drop then d.freeRead chan idx else d.flushBack chan idx
      else
        let b := data.take r.len
        let all := decide (r.len ≤ b.length)
        if b.isEmpty ∨ (r.why = .desc ∧ b.length % 32 ≠ 0) then c
        else
          let rest : DmaRead := { r with addr := r.addr + b.length, len := r.len - b.length,
                                         why := match r.why with
                                           | .data id off => .data id (off + b.length)
                                           | w => w }
          let c := if all then c.upd (·.freeRead chan idx)
            else c.upd fun d => (d.setChan chan { x with reads := x.reads.set idx rest }).syncDma
          if r.drop then c
          else match r.why with
            | .data id off => c.readArrives chan id off b
            | _ =>
              if c.dev.get DCH.HEAD.Addr chan ≠ r.addr then c else c.upd (Dev.takeDescs chan · r.addr b (b.length / 32))

/-- COMPLETION_TIMEOUT of read `idx` of a channel (R436). -/
def execCompletionTimeout (chan idx : Nat) (s : State) : Host.Outcome State Fault Refusal :=
  nextD s fun d =>
    if dmaChans ≤ chan then d.intFails (chan != dmaChans) idx true
    else match (d.chan chan).reads[idx]? with
    | none => d
    | some r =>
      let d := d.until (r.at0 + cplTimeout (d.fn (d.chanOwner chan)).cto)
      (d.bump HIF.CPL_TIMEOUT.Count).readFails chan idx 2

/-! ### Function Level Reset (R41, R405 to R408) -/

/-- A block page's fields but OWNER return to their Reset values, and its counters to 0 (R41). -/
def Dev.pageReset (d : Dev) (b : Blk) (i : Nat) : Dev :=
  let owner := d.get (HDR.OWNER.Function b) i
  let lo := b.base i * 8
  let regs := d.regs.filter fun (e : Nat × Nat) => !(decide (lo ≤ e.1) && decide (e.1 < lo + 4096 * 8))
  let ctr := d.fab.ctr.filter fun (e : Nat × Ctr) => e.1 / 16 != b.page i
  ({ d with regs := regs, fab := { d.fab with ctr := ctr } }).set (HDR.OWNER.Function b) owner i

/-- A channel of a reset function: nothing further is started, its staged data and its descriptors go, and completions of its reads
are discarded (R405 steps 2 and 3). Its open reservations in event queues are voided, as it is a writer that is reset (R460). The page's fields return to their reset values (R41), CTL.Enable too. -/
def Dev.flrChan (d : Dev) (c : Nat) : Dev :=
  let d := (d.cutChan c true).1
  let d := (d.setHalted c false).setChan c { d.chan c with hops := 0, off := 0, stopping := false }
  ((d.pageReset .dch c).voidWriters (· == Blk.dch.page c)).syncDma

/-- An event queue of a reset function (R405 step 6). -/
def Dev.flrQueue (d : Dev) (q : Nat) : Dev := d.clearQueue q

/-- Pages of an assignable block that a function owns. -/
def Dev.owned (d : Dev) (b : Blk) (f : Nat) : List Nat :=
  (List.range (blkRow b).inst).filter fun i => d.get (HDR.OWNER.Function b) i == f

/-- A host command's work marked as submitted before a reset of its function (R194). -/
def Thread.madeStale (x : Thread) : Thread := match x.work with
  | .cmd m => { x with work := .cmd { m with stale := true } }
  | .pkt _ => x

/-- Host commands of a function: running threads abort with reason Flr, waiting entries go, and no reply is posted; one that is sealed
and still to be sent is discarded and counted (R194, R405 step 4). -/
def Chip.flrCommands (c : Chip) (f : Nat) : Chip :=
  let mine := fun (w : Work) => match w with
    | .cmd m => m.fn == f
    | .pkt _ => false
  let c := c.upd fun d => { d with threads := d.threads.map fun (e : Nat × Thread) => if mine e.2.work then (e.1, e.2.madeStale) else e }
  let c := (c.dev.threads.filter fun (e : Nat × Thread) => mine e.2.work).foldl (fun c (e : Nat × Thread) =>
    c.abortThread (e.1 / 256) (e.1 % 256) 7) c
  c.upd fun d =>
    let d := (List.range 8).foldl (fun d l => d.setLvl l ((d.lvl l).filter fun e => !mine e.work)) d
    { d with fsc := { d.fsc with inbox := d.fsc.inbox.filter fun h => (d.buf (handleKey h)).owner != f } }

/-- A UCS load from host memory and an SHW pass use PF0's requester ID: they end with FetchError (R407, R408). -/
def Dev.flrFetches (d : Dev) : Dev :=
  let d := match d.load with
    | some l =>
      if l.ask.2 ≠ 0 ∨ d.dma.ints.any (fun r => !r.walker && !r.drop) then d.loadFails 8 else d
    | none => d
  d.shwFails

/-- What an FLR does to MSI-X, the mailbox, grants and configuration space (R405 steps 7 to 10, R408). PF0's configuration space
holds the DOE mailbox: its response and the SPDM session go (log entry 65). -/
def Dev.flrConfig (d : Dev) (f : Nat) : Dev :=
  let x := d.fn f
  let grants := d.pmc.grants.map fun (g : Nat × Grant) => (g.1, if g.2.fn = f then { g.2 with valid := false } else g.2)
  let msix := d.fab.msix.filter fun (v : Nat × MsixVec) => v.1 / 2048 != f
  let d := { d with pmc := { d.pmc with grants := grants }, fab := { d.fab with msix := msix } }
  let m : Mailbox := { x.mbx with
    toPf := List.replicate 448 0, fromPf := List.replicate 448 0, busy := false, full := false }
  let d := d.setFn f { flr := x.flr, mbx := m, aer := x.aer }
  if f = 0 then
    let d := (List.range 4).foldl (fun d j => d.set HIF.MBX_PEND.Pending 0 0 j) d
    let fns := d.fab.fns.map fun (e : Nat × Fn) => (e.1, { e.2 with mbx := { e.2.mbx with busy := false } })
    { d with fab := { d.fab with fns := fns }, doe := {} }
  else d.set HIF.MBX_PEND.Pending (putBits (d.get HIF.MBX_PEND.Pending 0 (f / 32)) (f % 32) 1 0) 0 (f / 32)

/-- The actions of an FLR of a function, in the order of R405. -/
def Chip.flrActions (c : Chip) (f : Nat) : Chip :=
  let c := c.upd fun d => (d.owned .dch f).foldl Dev.flrChan d
  let c := c.flrCommands f
  c.upd fun d =>
    let d := d.reclaim f
    let d := (d.owned .evp f).foldl Dev.flrQueue d
    let d := d.flrConfig f
    if f = 0 then d.flrFetches else d

/-- FLR_ACTIVE of a function. -/
def Dev.setFlr (d : Dev) (f : Nat) (on : Bool) : Dev :=
  let d := d.setFn f { d.fn f with flr := on }
  d.set HIF.FLR_ACTIVE.Active (putBits (d.get HIF.FLR_ACTIVE.Active 0 (f / 32)) (f % 32) 1 (b2n on)) 0 (f / 32)

/-- Whether a function exists: PF0, and the VFs in force. -/
def Dev.fnExists (d : Dev) (f : Nat) : Bool := f == 0 || (d.fab.vfEnable && decide (f ≤ d.fab.numVfs) && decide (f < 128))

/-- An FLR begins; one already in progress takes it in (R406). -/
def Chip.flr (c : Chip) (f : Nat) : Chip := if (c.dev.fn f).flr then c else (c.upd (·.setFlr f true)).flrActions f

/-- Whether configuration requests of a function are answered normally (R405, R507). -/
def Dev.cfgUp (d : Dev) (f : Nat) : Bool := d.boot.hostUp && !(d.fn f).flr

/-- A configuration write of a function: answered with Configuration Request Retry Status, with Unsupported Request where the function
does not exist, or carried out. -/
def Dev.cfgWrite (d : Dev) (f : Nat) (k : Dev → Dev) : Dev :=
  if !d.fnExists f then d.emit (.unsupported f) else if !d.cfgUp f then d.emit (.retryStatus f) else k d

/-- FLR of function `fn`. -/
def execFlr (fn : Nat) (s : State) : Host.Outcome State Fault Refusal :=
  nextC s fun c =>
    if !c.dev.fnExists fn then c.upd (·.emit (.unsupported fn))
    else if !c.dev.boot.hostUp then c.upd (·.emit (.retryStatus fn))
    else c.flr fn

/-- An FLR completes (R406). -/
def Dev.flrDone (d : Dev) (f : Nat) : Dev := ((d.setFlr f false).event .hif 0 1).count .hif 0 0x1B2

/-- FLR_DONE of function `fn`. -/
def execFlrDone (fn : Nat) (s : State) : Host.Outcome State Fault Refusal :=
  nextD s fun d => if (d.fn fn).flr then d.flrDone fn else d

/-! ### Configuration identity (R393) -/

/-- The identity that a function's configuration header reports. -/
structure PciIdentity where
  vendor : Nat
  device : Nat
  classCode : Nat
  revision : Nat
  subsystemVendor : Nat
  subsystem : Nat
  deriving DecidableEq, Repr

/-- The identity of function `fn`: PF0's or a VF's Device ID, GLB's Version, and the subsystem identifiers of the persistent
configuration in force (R393, R521). -/
def Dev.pciIdentity (d : Dev) (fn : Nat) : PciIdentity :=
  { vendor := Config.vendorId.toNat
    device := if fn = 0 then 0x2560 else 0x2561
    classCode := 0x028000
    revision := (Config.blockVersion (blkRow .glb).type).toNat
    subsystemVendor := ofLE (sliceB d.boot.pcfg 8 2)
    subsystem := ofLE (sliceB d.boot.pcfg 10 2) }

/-- A 64-bit BAR pair: its first BAR, its size in bytes, and whether it is reported Prefetchable (R395). -/
structure PciBar where
  bar : Nat
  size : Nat
  prefetch : Bool
  deriving DecidableEq, Repr

/-- The BARs of a function; a VF's are the VF BARs of PF0's SR-IOV capability (R395). -/
def pciBars (fn : Nat) : List PciBar :=
  if fn = 0 then [⟨0, 64 * 2 ^ 20, false⟩, ⟨2, 16 * 2 ^ 20, false⟩, ⟨4, 64 * 2 ^ 10, false⟩]
  else [⟨0, 64 * 2 ^ 20, true⟩, ⟨2, 4 * 2 ^ 10, false⟩, ⟨4, 4 * 2 ^ 10, false⟩]

/-- A capability with what R392, R395, R399, R400, R406 and R409 fix in it: Power Management with No_Soft_Reset; MSI-X with Table Size
and the BAR 4 offsets of table and PBA; SR-IOV with TotalVFs, InitialVFs, First VF Offset and VF Stride; Readiness Time Reporting with the
times of an FLR and of VF Enable in µs; PCI Express with FLR, its largest payload and read request; DOE with its Interrupt Message
Number. -/
inductive PciCap where
  | express (flr : Bool) (maxPayload maxRead tags : Nat)
  | power (noSoftReset : Bool)
  | msix (tableSize table pba : Nat)
  | aer
  | ari
  | readiness (flrUs vfUs : Nat)
  | sriov (total initial offset stride : Nat)
  | doe (vector : Nat)
  deriving DecidableEq, Repr

/-- The capability list of a function (R392): SR-IOV and DOE are PF0's. -/
def pciCaps (fn : Nat) : List PciCap :=
  [.express true 512 4096 768, .power true, if fn = 0 then .msix 2047 0 0x8000 else .msix 63 0 0x800, .aer, .ari, .readiness 2000 1000] ++
    if fn = 0 then [.sriov 127 127 1 1, .doe Config.doeVector.toNat] else []

/-! ### VFs, link and power (R392, R394, R396 to R398) -/

/-- Every VF in force is removed: its resources as under FLR, OWNER = 0 in its pages with the route off (R41, R55, R397). With `flr` each
has an FLR of its own in progress, which completes with the removal (R394, R398). -/
def Chip.removeVfs (c : Chip) (flr : Bool) : Chip :=
  let n := c.dev.fab.numVfs
  let c := c.upd fun d => { d with fab := { d.fab with vfEnable := false, vfChange := some (0, false), vfWait := none } }
  (List.range n).foldl (fun c k =>
    let f := k + 1
    let c := if flr then c.upd (·.setFlr f true) else c
    let ch := c.dev.owned .dch f
    let qs := c.dev.owned .evp f
    let c := c.flrActions f
    c.upd fun d =>
      let off := fun (d : Dev) (b : Blk) (i : Nat) =>
        let r := Tab.get {} d.fab.routes (b.page i)
        ({ d with fab := { d.fab with routes := Tab.put {} d.fab.routes (b.page i) { r with enable := false } } }).set
          (HDR.OWNER.Function b) 0 i
      let d := ch.foldl (fun d i => off d .dch i) d
      let d := qs.foldl (fun d i => off d .evp i) d
      d.setFn f { flr := (d.fn f).flr, aer := (d.fn f).aer }) c

/-- VF Enable is 0 with no VF in force: a change that would set it is undone, a waiting write of it goes, and a removal in progress goes on
(R394, R397, R398). -/
def Dev.dropVfEnable (d : Dev) : Dev :=
  { d with fab := { d.fab with
    vfWait := none
    vfChange := match d.fab.vfChange with
      | some (_, true) => some (0, false)
      | x => x } }

/-- PCIE_LINK_RESET: hot reset, link disable or DL_Down: an FLR of every function at once, every configuration space reset, VF MSE with them,
every VF removed (R394). -/
def execPcieLinkReset (s : State) : Host.Outcome State Fault Refusal :=
  nextC s fun c =>
    let c := if c.dev.fab.vfEnable then c.removeVfs true else c.upd (·.dropVfEnable)
    let c := c.flr 0
    c.upd fun d =>
      let d := { d with fab := { d.fab with vfMse := false } }.setFn 0 { flr := true, mbx := (d.fn 0).mbx, aer := (d.fn 0).aer }
      (((d.set HIF.LINK_STAT.Rate 0).set HIF.LINK_STAT.Width 0).set HIF.LINK_STAT.Up 0).event .hif 0 2

/-- PCIE_LINK_UP: the link has trained at a rate code 1 to 5 and a width (R394, R507). -/
def execPcieLinkUp (rate width : Nat) (s : State) : Host.Outcome State Fault Refusal :=
  nextD s fun d =>
    if d.boot.relAt.isNone ∨ rate = 0 ∨ 5 < rate ∨ !([1, 2, 4, 8].contains width) then d
    else (((d.set HIF.LINK_STAT.Rate rate).set HIF.LINK_STAT.Width width).set HIF.LINK_STAT.Up 1).event .hif 0 2

/-- VF_ENABLE_SET: VF Enable is set with NumVFs `n`; a removal in progress goes first (R397, R398). -/
def execVfEnableSet (n : Nat) (s : State) : Host.Outcome State Fault Refusal :=
  nextD s fun d => d.cfgWrite 0 fun d =>
    if 127 < n ∨ d.fab.vfEnable then d
    else match d.fab.vfChange with
      | none => { d with fab := { d.fab with vfChange := some (n, true) } }
      | some (_, false) => { d with fab := { d.fab with vfWait := some n } }
      | some (_, true) => d

/-- VF_ENABLE_CLEAR: VF Enable is cleared (R397). -/
def execVfEnableClear (s : State) : Host.Outcome State Fault Refusal :=
  nextC s fun c =>
    let c := c.upd (·.cfgWrite 0 id)
    if !c.dev.cfgUp 0 then c
    else if c.dev.fab.vfEnable then c.removeVfs false
    else c.upd (·.dropVfEnable)

/-- VF_CHANGE_DONE: the change in progress is in force; an FLR of a removed VF has completed with it; a waiting VF Enable write
follows (R398). -/
def execVfChangeDone (s : State) : Host.Outcome State Fault Refusal :=
  nextD s fun d =>
    match d.fab.vfChange with
    | none => d
    | some (n, on) =>
      let old := (d.fab.fns.filter fun (e : Nat × Fn) => e.1 != 0 && e.1 != 128 && e.2.flr).map (·.1)
      let d := old.foldl Dev.flrDone d
      let fns := d.fab.fns.filter fun (e : Nat × Fn) => e.1 == 0
      let d := { d with fab := { d.fab with
        fns := fns, numVfs := n, vfEnable := on, vfWait := none, vfChange := d.fab.vfWait.map fun k => (k, true) } }
      ((d.set HIF.VF_STAT.NumVfs n).set HIF.VF_STAT.VfEnable (b2n on)).event .hif 0 3

/-- POWER_STATE_CHANGE: a function goes to D3hot (`d3`) or to D0, keeping its state (R392). -/
def execPowerStateChange (fn : Nat) (d3 : Bool) (s : State) : Host.Outcome State Fault Refusal :=
  nextD s fun d => d.cfgWrite fn fun d => d.setFn fn { d.fn fn with d3 := d3 }

/-- Messages of a function held pending that nothing holds any longer are sent (R54, R396). -/
def Dev.sendPending (d : Dev) (f : Nat) : Dev :=
  let vs := (d.fab.msix.filter fun (v : Nat × MsixVec) => v.1 / 2048 == f && v.2.pend && !v.2.mask).map fun v => v.1 % 2048
  if (d.fn f).fmask || !(d.fn f).bme then d else vs.foldl (fun d v => Dev.sendMsix 2 d f v) d

/-- BUS_MASTER_ENABLE_WRITE: a write of a function's configuration space: Memory Space Enable, Bus Master Enable, Max Payload Size and Max
Read Request Size codes, and in `ctl` the Completion Timeout Value [3:0], the MSI-X Function Mask [4] and PF0's DOE Interrupt Enable [5]
(R392, R396, R400, R401, R436). For a VF, Memory Space Enable is VF MSE of PF0's SR-IOV capability, one bit for all VFs (DEDUCED, log entry 84). -/
def execBusMasterEnableWrite (fn : Nat) (mse bme : Bool) (mps mrrs ctl : Nat) (s : State) : Host.Outcome State Fault Refusal :=
  nextD s fun d => d.cfgWrite fn fun d =>
    let y := { d.fn fn with bme := bme, mps := 128 * 2 ^ min 2 mps, mrrs := 128 * 2 ^ min 5 mrrs, cto := ctl % 16, fmask := bit ctl 4 }
    let d := if fn = 0 then { d with doe := { d.doe with intOn := bit ctl 5 } }.setFn fn { y with mse := mse }
      else { d with fab := { d.fab with vfMse := mse } }.setFn fn y
    d.sendPending fn

/-! ### The mailbox (R403, R404) -/

/-- A write by a function in the mailbox of window `w` at an offset; a VF reaches its own window only; `vf` says that the VF's side
owns the register. A write by the wrong side is refused (R33, R403, R404). -/
def Dev.mbxWrite (d : Dev) (f w off : Nat) (vf : Bool) (k : Nat → Mailbox → Dev → Dev) : Dev :=
  let w := if f = 0 then w else f
  if f = 128 ∨ !d.reachable f then d.emit (.unsupported f)
  else if w = 0 ∨ 128 ≤ w then d.miss
  else if (f == 0) == vf then d.deny f true (w * 4096 + off)
  else k w (d.fn w).mbx d

/-- The device with a function's mailbox replaced. -/
def Dev.setMbx (d : Dev) (f : Nat) (m : Mailbox) : Dev := d.setFn f { d.fn f with mbx := m }

/-- A write of ToPfDoorbell (R404). -/
def Dev.toPfBell (d : Dev) (fn window data : Nat) : Dev :=
  d.mbxWrite fn window 0xF80 true fun w m d =>
  if m.busy then d.deny fn true (w * 4096 + 0xF80)
  else
    let d := d.setMbx w { m with busy := true, toPfLen := data % 512 }
    let d := d.set HIF.MBX_PEND.Pending (putBits (d.get HIF.MBX_PEND.Pending 0 (w / 32)) (w % 32) 1 1) 0 (w / 32)
    (d.event .hif 0 0).count .hif 0 0x1B3

/-- TO_PF_DOORBELL (R404). -/
def execToPfDoorbell (fn window data : Nat) (s : State) : Host.Outcome State Fault Refusal :=
  nextD s fun d => (d.request fn).toPfBell fn window data

/-- A write of FromPfDoorbell (R404). -/
def Dev.fromPfBell (d : Dev) (fn window data : Nat) : Dev :=
  d.mbxWrite fn window 0xF84 false fun w m d =>
  if m.full then d.deny fn true (w * 4096 + 0xF84)
  else
    let d := (d.setMbx w { m with full := true, fromPfLen := data % 512 }).count .hif 0 0x1B3
    if m.enable then Dev.sendMsix 2 d w m.vector else d

/-- FROM_PF_DOORBELL (R404). -/
def execFromPfDoorbell (fn window data : Nat) (s : State) : Host.Outcome State Fault Refusal :=
  nextD s fun d => (d.request fn).fromPfBell fn window data

/-- MBX_PEND_WRITE of word `j`: bits written 1 clear, with their functions' ToPfBusy (R404). -/
def execMbxPendWrite (fn j data : Nat) (s : State) : Host.Outcome State Fault Refusal :=
  nextD s fun d => d.gate fn .hif 0 (0x220 + 4 * (j % 4)) fun d =>
    let j := j % 4
    let old := d.get HIF.MBX_PEND.Pending 0 j
    let d := d.set HIF.MBX_PEND.Pending (old &&& (2 ^ 32 - 1 - data % 2 ^ 32)) 0 j
    ((List.range 32).filter fun n => bit data n).foldl (fun d n =>
      d.setMbx (32 * j + n) { (d.fn (32 * j + n)).mbx with busy := false }) d

/-! ### SPDM over DOE (R409 to R412) -/

/-- A DOE data object of PCI-SIG's vendor ID: type, length in words, payload. -/
def doeObj (typ : Nat) (p : List Byte) : List Byte :=
  let n := ceilDiv p.length 4
  toLE 2 1 ++ toLE 2 typ ++ toLE 4 (n + 2) ++ sliceB p 0 (4 * n)

/-- A response object is ready: PF0 is sent the DOE capability's vector where DOE Interrupt Enable is set (R401). An Abort leaves none to send
for (PRESUMED, log entry 128). -/
def Dev.doeReady (d : Dev) (obj : List Byte) : Dev :=
  let d := { d with doe := { d.doe with resp := obj } }
  if d.doe.intOn then Dev.sendMsix 2 d 0 Config.doeVector.toNat else d

/-- DOE_DISCOVERY of an index: Discovery and CMA/SPDM (R409). -/
def execDoeDiscovery (index : Nat) (s : State) : Host.Outcome State Fault Refusal :=
  nextD s fun d => d.cfgWrite 0 fun d =>
    let p := match index % 256 with
      | 0 => [1, 0, 0, 1]
      | 1 => [1, 0, 1, 0]
      | _ => [0xFF, 0xFF, 0, 0]
    d.doeReady (doeObj 0 p)

/-- DOE_ABORT: the data object in progress is abandoned (R409). -/
def execDoeAbort (s : State) : Host.Outcome State Fault Refusal :=
  nextD s fun d => d.cfgWrite 0 fun d => { d with doe := { d.doe with resp := [] } }

/-- An SPDM response is returned. -/
def Dev.spdmAnswer (d : Dev) (m : List Byte) : Dev :=
  (d.doeReady (doeObj 1 m)).count .hif 0 0x1B4

/-- ERROR with a code and its data. -/
def Dev.spdmError (d : Dev) (code data : Nat) : Dev := d.spdmAnswer [0x12, 0x7F, BitVec.ofNat 8 code, BitVec.ofNat 8 data]

/-- A request that needs NEGOTIATE_ALGORITHMS to have completed (R410): UnexpectedRequest before. -/
def Dev.spdm (d : Dev) (k : Dev → Dev) : Dev :=
  d.cfgWrite 0 fun d => if d.doe.phase = 3 then k d else d.spdmError 4 0

/-- GET_VERSION restarts negotiation. -/
def execGetVersion (s : State) : Host.Outcome State Fault Refusal :=
  nextD s fun d => d.cfgWrite 0 fun d =>
    let m : List Byte := [0x10, 0x04, 0, 0, 0, 1, 0x00, 0x12]
    ({ d with doe := { intOn := d.doe.intOn, phase := 1, msgA := [0x10, 0x84, 0, 0] ++ m } }).spdmAnswer m

/-- GET_CAPABILITIES with the requester's CTExponent, Flags, DataTransferSize and MaxSPDMmsgSize. -/
def execGetCapabilities (ct flags dts maxSize : Nat) (s : State) : Host.Outcome State Fault Refusal :=
  nextD s fun d => d.cfgWrite 0 fun d =>
    if d.doe.phase ≠ 1 then d.spdmError 4 0
    else
      let q := [0x12, 0xE1, 0, 0, 0] ++ toLE 1 ct ++ [0, 0] ++ toLE 4 flags ++ toLE 4 dts ++ toLE 4 maxSize
      let m := [0x12, 0x61, 0, 0, 0, 16, 0, 0] ++ toLE 4 0x16 ++ toLE 4 4096 ++ toLE 4 4096
      ({ d with doe := { d.doe with phase := 2, msgA := d.doe.msgA ++ q ++ m } }).spdmAnswer m

/-- Bytes of a request object that DOE accepts, its two header words among them (R409). -/
def doeRequestMax : Nat := 1024

/-- NEGOTIATE_ALGORITHMS: `req` is the request from its Length field on, `n` its number of algorithm structures. What the requester does
not offer is not selected. An object beyond the 1,024 bytes that DOE accepts (8 bytes of header, 4 of SPDM header, `req`) is not taken. -/
def execNegotiateAlgorithms (n : Nat) (req : List Byte) (s : State) : Host.Outcome State Fault Refusal :=
  nextD s fun d => d.cfgWrite 0 fun d =>
    if doeRequestMax < 12 + req.length then d
    else if d.doe.phase ≠ 2 then d.spdmError 4 0
    else
      let spec := le req 2 1 &&& 1
      let asym := le req 4 4 &&& 0x80
      let hash := le req 8 4 &&& 2
      let q := [0x12, 0xE3, BitVec.ofNat 8 n, 0] ++ req
      let m := [0x12, 0x63, 0, 0] ++ toLE 2 36 ++ toLE 1 spec ++ [0] ++ toLE 4 (if spec = 1 then 4 else 0) ++ toLE 4 asym ++
        toLE 4 hash ++ List.replicate 16 0
      ({ d with doe := { d.doe with phase := 3, msgA := d.doe.msgA ++ q ++ m } }).spdmAnswer m

/-- The attestation public key. -/
def Dev.attestPub (d : Dev) : List Byte := nistP384.pub (d.mram.attest.getD 1)

/-- Certificate `n` (R517). -/
def Dev.cert (d : Dev) (n : Nat) : List Byte :=
  Config.certDer n (if n = 0 then [] else if n = 1 then brainpool.pub Config.identityKey else d.attestPub)

/-- The certificate chain of slot 0: its length, the root's hash, certificates 0 to 2 (R411, R517). -/
def Dev.slot0 (d : Dev) : List Byte :=
  let b := (List.finRange 48).map Config.rootHash ++ d.cert 0 ++ d.cert 1 ++ d.cert 2
  toLE 2 (b.length + 4) ++ [0, 0] ++ b

/-- GET_DIGESTS. -/
def execGetDigests (s : State) : Host.Outcome State Fault Refusal :=
  nextD s fun d => d.spdm fun d =>
    let m := [0x12, 0x01, 0, 1] ++ sha384 d.slot0
    ({ d with doe := { d.doe with msgB := d.doe.msgB ++ [0x12, 0x81, 0, 0] ++ m, msgM := [] } }).spdmAnswer m

/-- GET_CERTIFICATE of a slot, at an offset and length. -/
def execGetCertificate (slot offset length : Nat) (s : State) : Host.Outcome State Fault Refusal :=
  nextD s fun d => d.spdm fun d =>
    let chain := d.slot0
    if slot % 16 ≠ 0 ∨ chain.length ≤ offset then d.spdmError 1 0
    else
      let p := (chain.drop offset).take (min 4032 length)
      let m := [0x12, 0x02, 0, 0] ++ toLE 2 p.length ++ toLE 2 (chain.length - offset - p.length) ++ p
      let q := [0x12, 0x82, 0, 0] ++ toLE 2 offset ++ toLE 2 length
      ({ d with doe := { d.doe with msgB := d.doe.msgB ++ q ++ m, msgM := [] } }).spdmAnswer m

/-- Whether SEC signs for SPDM: a key, a working engine and TRNG, and CoreDebug locked (R495, R523). -/
def Dev.attestKey (d : Dev) : Option Nat :=
  if d.sec.stopped || d.sec.trngBad || bit (d.get SEC.DBG_STAT.Scope) 0 then none else d.mram.attest

/-- An SPDM 1.2 signature over a transcript under a signing context: the combined prefix of 100 bytes and the transcript's hash. -/
def Dev.spdmSign (d : Dev) (key : Nat) (context : String) (transcript : List Byte) : List Byte × Dev :=
  let ctx := str context
  let pre := (List.replicate 4 (str "dmtf-spdm-v1.2.*")).flatten ++ List.replicate (36 - ctx.length) 0 ++ ctx
  let (k, d) := Dev.draw 12 d
  (nistP384.sig key k (pre ++ sha384 transcript), d)

/-- A nonce of 32 bytes. -/
def Dev.nonce32 (d : Dev) : List Byte × Dev :=
  let (n, d) := Dev.draw 8 d
  (toLE 32 n, d)

/-- The value of a measurement block (R412). -/
def Dev.measure (d : Dev) : Nat → List Byte
  | 1 => (List.finRange 48).map Config.romHash
  | 2 => d.boot.fwHash
  | 3 => sha384 ((List.range 16).flatMap fun c =>
      let b := (d.store c).bank (d.activeBank c)
      sliceB b.vendorHash 0 48 ++ sliceB b.custHash 0 48)
  | 4 => sha384 (toLE 1 d.mram.vendorFloor ++ toLE 1 d.mram.custFloor ++ (List.range 4).flatMap fun n =>
      match Tab.find d.mram.keys (n + 1) with
      | some k => sliceB k.key 0 97
      | none => List.replicate 97 0)
  | 5 => toLE 8 d.mram.boot ++ toLE 4 (d.get SDL.KEY_SERIAL.Serial) ++ toLE 1 (Config.blockVersion (blkRow .glb).type).toNat ++
      toLE 1 (d.get FTB.GEOM_STAT.MaxLog2) ++ toLE 1 (d.get FTB.GEOM_STAT.CapLog2) ++ [0]
  | _ => sha384 (Tab.get [] d.mram.ledgerCerts d.mram.ledgerSerial)

/-- A measurement block in DMTF format. -/
def Dev.measureBlock (d : Dev) (i : Nat) : List Byte :=
  let v := d.measure i
  let typ := match i with
    | 1 => 0x00
    | 2 => 0x01
    | 3 => 0x01
    | 5 => 0x82
    | _ => 0x03
  let b := toLE 1 typ ++ toLE 2 v.length ++ v
  toLE 1 i ++ [1] ++ toLE 2 b.length ++ b

def Dev.measureAll (d : Dev) : List Byte := (List.range 6).flatMap fun i => d.measureBlock (i + 1)

/-- CHALLENGE of a slot, with the type of measurement summary and the requester's nonce. -/
def execChallenge (slot summary : Nat) (nonce : List Byte) (s : State) : Host.Outcome State Fault Refusal :=
  nextD s fun d => d.spdm fun d =>
    if slot % 256 ≠ 0 ∨ (summary ≠ 0 ∧ summary ≠ 0xFF) then d.spdmError 1 0
    else match d.attestKey with
      | none => d.spdmError 5 0
      | some key =>
        let q := [0x12, 0x83, 0] ++ toLE 1 summary ++ sliceB nonce 0 32
        let (mine, d) := d.nonce32
        let m := [0x12, 0x03, 0, 1] ++ sha384 d.slot0 ++ mine ++ (if summary = 0 then [] else sha384 d.measureAll) ++ [0, 0]
        let (sig, d) := d.spdmSign key "responder-challenge_auth signing" (d.doe.msgA ++ d.doe.msgB ++ q ++ m)
        ({ d with doe := { d.doe with msgB := [], msgM := [] } }).spdmAnswer (m ++ sig)

/-- GET_MEASUREMENTS: attributes (bit 0 asks for a signature), operation (0 the number of blocks, 0xFF all, else an index), the nonce and
slot of a signed request. -/
def execGetMeasurements (attr op : Nat) (nonce : List Byte) (slot : Nat) (s : State) : Host.Outcome State Fault Refusal :=
  nextD s fun d => d.spdm fun d =>
    let signed := bit attr 0
    if (6 < op ∧ op ≠ 0xFF) ∨ (signed ∧ slot % 16 ≠ 0) then d.spdmError 1 0
    else
      let q := [0x12, 0xE0] ++ toLE 1 attr ++ toLE 1 op ++ (if signed then sliceB nonce 0 32 ++ toLE 1 slot else [])
      let rec_ := if op = 0 then [] else if op = 0xFF then d.measureAll else d.measureBlock op
      let (mine, d) := d.nonce32
      let m := [0x12, 0x60] ++ toLE 1 (if op = 0 then 6 else 0) ++ [0] ++ toLE 1 (if op = 0 then 0 else if op = 0xFF then 6 else 1) ++
        toLE 3 rec_.length ++ rec_ ++ mine ++ [0, 0]
      let l := d.doe.msgM ++ q ++ m
      if !signed then ({ d with doe := { d.doe with msgB := [], msgM := l } }).spdmAnswer m
      else match d.attestKey with
        | none => d.spdmError 5 0
        | some key =>
          let (sig, d) := d.spdmSign key "responder-measurements signing" (d.doe.msgA ++ l)
          ({ d with doe := { d.doe with msgB := [], msgM := [] } }).spdmAnswer (m ++ sig)

/-- Request codes that the responder answers (R410). -/
def spdmCodes : List Nat := [0x84, 0xE1, 0xE3, 0x81, 0x82, 0x83, 0xE0]

/-- SPDM_UNSUPPORTED: a request code out of R410's table, or one sent before its time. -/
def execSpdmUnsupported (code : Nat) (s : State) : Host.Outcome State Fault Refusal :=
  nextD s fun d => d.cfgWrite 0 fun d => if spdmCodes.contains (code % 256) then d.spdmError 4 0 else d.spdmError 7 (code % 256)

end Sys2Proof.Machine
end

