-- ==== Sys2Proof/Machine/Err.lean ====
section
/-! DEFINITION. Detectors and containment (18, R531): the report of a detector with its outcome, automatic resets (R497, R498), the
datapath soft reset's steps (R499, R500), thermal limits (R501, R544), the critical record (R503), and the sensors of TMP (R537,
R543). -/

namespace Sys2Proof.Machine

/-! ### The catalogue -/

/-- Detectors that a block's catalogue numbers, from 0 (R170, R190, R227, R257, R278, R302, R333, R390, R414, R451, R470, R491,
R495, R531). -/
def detCount : Blk → Nat
  | .glb | .mon | .gth | .adm | .l2t | .ecm | .shw | .ser | .prs | .slc => 1
  | .clk | .boot | .tmp | .err | .pmc | .tim | .ftb | .bsn | .fsc | .lpm | .nat | .rsq | .rcc => 2
  | .hif | .sdl | .mtr | .dma | .cpm | .evq | .evp | .mac => 3
  | .egs | .acl | .fen | .ucs => 4
  | .sec | .ruu => 6
  | .hbc => 7
  | .dch => 0

/-! ### Containment by level (R497, R498) -/

/-- The hierarchy level that a class 2 detector is contained at, and the instance of that level (R495, R497). -/
def Dev.contained (d : Dev) (b : Blk) (i det addr : Nat) : Nat × Nat :=
  match b, det with
  | .ser, _ => (0, i)
  | .mac, _ => (1, (d.portOfLane addr).getD (addr % 128))
  | _, _ => (3, i)

/-- Whether ERR resets the instance at a level now: the level's AutoReset bit is 1, and its last automatic reset is HoldMs ago or
more (R497). -/
def Dev.resetsLevel (d : Dev) (level n : Nat) : Bool :=
  bit (d.get ERR.CONTAIN_CFG.AutoReset) level &&
    (match Tab.find d.err.lastAuto (level * 1024 + n) with
     | none => true
     | some t => decide (t + msCyc * d.get ERR.CONTAIN_CFG.HoldMs ≤ d.cyc))

/-- The pages that stand for an instance of a level, which a quiesce stops (R497). -/
def levelPages (level n : Nat) : List (Blk × Nat) :=
  match level with
  | 0 => [(.ser, n)]
  | 1 => [(.mac, n / 8)]
  | 2 => [(.mac, n)]
  | 3 => [(.prs, n), (.slc, n), (.rsq, n), (.egs, n)]
  | _ => []

/-- The automatic reset of an instance, or its quiesce (R497); during a datapath soft reset, neither (R500). -/
def Chip.contain (c : Chip) (level n : Nat) : Chip :=
  if c.dev.glb.dpr ≠ .idle then c
  else if c.dev.resetsLevel level n then
    let c := c.upd fun d =>
      { d with err := { d.err with lastAuto := Tab.set d.err.lastAuto (level * 1024 + n) d.cyc } }.count .err 0 0x211
    match level with
    | 0 => c.upd (·.laneReset n)
    | 1 => c.upd (·.dropLink n)
    | 2 => c.upd (·.macReset n)
    | 3 => c.upd (·.sliceReset n)
    | _ => c.quadrantReset n
  else c.upd fun d =>
    ((levelPages level n).foldl (fun d (e : Blk × Nat) => d.set (HDR.CTL.QuiesceReq e.1) 1 e.2) d).count .err 0 0x212

/-- The Action that the log entry of a report records (R502). -/
def Dev.actionOf (d : Dev) (b : Blk) (i det addr cls : Nat) : Nat :=
  match cls with
  | 2 =>
    let (level, n) := d.contained b i det addr
    if d.glb.dpr ≠ .idle then 0 else if d.resetsLevel level n then level + 1 else 7
  | 3 => if d.flag ERR.CONTAIN_CFG.DeviceAuto then 6 else 0
  | 4 =>
    if (b = .hbc ∧ d.flag ERR.CONTAIN_CFG.HbmThermal) ∨ (b = .tmp ∧ d.flag ERR.CONTAIN_CFG.DieThermal) then 8 else 0
  | _ => 0

/-- The containment of a report's class (R497, R498, R501). -/
def Chip.containClass (c : Chip) (b : Blk) (i det addr cls : Nat) : Chip :=
  match cls with
  | 2 =>
    let (level, n) := c.dev.contained b i det addr
    c.contain level n
  | 3 =>
    if c.dev.flag ERR.CONTAIN_CFG.DeviceAuto then c.dprAsk 1 []
    else c.upd fun d => { d with err := { d.err with stopped := true } }
  | 4 =>
    if b = .hbc then c.thermal (c.dev.flag ERR.CONTAIN_CFG.HbmThermal)
    else if b = .tmp then c.thermal (c.dev.flag ERR.CONTAIN_CFG.DieThermal)
    else c
  | _ => c

/-! ### Outcomes of uncorrectable errors -/

/-- A request leaves an RUU's queue with its error outcome (R170). -/
def Chip.dropReq (c : Chip) (r k : Nat) (spill : Bool) : Chip :=
  match (c.dev.ruu r).queue[k]? with
  | none => c
  | some q =>
    let c := c.upd fun d => (d.setRuu r { d.ruu r with queue := (d.ruu r).queue.eraseIdx k }).syncQueue r
    match q, spill with
    | .packet pid, false => c.upd fun d => (d.setPkt pid { d.pkt pid with sent := false }).dropPkt pid true
    | _, _ => c.abandon r false [] q

/-- A request in service ends without what it was to read: Spillway or MemError (R170). -/
def Chip.failService (c : Chip) (r : Nat) (v : Service) : Chip :=
  let n := (c.dev.ruu r).service.length
  Chip.release r n ((c.upd (·.endService r v)).abandon r false [] v.req)

/-- The requests of an RUU that are still to read their tables and lines, in order: those stalled in service, then those of the queue;
request `k` of them ends with Spillway or MemError (R144, R170). -/
def Chip.failRead (c : Chip) (r k : Nat) : Chip :=
  let sv := (c.dev.ruu r).service
  match sv[k]? with
  | some v => c.failService r v
  | none => c.dropReq r (k - sv.length) true

/-- The outcome of RUU and RCC detectors (R170). `k` names the queue entry (detector 0), the request of `Chip.failRead` (detectors 1, 2), the
stalled request or the line. What a datapath soft reset has caught is its to discard and to issue again (R140), so no detector ends it
then. -/
def Chip.ruuError (c : Chip) (r det k : Nat) : Chip :=
  match det with
  | 0 => if c.dev.glb.dpr = .idle then c.dropReq r k false else c
  | 1 | 2 => if c.dev.glb.dpr = .idle then c.failRead r k else c
  | 5 => c.upd fun d => (d.setRuu r { d.ruu r with stock := [] }).syncStock r
  | _ => c

/-- RUU detector 4 at a stalled request: it completes without the slot that its first memory request, or else its row, names (R170). -/
def Chip.slotFails (c : Chip) (r k : Nat) (injected : Bool) : Chip :=
  let sv := (c.dev.ruu r).service
  match sv[k]? with
  | none => c
  | some v =>
    let l := ((v.mem.head?).map (·.loc)).getD (v.row.headD ⟨r, 0, 0, 0⟩)
    let c := c.upd fun d => (d.underMode r v.mode).slotError r l injected
    if c.dev.glb.dpr ≠ .idle then c
    else Chip.release r sv.length ((c.runService r v (if v.round = 0 then [l] else []) (v.round == 1)).upd (·.endService r v))

/-- RCC detectors (R170): line `k` is dropped, and with a dirty one the request that reads it, stalled in service or queued; or set `k` is
written back and invalidated. -/
def Chip.rccError (c : Chip) (r det k : Nat) : Chip :=
  let x := c.dev.ruu r
  if det = 0 then
    match x.lines[k]? with
    | none => c
    | some v =>
      let c := c.upd fun d => (d.setRuu r { x with lines := x.lines.eraseIdx k }).syncRcc r
      let l : Loc := ⟨r, v.set, v.way, v.idx⟩
      if !v.dirty || c.dev.glb.dpr != .idle then c
      else match (x.service.map (·.row) ++ x.queue.map (c.dev.reqRow r)).findIdx? (·.contains l) with
        | none => c
        | some j => c.failRead r j
  else
    let mine := fun (v : Line) => lineSet v.way v.idx == k
    let c := (x.lines.filter fun v => mine v && v.dirty).foldl (fun (c : Chip) v =>
      (c.hbmSlot ⟨r, v.set, v.way, v.idx⟩ v.image).upd (·.count .rcc r 0x0A2)) c
    c.upd fun d => (d.setRuu r { d.ruu r with lines := (d.ruu r).lines.filter fun v => !mine v }).syncRcc r

/-- FEN detectors at thread `t`; `k` is the journal index of a sealed entry (R190). -/
def Chip.fenError (c : Chip) (cl det t k : Nat) : Chip :=
  match c.dev.thr cl t with
  | none => c
  | some x =>
    match det, x.sealing with
    | 2, some s =>
      if s.left.any fun j => j.1 == k then
        c.upd fun d =>
          let d := d.setThr cl t (some { x with sealing := some { s with left := s.left.filter fun j => j.1 != k } })
          d.postSys .fen cl 3 [cl + 2 ^ 4 * t + 2 ^ 12 * (k % 16)]
      else c
    | _, _ => c.abortThread cl t 3

/-- FSC detector 0 at entry `k` of level `l`, and detector 1 (R190). The rule speaks of a packet's entry; a host command's goes without
a reply, and its buffer is freed (DESIGN CHOICE, log entry 98). -/
def Dev.fscError (d : Dev) (det l k : Nat) : Dev :=
  if det = 1 then { d with fsc := { d.fsc with recount := true } }
  else match (d.lvl l)[k]? with
    | none => d
    | some e =>
      let d := d.setLvl l ((d.lvl l).eraseIdx k)
      match e.work with
      | .pkt pid => d.dropPkt pid false
      | .cmd m => d.freeBuf 132 m.handle

/-- UCS detectors at an address of bank `k`, or at thread `k` (R227). -/
def Chip.ucsError (c : Chip) (cl det addr k : Nat) : Chip :=
  match det with
  | 0 => c.upd (·.poisonWord cl (k % 2) addr 0)
  | 1 => c.upd (·.poisonWord cl (k % 2) addr 1)
  | 2 => c.abortThread cl k 5
  | _ => c.upd (·.loadFails 13)

/-- A lookup takes its miss outcome (R257): with `k` 0 that of packet `a`; otherwise that of a routine, thread `a` % 256 of cluster
`a` / 256, whose result is still on its way. -/
def Dev.lookError (d : Dev) (b : Blk) (a k : Nat) : Dev :=
  if k ≠ 0 then
    let table := match b with
      | .lpm => 0
      | .l2t => 1
      | .ecm => 2
      | _ => 3
    match d.results.findIdx? fun r => 256 * r.src.cluster + r.src.thread == a && r.look == some table with
    | none => d
    | some n => { d with results := d.results.modify n fun r => { r with raw := some (toLE 16 0), nat := none } }
  else match Tab.find d.pkts a with
  | none => d
  | some p =>
    let l := p.look
    let l := match b with
      | .lpm => { l with route := none }
      | .l2t => { l with l2hit := false }
      | .ecm => { l with ecmBad := true }
      | _ => { l with natBad := true }
    d.setPkt a { p with look := l }

/-- The search of a packet that has met an uncorrectable stored copy of entry `i` of bank `n` (R269). -/
def Dev.aclAgain (d : Dev) (pid n i : Nat) : Dev :=
  match Tab.find d.pkts pid with
  | none => d
  | some p =>
    if p.merged then d
    else
      let (d, hs) := d.eachBank p.look.banks (·.lostHit n i)
      d.setPkt pid { p with look := { p.look with banks := hs } }

/-- The search of a routine, thread `a` % 256 of cluster `a` / 256, that has met one; its second pass is made at once (R269, R277). -/
def Dev.aclAgainFor (d : Dev) (a n i : Nat) : Dev :=
  let due := fun (r : EngResult) => if 256 * r.src.cluster + r.src.thread = a then r.search else none
  match d.results.findIdx? fun r => (due r).isSome with
  | none => d
  | some j => match (d.results[j]?).bind due with
    | none => d
    | some x =>
      let (d, hs) := d.eachBank x.banks (·.lostHit n i)
      let (d, hs) := d.eachBank hs fun d h => if h.again then d.secondPass x.gen h.bank x.fkey h else (d, h)
      { d with results := d.results.modify j fun r => { r with search := some { x with banks := hs } } }

/-- ACL detectors at entry `i` of a bank (R267 to R269, R278); `a` is the packet whose search met the error, or with `k` not 0 the thread of a
routine, if one did. -/
def Dev.aclError (d : Dev) (n det i a k : Nat) : Dev :=
  match det with
  | 0 => d.queueRepair n i
  | 1 => if k = 0 then (d.aclGone n i).aclAgain a n i else (d.aclGone n i).aclAgainFor a n i
  | 2 => (d.setBank n ((d.bank n).setEnt i { (d.bank n).ent i with act := 0 })).aclGone n i
  | _ => d.setBank n ((d.bank n).setEnt i { (d.bank n).ent i with hits := 0 })

/-- EGS detectors 0, 2 and 3: at a group; at a port; at the entry of a queue (`k` 0) or of a group (`k` 1) (R302). -/
def Dev.egsError (d : Dev) (s det addr k : Nat) : Dev :=
  match det with
  | 0 =>
    let g := s * 32768 + addr % 32768
    let d := d.setGrp g { (d.freshGrp (d.grp g) (d.gcfg g)) with eval := none, headAt := d.sincePll }
    d.setWheel s ((Tab.get [] d.eg.wheel s).filter fun w => w.grp != g)
  | 2 =>
    let d := (List.range 16).foldl (fun d q => d.setEq addr q { d.eq addr q with start := 0, finish := 0 }) d
    { d with eg := { d.eg with vtime := d.eg.vtime.filter fun (v : Nat × Nat) => v.1 / 8 != addr } }
  | 3 =>
    if k = 0 then
      let q : QCfg := Tab.get {} d.eg.qcfg addr
      { d with eg := { d.eg with qcfg := Tab.put {} d.eg.qcfg addr { q with level := 0, weight := 1 } } }
    else
      let g := s * 32768 + addr % 32768
      let old : Nat := (d.gcfg g).mode
      let y := { (d.gcfg g) with mode := 0 }
      let d := { d with eg := { d.eg with gcfg := Tab.put {} d.eg.gcfg g y } }
      if old = 0 then d else d.setGrp g (d.freshGrp (d.grp g) y)
  | _ => d

/-- HBC detectors 1 to 3 and 6: request `k` of a pseudo-channel completes as uncorrectable; detectors 1 and 2 report when 3 retries are spent
(R331, R333). -/
def Dev.hbcError (d : Dev) (det pc k : Nat) : Dev :=
  let p := d.hpc pc
  match p.queue[k]? with
  | none => d
  | some x =>
    let d := if det < 3 then d.count .hbc (pc / 64) 0x15C 3 else d
    if det = 3 ∧ x.write then d.setHpc pc { p with queue := p.queue.eraseIdx k } else d.requestLost pc x

/-- TIM detectors (R390). -/
def Chip.timError (c : Chip) (det lane : Nat) (transmit : Bool) : Chip :=
  if det = 0 then
    let c := c.upd fun d => { d.set TIM.TIME_STAT.Valid 0 with tim := { d.tim with fault := true } }
    (List.range 16).foldl (fun (c : Chip) s =>
      let x := c.dev.stream s
      if !x.active || x.ending then c
      else (c.endRun s 8).upd (·.postSys .sdl 0 1 [s + 2 ^ 4 * x.run + 2 ^ 40])) c
  else c.upd fun d =>
    let d := d.notePast 0 (some (lane, Tab.get 0 d.tim.rx lane))
    let d := { d with tim := { d.tim with
      rx := Tab.put 0 d.tim.rx lane (Tab.get 0 d.tim.dawnRx lane), tx := Tab.put 0 d.tim.tx lane (Tab.get 0 d.tim.dawnTx lane) } }
    let d := (d.bump TIM.CAL_GEN.Generation).count .tim 0 0x162
    let v := if transmit then Tab.get 0 d.tim.tx lane else Tab.get 0 d.tim.rx lane
    d.timPost (d.flag TIM.EVT_CFG.CalEv) 4 [d.get TIM.CAL_GEN.Generation + 2 ^ 32 * lane + 2 ^ 39 * b2n transmit + 2 ^ 40 * v]

/-- SDL detector 0 takes entry `k` of a stream's buffer: a gap entry with Error = 1 takes its place (R385, R390). -/
def Dev.sdlLose (d : Dev) (s k : Nat) : Dev :=
  let x := d.stream s
  match x.buf[k]? with
  | none => d
  | some e =>
    let n := max 1 e.lost
    let g : LedGap := ⟨n, e.stamp, compact e.stamp, false, true, ofLE (sliceB e.bytes 24 4), ofLE (sliceB e.bytes 61 1)⟩
    let y := { e with bytes := g.bytes, lost := n }
    let d := d.setStream s { x with buf := x.buf.set k y }
    if e.lost = 0 then (d.bump SDL.LOST.Lost 1 0 s).count .sdl 0 (0x180 + s) else d

/-- EVQ detectors 1 and 2 at a queue; `k` the function of a latch (R470). Detector 1 empties the queue and then voids what was open, each
with its notice; with nothing open the notice has no Seq, Source or Type to give, which are left free (DESIGN CHOICE, log entry 122). -/
def Dev.evqError (d : Dev) (q det k : Nat) : Dev :=
  let x := d.queue q
  if det = 1 then
    let gone := x.pkts.filter fun p => !p.complete
    let d := gone.foldl (fun d p => d.voidPkt q p) ((d.queueTurn q 1).dropRemainder q)
    let d := if gone.isEmpty then
        let w := (Config.lostNotice d.free).toNat
        { d with free := d.free + 1 }.postSys .evq 0 1 [q + 2 ^ 16 * w]
      else d
    d.event .evp q 4
  else d.setQueue q { x with latch := Tab.put [] x.latch k [] }

/-- CPM detectors at a buffer or a pool (R451). -/
def Dev.cpmError (d : Dev) (det k : Nat) : Dev :=
  match det with
  | 0 => d.setBuf k { d.buf k with bad := true }
  | 1 => (d.setBuf k { d.buf k with gone := true }).syncPool (k / 65536)
  | _ => { d with cpm := { d.cpm with rebuilding := (d.cpm.rebuilding ++ [k]).eraseDups } }

/-- PMC and GTH detectors (R491): page result `k`, staged entry `k`, or grant `k`; a window's counts for `k` = 16. -/
def Dev.pmcError (d : Dev) (b : Blk) (det k : Nat) : Dev :=
  let p := d.pmc
  if b = .gth then
    let mark := fun (r : PageResult) => match r.words with
      | [] => r
      | w :: _ => { r with words := putBits w 14 1 1 :: List.replicate 16 0 }
    match p.snap with
    | none => d
    | some s =>
      let s := { s with results := s.results.modify k mark }
      let d := { d with pmc := { p with snap := some s } }
      match s.sent with
      | none => d
      | some (c, n) => d.setChan c { d.chan c with stream := (d.chan c).stream.set n s.entry }
  else if det = 0 then ({ d with pmc := { p with ipxRing := p.ipxRing.eraseIdx k } }).ipxLose
  else if k < 16 then
    let g : Grant := Tab.get {} p.grants k
    { d with pmc := { p with grants := Tab.put {} p.grants k { g with valid := false } } }
  else ({ d with pmc := { p with latched := [], bwLatch := [] } }).set PMC.BW_STAT.Short 1

/-- The frame arriving on a port ends there: as a bad frame, or dropped (R495). -/
def Dev.cutFrame (d : Dev) (port : Nat) (bad : Bool) : Dev :=
  (d.pkts.filter fun e => e.2.port == port && !e.2.ended).foldl (fun d e =>
    let p := d.pkt e.1
    let d := d.setPkt e.1 { p with ended := true, fcs := 1, due := 0 }
    if bad then
      let d := d.macCount port 7
      if !p.sent then d.dropPkt e.1 false else if p.merged && !p.punted then d.badFrame e.1 else d
    else d.cutPkt e.1 p.merged) d

/-- RSQ detector 1: a Rill drops its packets and begins again at 0 with every ingress slice (R96, R495). -/
def Dev.rillLost (d : Dev) (e : Nat) : Dev :=
  let d := (d.rillOf e).held.foldl (fun d h => d.dropSlice e h.pid) d
  (d.setRill e { d.rillOf e with held := [], next := [], voids := [] }).advanceTags fun _ x => x == e

/-- The load or enrolment in progress fails with a result where it needs what was lost. -/
def Dev.loadLost (d : Dev) (needs : LoadSt → Bool) (result : Nat) : Dev :=
  match d.load with
  | some l => if (l.op == 1 || l.op == 3) && l.result == 0 && needs l then d.loadFails result else d
  | none => d

/-- An uncorrectable word of MRAM (R531), by the regions of R518, at byte offset `w`: a two-slot record (`slot` 0 A, 1 B) falls back to its
other slot, and the boot counter's ring to its previous record where the latest is hit; a load that reads the image slot is refused. Which
result such a load ends with, here 8, is open (DESIGN CHOICE, log entry 107). -/
def Dev.mramLost (d : Dev) (w slot : Nat) : Dev :=
  let m := d.mram
  let within := fun (lo n : Nat) => decide (lo ≤ w) && decide (w < lo + n)
  let other := 1 - slot % 2
  let drop := fun {α : Type} (x : α) (a b : α) => if other = 1 then (x, b) else (a, x)
  if within 0x11000 0x1000 then
    if (w - 0x11000) / 16 = m.bootRec then { d with mram := { m with boot := m.boot - 1, bootRec := (m.bootRec + 255) % 256 } } else d
  else if within 0x12000 0x1000 then
    let (a, b) := drop [] m.anchorA m.anchorB
    { d with mram := { m with anchorA := a, anchorB := b, anchorLast := other } }
  else if within 0x13000 0x1000 then
    let (a, b) := drop none m.crit.slotA m.crit.slotB
    { d with mram := { m with crit := { slotA := a, slotB := b, last := other } } }
  else if within 0x61000 0x10000 then
    let (a, b) := drop [] m.pcfgA m.pcfgB
    { d with mram := { m with pcfgA := a, pcfgB := b, pcfgLast := other } }
  else if within 0x200000 0x600000 then
    d.loadLost (fun l => l.op == 1 && d.flag UCS.LOAD_CFG.Source && d.get UCS.LOAD_CFG.MramSlot == (w - 0x200000) / 0xC0000) 8
  else d

/-- HIF detector 0 drops a TLP, which no command then brings: the link layer replays it, or reports it through the AER of PF0 (R414; which:
left free, log entry 129). -/
def Dev.tlpDropped (d : Dev) : Dev :=
  let x := d.fn 0
  { d with free := d.free + 1 }.setFn 0 { x with aer := x.aer || Config.tlpReported d.free }

/-- The outcome of an uncorrectable error: the row of the block's own catalogue, or of R495 or R531. `addr` is the index in
ERR_ADDR; `a` and `k` name what else the outcome acts on. -/
def Chip.outcome (c : Chip) (b : Blk) (i det addr a k : Nat) : Chip :=
  match b with
  | .ruu => c.ruuError i det a
  | .rcc => c.rccError i det a
  | .fen => c.fenError i det a k
  | .fsc => c.upd (·.fscError det a k)
  | .ucs => c.ucsError i det addr a
  | .lpm | .l2t | .ecm | .nat => c.upd (·.lookError b a k)
  | .acl => c.upd (·.aclError i det addr a k)
  | .egs => c.upd (·.egsError i det addr a)
  | .mtr => c.upd (·.mtrError det addr a)
  | .hbc => if det = 4 ∨ det = 5 then c else c.upd (·.hbcError det (64 * i + addr % 64) a)
  | .tim => c.timError det addr (a = 1)
  | .sdl => if det = 0 then c.upd (·.sdlLose addr a) else c.upd (·.cutRun addr det false)
  | .hif => match det with
    | 0 => c.upd (·.tlpDropped)
    | 1 => c.upd fun d => d.setVec a addr { d.vec a addr with mask := true, pend := true }
    | 2 => c.upd fun d => { d with doe := { d.doe with resp := [] } }
    | _ => c
  | .dma => match det with
    | 0 => c.upd fun d =>
      let at_ := (((d.chan a).descs.find? fun y => !y.whole).map (·.addr)).getD (d.get DCH.HEAD.Addr a)
      d.haltChan a 6 false at_ at_
    | 1 => c.upd (·.refetch a)
    | 2 => c.upd (·.readFails a k 2)
    | _ => c
  | .cpm => c.upd (·.cpmError det addr)
  | .evq => c.upd (·.evqError a det k)
  | .evp => c.upd (·.evqError i det k)
  | .gth | .pmc => c.upd (·.pmcError b det a)
  | .glb => c.upd fun d =>
    let d := match addr with
      | 0 => { d with glb := { d.glb with armed := none } }.set GLB.COMMIT_STAT.Armed 0
      | 1 => { d with pmc := { d.pmc with snapArm := none } }.set GTH.SNAP_STAT.Armed 0
      | _ => d
    d.postSys .glb 0 1 [2 ^ 4 * (addr % 4)]
  | .clk =>
    { hbm := []
      dev := let d := c.dev
             { d with glb := { d.glb with hold := 2 }, err := { d.err with stopped := true }, hbc := { d.hbc with freqAt := none } } }
  | .mac => match det with
    | 0 => c.upd fun d => (d.portOfLane addr).elim d fun p => d.cutFrame p true
    | 1 => c.upd fun d => if a = 0 then d.cutFrame addr false else d.endTx addr true
    | _ => c.upd fun d => (d.portOfLane addr).elim d fun p => d.cutFrame p false
  | .prs | .slc => c.upd fun d => if (Tab.find d.pkts a).isSome then d.cutPkt a true else d
  | .bsn => if det = 0 then c.upd fun d => if (Tab.find d.pkts a).isSome then d.stompPkt a else d else c
  | .adm => c.upd fun d => { d with bsn := { d.bsn with reserveOnly := true } }
  | .rsq =>
    if det = 0 then c.upd fun d => if (Tab.find d.pkts a).isSome then d.dropSlice i a else d else c.upd (·.rillLost i)
  | .ftb => c.upd fun d =>
    if det = 0 then
      { d with ftb := { d.ftb with stuck := true } }.set FTB.CTL_FT.InsertEnable 0 |>.set FTB.CTL_FT.SweepEnable 0
    else ({ d with ftb := { d.ftb with taken := (d.ftb.taken ++ (List.range 64).map fun j => 64 * addr + j).eraseDups } }).syncFree
  | .shw => c.upd (·.shwFails)
  | .sec => c.upd fun d => match det with
    | 0 => d.loadLost (fun l => le l.image 7 1 == addr && !(l.op == 3 && addr == 0)) 3
    | 1 =>
      let d := { d with sec := { d.sec with stopped := true } }.loadLost (fun _ => true) 13
      (List.range 16).foldl (fun d s => if (d.stream s).active then d.cutRun s 1 false else d) d
    | 2 => { d with sec := { d.sec with trngBad := true } }
    | 3 | 4 => d.mramLost (8 * addr) a
    | _ => d
  | .boot => c.upd fun d =>
    if det ≠ 0 then d
    else if addr = 0 then { d with mon := { d.mon with line := [], ready := none, ask := 0, dp := none } }.set MON.STAT.Level 0 |>.banner
    else { d with mon := { d.mon with halted := d.mon.halted.filter (· != addr) } }
  | .tmp => c.upd fun d =>
    if det = 1 then { d with tmp := { d.tmp with faulty := (d.tmp.faulty ++ [addr]).eraseDups } }.event .tmp 0 2 else d
  | .err => c.upd fun d =>
    if det = 0 then
      let log := d.err.log.map fun e => if e.seq = addr then { e with cls := 7 } else e
      { d with err := { d.err with log := log } }.bump ERR.LOG_LOST.Count
    else
      let r : Route := Tab.get {} d.fab.routes addr
      { d with fab := { d.fab with routes := Tab.put {} d.fab.routes addr { r with enable := false } } }
  | .ser | .dch | .mon => c

/-- What a corrected error does beside its report: 0x0E4 counts those that a fetch or the scrubber of a store corrects (R230), and a unit
of a search array is corrected by a repair (R278). -/
def Dev.corrected (d : Dev) (b : Blk) (i det addr : Nat) : Dev :=
  if b = .ucs ∧ det < 2 then d.count .ucs i 0x0E4 else if b = .acl ∧ det = 0 then d.queueRepair i addr else d

/-- A detector reports: an injected error takes the path of a real one (R58). RUU detectors 3 and 4, HBC detector 0 and EVQ
detector 0 report within their own outcomes. -/
def Chip.detect (c : Chip) (b : Blk) (i det addr : Nat) (unc : Bool) (a k : Nat) : Chip :=
  let inj := c.dev.injects b i det
  let (d, o) := c.dev.inject b i det
  let c := { c with dev := d }
  let unc := if b = .acl ∧ det = 0 then false else if inj then o == 2 else unc
  if inj && o == 0 then c
  else match b, det, unc with
    | .ruu, 3, _ => if c.dev.glb.dpr = .idle then c.wayTimeout i false inj else c.upd (·.report .ruu i 3 addr true inj)
    | .ruu, 4, true => c.slotFails i a inj
    | .hbc, 0, _ => c.upd (·.hbmData (64 * i + addr % 64) (addr / 512) (if unc then 2 else 1) inj)
    | .evq, 0, _ => c.upd (·.queueError a k addr (if unc then 2 else 1) inj)
    | .evp, 0, _ => c.upd (·.queueError i k addr (if unc then 2 else 1) inj)
    | _, _, _ =>
      let cls := detClass b det unc
      let act := c.dev.actionOf b i det addr cls
      let c := c.upd (·.report b i det addr unc inj act)
      if !unc then c.upd (·.corrected b i det addr) else (c.outcome b i det addr a k).containClass b i det addr cls

/-- DETECTOR_REPORT of the instance whose first page has index `page` (R493 to R498). -/
def execDetectorReport (page det addr : Nat) (unc : Bool) (a k : Nat) (s : State) : Host.Outcome State Fault Refusal :=
  nextC s fun c => match pageBlk page with
    | none => c
    | some (b, i) => if detCount b ≤ det ∨ (!c.dev.live b i ∧ b ≠ .clk) then c else c.detect b i det addr unc a k

/-- CRIT_RECORD_WRITE: the second since the last write has passed, and the latest report held is written (R503). -/
def execCritRecordWrite (s : State) : Host.Outcome State Fault Refusal :=
  nextD s fun d => match d.err.critHeld, d.err.critAt with
    | some e, some t => (d.until (t + secCyc)).critWrite e
    | _, _ => d

/-! ### Datapath soft reset (R499 to R501) -/

/-- DPR_GO: a write of GLB.DPR_CTL. `lost` are dirty cache lines that cannot be written back (R138). -/
def execDprGo (fn data : Nat) (lost : List (Nat × Nat)) (s : State) : Host.Outcome State Fault Refusal :=
  nextC s fun c => c.dprCtl fn data lost

/-- DPR_SELF_REFRESH: every stack is in self-refresh; the reset of the blocks follows by 36 µs, unless Hold keeps it waiting. -/
def execDprSelfRefresh (s : State) : Host.Outcome State Fault Refusal :=
  nextD s fun d =>
    if d.glb.dpr ≠ .begun ∨ d.flag GLB.DPR_CTL.Hold then d else (d.until (d.glb.dprAt + nsCyc 36000)).dprGoOn

/-- DPR_DONE: the stacks leave self-refresh with a ZQ latch and a window each, ingress resumes, and Done is posted, unless Hold is 1, which
keeps the reset waiting (R336, R499); a monitor that waits for it answers (R527). -/
def execDprDone (s : State) : Host.Outcome State Fault Refusal :=
  nextD s fun d =>
    if d.glb.dpr ≠ .refreshed ∨ d.flag GLB.DPR_CTL.Hold then d
    else
      let d := d.until (d.glb.dprAt + nsCyc 50000)
      let newStacks := (List.range 6).foldl (fun (t : Tab HbmStack) k => Tab.set t k { Tab.get {} t k with selfRef := false }) d.hbc.stackTab
      let d := { d with
        hbc := { d.hbc with stackTab := newStacks }
        glb := { d.glb with dpr := .idle }
        err := { d.err with stopped := false }
        fab := { d.fab with inReset := d.fab.inReset.filter fun p => !dprPages.contains p } }
      let d := d.exitWindows (d.glb.dprAt + nsCyc 43000) true
      let d := (d.set GLB.DPR_STAT.Active 0).set GLB.DPR_STAT.Done 1
      let d := if d.mon.dp.isSome then d.monEnd 0 else d
      d.postSys .glb 0 2 [d.get GLB.DPR_STAT.Cause + 2 ^ 16 * d.get GLB.DPR_STAT.Count]

/-- DPR_HOLD_RELEASE: a write of GLB.DPR_CTL with Hold = 0; the reset waiting at the 25 µs step goes on (R500). -/
def execDprHoldRelease (fn : Nat) (s : State) : Host.Outcome State Fault Refusal :=
  nextC s fun c => (c.dprCtl fn 0 []).upd fun d => if d.admits fn .glb 0 0x240 then d.dprGoOn else d

/-- THERMAL_RELEASE: ERR clears the Hold that a thermal report set, once every stack and the die are cool, whatever the reset's cause
(R500, R501). -/
def execThermalRelease (s : State) : Host.Outcome State Fault Refusal :=
  nextD s fun d =>
    let cool := (List.range 6).all (fun k => decide (sint 8 (d.get HBC.TEMP_STAT.Case k) ≤ 100)) &&
      decide (sint 10 (d.get TMP.DIE_MAX.DieMax) ≤ 460)
    if !d.glb.hotHold ∨ !d.flag GLB.DPR_CTL.Hold ∨ !cool then d
    else ({ d.set GLB.DPR_CTL.Hold 0 with glb := { d.glb with hotHold := false } }).dprGoOn

/-- THERMTRIP: the comparator asserts THERMTRIP# low (R544). -/
def execThermtrip (s : State) : Host.Outcome State Fault Refusal :=
  nextD s fun d => if d.tmp.trip then d else { d with tmp := { d.tmp with trip := true } }.emit (.pin "THERMTRIP#" false)

/-! ### Sensors (R537, R543) -/

/-- The hottest sensor that is not excluded, with its reading. -/
def TmpSt.hottest (x : TmpSt) : Option (Nat × Int) :=
  ((List.range 24).filter fun i => !x.faulty.contains i).foldl (fun (m : Option (Nat × Int)) i =>
    let v := sint 10 (Tab.get 0 x.die i)
    match m with
    | some (_, w) => if w < v then some (i, v) else m
    | none => some (i, v)) none

/-- DIE_SENSOR_READ: readings of the 24 sensors in 0.25 °C, and the sensors whose self-check fails (R543). -/
def execDieSensorRead (readings : List Int) (failed : List Nat) (s : State) : Host.Outcome State Fault Refusal :=
  nextC s fun c =>
    if !c.dev.live .tmp then c
    else
      let c := c.upd fun d =>
        let d := d.later ((125000 - d.cyc % 125000) % 125000)
        let die := (readings.take 24).zipIdx.foldl (fun (t : Tab Nat) (e : Int × Nat) => Tab.put 0 t e.2 (uint 10 e.1)) d.tmp.die
        { d with tmp := { d.tmp with die := die } }
      let new := failed.filter fun i => decide (i < 24) && !c.dev.tmp.faulty.contains i
      let c := new.foldl (fun (c : Chip) i => c.detect .tmp 0 1 i true 0 0) c
      match c.dev.tmp.hottest with
      | none => c
      | some (i, v) =>
        let warn : Int := 4 * (c.dev.get TMP.WARN.Warn : Nat)
        let was := sint 10 (c.dev.get TMP.DIE_MAX.DieMax)
        let c := c.upd fun d =>
          let d := (d.set TMP.DIE_MAX.DieMax (uint 10 v)).set TMP.DIE_MAX.Sensor i
          let d := if sint 10 (d.get TMP.DIE_PEAK.Peak) < v then d.set TMP.DIE_PEAK.Peak (uint 10 v) else d
          if warn < v ∧ was ≤ warn then d.event .tmp 0 0 else d
        if 500 < v ∧ was ≤ 500 then c.detect .tmp 0 0 0 true 0 0 else c

/-- VMON_SAMPLE: the readings of the nine rails in mV, every 10 µs (R537). -/
def execVmonSample (readings : List Nat) (s : State) : Host.Outcome State Fault Refusal :=
  nextD s fun d =>
    if !d.live .tmp then d
    else
      let d := d.later ((12500 - d.cyc % 12500) % 12500)
      (readings.take 9).zipIdx.foldl (fun d (e : Nat × Nat) =>
        let mv := e.1 % 65536
        let d := d.set TMP.VMON.Millivolts mv 0 e.2
        if mv < d.get TMP.VMON_WIN.Low 0 e.2 ∨ d.get TMP.VMON_WIN.High 0 e.2 < mv then
          ((d.set TMP.VMON_LAST.Rail e.2).set TMP.VMON_LAST.Millivolts mv).event .tmp 0 1
        else d) d

/-- TRNG_TESTS_PASS: draws are served again (R495). -/
def execTrngTestsPass (s : State) : Host.Outcome State Fault Refusal :=
  nextD s fun d => { d with sec := { d.sec with trngBad := false } }

end Sys2Proof.Machine
end

