-- ==== Sys2Proof/Machine/Pages.lean ====
section
/-! DEFINITION. The common page header (R34 to R41, R43, R44, R53 to R57, R475): its words, who reaches them, and the commands that
write one of them. -/

namespace Sys2Proof.Machine

/-! ### Work in progress (R34, R36, R43) -/

/-- Whether an instance has work in progress: what QuiesceReq waits for and STAT.Busy reads (R34, R36). The chapters give no
conditions of their own (DEDUCED, log entry 16). -/
def Dev.workIn (d : Dev) (b : Blk) (i : Nat) : Bool :=
  match b with
  | .glb => d.flag GLB.COMMIT_STAT.Busy || d.glb.dpr != .idle
  | .mac => (List.range 8).any fun k => (d.port (8 * i + k)).tx.isSome
  | .prs | .slc => d.pkts.any fun (e : Nat × Pkt) => e.2.slice == i && !e.2.merged
  | .rsq => !(d.rillOf i).held.isEmpty
  | .egs => (slicePorts i).any fun p => (List.range 16).any fun q => 0 < (Tab.get {} d.eg.queues (p * 16 + q)).cells
  | .hbc => (List.range 64).any fun k =>
      let p : HbmPc := Tab.get {} d.hbc.pcs (64 * i + k)
      !p.waiting.isEmpty || !p.queue.isEmpty
  | .acl =>
    let x : AclBank := Tab.get {} d.acl.banks i
    !x.repair.isEmpty || !x.deferred.isEmpty
  | .fen => d.threads.any fun (e : Nat × Thread) => e.1 / 256 == i
  | .ucs => d.flag UCS.STAT.Draining i || (match d.load with
      | some l => l.targets.contains i
      | none => false)
  | .ruu =>
    let x := d.ruu i
    !x.waiting.isEmpty || !x.queue.isEmpty || !x.service.isEmpty
  | .rcc => d.flag RCC.STAT_C.Flushing i
  | .dch =>
    let x := d.chan i
    x.burst.isSome || !x.reads.isEmpty
  | .dma => d.dma.chans.any fun (e : Nat × DmaChan) => e.2.burst.isSome || !e.2.reads.isEmpty
  | .evp => (d.queue i).pkts.any fun p => !p.complete
  | .evq => d.evq.queues.any fun (e : Nat × EvQueue) => e.2.pkts.any fun p => !p.complete
  | .fsc => d.fsc.levels.any fun (l : Nat × List FscEntry) => !l.2.isEmpty
  | .ftb => d.flag FTB.CMD_STAT.Busy || d.flag FTB.EXPORT_STAT.Active
  | .bsn => decide (0 < d.bsn.cells)
  | .lpm => decide (0 < d.expand)
  | .l2t => !d.l2.reqs.isEmpty
  | .ecm => d.flag ECM.STAT.Busy
  | .nat => !d.nat.overlay.isEmpty
  | .shw => d.flag SHW.STAT.Active
  | .cpm => d.flag CPM.CMD_STAT.Busy || !d.cpm.rebuilding.isEmpty
  | .gth => d.pmc.snap.isSome
  | .pmc => !d.pmc.ipxRing.isEmpty
  | .sdl => d.sdl.streams.any (fun (e : Nat × Stream) => e.2.active || e.2.ending) || d.flag SDL.ROT_STAT.Busy
  | .boot => d.flag BOOT.FLASH_STAT.Busy || d.flag BOOT.PCFG_STAT.Busy || d.flag BOOT.STORE_STAT.Busy
  | .hif => d.fab.vfChange.isSome || d.fab.fns.any fun (e : Nat × Fn) => e.2.flr
  | .clk | .mon | .tmp | .err | .sec | .tim | .adm | .mtr | .ser => false

/-- Whether an operation that a write to the run started is still to finish, so that FENCE waits for it (R43). Passes that go on
in the background (exports, shadow checks, snapshots, streams) are no such operation (DEDUCED, log entry 15). -/
def Dev.opPending (d : Dev) (b : Blk) (i : Nat) : Bool :=
  d.fab.inReset.contains (b.page i) || (d.flag (HDR.CTL.QuiesceReq b) i && !d.flag (HDR.STAT.Quiesced b) i) ||
  match b with
  | .glb => d.glb.dpr != .idle
  | .ftb => d.flag FTB.CMD_STAT.Busy
  | .rcc => d.flag RCC.STAT_C.Flushing i
  | .ruu => d.flag RUU.POISON_STAT.Busy i
  | .ucs => d.flag UCS.STAT.Draining i || (i == 0 && d.flag UCS.LOAD_STAT.Busy)
  | .lpm => decide (0 < d.expand)
  | .ecm => d.flag ECM.STAT.Busy
  | .acl => !(Tab.get {} d.acl.banks i : AclBank).deferred.isEmpty
  | .hbc => d.flag HBC.FREQ_STAT.Busy
  | .cpm => d.flag CPM.CMD_STAT.Busy
  | .sdl => d.flag SDL.ROT_STAT.Busy
  | .boot => d.flag BOOT.FLASH_STAT.Busy || d.flag BOOT.PCFG_STAT.Busy || d.flag BOOT.STORE_STAT.Busy
  | .dch => (d.chan i).stopping
  | _ => false

/-! ### Who reaches a word (R39, R528) -/

/-- Header words that every function reads: ID, CAPS, STAT, IRQ_FIRST, FENCE, OWNER (R39). -/
def openWord (off : Nat) : Bool := [0x000, 0x004, 0x00C, 0x01C, 0x040, 0x044].contains off

/-- Words of a page that its owner writes: IRQ_STATUS, IRQ_ENABLE, IRQ_FORCE, the counter bank, and the block registers. -/
def ownerWrites (off : Nat) : Bool :=
  [0x010, 0x014, 0x018].contains off || decide (0x100 ≤ off)

/-- Words of a page that its owner reads beside the open ones: ERR_ADDR and ERR_COUNT too. -/
def ownerReads (off : Nat) : Bool := ownerWrites off || [0x028, 0x02C].contains off

/-- Whether a function may write a word of an instance (R39). Only PF0 itself writes MON's HostLock (R528). -/
def Dev.mayWrite (d : Dev) (f : Nat) (b : Blk) (i off : Nat) : Bool :=
  f == 0 || (f == 128 && !(b == .mon && off == 0x200)) || (d.get (HDR.OWNER.Function b) i == f && ownerWrites off)

/-- Whether a word is one of a counter's value. -/
def ctrWord (off : Nat) : Bool := decide (0x100 ≤ off) && decide (off < 0x200) && decide (8 ≤ off % 16)

/-- Whether a function may read a word of an instance (R39, R476). -/
def Dev.mayRead (d : Dev) (f : Nat) (b : Blk) (i off : Nat) : Bool :=
  isPf f || openWord off || (d.get (HDR.OWNER.Function b) i == f && ownerReads off) ||
    (ctrWord off && d.flag (HDR.CSEL.UserRead b) i ((off - 0x100) / 16) && d.granted f (b.page i))

/-- A write by a function of header word `off` of the instance whose first page has index `page`: the checks of R32, R39 and R40, and
then its effect, the run's WriteSeq advancing (R34). -/
def Chip.hdrWrite (c : Chip) (fn page off : Nat) (k : Blk → Nat → Chip → Chip) : Chip :=
  let c := c.upd (·.request fn)
  if !c.dev.reachable fn then c.upd (·.emit (.unsupported fn))
  else match pageBlk page with
    | none => c.upd (·.miss)
    | some (b, i) =>
      if !c.dev.mayWrite fn b i off then c.upd (·.deny fn false (b.base i + off))
      else k b i (c.upd (·.bump (HDR.FENCE.WriteSeq b) 1 i))

/-- A read by a function of header word `off`, of `len` bytes. -/
def Dev.hdrRead (d : Dev) (fn page off len : Nat) (k : Blk → Nat → Dev → Dev × Nat) : Dev :=
  let d := d.request fn
  let zero := List.replicate len (0 : Byte)
  if !d.reachable fn then d.emit (.unsupported fn)
  else match pageBlk page with
    | none => (d.miss).emit (.readData fn zero)
    | some (b, i) =>
      if !d.mayRead fn b i off then
        let d := if ctrWord off then d.count .pmc 0 0x1F3 else d
        (d.deny fn false (b.base i + off)).emit (.readData fn zero)
      else
        let (d, v) := k b i d
        d.emit (.readData fn (toLE len v))

/-! ### FENCE and quiesce (R36, R43, R44) -/

/-- What a read of FENCE answers: WriteSeq once nothing is pending; at 2 µs, with Stall set, where an operation still is. -/
def Dev.fence (d : Dev) (b : Blk) (i : Nat) : Dev × Nat :=
  let stall := d.opPending b i
  let d := if stall then d.later (nsCyc 2000) else d
  (d, d.get (HDR.FENCE.WriteSeq b) i + 2 ^ 31 * b2n stall)

/-- FENCE_READ of the instance whose first page has index `page`. -/
def execFenceRead (fn page : Nat) (s : State) : Host.Outcome State Fault Refusal :=
  nextD s fun d => d.hdrRead fn page 0x040 4 fun b i d => d.fence b i

/-- QUIESCE_REQ: CTL.QuiesceReq is written `on`. -/
def execQuiesceReq (fn page : Nat) (on : Bool) (s : State) : Host.Outcome State Fault Refusal :=
  nextC s fun c => c.hdrWrite fn page 0x008 fun b i c => c.upd (·.quiesce b i on)

/-- QUIESCED: the work in progress has ended. -/
def execQuiesced (page : Nat) (s : State) : Host.Outcome State Fault Refusal :=
  nextD s fun d => match pageBlk page with
    | none => d
    | some (b, i) => if d.flag (HDR.CTL.QuiesceReq b) i && !d.workIn b i then d.set (HDR.STAT.Quiesced b) 1 i else d

/-- A write of CTL: Enable and QuiesceReq take their values, and BlockReset resets the instance, clearing QuiesceReq, or is refused, which
changes nothing more than ResetRefused: a refused reset does not clear QuiesceReq (R34, R35; DESIGN CHOICE, log entry 88). HBC's close
predictors start when Enable rises; its mapping stays as Dawn loaded it (R308, R316). -/
def Chip.ctlWrite (c : Chip) (b : Blk) (i v : Nat) : Chip :=
  let was := c.dev.flag (HDR.CTL.Enable b) i
  let c := c.upd fun d => (d.set (HDR.CTL.Enable b) (v % 2) i).quiesce b i (bit v 2)
  let c := if b = .hbc ∧ !was ∧ v % 2 = 1 then c.upd (·.hbcStart i) else c
  if !bit v 1 then c
  else match c.instReset b i with
    | some c => c.upd (·.quiesce b i false)
    | none => c.upd (·.set (HDR.STAT.ResetRefused b) 1 i)

/-! ### Interrupts (R53 to R56) -/

/-- The page signals again where its summary is 1 (R54). -/
def Dev.resignal (d : Dev) (b : Blk) (i : Nat) : Dev := if d.summary b i then d.signal b i else d

/-- Bits of IRQ_STATUS written 1 clear; IRQ_FIRST.Valid clears when none is left (R34, R54). -/
def Dev.clearStatus (d : Dev) (b : Blk) (i v : Nat) : Dev :=
  let old := d.get (HDR.IRQ_STATUS b) i
  let new := old - (old &&& v)
  let d := d.set (HDR.IRQ_STATUS b) new i
  let d := if new = 0 then d.set (HDR.IRQ_FIRST.Valid b) 0 i else d
  d.resignal b i

/-- IRQ_STATUS_WRITE. -/
def execIrqStatusWrite (fn page data : Nat) (s : State) : Host.Outcome State Fault Refusal :=
  nextC s fun c => c.hdrWrite fn page 0x010 fun b i c => c.upd (·.clearStatus b i data)

/-- A write of IRQ_ENABLE (R54). -/
def Dev.enableIrq (d : Dev) (b : Blk) (i v : Nat) : Dev := (d.set (HDR.IRQ_ENABLE b) v i).resignal b i

/-- IRQ_ENABLE_WRITE. -/
def execIrqEnableWrite (fn page data : Nat) (s : State) : Host.Outcome State Fault Refusal :=
  nextC s fun c => c.hdrWrite fn page 0x014 fun b i c => c.upd (·.enableIrq b i data)

/-- Status bits are forced (R56). A forced Detect enters ERR's log as forced; the manual does not say which detector and which severity
it carries there: both are free values. -/
def Dev.forceIrq (d : Dev) (b : Blk) (i v : Nat) : Dev :=
  let d := d.raiseIrq b i (v % 2 ^ 32) true
  if !bit v 30 then d
  else
    let (x, d) := d.draw32
    let det := x / 2 % max 1 (detCount b)
    d.logReport b i det (detClass b det (x % 2 == 1)) 0 false true

/-- IRQ_FORCE_WRITE. -/
def execIrqForceWrite (fn page data : Nat) (s : State) : Host.Outcome State Fault Refusal :=
  nextC s fun c => c.hdrWrite fn page 0x018 fun b i c => c.upd (·.forceIrq b i data)

/-- MSI-X vectors of a function (R400). -/
def vectors (f : Nat) : Nat := if f = 0 then 2048 else 64

/-- A vector's Mask bit takes a value; a pending message goes out once nothing holds it (R54, R400). -/
def Dev.maskVec (d : Dev) (f v : Nat) (mask : Bool) : Dev :=
  let e := d.vec f v
  let d := d.setVec f v { e with mask := mask }
  if e.pend && !mask && !(d.fn f).fmask && (d.fn f).bme then Dev.sendMsix 2 d f v else d

/-- MSIX_UNMASK: Vector Control of a function's vector is written 0 through its BAR4. -/
def execMsixUnmask (fn vector : Nat) (s : State) : Host.Outcome State Fault Refusal :=
  nextD s fun d =>
    let d := d.request fn
    if fn = 128 ∨ !d.reachable fn then d.emit (.unsupported fn)
    else if vectors fn ≤ vector then d.miss
    else d.maskVec fn vector false

/-! ### Error injection (R57, R496) -/

/-- Whether the page's ERR_INJ and ERR_INJ_DATA take writes: those of CLK and SEC only while Inject is unlocked (R496). -/
def Dev.injOpen (d : Dev) (b : Blk) : Bool := (b != .clk && b != .sec) || bit (d.get SEC.DBG_STAT.Scope) 1

/-- A write of ERR_INJ. Setting Arm clears Fired (R34). -/
def Dev.injWrite (d : Dev) (b : Blk) (i v : Nat) : Dev :=
  if !d.injOpen b then d.miss
  else
    let d := ((d.set (HDR.ERR_INJ.Detector b) v i).set (HDR.ERR_INJ.Mode b) (bits v 8 1) i).set (HDR.ERR_INJ.Arm b) (bits v 9 1) i
    if bit v 9 then d.set (HDR.ERR_INJ.Fired b) 0 i else d

/-- ERR_INJ_ARM: ERR_INJ is written with Arm set, for a detector, once or continuously. -/
def execErrInjArm (fn page det : Nat) (continuous : Bool) (s : State) : Host.Outcome State Fault Refusal :=
  nextC s fun c => c.hdrWrite fn page 0x020 fun b i c =>
    c.upd (·.injWrite b i (det % 256 + 2 ^ 8 * b2n continuous + 2 ^ 9))

/-! ### Ownership and routes (R38, R55) -/

/-- A write of OWNER: a VF that the page cannot have or that is not enabled is ignored and counted; a change clears the route's
Enable. -/
def Dev.ownerWrite (d : Dev) (b : Blk) (i v : Nat) : Dev :=
  let f := v % 128
  if f ≠ 0 ∧ (!(blkRow b).assignable || !d.fnExists f) then d.bump HIF.VF_DENY_CNT.Count
  else if d.get (HDR.OWNER.Function b) i = f then d
  else
    let r := Tab.get {} d.fab.routes (b.page i)
    let d := { d with fab := { d.fab with routes := Tab.put {} d.fab.routes (b.page i) { r with enable := false } } }
    d.set (HDR.OWNER.Function b) f i

/-- OWNER_WRITE. -/
def execOwnerWrite (fn page owner : Nat) (s : State) : Host.Outcome State Fault Refusal :=
  nextC s fun c => c.hdrWrite fn page 0x044 fun b i c => c.upd (·.ownerWrite b i owner)

/-- ROUTE_DATA_WRITE: the route of the page in ROUTE_SEL (R55). -/
def execRouteDataWrite (fn data : Nat) (s : State) : Host.Outcome State Fault Refusal :=
  nextD s fun d => d.gate fn .err 0 0x204 fun d =>
    let p := d.get ERR.ROUTE_SEL.Page
    let v := bits data 0 11
    match pageBlk p with
    | none => d.bump ERR.ROUTE_REFUSED.Count
    | some (b, i) =>
      let put := fun (d : Dev) (r : Route) => { d with fab := { d.fab with routes := Tab.put {} d.fab.routes p r } }
      if vectors (d.get (HDR.OWNER.Function b) i) ≤ v then
        (put d { Tab.get {} d.fab.routes p with enable := false }).bump ERR.ROUTE_REFUSED.Count
      else put d { vector := v, enable := bit data 31 }

/-! ### Counter values (R37, R45, R475) -/

/-- The place of a latch: function, page, counter. -/
def latchKey (f page k : Nat) : Nat := (f * 16384 + page) * 16 + k

/-- A read of the lower word of counter `k`: it latches, or answers what the lower counter of its pair latched. -/
def Dev.ctrLow (d : Dev) (f : Nat) (b : Blk) (i k : Nat) : Dev × Nat :=
  let p := b.page i
  let key := latchKey f p k
  match Tab.find d.fab.latchLo key with
  | some v => ({ d with fab := { d.fab with latchLo := Tab.del d.fab.latchLo key } }, v)
  | none =>
    let x := (d.ctr p k).value
    let hi := Tab.set d.fab.latchHi key (x / 2 ^ 32)
    let d := { d with fab := { d.fab with latchHi := hi } }
    if k % 2 = 0 ∧ d.flag (HDR.CSEL.Chain b) i k then
      let y := (d.ctr p (k + 1)).value
      let hi := Tab.set d.fab.latchHi (key + 1) (y / 2 ^ 32)
      let lo := Tab.set d.fab.latchLo (key + 1) (y % 2 ^ 32)
      ({ d with fab := { d.fab with latchHi := hi, latchLo := lo } }, x % 2 ^ 32)
    else (d, x % 2 ^ 32)

/-- A read of the upper word of counter `k`: the latched half, where there is one. -/
def Dev.ctrHigh (d : Dev) (f : Nat) (b : Blk) (i k : Nat) : Dev × Nat :=
  let p := b.page i
  let key := latchKey f p k
  match Tab.find d.fab.latchHi key with
  | some v => ({ d with fab := { d.fab with latchHi := Tab.del d.fab.latchHi key } }, v)
  | none => (d, (d.ctr p k).value / 2 ^ 32)

/-- COUNTER_LOW_READ of counter `k` modulo 16, of 4 bytes, or of 8 (`wide`), which returns both halves. -/
def execCounterLowRead (fn page k : Nat) (wide : Bool) (s : State) : Host.Outcome State Fault Refusal :=
  nextD s fun d => d.hdrRead fn page (0x108 + 16 * (k % 16)) (if wide then 8 else 4) fun b i d =>
    let (d, lo) := d.ctrLow fn b i (k % 16)
    if wide then
      let (d, hi) := d.ctrHigh fn b i (k % 16)
      (d, lo + 2 ^ 32 * hi)
    else (d, lo)

/-- A write of the upper word of counter `k` sets its 48-bit value; the lower word was written first (R45). -/
def Dev.ctrWrite (d : Dev) (b : Blk) (i k v : Nat) : Dev :=
  let a := b.base i + 0x108 + 16 * k
  let c := d.ctr (b.page i) k
  let lo := Tab.get (c.value % 2 ^ 32) d.fab.hold a
  let d := { d with fab := { d.fab with hold := Tab.del d.fab.hold a } }
  d.setCtr (b.page i) k { c with value := (lo + 2 ^ 32 * v) % 2 ^ 48 }

/-- COUNTER_VALUE_WRITE of counter `k` modulo 16: `data` is the upper word. -/
def execCounterValueWrite (fn page k data : Nat) (s : State) : Host.Outcome State Fault Refusal :=
  nextC s fun c => c.hdrWrite fn page (0x10C + 16 * (k % 16)) fun b i c => c.upd (·.ctrWrite b i (k % 16) data)

end Sys2Proof.Machine
end

