-- ==== Sys2Proof/Machine/Access.lean ====
section
/-! DEFINITION. Register accesses (R6, R8, R32 to R46, R399 to R404): a word of BAR0, BAR2 or BAR4 written or read with the checks,
staging, split 64-bit registers and clearing reads of chapter 2, and whole accesses as the fabric cuts them. A word that has a row
of its own runs that row's meaning. -/

namespace Sys2Proof.Machine

/-! ### The fields of a word -/

/-- The element of a register row that has bits in the word at `off` of its instance's run. -/
def RegRow.elem (r : RegRow) (off : Nat) : Option Nat :=
  let f := r.fld
  let j := if f.step = 0 then 0 else (off - f.off) / f.step
  let start := (f.off + f.step * j) * 8 + f.lo
  if j < r.n ∧ start < 8 * off + 32 ∧ 8 * off < start + f.w then some j else none

/-- The register rows with bits in a word, each with its element. -/
def wordRows (b : Blk) (off : Nat) : List (RegRow × Nat) :=
  (allRows b).filterMap fun r => (r.elem off).map fun j => (r, j)

/-- The first bit of an element within its instance's run. -/
def Fld.start (f : Fld) (j : Nat) : Nat := (f.off + f.step * j) * 8 + f.lo

/-- Whether a word carries a register: a field of a register table, a computed header word, or an entry of ERR's log (R34, R502). -/
def known (b : Blk) (off : Nat) : Bool :=
  !(wordRows b off).isEmpty || [0x000, 0x004, 0x018].contains off || ctrWord off ||
    (b == .err && decide (0x2000 ≤ off) && decide (off < 0x6000))

/-! ### Values that are computed (the Reset column's "per" sources, and live views) -/

/-- A log entry's 32 bytes (R502). -/
def LogEntry.bytes (e : LogEntry) : List Byte :=
  toLE 8 e.time ++ toLE 2 e.secHi ++ toLE 2 e.page ++ toLE 1 e.det ++
    toLE 1 (e.cls + 8 * b2n e.injected + 16 * b2n e.forced) ++ [0, 0] ++ toLE 4 e.seq ++ toLE 4 e.addr ++ toLE 4 e.repeats ++
    toLE 4 e.action

/-- Word `k` of a byte list. -/
def wordAt (bs : List Byte) (k : Nat) : Nat := ofLE ((bs.drop (4 * k)).take 4)

/-- The latest critical record's bytes (R503). -/
def CritRec.bytes (c : CritRec) : List Byte :=
  match if c.last = 0 then c.slotA else c.slotB with
  | some e => e.bytes
  | none => []

/-- The word of PEND_BITMAP for pages 32 × `j` and on (R55). -/
def Dev.pendWord (d : Dev) (j : Nat) : Nat :=
  (List.range 32).foldl (fun v k => match pageBlk (32 * j + k) with
    | some (b, i) => v + 2 ^ k * b2n (d.summary b i)
    | none => v) 0

/-- The byte lane with the narrowest estimated eye of a stack, lowest number first, and its width (R324). -/
def Dev.minLane (d : Dev) (k : Nat) : Nat × Nat :=
  match (d.stack k).lanes with
  | [] => (0, 0)
  | (l, x) :: t => t.foldl (fun (m : Nat × Nat) (e : Nat × HbmLane) => if e.2.width < m.2 then (e.1, e.2.width) else m) (l, x.width)

/-- The queue a domain number of a Rill is held under, and what waits of it. -/
def Dev.domHeld (d : Dev) (i dom : Nat) : Nat := ((d.rillOf i).held.filter fun h => h.domain == dom).length

/-- Valid entries of an ACL bank in a plane. -/
def Dev.aclValid (d : Dev) (i plane : Nat) : Nat :=
  ((Tab.get {} d.acl.banks i : AclBank).ents.filter fun (e : Nat × AclEnt) => if plane = 0 then e.2.plane0 else e.2.plane1).length

/-- Whether a lane's recovered clock is not to be had: its port is not Up, or has no link, without which the lane has no CDR lock (R359;
DEDUCED, log entry 127). -/
def Dev.squelched (d : Dev) (lane : Nat) : Bool :=
  match d.portOfLane lane with
  | none => true
  | some p => (d.port p).state != 2 || !(d.port p).link

/-- What SYNCE_OUT`n` carries: the lane whose recovered clock it divides, and the frequency in kHz; constantly low without Enable and
while squelched (R359). -/
def Dev.synceOut (d : Dev) (n : Nat) : Option (Nat × Nat) :=
  let lane := d.get TIM.SYNCE_OUT.Lane 0 n
  if d.flag TIM.SYNCE_OUT.Enable 0 n && !d.squelched lane then some (lane, if d.flag TIM.SYNCE_OUT.Freq 0 n then 25000 else 156250)
  else none

/-- The value of an element of a field: what the block computes for it, or the stored one. -/
def Dev.view (d : Dev) (f : Fld) (i j : Nat) : Nat :=
  match f.blk with
  | .err =>
    if f.off = 0x1000 then d.pendWord j
    else if f.off = 0x6000 then wordAt d.mram.crit.bytes j
    else if f.off = 0x204 then
      let r : Route := Tab.get {} d.fab.routes (d.get ERR.ROUTE_SEL.Page)
      if (pageBlk (d.get ERR.ROUTE_SEL.Page)).isNone then 0 else if f.lo = 0 then r.vector else b2n r.enable
    else d.get f i j
  | .adm =>
    if f.off = 0x214 then d.bsn.shared
    else if f.off = 0x218 then match d.admSel with
      | none => 0
      | some k => if k < 4096 then Tab.get 0 d.bsn.used k else (d.eq (k % 4096 / 16) (k % 16)).cells
    else d.get f i j
  | .bsn => if f = BSN.FREE_CELLS.Free then d.freeCells else if f = BSN.FREE_LOW.FreeLow then d.bsn.freeLow else d.get f i j
  | .rsq =>
    let dom := d.get RSQ.DOM_SEL.Domain i
    if f = RSQ.DOM_STAT.NextSeq then (d.rillOf i).expected dom
    else if f = RSQ.DOM_STAT.Held then d.domHeld i dom
    else d.get f i j
  | .lpm =>
    if f = LPM.COUNT4.Routes4 then (d.fwd.routes.filter fun e => !e.1.v6).length
    else if f = LPM.COUNT6.Routes6 then (d.fwd.routes.filter fun e => e.1.v6).length
    else d.get f i j
  | .l2t =>
    if f = L2T.ENTRIES.Entries then d.l2.ents.length
    else if f = L2T.STATIC_ENTRIES.Static then (d.l2.ents.filter fun (e : Nat × L2Entry) => e.2.static && !e.2.learned).length
    else d.get f i j
  | .ecm => if f = ECM.BKT_DATA.Slot then d.fwd.bkt (d.get ECM.BKT_SEL.Bucket) else d.get f i j
  | .acl =>
    if f = ACL.COUNT.Active then d.aclValid i d.acl.plane
    else if f = ACL.COUNT.Staged then d.aclValid i (1 - d.acl.plane)
    else if f = ACL.REPAIR.Pending then (Tab.get {} d.acl.banks i : AclBank).repair.length
    else d.get f i j
  | .egs =>
    if f = EGS.SHAPER_TIME.Time then d.shaperTime
    else if f = EGS.WHEEL_STAT1.Backlog then d.wheelBacklog i
    else d.get f i j
  | .hbc =>
    let x : HbmLane := Tab.get {} (d.stack i).lanes (d.get HBC.CAL_SEL.Lane i)
    if i ≠ 0 ∧ (f.off = 0x280 ∨ f.off = 0x284) then 0
    else if f = HBC.CAL_STAT.MinWidth then (d.minLane i).2
    else if f = HBC.CAL_STAT.MinLane then (d.minLane i).1
    else if f = HBC.CAL_LANE.Centre then x.centre
    else if f = HBC.CAL_LANE.Width then x.width
    else if f = HBC.CAL_LANE.Vref then x.vref
    else if f = HBC.CAL_LANE.Strobe then x.strobe
    else d.get f i j
  | .ucs => if i ≠ 0 ∧ 0x300 ≤ f.off ∧ f.off < 0x400 then 0 else d.get f i j
  | .dch => if f = DCH.STAT.State then d.chanState i else d.get f i j
  | .tim =>
    let lane := d.get TIM.CAL_SEL.Lane
    if f = TIM.CAL_RX.Rx then Tab.get 0 d.tim.rx lane
    else if f = TIM.CAL_TX.Tx then Tab.get 0 d.tim.tx lane
    else if f = TIM.CAL_EST_RX.Estimate then Tab.get 0 d.tim.est lane
    else if f = TIM.SYNCE_OUT.Squelched then b2n (d.squelched (d.get TIM.SYNCE_OUT.Lane 0 j))
    else d.get f i j
  | .sdl =>
    if f = SDL.SEAL_RATE.SealRate then d.sealRate
    else if f = SDL.ROT_STAT.Pending then d.rotPending
    else if f = SDL.LEDGER_CERT.Cert then wordAt (Tab.get [] d.mram.ledgerCerts (d.get SDL.KEY_SERIAL.Serial)) j
    else if f = SDL.ANCHOR.Anchor then wordAt d.mram.anchor j
    else d.get f i j
  | .cpm =>
    if f = CPM.POOL.Free then d.poolFree' j
    else if f = CPM.POOL.Low then min (d.poolFree' j) (Tab.get (poolCount j) d.cpm.low j)
    else d.get f i j
  | .evp =>
    let x := d.queue i
    if f = EVP.FILL.Words then x.fill
    else if f = EVP.PKTS.Packets then x.complete.length
    else if f = EVP.PKTS.HeadSeq then match x.pkts with
      | p :: _ => p.seq
      | [] => x.nextSeq
    else d.get f i j
  | .pmc =>
    let p : Bw := Tab.get {} d.pmc.peak (d.get PMC.BW_SEL.Port)
    if f = PMC.BW_PEAK_RX.Bytes then p.rxB else if f = PMC.BW_PEAK_TX.Bytes then p.txB else d.get f i j
  | .sec =>
    let n := d.get SEC.CERT_SEL.Cert
    if f = SEC.SERIAL.Serial then Config.serial.toNat
    else if f = SEC.CERT_LEN.Length then if n < 3 then (d.cert n).length else 0
    else if f = SEC.CERT_DER.Der then if n < 3 then wordAt (d.cert n) j else 0
    else d.get f i j
  | .tmp =>
    let n := d.get TMP.SENSOR_SEL.Sensor
    if f = TMP.SENSOR_DATA.Temp then Tab.get 0 d.tmp.die n
    else if f = TMP.SENSOR_DATA.Faulty then b2n (d.tmp.faulty.contains n)
    else d.get f i j
  | .ftb =>
    if f = FTB.FAIL_CNT.Count then
      Tab.get 0 d.ftb.fails (d.get FTB.FAIL_SEL.Slice * 128 + d.get FTB.FAIL_SEL.Profile * 8 + d.get FTB.FAIL_SEL.Reason)
    else if f = FTB.MIG_CURSOR.Cursor then (d.ruu (d.get FTB.MIG_SEL.Ruu)).cursor
    else if f = FTB.MIG_MIN.MinCursor then d.minCursor
    else d.get f i j
  | .boot => if f = BOOT.PCFG_STAT.Busy then b2n (d.flag f || !d.mramOpen 1) else d.get f i j
  | _ => d.get f i j

/-- An RC field after a read of it (R8). Fields that keep the least or the greatest since the last read start again from now. -/
def Dev.clearRc (d : Dev) (f : Fld) (i j : Nat) : Dev :=
  if f = BSN.FREE_LOW.FreeLow then { d with bsn := { d.bsn with freeLow := d.freeCells } }
  else if f = CPM.POOL.Low then { d with cpm := { d.cpm with low := Tab.set d.cpm.low j (d.poolFree' j) } }
  else if f = PMC.BW_PEAK_RX.Bytes ∨ f = PMC.BW_PEAK_TX.Bytes then
    let k := d.get PMC.BW_SEL.Port
    let p : Bw := Tab.get {} d.pmc.peak k
    let p := if f = PMC.BW_PEAK_RX.Bytes then { p with rxB := 0 } else { p with txB := 0 }
    { d with pmc := { d.pmc with peak := Tab.put {} d.pmc.peak k p } }
  else if f = RSQ.HWM.HighWater then d.set f (d.get RSQ.STAT.Used i) i
  else if f = RUU.QHWM.HighWater then d.set f (d.get RUU.QSTAT.Used i) i
  else if f = FSC.LVL_HWM.HighWater then d.set f (d.get FSC.LVL_STAT.Waiting 0 j) 0 j
  else if f = FEN.JRN_HWM.HighWater then
    d.set f ((d.threads.filter fun e => e.1 / 256 == i).foldl (fun n e => max n e.2.journal.length) 0) i
  else if f = HIF.TAGS.HighWater then d.set f (d.get HIF.TAGS.InUse)
  else d.set f 0 i j

/-! ### Reading a word -/

/-- The part of an element that lies in a word, in place. -/
def Fld.place (f : Fld) (j off v : Nat) : Nat :=
  let start := f.start j
  if 8 * off ≤ start then v % 2 ^ f.w * 2 ^ (start - 8 * off) % 2 ^ 32 else v % 2 ^ f.w / 2 ^ (8 * off - start) % 2 ^ 32

/-- A word assembled from its fields. The loader's registers are UCS0's alone (R229), the frequency registers HBC0's (R337). WO bits read undefined, a free value (R8); RC fields
whose top bit the word holds clear. -/
def Dev.fieldWord (d : Dev) (b : Blk) (i off : Nat) : Dev × Nat :=
  let rows := if (b = .ucs ∧ i ≠ 0 ∧ 0x300 ≤ off ∧ off < 0x400) ∨ (b = .hbc ∧ i ≠ 0 ∧ (off = 0x280 ∨ off = 0x284)) then [] else wordRows b off
  let (x, d) := if rows.any fun r => r.1.acc == .wo then d.draw32 else (0, d)
  let v := rows.foldl (fun v (r : RegRow × Nat) =>
    let f := r.1.fld
    v + (if r.1.acc = .wo then f.place r.2 off (x / 2 ^ (f.start r.2 - 8 * off)) else f.place r.2 off (d.view f i r.2))) 0
  let d := rows.foldl (fun (d : Dev) (r : RegRow × Nat) =>
    if r.1.acc = .rc ∧ r.1.fld.start r.2 + r.1.fld.w ≤ 8 * off + 32 then d.clearRc r.1.fld i r.2 else d) d
  (d, v)

/-- A word of a queue's ITEM window: ITEM[0]'s lower word latches, the rest is read from the function's latch (R461). -/
def Dev.itemWord (d : Dev) (fn q off : Nat) : Dev × Nat :=
  if off = 0x300 then
    let (d, v) := d.latchItem fn q
    (d, v % 2 ^ 32)
  else
    let w := ((Tab.find (d.queue q).latch fn).getD []).getD ((off - 0x300) / 8) 0
    (d, if off % 8 = 0 then w % 2 ^ 32 else w / 2 ^ 32 % 2 ^ 32)

/-- A word of the bandwidth values, as the function's latch holds them (R485). -/
def Dev.bwWord (d : Dev) (fn off : Nat) : Dev × Nat :=
  let d := if off = 0x308 then d.latchBw fn else d
  let x := d.bwOf fn
  (d, match off with
    | 0x308 => x.rxB % 2 ^ 32
    | 0x30C => x.rxB / 2 ^ 32 % 2 ^ 16
    | 0x310 => x.txB % 2 ^ 32
    | 0x314 => x.txB / 2 ^ 32 % 2 ^ 16
    | 0x318 => x.rxF % 2 ^ 32
    | _ => x.txF % 2 ^ 32)

/-- A header word that is computed (R34). -/
def Dev.headWord (d : Dev) (b : Blk) (i off : Nat) : Dev × Nat :=
  let r := blkRow b
  if off = 0x000 then (d, (Config.blockVersion r.type).toNat + 2 ^ 8 * (i % 256) + 2 ^ 16 * r.type)
  else if off = 0x004 then
    (d, (Config.blockCaps r.type).toNat + 2 ^ 16 * detCount b + 2 ^ 24 * r.pages + 2 ^ 29 * b2n r.assignable + 2 ^ 30 * (i / 256))
  else if off = 0x00C then
    (d, d.get (HDR.STAT.Quiesced b) i + 2 * b2n (d.workIn b i) + 4 * b2n (!d.live b i) + 8 * d.get (HDR.STAT.ResetRefused b) i)
  else if off = 0x008 then
    let (x, d) := d.draw32
    (d, d.get (HDR.CTL.Enable b) i + 2 * (x % 2) + 4 * d.get (HDR.CTL.QuiesceReq b) i)
  else if off = 0x018 then
    let (x, d) := d.draw32
    (d, x)
  else d.fence b i

/-- A permitted read of a word. -/
def Dev.readWord (d : Dev) (fn : Nat) (b : Blk) (i off : Nat) : Dev × Nat :=
  if [0x000, 0x004, 0x008, 0x00C, 0x018, 0x040].contains off then d.headWord b i off
  else if ctrWord off then
    let k := (off - 0x100) / 16
    if off % 16 = 8 then d.ctrLow fn b i k else d.ctrHigh fn b i k
  else match b with
    | .err =>
      if 0x2000 ≤ off ∧ off < 0x6000 then
        let e := d.err.log.find? fun e => e.seq % 512 == (off - 0x2000) / 32
        (d, wordAt ((e.map LogEntry.bytes).getD []) ((off - 0x2000) % 32 / 4))
      else d.fieldWord b i off
    | .evp =>
      if off = 0x224 then d.nextEvq i
      else if 0x300 ≤ off ∧ off < 0x348 then d.itemWord fn i off
      else d.fieldWord b i off
    | .ftb => if off = 0x218 then (d.latchRclk, d.rclk) else d.fieldWord b i off
    | .tim => if off = 0x200 then d.latchTime else d.fieldWord b i off
    | .pmc => if 0x308 ≤ off ∧ off < 0x320 then d.bwWord fn off else d.fieldWord b i off
    | _ => d.fieldWord b i off

/-- A read of the BAR0 word at `a` (R32, R35, R39, R40). -/
def Dev.read0 (d : Dev) (fn a : Nat) : Dev × Nat :=
  match locate a with
  | none => (d.miss, 0)
  | some (b, i, off) =>
    if !known b off || (0x200 ≤ off && !d.live b i) then (d.miss, 0)
    else if !d.mayRead fn b i off then
      let d := if ctrWord off then d.count .pmc 0 0x1F3 else d
      (d.deny fn false a, 0)
    else d.readWord fn b i off

/-! ### Writing a word -/

/-- The chip after a row's own command. -/
def Chip.run (f : State → Host.Outcome State Fault Refusal) (c : Chip) : Chip :=
  match f ⟨[], c⟩ with
  | .next s => s.chip
  | _ => c

/-- The commands of a word of an instance whose bits are commands: every bit set takes its action (R8), the lowest first (the order is
a DESIGN CHOICE, log entry 19), as one write of the run (R34); none set: nothing. -/
def pick (b : Blk) (i v : Nat) (l : List (State → Host.Outcome State Fault Refusal)) : Option (Chip → Chip) :=
  match (List.range l.length).filter (bit v) with
  | [] => none
  | ks => some fun c =>
    let seq := c.dev.get (HDR.FENCE.WriteSeq b) i
    ((ks.filterMap fun k => l[k]?).foldl (fun c f => Chip.run f (c.upd (·.set (HDR.FENCE.WriteSeq b) seq i))) c)

/-- The command of a word whose bit `k` starts an operation. -/
def go (v k : Nat) (f : State → Host.Outcome State Fault Refusal) : Option (Chip → Chip) := if bit v k then some (Chip.run f) else none

/-- A field of the word is set, and then its operation starts. -/
def setThen (f : Fld) (v i : Nat) (k : State → Host.Outcome State Fault Refusal) : Option (Chip → Chip) :=
  some fun c => Chip.run k (c.upd (·.set f v i))

/-- The lower word of a 64-bit register, held until its upper word is written (R45), and the hold taken up. -/
def Dev.holdLow (d : Dev) (a v : Nat) : Dev := { d with fab := { d.fab with hold := Tab.set d.fab.hold a v } }
def Dev.takeLow (d : Dev) (a dflt : Nat) : Nat × Dev :=
  (Tab.get dflt d.fab.hold a, { d with fab := { d.fab with hold := Tab.del d.fab.hold a } })

/-- A Go of FTB.CMD_CTL by its Op (R125). An Op the manual does not name completes at once as refused (DESIGN CHOICE, log entry 104). -/
def ftbGo (op : Nat) (err : Bool) : State → Host.Outcome State Fault Refusal :=
  match op with
  | 1 => execFtbInsert 128
  | 2 => execFtbReplace 128
  | 3 => execFtbLookup 128
  | 4 => execFtbDelete 128
  | 5 => execFtbReadloc 128
  | 6 => execFtbDeleteloc 128
  | 7 => execFtbReadannex 128 err
  | 8 => execFtbSetgeom 128
  | 9 => execFtbResize 128
  | 10 => execFtbRekey 128
  | _ => fun s => nextC s fun c => c.hostGo 128 op (·.cmdResult 7)

/-- Row commands of the blocks of the flow path. `host` is what host memory returns should the write start a fetch. -/
def flowRow (d : Dev) (b : Blk) (i off v : Nat) (host : Option (List Byte)) : Option (Chip → Chip) :=
  let img := host.getD []
  let err := host.isNone
  match b with
  | .ftb =>
    if off = 0x280 ∧ bit v 8 then some (Chip.run (ftbGo (bits v 0 8) err))
    else if off = 0x3C4 then pick b i v [execExportStart 128, execExportStop 128]
    else none
  | .rcc =>
    if off = 0x200 then some (Chip.run (execRccModeWrite 128 i v))
    else if off = 0x204 then go v 0 (execRccFlush 128 i)
    else none
  | .ruu =>
    if off = 0x250 then pick b i v [execTplCmdWrite 128 i, execTplCmdRead 128 i, execTplCmdReadStaged 128 i]
    else if off = 0x278 then pick b i v [execMpfCmdWrite 128 i, execMpfCmdRead 128 i, execMpfCmdReadStaged 128 i]
    else if off = 0x288 then go v 0 (execPoisonClear 128 i)
    else none
  | .fen => if off = 0x208 ∧ bit v 8 then setThen FEN.KILL.Thread v i (execKill 128 i (bits v 0 8)) else none
  | .ucs =>
    if off = 0x204 then pick b i v [execSwap 128 i, execConfirm 128 i (bit v 2)]
    else if off = 0x22C then go v 0 (execUcsPoisonClr 128 i)
    else if off = 0x234 then go v 0 (execUcsRead 128 i)
    else if off = 0x310 ∧ i = 0 then
      let op := d.get UCS.LOAD_CFG.Op
      if op = 1 then go v 0 (execUcsLoad 128 img err)
      else if op = 2 then go v 0 (execUcsClone 128)
      else if op = 3 then go v 0 (execUcsEnrol 128 img err)
      else none
    else none
  | .lpm =>
    if off = 0x218 then pick b i v [execRouteAdd 128, execRouteDelete 128, execRouteRead 128]
    else if off = 0x230 then pick b i v [execNhWrite 128, execNhRead 128]
    else if 0x300 ≤ off ∧ off < 0x500 ∧ off % 8 = 4 then some (Chip.run (execSmacWrite 128 ((off - 0x304) / 8) v))
    else none
  | .l2t =>
    if off = 0x20C then pick b i v [execL2Add 128, execL2Delete 128, execL2Read 128]
    else if off = 0x230 then pick b i v [execVlanWrite 128, execVlanRead 128]
    else none
  | .ecm =>
    if off = 0x20C then pick b i v [execGrpWrite 128, execGrpRead 128, execRebuild 128]
    else if off = 0x218 then pick b i v [execSlotWrite 128, execSlotRead 128]
    else none
  | .nat =>
    if off = 0x20C then pick b i v [execNatAddrWrite 128, execNatAddrRead 128]
    else if off = 0x224 then pick b i v [execNatPfxWrite 128, execNatPfxRead 128]
    else if off = 0x658 then pick b i v [execNatMapWrite 128, execNatMapRead 128]
    else none
  | .shw => if off = 0x210 then pick b i v [execShwStart 128, execShwStop 128, execShwDump 128] else none
  | .acl =>
    if off = 0x330 then
      pick b i v [execAclEntWrite 128 i, execAclEntDelete 128 i, execAclEntRead 128 i (bit v 3)]
    else none
  | .egs =>
    if off = 0x2A8 then pick b i v [execEgsQcmdStage 128 i, execEgsQcmdLoad 128 i]
    else if off = 0x2F8 then pick b i v [execEgsGrpStage 128 i, execEgsGrpLoad 128 i, execEgsGrpState 128 i]
    else none
  | .mtr => if off = 0x218 then pick b i v [execMtrStage 128, execMtrLoad 128, execMtrStateLoad 128 (bit v 3)] else none
  | .adm => if off = 0x20C then pick b i v [execAdmCmdWrite 128, execAdmCmdRead 128] else none
  | .bsn => if off = 0x218 then pick b i v [execMcgCmdWrite 128, execMcgCmdRead 128] else none
  | .mac =>
    if 0x200 ≤ off ∧ off < 0x240 ∧ off % 8 = 0 then some (Chip.run (execPortCtlWrite 128 i ((off - 0x200) / 8) v)) else none
  | .pmc =>
    if off = 0x20C then pick b i v [execGrantWrite 128, execGrantRead 128]
    else if off = 0x300 then some (Chip.run (execBwCfgWrite 128 v))
    else if off = 0x400 then some (Chip.run (execIpxEnableWrite 128 v))
    else if off = 0x41C then go v 0 (execIpxSendTemplates 128)
    else none
  | .gth => if off = 0x21C then pick b i v [execSnapArm 128, execSnapCancel 128, execSnapGo 128] else none
  | _ => none

/-- Row commands of the other blocks. -/
def systemRow (d : Dev) (b : Blk) (i off v : Nat) (host : Option (List Byte)) : Option (Chip → Chip) :=
  let a := b.base i + off
  match b with
  | .glb =>
    if off = 0x204 then
      if 1 < ((List.range 4).filter (bit v)).length then some (Chip.run (execCommitCtlMultiBit 128))
      else pick b i v [execCommitGo 128, execCommitArm 128, execCommitCancel 128, execCommitDiscard 128]
    else if off = 0x240 then
      if !bit v 0 && !bit v 1 && d.flag GLB.DPR_CTL.Hold then some (Chip.run (execDprHoldRelease 128))
      else some (Chip.run (execDprGo 128 v []))
    else none
  | .err => if off = 0x204 then some (Chip.run (execRouteDataWrite 128 v)) else none
  | .hbc =>
    if off = 0x200 then some (Chip.run (execMapCfgWrite 128 i v))
    else if off = 0x280 ∧ i = 0 then some (Chip.run (execFreqChange 128 v))
    else none
  | .tim =>
    if off = 0x214 then some (Chip.run (execIncrWrite 128 false v))
    else if off = 0x22C then
      (if bit v 0 then some (Chip.run (execTimeSet 128 (bit v 1))) else go v 1 (execTimeStep 128))
    else none
  | .sdl =>
    if 0x200 ≤ off ∧ off < 0x300 ∧ off % 16 = 0 then
      let s := (off - 0x200) / 16
      some (Chip.run (if bit v 0 then execStreamEnable 128 s v else execStreamDisable 128 s v))
    else if off = 0x314 then go v 0 (execAnchorNow 128)
    else if off = 0x32C then go v 0 (execRotationGo 128)
    else none
  | .hif =>
    if HIF.MBX_PEND.Pending.off ≤ off ∧ off < HIF.MBX_PEND.Pending.off + 16 then
      some (Chip.run (execMbxPendWrite 128 ((off - HIF.MBX_PEND.Pending.off) / 4) v))
    else none
  | .dma =>
    if off = 0x200 then some (Chip.run (execStgCfgWrite 128 v))
    else if 0x400 ≤ off ∧ off < 0x800 then some (Chip.run (execBindWrite 128 ((off - 0x400) / 4) v))
    else none
  | .dch =>
    if off = 0x204 then
      some (Chip.run (if bit v 1 then execDmaResume 128 i (bit v 0) else if bit v 0 then execDmaRunSet 128 i else execDmaRunClear 128 i))
    else if off = 0x20C then some fun c =>
      let (lo, d) := c.dev.takeLow (a - 4) (c.dev.get DCH.HEAD.Addr i % 2 ^ 32)
      Chip.run (execDmaHeadWrite 128 i (lo + 2 ^ 32 * v)) { c with dev := d }
    else none
  | .cpm =>
    if off = 0x210 then go v 31 (execFreeCmd 128 (v % 2 ^ 24))
    else if off = 0x214 then go v 31 (execReclaim 128 (v % 2 ^ 8))
    else none
  | .evq => if 0x400 ≤ off ∧ off < 0xC00 then some (Chip.run (execQmemWrite 128 ((off - 0x400) / 4) v)) else none
  | .evp =>
    if off = 0x200 then some (Chip.run (execQueueEnableWrite 128 i v))
    else if off = 0x204 then go v 0 (execDropRemainder 128 i)
    else none
  | .boot =>
    if off = 0x240 then go v 0 (execFloorRaise 128)
    else if off = 0x284 ∧ bit v 8 then
      match bits v 0 2 with
      | 1 => setThen BOOT.FLASH_CMD.Op v 0 (execFlashRead 128)
      | 2 => setThen BOOT.FLASH_CMD.Op v 0 (execFlashProgram 128)
      | 3 => setThen BOOT.FLASH_CMD.Op v 0 (execFlashErase 128)
      | _ => none
    else if off = 0x500 then pick b i v [execPcfgCommit 128, execPcfgReload 128]
    else if off = 0x60C ∧ bit v 8 then setThen BOOT.STORE_CFG.Slot v 0 (execStoreGo 128 (bits v 0 3) (host.getD []) host.isNone)
    else none
  | .sec => if off = 0x214 then go v 0 (execDbgSubmit 128) else none
  | _ => none

/-! ### Plain register writes -/

/-- A field takes its part of a written word by its access code (R8); the lower word of a wide register is held (R45). -/
def Dev.writeField (d : Dev) (r : RegRow) (i j off v : Nat) : Dev :=
  let f := r.fld
  let a := f.blk.base i + off
  if f.w ≤ 32 then
    let x := v / 2 ^ (f.start j - 8 * off) % 2 ^ f.w
    match r.acc with
    | .rw | .rws => d.set f x i j
    | .rw1c =>
      let cur := d.get f i j
      d.set f (cur - (cur &&& x)) i j
    | .ro | .ros | .rc | .wo => d
  else if r.acc ≠ .rw ∧ r.acc ≠ .rws then d
  else if 8 * off = f.start j then d.holdLow a v
  else
    let (lo, d) := d.takeLow (a - 4) (d.get f i j % 2 ^ 32)
    d.set f (lo + 2 ^ 32 * v) i j

/-- The value a staged field takes from a written word. -/
def Fld.taken (f : Fld) (j off v : Nat) : Nat := v / 2 ^ (f.start j - 8 * off) % 2 ^ f.w

/-- COMMIT_MASK bit, instance and staging capacity of a block whose fields are staged by direct writes (R46). -/
def stageOf (b : Blk) (i : Nat) : Nat × Nat × Nat :=
  match b with
  | .prs => (0, i, 256)
  | .adm => (admBit, 0, admCap)
  | .nat => (natBit, 0, natCap)
  | .acl => (6, i, 64)
  | .egs => (egsBit, i, egsCap)
  | .mtr => (mtrBit, 0, mtrCap)
  | _ => (lpmBit, 0, lpmCap)

/-- A direct staged write beyond the block's capacity: its refusal as the block's chapter reports it, and the overflow status. -/
def Dev.stageRefused (d : Dev) (b : Blk) (i : Nat) : Dev :=
  let d := match b with
    | .adm => d.admRefuse 2
    | .nat => d.natRefuse 2
    | .acl => d.aclRefuse i 2
    | .egs => d.egsStat i 1
    | .mtr => d.set MTR.STAT.Refused 1
    | _ => d
  d.overflows (stageOf b i).1

/-- A register word whose fields are staged counts as one staged write (R46, R550). -/
def Dev.stageWord (d : Dev) (b : Blk) (i off v : Nat) (rows : List (RegRow × Nat)) : Dev :=
  let (m, k, cap) := stageOf b i
  match rows with
  | [] => d
  | (r, j) :: t =>
    match d.stage m k 1 cap (.reg (r.fld.key i j) (r.fld.taken j off v)) with
    | none => d.stageRefused b i
    | some d =>
      let rest : List StgEntry := t.map fun e => ⟨m, k, 0, .reg (e.1.fld.key i e.2) (e.1.fld.taken e.2 off v)⟩
      let d := d.putStaged rest
      rows.foldl (fun (d : Dev) e => d.set e.1.fld (e.1.fld.taken e.2 off v) i e.2) d

/-- Whether a plain write is refused by its block's own rule, with what the refusal sets: a bank's Width while an entry is valid,
or a reserved Width (R261); a stream's EPOCH while it runs (R379); IPX registers while exporting, and a Message size out of range
(R490); a structure of the general region that would reach the hardware reserve (R103; which registers and how long the NAT map is:
DEDUCED, log entry 99); a port index that a slice does not have (R300); registers that only instance 0 carries (R218, R326). -/
def Dev.writeRefused (d : Dev) (b : Blk) (i off v : Nat) : Option Dev :=
  match b with
  | .acl =>
    if off ≠ ACL.BANK_CFG.Width.off then none
    else
      let w := v / 2 ^ ACL.BANK_CFG.Width.lo % 2 ^ ACL.BANK_CFG.Width.w
      if w ≠ d.get ACL.BANK_CFG.Width i ∧ 0 < d.aclValid i 0 + d.aclValid i 1 then some (d.aclRefuse i 4)
      else if w = 3 then some (d.aclRefuse i 5)
      else none
  | .sdl =>
    if 0x200 ≤ off ∧ off < 0x300 ∧ off % 16 = 4 ∧ (d.stream ((off - 0x200) / 16)).active ∧
        SDL.EPOCH.EpochUs.taken ((off - 0x200) / 16) off v ≠ d.get SDL.EPOCH.EpochUs 0 ((off - 0x200) / 16) then
      some (d.refuseStream ((off - 0x200) / 16) 6)
    else if off = SDL.STAGE_CFG.Offset.off ∧
        generalEnd < SDL.STAGE_CFG.Offset.taken 0 off v + 64 * 16 * 2 ^ d.get SDL.STAGE_SLOTS.SlotsLog2 then some d
    else if off = SDL.STAGE_SLOTS.SlotsLog2.off ∧
        generalEnd < d.get SDL.STAGE_CFG.Offset + 64 * 16 * 2 ^ SDL.STAGE_SLOTS.SlotsLog2.taken 0 off v then some d
    else none
  | .pmc =>
    if 0x404 ≤ off ∧ off < 0x41C ∧ d.flag PMC.IPX_STAT.Active then some (d.set PMC.IPX_STAT.Refused 1)
    else if off = PMC.IPX_MSG.MaxMessage.off ∧ (PMC.IPX_MSG.MaxMessage.taken 0 off v < 256 ∨ 9000 < PMC.IPX_MSG.MaxMessage.taken 0 off v)
      then some (d.set PMC.IPX_STAT.Refused 1)
    else if off = PMC.IPX_RING.Offset.off ∧
        generalEnd < PMC.IPX_RING.Offset.taken 0 off v + 128 * 2 ^ d.get PMC.IPX_RING_SIZE.SlotsLog2 then some (d.set PMC.IPX_STAT.Refused 1)
    else if off = PMC.IPX_RING_SIZE.SlotsLog2.off ∧
        generalEnd < d.get PMC.IPX_RING.Offset + 128 * 2 ^ PMC.IPX_RING_SIZE.SlotsLog2.taken 0 off v then some (d.set PMC.IPX_STAT.Refused 1)
    else none
  | .egs => if i ≠ 0 ∧ i ≠ 4 ∧ (off = 0x240 ∨ off = 0x290) then some d else none
  | .nat =>
    if off = NAT.MAP_CFG.MapOffset.off ∧ generalEnd < NAT.MAP_CFG.MapOffset.taken 0 off v + 32 * ceilDiv (2 ^ 24) 384
      then some (d.natRefuse 1)
    else none
  | .hbc => if i ≠ 0 ∧ (off = 0x280 ∨ off = 0x284) then some d else none
  | .ucs => if i ≠ 0 ∧ 0x300 ≤ off ∧ off < 0x400 then some d else none
  | _ => none

/-- What a plain write first keeps of the state it ends: TIME_QUAL for the stamps taken before it (R372). -/
def Dev.beforeWrite (d : Dev) (b : Blk) (off : Nat) : Dev := if b = .tim ∧ off = TIM.TIME_QUAL.Quality.off then d.notePast else d

/-- What a plain write brings with it, `was` the device before it: the period of anchors (R382). -/
def Dev.afterWrite (d : Dev) (b : Blk) (off : Nat) (was : Dev) : Dev :=
  if b = .sdl ∧ off = SDL.ANCHOR_CFG.Period.off then d.anchorSet was else d

/-- A write of a word with no row of its own. -/
def Dev.plainWrite (d : Dev) (b : Blk) (i off v : Nat) : Dev :=
  let d := d.bump (HDR.FENCE.WriteSeq b) 1 i
  match d.writeRefused b i off v with
  | some d => d
  | none =>
    let rows := wordRows b off
    let staged := rows.filter fun r => r.1.staged && b != .l2t
    if b = .lpm ∧ 0x300 ≤ off ∧ off < 0x500 then d.holdLow (b.base i + off) v
    else if !staged.isEmpty then d.stageWord b i off v staged
    else (rows.foldl (fun (d : Dev) r => d.writeField r.1 i r.2 off v) (d.beforeWrite b off)).afterWrite b off d

/-- A permitted write of a header word. -/
def Chip.headWrite (c : Chip) (b : Blk) (i off v : Nat) : Chip :=
  if off = 0x040 then c.upd (·.miss)
  else
    let c := c.upd (·.bump (HDR.FENCE.WriteSeq b) 1 i)
    if off = 0x008 then c.ctlWrite b i v
    else if off = 0x010 then c.upd (·.clearStatus b i v)
    else if off = 0x014 then c.upd (·.enableIrq b i v)
    else if off = 0x018 then c.upd (·.forceIrq b i v)
    else if off = 0x020 then c.upd (·.injWrite b i v)
    else if off = 0x024 ∧ !c.dev.injOpen b then c.upd (·.miss)
    else if off = 0x044 then c.upd (·.ownerWrite b i v)
    else if ctrWord off then
      if off % 16 = 8 then c.upd (·.holdLow (b.base i + off) v) else c.upd (·.ctrWrite b i ((off - 0x100) / 16) v)
    else c.upd fun d => (wordRows b off).foldl (fun (d : Dev) r => d.writeField r.1 i r.2 off v) d

/-- A write of the BAR0 word at `a` (R32, R35, R39, R40). `host` is what host memory returns should the write start a fetch. -/
def Chip.write0 (c : Chip) (fn a v : Nat) (host : Option (List Byte)) : Chip :=
  match locate a with
  | none => c.upd (·.miss)
  | some (b, i, off) =>
    if !known b off || (0x200 ≤ off && !c.dev.live b i) then c.upd (·.miss)
    else if !c.dev.mayWrite fn b i off then c.upd (·.deny fn false a)
    else if off < 0x200 then c.headWrite b i off v
    else match (flowRow c.dev b i off v host).orElse fun _ => systemRow c.dev b i off v host with
      | some k => k c
      | none => c.upd (·.plainWrite b i off v)

/-! ### BAR2: doorbells and mailboxes (R33, R403, R404) -/

/-- A word of a mailbox area takes its bytes: the VF writes ToPf, PF0 writes FromPf. -/
def Dev.mbxArea (d : Dev) (fn w off v : Nat) : Dev :=
  let m := (d.fn w).mbx
  let vf := decide (off < 0xDC0)
  if (fn == 0) == vf || (if vf then m.busy else m.full) then d.deny fn true (w * 4096 + off)
  else if vf then d.setMbx w { m with toPf := putB m.toPf (off - 0xC00) (toLE 4 v) }
  else d.setMbx w { m with fromPf := putB m.fromPf (off - 0xDC0) (toLE 4 v) }

/-- A write of the BAR2 word at `a`. -/
def Chip.write2 (c : Chip) (fn a v : Nat) : Chip :=
  let w := if fn = 0 then a / 4096 else fn
  let off := a % 4096
  if 128 ≤ w then c.upd (·.miss)
  else if off < 0x400 then c.upd (·.dmaBell fn w (off / 4) v)
  else if off < 0xC00 then c.upd (·.evqBell fn w ((off - 0x400) / 4) v)
  else if w = 0 ∨ 0xF90 ≤ off then c.upd (·.miss)
  else if off < 0xF80 then c.upd (·.mbxArea fn w off v)
  else if off = 0xF80 then c.upd (·.toPfBell fn w v)
  else if off = 0xF84 then c.upd (·.fromPfBell fn w v)
  else if fn = 0 then c.upd (·.deny fn true (w * 4096 + off))
  else c.upd fun d =>
    let m := (d.fn w).mbx
    if off = 0xF88 then d.setMbx w { m with vector := v % 64, enable := bit v 31 }
    else if bit v 1 then d.setMbx w { m with full := false }
    else d

/-- A read of the BAR2 word at `a`: doorbells read undefined, a free value. -/
def Dev.read2 (d : Dev) (fn a : Nat) : Dev × Nat :=
  let w := if fn = 0 then a / 4096 else fn
  let off := a % 4096
  let m := (d.fn w).mbx
  let free := fun (_ : Unit) =>
    let (x, d) := d.draw32
    (d, x)
  if 128 ≤ w then (d.miss, 0)
  else if off < 0xC00 then free ()
  else if w = 0 ∨ 0xF90 ≤ off then (d.miss, 0)
  else if off < 0xDC0 then (d, wordAt m.toPf ((off - 0xC00) / 4))
  else if off < 0xF80 then (d, wordAt m.fromPf ((off - 0xDC0) / 4))
  else if off = 0xF88 then (d, m.vector + 2 ^ 31 * b2n m.enable)
  else if off = 0xF8C then (d, b2n m.busy + 2 * b2n m.full + 4 * m.fromPfLen)
  else free ()

/-! ### BAR4: the MSI-X table and its Pending bits (R400) -/

/-- Byte offset of a function's Pending bits. -/
def pbaAt (f : Nat) : Nat := if f = 0 then 0x8000 else 0x800

/-- A write of the BAR4 word at `a`: Pending bits take no write. -/
def Dev.write4 (d : Dev) (fn a v : Nat) : Dev :=
  let k := a / 16
  if vectors fn ≤ k then
    if pbaAt fn ≤ a ∧ a < pbaAt fn + vectors fn / 8 then d else d.miss
  else
    let e := d.vec fn k
    match a % 16 / 4 with
    | 0 => d.setVec fn k { e with addr := e.addr / 2 ^ 32 * 2 ^ 32 + v }
    | 1 => d.setVec fn k { e with addr := e.addr % 2 ^ 32 + 2 ^ 32 * v }
    | 2 => d.setVec fn k { e with data := v }
    | _ => d.maskVec fn k (bit v 0)

/-- A read of the BAR4 word at `a`. -/
def Dev.read4 (d : Dev) (fn a : Nat) : Dev × Nat :=
  let k := a / 16
  if k < vectors fn then
    let e := d.vec fn k
    (d, match a % 16 / 4 with
      | 0 => e.addr % 2 ^ 32
      | 1 => e.addr / 2 ^ 32 % 2 ^ 32
      | 2 => e.data
      | _ => b2n e.mask)
  else if pbaAt fn ≤ a ∧ a < pbaAt fn + vectors fn / 8 then
    (d, (List.range 32).foldl (fun v n => v + 2 ^ n * b2n (d.vec fn (8 * (a - pbaAt fn) + n)).pend) 0)
  else (d.miss, 0)

/-! ### Whole accesses (R6, R32, R42) -/

/-- Bytes of a function's BAR (R395): BAR 0, 2 or 4. -/
def barLen (fn bar : Nat) : Nat :=
  match bar with
  | 0 => 2 ^ 26
  | 2 => if fn = 0 then 2 ^ 24 else 4096
  | 4 => if fn = 0 then 2 ^ 16 else 4096
  | _ => 0

/-- Whether a function has a BAR: the monitor reaches BAR0 only (R528). -/
def hasBar (fn bar : Nat) : Bool := bar == 0 || (fn != 128 && (bar == 2 || bar == 4))

def Chip.writeWord (c : Chip) (fn bar a v : Nat) (host : Option (List Byte)) : Chip :=
  match bar with
  | 0 => c.write0 fn a v host
  | 2 => c.write2 fn a v
  | _ => c.upd (·.write4 fn a v)

def Dev.readBar (d : Dev) (fn bar a : Nat) : Dev × Nat :=
  match bar with
  | 0 => d.read0 fn a
  | 2 => d.read2 fn a
  | _ => d.read4 fn a

/-- The words of a write, in ascending order; a tail shorter than a word is discarded and counted. -/
def Chip.writeWords (fn bar : Nat) (host : Option (List Byte)) : Nat → Nat → List Byte → Chip → Chip
  | 0, _, _, c => c
  | n + 1, a, data, c =>
    if data.isEmpty then c
    else if data.length < 4 then c.upd (·.miss)
    else Chip.writeWords fn bar host n (a + 4) (data.drop 4) (c.writeWord fn bar a (ofLE (data.take 4)) host)

/-- The words of a read, in ascending order. -/
def Dev.readWords (fn bar : Nat) : Nat → Nat → Dev → Dev × List Byte
  | 0, _, d => (d, [])
  | n + 1, a, d =>
    let (d, v) := d.readBar fn bar a
    let (d, bs) := Dev.readWords fn bar n (a + 4) d
    (d, toLE 4 v ++ bs)

/-- REGISTER_WRITE: a memory write by a function at byte `addr` of its BAR `bar`. `host` is what host memory or HBM returns should
the write start a fetch (`none`: the fetch fails). -/
def execRegisterWrite (fn bar addr : Nat) (data : List Byte) (host : Option (List Byte)) (s : State) :
    Host.Outcome State Fault Refusal :=
  nextC s fun c =>
    let c := c.upd (·.request fn)
    if !c.dev.reachable fn || !hasBar fn bar || barLen fn bar < addr + data.length then c.upd (·.emit (.unsupported fn))
    else if data.length < 4 ∨ addr % 4 ≠ 0 ∨ 64 < data.length then c.upd (·.miss)
    else Chip.writeWords fn bar host 16 addr data c

/-- REGISTER_READ: a memory read by a function of `len` bytes from byte `addr` of its BAR `bar`. -/
def execRegisterRead (fn bar addr len : Nat) (s : State) : Host.Outcome State Fault Refusal :=
  nextD s fun d =>
    let d := d.request fn
    if !d.reachable fn || !hasBar fn bar || barLen fn bar < addr + len then d.emit (.unsupported fn)
    else if addr % 4 ≠ 0 ∨ 64 < len then d.miss.emit (.readData fn (List.replicate len 0))
    else
      let (d, bs) := Dev.readWords fn bar ((len + 3) / 4) addr d
      d.emit (.readData fn (bs.take len))

end Sys2Proof.Machine
end

