-- ==== Sys2Proof/Machine/Monitor.lean ====
section
/-! DEFINITION. The Novyx monitor (R524 to R528): characters and lines, the grammar of its commands, levels and logins, and each
command. A line that has ended waits in `MonSt.ready`; the command it spells carries it out. The layout of data lines beyond R526 and
the example is the model's own. -/

namespace Sys2Proof.Machine

/-! ### Lines (R526) -/

/-- A command of R527, its arguments read. -/
inductive MonCmd where
  | help (name : Option (List Byte))
  | ver
  | ident
  | dawn
  | temp
  | port (p : Option Nat)
  | log (n : Nat)
  | cert (n : Nat)
  | mram
  | login (debug : Bool)
  | logout
  | unlock (token : Option (List Byte))
  | rd (addr n : Nat)
  | wr (addr value : Nat)
  | fence (addr : Nat)
  | baud (rate : Nat) (save : Bool)
  | floor
  | resetDp
  | resetChip
  | coreHalt (c : Nat)
  | coreResume (c : Nat)
  | coreRd (c addr : Nat)
  | hbm (pc off n : Nat)
  deriving DecidableEq, Repr

/-- Characters a line holds (R526). -/
def lineMax : Nat := 255

/-- Digits of a token, which `unlock` takes beyond them (R527; log entry 67). -/
def tokenDigits : Nat := 256

/-- A letter in lower case. -/
def lower (b : Byte) : Byte := if 65 ≤ b.toNat ∧ b.toNat ≤ 90 then b + 32 else b

/-- The tokens of a line, in lower case; `w` is the token so far, last character first. -/
def tokens : List Byte → List Byte → List (List Byte)
  | [], w => if w.isEmpty then [] else [w.reverse]
  | b :: t, w =>
    if b = 32 then (if w.isEmpty then tokens t [] else w.reverse :: tokens t [])
    else tokens t (lower b :: w)

/-- The value of a digit in a base up to 16. -/
def digitVal (base : Nat) (b : Byte) : Option Nat :=
  let c := b.toNat
  let v := if 48 ≤ c ∧ c ≤ 57 then c - 48 else if 97 ≤ c ∧ c ≤ 102 then c - 87 else 99
  if v < base then some v else none

/-- Digits of a base, underscores ignored; at least one digit. -/
def digits (base : Nat) : List Byte → Option Nat → Option Nat
  | [], acc => acc
  | b :: t, acc =>
    if b = 95 then digits base t acc
    else match digitVal base b with
      | none => none
      | some v => digits base t (some (acc.getD 0 * base + v))

/-- A number, decimal or 0x hexadecimal. -/
def number (w : List Byte) : Option Nat :=
  match w with
  | 48 :: 120 :: t => digits 16 t none
  | _ => digits 10 w none

/-- A number within a range. -/
def numIn (w : List Byte) (lo hi : Nat) : Option Nat := (number w).filter fun v => decide (lo ≤ v) && decide (v ≤ hi)

/-- 256 hexadecimal digits as 128 bytes. -/
def tokenBytes (w : List Byte) : Option (List Byte) :=
  if w.length ≠ tokenDigits ∨ w.any (fun b => (digitVal 16 b).isNone) then none
  else some ((List.range 128).map fun k => BitVec.ofNat 8 ((digits 16 ((w.drop (2 * k)).take 2) none).getD 0))

/-- The rates of R524. -/
def baudRates : List Nat := [115200, 230400, 460800, 921600, 1000000, 2000000, 3000000]

/-- A command's name, least level, and syntax (R527). -/
def monTable : List (String × Nat × String) :=
  [("help", 0, "help [cmd]"), ("ver", 0, "ver"), ("id", 0, "id"), ("dawn", 0, "dawn"), ("temp", 0, "temp"), ("port", 0, "port [p]"),
   ("log", 0, "log [n]"), ("cert", 0, "cert n"), ("mram", 0, "mram"), ("login", 0, "login [debug]"), ("logout", 0, "logout"),
   ("unlock", 0, "unlock [token]"), ("rd", 1, "rd addr [n]"), ("wr", 1, "wr addr value"), ("fence", 1, "fence addr"),
   ("baud", 1, "baud rate [save]"), ("floor", 1, "floor fw"), ("reset", 1, "reset dp, reset chip"),
   ("core", 2, "core c halt, core c resume, core c rd addr"), ("hbm", 2, "hbm pc off [n]")]

/-- The last byte address of BAR0. -/
def bar0Last : Nat := 2 ^ 26 - 1

/-- A word-aligned address within BAR0. -/
def addrArg (w : List Byte) : Option Nat := (numIn w 0 bar0Last).filter fun a => a % 4 == 0

/-- The command of a name with its argument tokens; `none` where the arguments are malformed or out of range. -/
def monArgs (name : List Byte) (as : List (List Byte)) : Option MonCmd :=
  let is := fun (s : String) => name == str s
  match as with
  | [] =>
    if is "help" then some (.help none) else if is "ver" then some .ver else if is "id" then some .ident
    else if is "dawn" then some .dawn else if is "temp" then some .temp else if is "port" then some (.port none)
    else if is "log" then some (.log 8) else if is "mram" then some .mram else if is "login" then some (.login false)
    else if is "logout" then some .logout else if is "unlock" then some (.unlock none)
    else none
  | [a] =>
    if is "help" then some (.help (some a))
    else if is "port" then (numIn a 0 127).map fun p => .port (some p)
    else if is "log" then (numIn a 1 64).map .log
    else if is "cert" then (number a).map .cert
    else if is "login" then if a = str "debug" then some (.login true) else none
    else if is "unlock" then (tokenBytes a).map fun t => .unlock (some t)
    else if is "rd" then (addrArg a).map fun x => .rd x 1
    else if is "fence" then (numIn a 0 bar0Last).map .fence
    else if is "baud" then ((number a).filter baudRates.contains).map fun r => .baud r false
    else if is "floor" then if a = str "fw" then some .floor else none
    else if is "reset" then if a = str "dp" then some .resetDp else if a = str "chip" then some .resetChip else none
    else none
  | [a, b] =>
    if is "rd" then (addrArg a).bind fun x => (numIn b 1 64).map fun n => .rd x n
    else if is "wr" then (addrArg a).bind fun x => (numIn b 0 (2 ^ 32 - 1)).map fun v => .wr x v
    else if is "baud" then
      if b = str "save" then ((number a).filter baudRates.contains).map fun r => .baud r true else none
    else if is "core" then (numIn a 1 3).bind fun c =>
      if b = str "halt" then some (.coreHalt c) else if b = str "resume" then some (.coreResume c) else none
    else if is "hbm" then (numIn a 0 383).bind fun p => ((number b).filter fun o => o % 4 == 0).map fun o => .hbm p o 1
    else none
  | [a, b, e] =>
    if is "core" then if b = str "rd" then (numIn a 1 3).bind fun c => (number e).map fun x => .coreRd c x else none
    else if is "hbm" then (numIn a 0 383).bind fun p => ((number b).filter fun o => o % 4 == 0).bind fun o =>
      (numIn e 1 64).map fun n => .hbm p o n
    else none
  | _ => none

/-- The characters of a line with these words that count against its limit: `unlock` takes its token beyond it. -/
def lineLen (l : List Byte) : List (List Byte) → Nat
  | [name, t] => if name = str "unlock" ∧ (tokenBytes t).isSome then l.length - tokenDigits else l.length
  | _ => l.length

/-- The command a line spells, or its error code: 1 malformed, 2 no such command (R526). -/
def parseLine (l : List Byte) : Except Nat MonCmd :=
  match tokens l [] with
  | [] => .error 1
  | name :: as =>
    if lineMax < lineLen l (name :: as) then .error 1
    else if !monTable.any (fun e => str e.1 == name) then .error 2
    else match monArgs name as with
      | some c => .ok c
      | none => .error 1

/-- The least level of a command (R527). -/
def MonCmd.level : MonCmd → Nat
  | .rd .. | .wr .. | .fence .. | .baud .. | .floor | .resetDp | .resetChip => 1
  | .coreHalt .. | .coreResume .. | .coreRd .. | .hbm .. => 2
  | _ => 0

/-- Whether HostLock stops a command (R528). -/
def MonCmd.locked : MonCmd → Bool
  | .wr .. | .baud .. | .floor | .resetDp | .resetChip | .coreHalt .. | .coreResume .. | .coreRd .. | .hbm .. => true
  | _ => false

/-! ### Running commands -/

/-- The monitor runs from the end of Dawn stage 2 (R524). -/
def Dev.monRuns (d : Dev) : Bool := decide (3 ≤ d.get BOOT.STAT.Stage)

/-- A data line, beginning with one space. -/
def Dev.data (d : Dev) (t : List Byte) : Dev := d.line (str " " ++ t)

/-- A number as 0x and groups of four hexadecimal digits. -/
def hexText (groups v : Nat) : List Byte := str "0x" ++ hexGroups groups v

/-- Bytes as hexadecimal digits. -/
def hexBytes (bs : List Byte) : List Byte := bs.flatMap fun b => hexN 2 b.toNat

/-- Bytes in lines of `n`. -/
def chunks (n : Nat) (bs : List Byte) : List (List Byte) :=
  (List.range (ceilDiv bs.length n)).map fun k => (bs.drop (n * k)).take n

/-- The line waiting is a command that `want` takes: it is refused for its level or HostLock, or carried out; the answer's number is its
error code, 0 for `OK`, or `none` where its final line comes later. -/
def Chip.monitor (c : Chip) (want : MonCmd → Option (Chip → Chip × Option Nat)) : Chip :=
  if !c.dev.monRuns || c.dev.mon.ask != 0 || c.dev.mon.dp.isSome then c
  else match c.dev.mon.ready.map parseLine with
    | some (.ok cmd) => match want cmd with
      | none => c
      | some k =>
        if c.dev.get MON.STAT.Level < cmd.level then c.upd (·.monEnd 3)
        else if cmd.locked && c.dev.flag MON.CTL.HostLock then c.upd (·.monEnd 5)
        else
          let (c, code) := k (c.upd (·.count .mon 0 0x230))
          match code with
          | some e => c.upd (·.monEnd e)
          | none => c
    | _ => c

/-- A command that changes the device alone. -/
def monDev (k : Dev → Dev × Option Nat) : Chip → Chip × Option Nat := fun c =>
  let (d, e) := k c.dev
  ({ c with dev := d }, e)

/-- A command that prints data lines and answers `OK`. -/
def monPrint (k : Dev → List (List Byte)) : Option (Chip → Chip × Option Nat) :=
  some (monDev fun d => ((k d).foldl Dev.data d, some 0))

/-- MON_INPUT_CHARACTER: a character received (R526). Input is echoed but for a password. CR, LF or CR LF ends the line; backspace erases
a character; a line beyond its limit stays malformed; a character after an ended line that waits starts the next one. -/
def execMonInputCharacter (ch : Nat) (s : State) : Host.Outcome State Fault Refusal :=
  nextD s fun d =>
    if !d.monRuns then d
    else
      let b : Byte := BitVec.ofNat 8 ch
      let m := { d.mon with inputAt := d.cyc, cr := b == 13 }
      let d := if m.ask = 1 ∨ m.ask = 2 then d else d.emit (.uart [b])
      if b = 8 ∨ b = 127 then { d with mon := { m with line := m.line.dropLast } }
      else if b = 10 ∧ d.mon.cr then { d with mon := m }
      else if b = 13 ∨ b = 10 then
        match m.ready with
        | some _ => { d with mon := m }
        | none => { d with mon := { m with ready := some m.line, line := [] } }
      else { d with mon := { m with line := (m.line ++ [b]).take (lineMax + tokenDigits + 1) } }

/-- MON_UNKNOWN_COMMAND: the line waiting is malformed or names no command. -/
def execMonUnknownCommand (s : State) : Host.Outcome State Fault Refusal :=
  nextD s fun d =>
    if !d.monRuns || d.mon.ask != 0 || d.mon.dp.isSome then d
    else match d.mon.ready.map parseLine with
      | some (.error e) => d.monEnd e
      | _ => d

/-- MON_IDLE_TIMEOUT: IdleS seconds without input; 0 acts as 1 (R525). -/
def execMonIdleTimeout (s : State) : Host.Outcome State Fault Refusal :=
  nextD s fun d =>
    if !d.monRuns || d.get MON.STAT.Level == 0 then d
    else
      let d := d.until (d.mon.inputAt + secCyc * max 1 (d.get MON.CFG.IdleS))
      { d with mon := { d.mon with ask := 0 } }.set MON.STAT.Level 0

/-! ### Observe -/

/-- MON_HELP. -/
def execMonHelp (s : State) : Host.Outcome State Fault Refusal :=
  nextC s fun c => c.monitor fun
    | .help none => monPrint fun d => (monTable.filter fun e => decide (e.2.1 ≤ d.get MON.STAT.Level)).map fun e => str e.1
    | .help (some w) => some (monDev fun d => match monTable.find? fun e => str e.1 == w with
      | some e => (d.data (str e.2.2), some 0)
      | none => (d, some 2))
    | _ => none

/-- MON_VER. -/
def execMonVer (s : State) : Host.Outcome State Fault Refusal :=
  nextC s fun c => c.monitor fun
    | .ver => monPrint fun d =>
      [str "rom " ++ verText Config.romVersion.toNat, str "monitor " ++ verText (d.get BOOT.FW_VER.Monitor),
       str "firmware " ++ verText (d.get BOOT.MGMT_VER.Firmware)] ++
      (List.range 16).map fun k => str "ucs" ++ dec k ++ str " " ++ hexText 4 (d.get UCS.VERSION.Version k)
    | _ => none

/-- MON_ID. -/
def execMonId (s : State) : Host.Outcome State Fault Refusal :=
  nextC s fun c => c.monitor fun
    | .ident => monPrint fun d =>
      [str "serial " ++ hexGroups 4 Config.serial.toNat, str "key " ++ hexBytes (sha384 (brainpool.pub Config.identityKey)),
       str "boot " ++ dec d.mram.boot, str "ledger " ++ dec (d.get SDL.KEY_SERIAL.Serial)]
    | _ => none

/-- MON_DAWN. -/
def execMonDawn (s : State) : Host.Outcome State Fault Refusal :=
  nextC s fun c => c.monitor fun
    | .dawn => monPrint fun d =>
      let flag := fun (n : String) (f : Fld) => str n ++ str " " ++ dec (d.get f)
      [flag "stage" BOOT.STAT.Stage, flag "fault" BOOT.STAT.Fault, flag "info" BOOT.STAT.FaultInfo,
       flag "customer-fail" BOOT.STAT.CustomerFail, flag "boot-counter-fail" BOOT.STAT.BootCounterFail,
       flag "lane-fail" BOOT.STAT.LaneFail, flag "flash-copy" BOOT.STAT.FlashCopy, flag "recovery" BOOT.STAT.Recovery] ++
      (List.range 6).map (fun k => str "stage " ++ dec (k + 1) ++ str " " ++ dec (d.get BOOT.STAGE_US.Us 0 k)) ++
      [str "dir " ++ hexText 2 (d.get BOOT.DIR_USED.Entries)]
    | _ => none

/-- A signed number in decimal. -/
def decInt (i : Int) : List Byte := if i < 0 then str "-" ++ dec i.natAbs else dec i.natAbs

/-- MON_TEMP: the die junction in units of 0.25 °C, the stacks in °C. -/
def execMonTemp (s : State) : Host.Outcome State Fault Refusal :=
  nextC s fun c => c.monitor fun
    | .temp => monPrint fun d =>
      [str "die " ++ decInt (sint 10 (d.get TMP.DIE_MAX.DieMax))] ++
      (List.range 6).map fun k => str "hbm" ++ dec k ++ str " " ++ decInt (sint 8 (d.get HBC.TEMP_STAT.Case k)) ++ str " " ++
        dec (d.get HBC.TEMP_STAT.Hot k) ++ str " " ++ dec (d.get HBC.TEMP_STAT.Derate k)
    | _ => none

/-- MON_PORT: State, Link and speed in Gb/s. A lane that begins no port is out of range. -/
def execMonPort (s : State) : Host.Outcome State Fault Refusal :=
  let line := fun (d : Dev) (p : Nat) => str "port " ++ dec p ++ str " " ++ dec (d.port p).state ++ str " " ++
    dec (b2n (d.port p).link) ++ str " " ++ dec (d.speed p)
  nextC s fun c => c.monitor fun
    | .port none => monPrint fun d => ((List.range 128).filter fun p => (d.portMode p).1 != 0).map (line d)
    | .port (some p) => some (monDev fun d => if (d.portMode p).1 = 0 then (d, some 1) else (d.data (line d p), some 0))
    | _ => none

/-- MON_LOG. -/
def execMonLog (s : State) : Host.Outcome State Fault Refusal :=
  nextC s fun c => c.monitor fun
    | .log n => monPrint fun d => (d.err.log.drop (d.err.log.length - n)).map fun e => hexBytes e.bytes
    | _ => none

/-- MON_CERT: a certificate, or LEDGER_CERT of serial n − 2, 32 bytes a line. -/
def execMonCert (s : State) : Host.Outcome State Fault Refusal :=
  nextC s fun c => c.monitor fun
    | .cert n => some (monDev fun d =>
      match if n ≤ 2 then some (d.cert n) else Tab.find d.mram.ledgerCerts (n - 2) with
      | none => (d, some 1)
      | some b => ((chunks 32 b).foldl (fun d l => d.data (hexBytes l)) d, some 0))
    | _ => none

/-- MON_MRAM. -/
def execMonMram (s : State) : Host.Outcome State Fault Refusal :=
  nextC s fun c => c.monitor fun
    | .mram => monPrint fun d =>
      [str "boot " ++ dec d.mram.boot, str "anchor " ++ dec (d.get SDL.ANCHOR_SEQ.Seq), str "certs " ++ dec d.mram.ledgerCerts.length] ++
      (List.range 8).map (fun k => str "slot " ++ dec k ++ str " " ++ match Tab.find d.mram.images k with
        | some f => verText (le f 8 4)
        | none => str "empty") ++
      [str "floor vendor " ++ dec d.mram.vendorFloor, str "floor customer " ++ dec d.mram.custFloor, str "floor fw " ++ dec d.mram.fwFloor]
    | _ => none

/-- MON_LOGOUT. -/
def execMonLogout (s : State) : Host.Outcome State Fault Refusal :=
  nextC s fun c => c.monitor fun
    | .logout => some (monDev fun d => (d.set MON.STAT.Level 0, some 0))
    | _ => none

/-- MON_UNLOCK: DBG_NONCE, or a token submitted (R522). -/
def execMonUnlock (s : State) : Host.Outcome State Fault Refusal :=
  nextC s fun c => c.monitor fun
    | .unlock none => monPrint fun d => [hexText 4 (d.get SEC.DBG_NONCE.Nonce)]
    | .unlock (some t) => some (monDev fun d =>
      let (d, why) := d.unlock t
      if why = 0 then (d.data (str "scope " ++ dec (le t 6 2)), some 0) else (d, some 6))
    | _ => none

/-! ### Logins (R525) -/

/-- Whether logins are refused for now. -/
def Dev.lockedOut (d : Dev) : Bool := match d.mon.lockTo with
  | some t => decide (d.cyc < t)
  | none => false

/-- PassHash of the configuration in force. -/
def Dev.passHash (d : Dev) : List Byte := sliceB d.boot.pcfg 32 48

/-- A password is checked: the level rises, or the failure counts; the third in a row locks logins for 60 s, and each further one
doubles the wait up to 3,600 s. -/
def Dev.password (d : Dev) (level : Nat) (pw : List Byte) : Dev :=
  if sha384 (sliceB d.boot.pcfg 16 16 ++ pw) = d.passHash then
    let d := { d with mon := { d.mon with fails := 0, wait := 0, lockTo := none } }
    (d.set MON.STAT.Level (max level (d.get MON.STAT.Level))).monEnd 0
  else
    let n := d.mon.fails + 1
    let w := if n < 3 then 0 else if n = 3 then 60 else min 3600 (2 * d.mon.wait)
    let d := { d with mon := { d.mon with fails := n, wait := w, lockTo := if n < 3 then none else some (d.cyc + w * secCyc) } }
    ((d.bump MON.LOGIN_FAIL.Count).count .mon 0 0x231).monEnd 4

/-- MON_LOGIN: a login prompts for the password, or is refused; the line after the prompt is the password. -/
def execMonLogin (s : State) : Host.Outcome State Fault Refusal :=
  nextC s fun c =>
    match c.dev.mon.ready with
    | some pw =>
      if c.dev.monRuns && (c.dev.mon.ask == 1 || c.dev.mon.ask == 2) then c.upd (·.password c.dev.mon.ask pw)
      else c.monitor fun
        | .login debug => some (monDev fun d =>
          if debug ∧ d.get MON.STAT.Level = 0 then (d, some 3)
          else if (debug ∧ !bit (d.get SEC.DBG_STAT.Scope) 2) ∨ ofLE d.passHash = 0 ∨ d.lockedOut then (d, some 4)
          else
            (({ d with mon := { d.mon with ready := none, ask := if debug then 2 else 1 } }).emit (.uart (str "password:")), none))
        | _ => none
    | none => c

/-! ### Operate -/

/-- Words from BAR0 with PF0's permissions (R528), a line each; a word the fabric refuses ends the command. -/
def Dev.monRead : Nat → Nat → Dev → Dev × Option Nat
  | 0, _, d => (d, some 0)
  | n + 1, a, d =>
    let ok := match locate a with
      | none => false
      | some (b, i, off) => known b off && (decide (off < 0x200) || d.live b i)
    let (d, v) := d.read0 128 a
    if !ok then (d, some 6) else Dev.monRead n (a + 4) (d.data (hexText 2 a ++ str " " ++ hexText 2 v))

/-- MON_RD. -/
def execMonRd (s : State) : Host.Outcome State Fault Refusal :=
  nextC s fun c => c.monitor fun
    | .rd a n => some (monDev (Dev.monRead n a))
    | _ => none

/-- MON_WR. `host` is what host memory or HBM returns should the write start a fetch. -/
def execMonWr (host : Option (List Byte)) (s : State) : Host.Outcome State Fault Refusal :=
  nextC s fun c => c.monitor fun
    | .wr a v => some fun c =>
      let ok := match locate a with
        | none => false
        | some (b, i, off) => known b off && (decide (off < 0x200) || c.dev.live b i) && c.dev.mayWrite 128 b i off
      (c.write0 128 a v host, some (if ok then 0 else 6))
    | _ => none

/-- MON_FENCE: FENCE of the run that holds the address. -/
def execMonFence (s : State) : Host.Outcome State Fault Refusal :=
  nextC s fun c => c.monitor fun
    | .fence a => some (monDev fun d => match locate a with
      | none => (d.miss, some 6)
      | some (b, i, _) =>
        let (d, v) := d.fence b i
        (d.data (str "seq " ++ dec (v % 65536) ++ str " stall " ++ dec (v / 2 ^ 31)), some 0))
    | _ => none

/-- The record in force with another MonBaud, as a commit takes it (R521). -/
def baudRecord (r : List Byte) (k : Nat) : List Byte :=
  putB (putB (sliceB r 0 256) 0 [0x4B, 0x58, 0x50, 0x43, 1, 0]) 14 [BitVec.ofNat 8 k]

/-- MON_BAUD: the rate changes after the `OK` line; with `save`, MonBaud is committed too, where SEC takes the write. -/
def execMonBaud (s : State) : Host.Outcome State Fault Refusal :=
  nextC s fun c => c.monitor fun
    | .baud r save => some (monDev fun d =>
      let k := baudRates.idxOf r
      if save && (d.boot.commit.isSome || !d.mramOpen 1) then (d.pcfgCommit (baudRecord d.mram.pcfg k), some 7)
      else
        let d := if save then d.pcfgCommit (baudRecord d.mram.pcfg k) else d
        let d := d.monEnd 0
        ({ d with mon := { d.mon with baud := k } }, none))
    | _ => none

/-- MON_FLOOR: `floor fw`; busy while SEC may not write yet (R520). -/
def execMonFloor (s : State) : Host.Outcome State Fault Refusal :=
  nextC s fun c => c.monitor fun
    | .floor => some fun c =>
      let d := c.dev
      let rises := decide (d.mram.fwFloor < min (d.get BOOT.SECVER.Monitor) (d.get BOOT.SECVER.Firmware))
      (Chip.run (execFloorRaise 128) c, some (if rises && !d.mramOpen 0 then 7 else 0))
    | _ => none

/-- MON_RESET_DP: `reset dp` starts a datapath soft reset; its end answers `OK` (DPR_DONE). A second such event while it waits is the end
of its 1 ms limit. -/
def execMonResetDp (s : State) : Host.Outcome State Fault Refusal :=
  nextC s fun c => match c.dev.mon.dp with
    | some t => c.upd fun d => (d.until (t + msCyc)).monEnd 8
    | none => c.monitor fun
      | .resetDp => some fun c =>
        if c.dev.glb.dpr ≠ .idle then (c, some 7)
        else
          let c := c.upd fun d => { d with mon := { d.mon with ready := none, dp := some d.cyc } }
          (Chip.run (execDprGo 128 (1 + 2 * c.dev.get GLB.DPR_CTL.Hold) []) c, none)
      | _ => none

/-- MON_RESET_CHIP: `reset chip` asks for confirmation; the line `y` then applies a cold reset (R25), any other leaves it. -/
def execMonResetChip (s : State) : Host.Outcome State Fault Refusal :=
  nextC s fun c =>
    match c.dev.mon.ready with
    | some l =>
      if c.dev.monRuns && c.dev.mon.ask == 3 then if l.map lower = str "y" then c.cold false else c.upd (·.monEnd 0)
      else c.monitor fun
        | .resetChip => some (monDev fun d =>
          (({ d with mon := { d.mon with ready := none, ask := 3 } }).emit (.uart (str "confirm (y/n)")), none))
        | _ => none
    | none => c

/-! ### Debug -/

/-- MON_CORE_HALT. -/
def execMonCoreHalt (s : State) : Host.Outcome State Fault Refusal :=
  nextC s fun c => c.monitor fun
    | .coreHalt k => some (monDev fun d =>
      ({ d with mon := { d.mon with halted := if d.mon.halted.contains k then d.mon.halted else d.mon.halted ++ [k] } }, some 0))
    | _ => none

/-- MON_CORE_RESUME. -/
def execMonCoreResume (s : State) : Host.Outcome State Fault Refusal :=
  nextC s fun c => c.monitor fun
    | .coreResume k => some (monDev fun d => ({ d with mon := { d.mon with halted := d.mon.halted.filter (· != k) } }, some 0))
    | _ => none

/-- MON_CORE_RD: a word of a core's SRAM, a free value: the firmware that runs there is not part of the manual. -/
def execMonCoreRd (s : State) : Host.Outcome State Fault Refusal :=
  nextC s fun c => c.monitor fun
    | .coreRd k a => some (monDev fun d =>
      let v := (Config.sramWord k a d.free).toNat
      (({ d with free := d.free + 1 }).data (hexText 2 a ++ str " " ++ hexText 2 v), some 0))
    | _ => none

/-- MON_HBM_READ: 32-bit words of the general region (R102). -/
def execMonHbmRead (s : State) : Host.Outcome State Fault Refusal :=
  nextC s fun c => c.monitor fun
    | .hbm p o n => some fun c =>
      let lo := generalBase (c.dev.get FTB.GEOM_STAT.MaxLog2)
      if o < lo ∨ generalEnd < o + 4 * n ∨ !c.dev.live .hbc (p / 64) then (c, some 6)
      else if !c.dev.pathMoves then (c, some 7)
      else
        let words := (List.range n).map fun k => hexText 2 (o + 4 * k) ++ str " " ++ hexText 2 (ofLE (Mem.readN c.hbm (hbmAddr p (o + 4 * k)) 4))
        (c.upd fun d => words.foldl Dev.data d, some 0)
    | _ => none

end Sys2Proof.Machine
end

