-- ==== Sys2Proof/Machine/Dispatch.lean ====
section
/-! DEFINITION. The dispatch of a command to its meaning: one arm per constructor of `Instr`. -/

namespace Sys2Proof.Machine

def exec (i : Instr) (s : State) : Host.Outcome State Fault Refusal :=
  match i with
  | .registerWrite fn bar addr data host => Sys2Proof.Machine.execRegisterWrite fn bar addr data host s
  | .fenceRead fn page => Sys2Proof.Machine.execFenceRead fn page s
  | .blockReset fn page => Sys2Proof.Machine.execBlockReset fn page s
  | .quiesceReq fn page on => Sys2Proof.Machine.execQuiesceReq fn page on s
  | .quiesced page => Sys2Proof.Machine.execQuiesced page s
  | .irqStatusWrite fn page data => Sys2Proof.Machine.execIrqStatusWrite fn page data s
  | .irqEnableWrite fn page data => Sys2Proof.Machine.execIrqEnableWrite fn page data s
  | .irqForceWrite fn page data => Sys2Proof.Machine.execIrqForceWrite fn page data s
  | .msixUnmask fn vector => Sys2Proof.Machine.execMsixUnmask fn vector s
  | .errInjArm fn page det continuous => Sys2Proof.Machine.execErrInjArm fn page det continuous s
  | .ownerWrite fn page owner => Sys2Proof.Machine.execOwnerWrite fn page owner s
  | .routeDataWrite fn data => Sys2Proof.Machine.execRouteDataWrite fn data s
  | .counterLowRead fn page k wide => Sys2Proof.Machine.execCounterLowRead fn page k wide s
  | .counterValueWrite fn page k data => Sys2Proof.Machine.execCounterValueWrite fn page k data s
  | .commitGo fn => Sys2Proof.Machine.execCommitGo fn s
  | .commitArm fn => Sys2Proof.Machine.execCommitArm fn s
  | .commitCancel fn => Sys2Proof.Machine.execCommitCancel fn s
  | .commitDiscard fn => Sys2Proof.Machine.execCommitDiscard fn s
  | .commitCtlMultiBit fn => Sys2Proof.Machine.execCommitCtlMultiBit fn s
  | .commitAct => Sys2Proof.Machine.execCommitAct s
  | .generationRetire => Sys2Proof.Machine.execGenerationRetire s
  | .ingressAccept port lane late frame => Sys2Proof.Machine.execIngressAccept port lane late frame s
  | .cellArrival pid => Sys2Proof.Machine.execCellArrival pid s
  | .frameEnd pid fcs => Sys2Proof.Machine.execFrameEnd pid fcs s
  | .ruuRequestEnter ruu => Sys2Proof.Machine.execRuuRequestEnter ruu s
  | .ruuService ruu => Sys2Proof.Machine.execRuuService ruu s
  | .ruuServiceResume ruu err => Sys2Proof.Machine.execRuuServiceResume ruu err s
  | .memoryRequest home target => Sys2Proof.Machine.execMemoryRequest home target s
  | .memoryRequestDone home target => Sys2Proof.Machine.execMemoryRequestDone home target s
  | .wayTimeout ruu => Sys2Proof.Machine.execWayTimeout ruu s
  | .pinUpdate ruu => Sys2Proof.Machine.execPinUpdate ruu s
  | .youngExpire ruu => Sys2Proof.Machine.execYoungExpire ruu s
  | .rccModeWrite fn ruu mode => Sys2Proof.Machine.execRccModeWrite fn ruu mode s
  | .rccFlush fn ruu => Sys2Proof.Machine.execRccFlush fn ruu s
  | .rccFlushDone ruu => Sys2Proof.Machine.execRccFlushDone ruu s
  | .tplCmdWrite fn ruu => Sys2Proof.Machine.execTplCmdWrite fn ruu s
  | .tplCmdRead fn ruu => Sys2Proof.Machine.execTplCmdRead fn ruu s
  | .tplCmdReadStaged fn ruu => Sys2Proof.Machine.execTplCmdReadStaged fn ruu s
  | .mpfCmdWrite fn ruu => Sys2Proof.Machine.execMpfCmdWrite fn ruu s
  | .mpfCmdRead fn ruu => Sys2Proof.Machine.execMpfCmdRead fn ruu s
  | .mpfCmdReadStaged fn ruu => Sys2Proof.Machine.execMpfCmdReadStaged fn ruu s
  | .poisonClear fn ruu => Sys2Proof.Machine.execPoisonClear fn ruu s
  | .actionMerge pid => Sys2Proof.Machine.execActionMerge pid s
  | .nat64AnnexRead pid err => Sys2Proof.Machine.execNat64AnnexRead pid err s
  | .secondPass pid bank => Sys2Proof.Machine.execSecondPass pid bank s
  | .aclRepair bank => Sys2Proof.Machine.execAclRepair bank s
  | .aclScrub bank => Sys2Proof.Machine.execAclScrub bank s
  | .learnRequest => Sys2Proof.Machine.execLearnRequest s
  | .l2AgerVisit slot => Sys2Proof.Machine.execL2AgerVisit slot s
  | .rillArrival pid slice => Sys2Proof.Machine.execRillArrival pid slice s
  | .gapTimeout slice => Sys2Proof.Machine.execGapTimeout slice s
  | .numberVoid => Sys2Proof.Machine.execNumberVoid s
  | .copyEnqueue pid port => Sys2Proof.Machine.execCopyEnqueue pid port s
  | .headEvaluation grp => Sys2Proof.Machine.execHeadEvaluation grp s
  | .wheelTick slice => Sys2Proof.Machine.execWheelTick slice s
  | .wheelReplace slice => Sys2Proof.Machine.execWheelReplace slice s
  | .shaperIdleVisit grp => Sys2Proof.Machine.execShaperIdleVisit grp s
  | .portSelect port lane => Sys2Proof.Machine.execPortSelect port lane s
  | .copyTxEnd port => Sys2Proof.Machine.execCopyTxEnd port s
  | .pauseReceive port pfc enables times => Sys2Proof.Machine.execPauseReceive port pfc enables times s
  | .pauseExpire port => Sys2Proof.Machine.execPauseExpire port s
  | .portCtlWrite fn mac port data => Sys2Proof.Machine.execPortCtlWrite fn mac port data s
  | .linkDown port => Sys2Proof.Machine.execLinkDown port s
  | .linkUp port => Sys2Proof.Machine.execLinkUp port s
  | .downholdExpire port => Sys2Proof.Machine.execDownholdExpire port s
  | .duskFlushDone port => Sys2Proof.Machine.execDuskFlushDone port s
  | .mcgCmdWrite fn => Sys2Proof.Machine.execMcgCmdWrite fn s
  | .mcgCmdRead fn => Sys2Proof.Machine.execMcgCmdRead fn s
  | .admCmdWrite fn => Sys2Proof.Machine.execAdmCmdWrite fn s
  | .admCmdRead fn => Sys2Proof.Machine.execAdmCmdRead fn s
  | .ftbInsert fn => Sys2Proof.Machine.execFtbInsert fn s
  | .ftbReplace fn => Sys2Proof.Machine.execFtbReplace fn s
  | .ftbLookup fn => Sys2Proof.Machine.execFtbLookup fn s
  | .ftbDelete fn => Sys2Proof.Machine.execFtbDelete fn s
  | .ftbReadloc fn => Sys2Proof.Machine.execFtbReadloc fn s
  | .ftbDeleteloc fn => Sys2Proof.Machine.execFtbDeleteloc fn s
  | .ftbReadannex fn err => Sys2Proof.Machine.execFtbReadannex fn err s
  | .ftbSetgeom fn => Sys2Proof.Machine.execFtbSetgeom fn s
  | .ftbResize fn => Sys2Proof.Machine.execFtbResize fn s
  | .ftbRekey fn => Sys2Proof.Machine.execFtbRekey fn s
  | .ftbCmdDone => Sys2Proof.Machine.execFtbCmdDone s
  | .clearDone => Sys2Proof.Machine.execClearDone s
  | .resizeclearDone => Sys2Proof.Machine.execResizeclearDone s
  | .migrationStep ruu => Sys2Proof.Machine.execMigrationStep ruu s
  | .moveDone => Sys2Proof.Machine.execMoveDone s
  | .sweepStep ruu => Sys2Proof.Machine.execSweepStep ruu s
  | .stockRefill ruu => Sys2Proof.Machine.execStockRefill ruu s
  | .stockReturn ruu => Sys2Proof.Machine.execStockReturn ruu s
  | .rebirthExpire ruu => Sys2Proof.Machine.execRebirthExpire ruu s
  | .recordClockTick => Sys2Proof.Machine.execRecordClockTick s
  | .meterClockTick => Sys2Proof.Machine.execMeterClockTick s
  | .rclkRead fn => Sys2Proof.Machine.execRclkRead fn s
  | .exportStart fn => Sys2Proof.Machine.execExportStart fn s
  | .exportStop fn => Sys2Proof.Machine.execExportStop fn s
  | .exportRead ruu => Sys2Proof.Machine.execExportRead ruu s
  | .fscEntryArrive pid => Sys2Proof.Machine.execFscEntryArrive pid s
  | .fscDispatch => Sys2Proof.Machine.execFscDispatch s
  | .entryExpire level => Sys2Proof.Machine.execEntryExpire level s
  | .hostCmdSubmit => Sys2Proof.Machine.execHostCmdSubmit s
  | .microwordIssue cluster thread => Sys2Proof.Machine.execMicrowordIssue cluster thread s
  | .recRead cluster thread => Sys2Proof.Machine.execRecRead cluster thread s
  | .recOps cluster thread => Sys2Proof.Machine.execRecOps cluster thread s
  | .recWrite cluster thread => Sys2Proof.Machine.execRecWrite cluster thread s
  | .recInsert cluster thread => Sys2Proof.Machine.execRecInsert cluster thread s
  | .recDelete cluster thread => Sys2Proof.Machine.execRecDelete cluster thread s
  | .routineLookup cluster thread => Sys2Proof.Machine.execRoutineLookup cluster thread s
  | .genRead cluster thread => Sys2Proof.Machine.execGenRead cluster thread s
  | .genWrite cluster thread => Sys2Proof.Machine.execGenWrite cluster thread s
  | .eventPostReq cluster thread => Sys2Proof.Machine.execEventPostReq cluster thread s
  | .forward cluster thread => Sys2Proof.Machine.execForward cluster thread s
  | .drop cluster thread => Sys2Proof.Machine.execDrop cluster thread s
  | .reply cluster thread => Sys2Proof.Machine.execReply cluster thread s
  | .fenceReq cluster thread => Sys2Proof.Machine.execFenceReq cluster thread s
  | .resultArrive err => Sys2Proof.Machine.execResultArrive err s
  | .seal cluster thread => Sys2Proof.Machine.execSeal cluster thread s
  | .sealAdmitted cluster thread => Sys2Proof.Machine.execSealAdmitted cluster thread s
  | .runlimitExpire cluster thread => Sys2Proof.Machine.execRunlimitExpire cluster thread s
  | .kill fn cluster thread => Sys2Proof.Machine.execKill fn cluster thread s
  | .ucsLoad fn image err => Sys2Proof.Machine.execUcsLoad fn image err s
  | .ucsClone fn => Sys2Proof.Machine.execUcsClone fn s
  | .ucsEnrol fn record err => Sys2Proof.Machine.execUcsEnrol fn record err s
  | .loadDone bad => Sys2Proof.Machine.execLoadDone bad s
  | .swap fn cluster => Sys2Proof.Machine.execSwap fn cluster s
  | .swapDrainDone cluster => Sys2Proof.Machine.execSwapDrainDone cluster s
  | .trialRollback cluster => Sys2Proof.Machine.execTrialRollback cluster s
  | .trialExpire cluster => Sys2Proof.Machine.execTrialExpire cluster s
  | .confirm fn cluster raise => Sys2Proof.Machine.execConfirm fn cluster raise s
  | .ucsPoisonClr fn cluster => Sys2Proof.Machine.execUcsPoisonClr fn cluster s
  | .ucsRead fn cluster => Sys2Proof.Machine.execUcsRead fn cluster s
  | .ucsScrub cluster outcome => Sys2Proof.Machine.execUcsScrub cluster outcome s
  | .routeAdd fn => Sys2Proof.Machine.execRouteAdd fn s
  | .routeDelete fn => Sys2Proof.Machine.execRouteDelete fn s
  | .routeRead fn => Sys2Proof.Machine.execRouteRead fn s
  | .nhWrite fn => Sys2Proof.Machine.execNhWrite fn s
  | .nhRead fn => Sys2Proof.Machine.execNhRead fn s
  | .smacWrite fn k data => Sys2Proof.Machine.execSmacWrite fn k data s
  | .l2Add fn => Sys2Proof.Machine.execL2Add fn s
  | .l2Delete fn => Sys2Proof.Machine.execL2Delete fn s
  | .l2Read fn => Sys2Proof.Machine.execL2Read fn s
  | .vlanWrite fn => Sys2Proof.Machine.execVlanWrite fn s
  | .vlanRead fn => Sys2Proof.Machine.execVlanRead fn s
  | .grpWrite fn => Sys2Proof.Machine.execGrpWrite fn s
  | .grpRead fn => Sys2Proof.Machine.execGrpRead fn s
  | .rebuild fn => Sys2Proof.Machine.execRebuild fn s
  | .rebuildDone => Sys2Proof.Machine.execRebuildDone s
  | .slotWrite fn => Sys2Proof.Machine.execSlotWrite fn s
  | .slotRead fn => Sys2Proof.Machine.execSlotRead fn s
  | .natAddrWrite fn => Sys2Proof.Machine.execNatAddrWrite fn s
  | .natAddrRead fn => Sys2Proof.Machine.execNatAddrRead fn s
  | .natPfxWrite fn => Sys2Proof.Machine.execNatPfxWrite fn s
  | .natPfxRead fn => Sys2Proof.Machine.execNatPfxRead fn s
  | .natMapWrite fn => Sys2Proof.Machine.execNatMapWrite fn s
  | .natMapRead fn => Sys2Proof.Machine.execNatMapRead fn s
  | .natMapWriteback => Sys2Proof.Machine.execNatMapWriteback s
  | .shwStart fn => Sys2Proof.Machine.execShwStart fn s
  | .shwStop fn => Sys2Proof.Machine.execShwStop fn s
  | .shwDump fn => Sys2Proof.Machine.execShwDump fn s
  | .shadowCheck entry err => Sys2Proof.Machine.execShadowCheck entry err s
  | .aclEntWrite fn bank => Sys2Proof.Machine.execAclEntWrite fn bank s
  | .aclEntDelete fn bank => Sys2Proof.Machine.execAclEntDelete fn bank s
  | .aclEntRead fn bank clear => Sys2Proof.Machine.execAclEntRead fn bank clear s
  | .aclEntDeferred bank => Sys2Proof.Machine.execAclEntDeferred bank s
  | .egsQcmdStage fn slice => Sys2Proof.Machine.execEgsQcmdStage fn slice s
  | .egsQcmdLoad fn slice => Sys2Proof.Machine.execEgsQcmdLoad fn slice s
  | .egsGrpStage fn slice => Sys2Proof.Machine.execEgsGrpStage fn slice s
  | .egsGrpLoad fn slice => Sys2Proof.Machine.execEgsGrpLoad fn slice s
  | .egsGrpState fn slice => Sys2Proof.Machine.execEgsGrpState fn slice s
  | .mtrStage fn => Sys2Proof.Machine.execMtrStage fn s
  | .mtrLoad fn => Sys2Proof.Machine.execMtrLoad fn s
  | .mtrStateLoad fn clear => Sys2Proof.Machine.execMtrStateLoad fn clear s
  | .mtrRefill => Sys2Proof.Machine.execMtrRefill s
  | .hbmCommandIssue pc => Sys2Proof.Machine.execHbmCommandIssue pc s
  | .hbmReadReturn pc outcome => Sys2Proof.Machine.execHbmReadReturn pc outcome s
  | .hbmWriteAccept pc port addr mask data => Sys2Proof.Machine.execHbmWriteAccept pc port addr mask data s
  | .commandRetry pc crc => Sys2Proof.Machine.execCommandRetry pc crc s
  | .readReturnTimeout pc => Sys2Proof.Machine.execReadReturnTimeout pc s
  | .capWindowEnd stack => Sys2Proof.Machine.execCapWindowEnd stack s
  | .refreshWindow pc est => Sys2Proof.Machine.execRefreshWindow pc est s
  | .hbmTempRead stack reading => Sys2Proof.Machine.execHbmTempRead stack reading s
  | .hbmScrub stack outcome => Sys2Proof.Machine.execHbmScrub stack outcome s
  | .freqChange fn data => Sys2Proof.Machine.execFreqChange fn data s
  | .freqHoldEnd => Sys2Proof.Machine.execFreqHoldEnd s
  | .mapCfgWrite fn inst data => Sys2Proof.Machine.execMapCfgWrite fn inst data s
  | .timeSet fn andStep => Sys2Proof.Machine.execTimeSet fn andStep s
  | .timeStep fn => Sys2Proof.Machine.execTimeStep fn s
  | .incrWrite fn whole data => Sys2Proof.Machine.execIncrWrite fn whole data s
  | .timeRead fn => Sys2Proof.Machine.execTimeRead fn s
  | .ppsOutPulse => Sys2Proof.Machine.execPpsOutPulse s
  | .ppsInEdge falling => Sys2Proof.Machine.execPpsInEdge falling s
  | .tenMhzMeasure => Sys2Proof.Machine.execTenMhzMeasure s
  | .calMeasurement lane transmit sum => Sys2Proof.Machine.execCalMeasurement lane transmit sum s
  | .streamEnable fn stream data => Sys2Proof.Machine.execStreamEnable fn stream data s
  | .streamDisable fn stream data => Sys2Proof.Machine.execStreamDisable fn stream data s
  | .ledgerChain stream => Sys2Proof.Machine.execLedgerChain stream s
  | .epochClose stream => Sys2Proof.Machine.execEpochClose stream s
  | .sealSigned stream => Sys2Proof.Machine.execSealSigned stream s
  | .gapEntry stream => Sys2Proof.Machine.execGapEntry stream s
  | .stagingDeliver stream => Sys2Proof.Machine.execStagingDeliver stream s
  | .anchorPeriodic => Sys2Proof.Machine.execAnchorPeriodic s
  | .anchorNow fn => Sys2Proof.Machine.execAnchorNow fn s
  | .rotationGo fn => Sys2Proof.Machine.execRotationGo fn s
  | .rotationKeyReady => Sys2Proof.Machine.execRotationKeyReady s
  | .rotationDone => Sys2Proof.Machine.execRotationDone s
  | .pcieLinkReset => Sys2Proof.Machine.execPcieLinkReset s
  | .pcieLinkUp rate width => Sys2Proof.Machine.execPcieLinkUp rate width s
  | .vfEnableSet n => Sys2Proof.Machine.execVfEnableSet n s
  | .vfEnableClear => Sys2Proof.Machine.execVfEnableClear s
  | .vfChangeDone => Sys2Proof.Machine.execVfChangeDone s
  | .powerStateChange fn d3 => Sys2Proof.Machine.execPowerStateChange fn d3 s
  | .flr fn => Sys2Proof.Machine.execFlr fn s
  | .flrDone fn => Sys2Proof.Machine.execFlrDone fn s
  | .toPfDoorbell fn window data => Sys2Proof.Machine.execToPfDoorbell fn window data s
  | .fromPfDoorbell fn window data => Sys2Proof.Machine.execFromPfDoorbell fn window data s
  | .mbxPendWrite fn j data => Sys2Proof.Machine.execMbxPendWrite fn j data s
  | .getVersion => Sys2Proof.Machine.execGetVersion s
  | .getCapabilities ct flags dts maxSize => Sys2Proof.Machine.execGetCapabilities ct flags dts maxSize s
  | .negotiateAlgorithms n req => Sys2Proof.Machine.execNegotiateAlgorithms n req s
  | .getDigests => Sys2Proof.Machine.execGetDigests s
  | .getCertificate slot offset length => Sys2Proof.Machine.execGetCertificate slot offset length s
  | .challenge slot summary nonce => Sys2Proof.Machine.execChallenge slot summary nonce s
  | .getMeasurements attr op nonce slot => Sys2Proof.Machine.execGetMeasurements attr op nonce slot s
  | .spdmUnsupported code => Sys2Proof.Machine.execSpdmUnsupported code s
  | .doeAbort => Sys2Proof.Machine.execDoeAbort s
  | .bindWrite fn chan data => Sys2Proof.Machine.execBindWrite fn chan data s
  | .stgCfgWrite fn data => Sys2Proof.Machine.execStgCfgWrite fn data s
  | .dmaDoorbell fn window chan add => Sys2Proof.Machine.execDmaDoorbell fn window chan add s
  | .dmaRunSet fn chan => Sys2Proof.Machine.execDmaRunSet fn chan s
  | .dmaRunClear fn chan => Sys2Proof.Machine.execDmaRunClear fn chan s
  | .dmaStopped chan => Sys2Proof.Machine.execDmaStopped chan s
  | .dmaResume fn chan run => Sys2Proof.Machine.execDmaResume fn chan run s
  | .dmaHeadWrite fn chan addr => Sys2Proof.Machine.execDmaHeadWrite fn chan addr s
  | .descriptorFetch chan => Sys2Proof.Machine.execDescriptorFetch chan s
  | .burstStart chan => Sys2Proof.Machine.execBurstStart chan s
  | .flushusExpire chan => Sys2Proof.Machine.execFlushusExpire chan s
  | .burstEnd chan => Sys2Proof.Machine.execBurstEnd chan s
  | .pcieCompletion chan idx status ep data => Sys2Proof.Machine.execPcieCompletion chan idx status ep data s
  | .completionTimeout chan idx => Sys2Proof.Machine.execCompletionTimeout chan idx s
  | .descriptorComplete chan => Sys2Proof.Machine.execDescriptorComplete chan s
  | .flushReadDone chan => Sys2Proof.Machine.execFlushReadDone chan s
  | .txFrameEnter port => Sys2Proof.Machine.execTxFrameEnter port s
  | .submitRetry chan => Sys2Proof.Machine.execSubmitRetry chan s
  | .cisternAllocate cores chan => Sys2Proof.Machine.execCisternAllocate cores chan s
  | .cisternFree tag handle => Sys2Proof.Machine.execCisternFree tag handle s
  | .cisternAddref tag handle => Sys2Proof.Machine.execCisternAddref tag handle s
  | .cisternHandoff tag handle dest data => Sys2Proof.Machine.execCisternHandoff tag handle dest data s
  | .freeCmd fn handle => Sys2Proof.Machine.execFreeCmd fn handle s
  | .reclaim fn owner => Sys2Proof.Machine.execReclaim fn owner s
  | .deliverSend core f handle data => Sys2Proof.Machine.execDeliverSend core f handle data s
  | .eventPost page typ queue items => Sys2Proof.Machine.execEventPost page typ queue items s
  | .postComplete queue seq payload => Sys2Proof.Machine.execPostComplete queue seq payload s
  | .staleVoid queue => Sys2Proof.Machine.execStaleVoid queue s
  | .notifyTimeout queue => Sys2Proof.Machine.execNotifyTimeout queue s
  | .item0Read fn queue len => Sys2Proof.Machine.execItem0Read fn queue len s
  | .evqDoorbell fn window queue seq => Sys2Proof.Machine.execEvqDoorbell fn window queue seq s
  | .nextRead fn queue => Sys2Proof.Machine.execNextRead fn queue s
  | .dropRemainder fn queue => Sys2Proof.Machine.execDropRemainder fn queue s
  | .qmemWrite fn queue data => Sys2Proof.Machine.execQmemWrite fn queue data s
  | .queueEnableWrite fn queue data => Sys2Proof.Machine.execQueueEnableWrite fn queue data s
  | .evqScrub queue idx word outcome => Sys2Proof.Machine.execEvqScrub queue idx word outcome s
  | .grantWrite fn => Sys2Proof.Machine.execGrantWrite fn s
  | .grantRead fn => Sys2Proof.Machine.execGrantRead fn s
  | .snapGo fn => Sys2Proof.Machine.execSnapGo fn s
  | .snapArm fn => Sys2Proof.Machine.execSnapArm fn s
  | .snapCancel fn => Sys2Proof.Machine.execSnapCancel fn s
  | .snapAct => Sys2Proof.Machine.execSnapAct s
  | .snapPeriodCheck => Sys2Proof.Machine.execSnapPeriodCheck s
  | .gatherDone cycles => Sys2Proof.Machine.execGatherDone cycles s
  | .snapDeliver => Sys2Proof.Machine.execSnapDeliver s
  | .bwWindowEnd => Sys2Proof.Machine.execBwWindowEnd s
  | .bwCfgWrite fn data => Sys2Proof.Machine.execBwCfgWrite fn data s
  | .bwRxBytesRead fn len => Sys2Proof.Machine.execBwRxBytesRead fn len s
  | .ipxMessageClose => Sys2Proof.Machine.execIpxMessageClose s
  | .ipxFlushExpire => Sys2Proof.Machine.execIpxFlushExpire s
  | .ipxSendTemplates fn => Sys2Proof.Machine.execIpxSendTemplates fn s
  | .ipxEnableWrite fn data => Sys2Proof.Machine.execIpxEnableWrite fn data s
  | .detectorReport page det addr unc a k => Sys2Proof.Machine.execDetectorReport page det addr unc a k s
  | .critRecordWrite => Sys2Proof.Machine.execCritRecordWrite s
  | .dprGo fn data lost => Sys2Proof.Machine.execDprGo fn data lost s
  | .dprSelfRefresh => Sys2Proof.Machine.execDprSelfRefresh s
  | .dprDone => Sys2Proof.Machine.execDprDone s
  | .dprHoldRelease fn => Sys2Proof.Machine.execDprHoldRelease fn s
  | .thermalRelease => Sys2Proof.Machine.execThermalRelease s
  | .thermtrip => Sys2Proof.Machine.execThermtrip s
  | .dieSensorRead readings failed => Sys2Proof.Machine.execDieSensorRead readings failed s
  | .vmonSample readings => Sys2Proof.Machine.execVmonSample readings s
  | .perst power => Sys2Proof.Machine.execPerst power s
  | .resetRelease rcv => Sys2Proof.Machine.execResetRelease rcv s
  | .dawnStageEnd us fault info counterFail cal lanes failed => Sys2Proof.Machine.execDawnStageEnd us fault info counterFail cal lanes failed s
  | .flashRead fn => Sys2Proof.Machine.execFlashRead fn s
  | .flashProgram fn => Sys2Proof.Machine.execFlashProgram fn s
  | .flashErase fn => Sys2Proof.Machine.execFlashErase fn s
  | .flashDone late => Sys2Proof.Machine.execFlashDone late s
  | .floorRaise fn => Sys2Proof.Machine.execFloorRaise fn s
  | .storeGo fn slot image err => Sys2Proof.Machine.execStoreGo fn slot image err s
  | .storeDone bad => Sys2Proof.Machine.execStoreDone bad s
  | .pcfgCommit fn => Sys2Proof.Machine.execPcfgCommit fn s
  | .pcfgReload fn => Sys2Proof.Machine.execPcfgReload fn s
  | .dbgSubmit fn => Sys2Proof.Machine.execDbgSubmit fn s
  | .monHelp => Sys2Proof.Machine.execMonHelp s
  | .monVer => Sys2Proof.Machine.execMonVer s
  | .monId => Sys2Proof.Machine.execMonId s
  | .monDawn => Sys2Proof.Machine.execMonDawn s
  | .monTemp => Sys2Proof.Machine.execMonTemp s
  | .monPort => Sys2Proof.Machine.execMonPort s
  | .monLog => Sys2Proof.Machine.execMonLog s
  | .monCert => Sys2Proof.Machine.execMonCert s
  | .monMram => Sys2Proof.Machine.execMonMram s
  | .monLogin => Sys2Proof.Machine.execMonLogin s
  | .monLogout => Sys2Proof.Machine.execMonLogout s
  | .monUnlock => Sys2Proof.Machine.execMonUnlock s
  | .monRd => Sys2Proof.Machine.execMonRd s
  | .monWr host => Sys2Proof.Machine.execMonWr host s
  | .monFence => Sys2Proof.Machine.execMonFence s
  | .monBaud => Sys2Proof.Machine.execMonBaud s
  | .monFloor => Sys2Proof.Machine.execMonFloor s
  | .monResetDp => Sys2Proof.Machine.execMonResetDp s
  | .monResetChip => Sys2Proof.Machine.execMonResetChip s
  | .monCoreHalt => Sys2Proof.Machine.execMonCoreHalt s
  | .monCoreResume => Sys2Proof.Machine.execMonCoreResume s
  | .monCoreRd => Sys2Proof.Machine.execMonCoreRd s
  | .monHbmRead => Sys2Proof.Machine.execMonHbmRead s
  | .monIdleTimeout => Sys2Proof.Machine.execMonIdleTimeout s
  | .registerRead fn bar addr len => Sys2Proof.Machine.execRegisterRead fn bar addr len s
  | .blockResetEnd page => Sys2Proof.Machine.execBlockResetEnd page s
  | .portReconfiguration act mac ports => Sys2Proof.Machine.execPortReconfiguration act mac ports s
  | .routeExpansionDone => Sys2Proof.Machine.execRouteExpansionDone s
  | .admRecountDone => Sys2Proof.Machine.execAdmRecountDone s
  | .fscLevelRecountDone => Sys2Proof.Machine.execFscLevelRecountDone s
  | .poolRebuildDone pool => Sys2Proof.Machine.execPoolRebuildDone pool s
  | .cpmCommandDone => Sys2Proof.Machine.execCpmCommandDone s
  | .pcfgCommitDone bad => Sys2Proof.Machine.execPcfgCommitDone bad s
  | .trngTestsPass => Sys2Proof.Machine.execTrngTestsPass s
  | .ppsOutFall => Sys2Proof.Machine.execPpsOutFall s
  | .doeDiscovery index => Sys2Proof.Machine.execDoeDiscovery index s
  | .busMasterEnableWrite fn mse bme mps mrrs ctl => Sys2Proof.Machine.execBusMasterEnableWrite fn mse bme mps mrrs ctl s
  | .monUnknownCommand => Sys2Proof.Machine.execMonUnknownCommand s
  | .monInputCharacter ch => Sys2Proof.Machine.execMonInputCharacter ch s

end Sys2Proof.Machine
end

