-- ==== Sys2Proof/Machine/Parts.lean ====
section
/-! DEFINITION. Parts of the device that statements speak of: who may write a register at once, and what every command leaves alone that
only counts, sends messages or posts. No meaning uses them. -/

namespace Sys2Proof.Machine

/-- A write by a function of a PF0-only register of an instance is let through: the function is reachable and has PF0's permissions,
and the block is released and not in reset (R35, R39, R396). -/
def Dev.opens (d : Dev) (f : Nat) (b : Blk) (i : Nat) : Bool := d.reachable f && d.live b i && isPf f

/-- A read or write by a function of a register of an assignable page is let through: PF0's permissions, or ownership (R39). -/
def Dev.opensOwn (d : Dev) (f : Nat) (b : Blk) (i : Nat) : Bool :=
  d.reachable f && d.live b i && (isPf f || d.get (HDR.OWNER.Function b) i == f)

/-- The device without its register fields, counter banks, MSI-X tables and output. -/
def Dev.beside (d : Dev) : Dev := { d with regs := [], fab := { d.fab with ctr := [], msix := [] }, out := [] }

/-- The device without what a post may change: register fields, counter banks, MSI-X tables, output and the event queues. -/
def Dev.unposted (d : Dev) : Dev := { d.beside with evq := {} }

/-- The device without what the passing of time changes: register fields, counter banks, MSI-X tables, output, the time itself and the
time of the last record clock tick. -/
def Dev.untimed (d : Dev) : Dev := { d.beside with cyc := 0, dt := 0, pmc := { d.pmc with tickTime := 0 } }

/-- What a function last read. -/
def Dev.lastRead (d : Dev) : Option Out := d.out.getLast?

/-- A thread of a cluster runs with context `x`, is not at a safe point, and its next word `w` is not poisoned, breaks no rule of R202 to
R206 by itself, waits for no result slot, and no armed injection corrupts its fetch; it is the thread that its
engine picks (R57, R174, R203, R208). -/
def Dev.mayIssue (d : Dev) (cl t : Nat) (x : Thread) (w : Nat) : Bool :=
  decide (d.thr cl t = some x) && d.microword cl x.bank x.pc == w && x.sealing.isNone &&
    !(d.store cl).poison.contains (x.bank * 32768 + x.pc) && !wordIllegal w && !(wordSlots w).any x.wait.contains &&
    d.enginePick cl (t / 32) == some (t % 32) && !d.injects .ucs cl 0

/-- A word of a block's registers is there to be accessed by a function at BAR0 address `a`: it carries a register, its instance is
released and not in reset, and the function is reachable (R32, R35, R396). -/
def Dev.wordOpen (d : Dev) (fn a : Nat) (b : Blk) (i off : Nat) : Prop :=
  locate a = some (b, i, off) ∧ 0x200 ≤ off ∧ known b off = true ∧ d.live b i = true ∧ d.reachable fn = true ∧ a % 4 = 0 ∧
    a + 4 ≤ 2 ^ 26

/-- A write of a value to a word starts no command and no rule of its block refuses it. -/
def Dev.plainWord (d : Dev) (b : Blk) (i off v : Nat) (host : Option (List Byte)) : Prop :=
  (flowRow d b i off v host).isNone ∧ (systemRow d b i off v host).isNone ∧ (d.writeRefused b i off v).isNone ∧
    ¬(b = .lpm ∧ 0x300 ≤ off ∧ off < 0x500)

/-- The monitor takes a command: it runs, asks nothing, waits for no reset's end, and the line that has ended spells the command, whose
level and HostLock let it through (R524 to R528). -/
def Dev.monTakes (d : Dev) (cmd : MonCmd) : Prop :=
  d.monRuns = true ∧ d.mon.ask = 0 ∧ d.mon.dp = none ∧ (∃ l, d.mon.ready = some l ∧ parseLine l = .ok cmd) ∧
    cmd.level ≤ d.get MON.STAT.Level ∧ (cmd.locked = true → d.flag MON.CTL.HostLock = false)

/-- A line of the monitor's output. -/
def textLine (t : List Byte) : Out := .uart (t ++ [13, 10])

/-- The final line of an answer (R526). -/
def finalLine (code : Nat) : Out :=
  textLine (if code = 0 then str "OK" else str "ERR " ++ dec code ++ str " " ++ str (errText code))

/-- The monitor has answered: after what it had put out, data lines with these texts, each after one space, the final line and a
prompt; and it takes the next line (R526). -/
def Dev.answered (d : Dev) (before : List Out) (texts : List (List Byte)) (code : Nat) : Prop :=
  d.out = before ++ texts.map (fun x => textLine (str " " ++ x)) ++
    [finalLine code, .uart (str "kx" ++ dec (d.get MON.STAT.Level) ++ str "> ")] ∧
    d.mon.ready = none ∧ d.mon.ask = 0 ∧ d.mon.dp = none

/-! ### What a command leaves alone -/

/-- The PF0-only register write or read that a command is, all of it behind the checks of R32, R35, R39 and R40: the function, the block, the
instance and the offset; `none` for other commands. -/
def gateOf : Instr → Option (Nat × Blk × Nat × Nat)
  | .routeDataWrite fn _ => some (fn, .err, 0, 0x204)
  | .commitGo fn => some (fn, .glb, 0, 0x204)
  | .commitArm fn => some (fn, .glb, 0, 0x204)
  | .commitCancel fn => some (fn, .glb, 0, 0x204)
  | .commitDiscard fn => some (fn, .glb, 0, 0x204)
  | .commitCtlMultiBit fn => some (fn, .glb, 0, 0x204)
  | .tplCmdWrite fn ruu => some (fn, .ruu, ruu, 0x250)
  | .tplCmdRead fn ruu => some (fn, .ruu, ruu, 0x250)
  | .tplCmdReadStaged fn ruu => some (fn, .ruu, ruu, 0x250)
  | .mpfCmdWrite fn ruu => some (fn, .ruu, ruu, 0x278)
  | .mpfCmdRead fn ruu => some (fn, .ruu, ruu, 0x278)
  | .mpfCmdReadStaged fn ruu => some (fn, .ruu, ruu, 0x278)
  | .portCtlWrite fn mac port _ => some (fn, .mac, mac, (0x200 + 8 * port))
  | .mcgCmdWrite fn => some (fn, .bsn, 0, 0x218)
  | .mcgCmdRead fn => some (fn, .bsn, 0, 0x218)
  | .admCmdWrite fn => some (fn, .adm, 0, 0x20C)
  | .admCmdRead fn => some (fn, .adm, 0, 0x20C)
  | .exportStart fn => some (fn, .ftb, 0, 0x3C4)
  | .exportStop fn => some (fn, .ftb, 0, 0x3C4)
  | .kill fn cluster _ => some (fn, .fen, cluster, 0x208)
  | .ucsLoad fn _ _ => some (fn, .ucs, 0, 0x310)
  | .ucsClone fn => some (fn, .ucs, 0, 0x310)
  | .ucsEnrol fn _ _ => some (fn, .ucs, 0, 0x310)
  | .swap fn cluster => some (fn, .ucs, cluster, 0x204)
  | .confirm fn cluster _ => some (fn, .ucs, cluster, 0x204)
  | .ucsPoisonClr fn cluster => some (fn, .ucs, cluster, 0x22C)
  | .ucsRead fn cluster => some (fn, .ucs, cluster, 0x234)
  | .routeAdd fn => some (fn, .lpm, 0, 0x218)
  | .routeRead fn => some (fn, .lpm, 0, 0x218)
  | .nhWrite fn => some (fn, .lpm, 0, 0x230)
  | .nhRead fn => some (fn, .lpm, 0, 0x230)
  | .smacWrite fn k _ => some (fn, .lpm, 0, (0x304 + 8 * k))
  | .l2Add fn => some (fn, .l2t, 0, 0x20C)
  | .l2Delete fn => some (fn, .l2t, 0, 0x20C)
  | .l2Read fn => some (fn, .l2t, 0, 0x20C)
  | .vlanWrite fn => some (fn, .l2t, 0, 0x230)
  | .vlanRead fn => some (fn, .l2t, 0, 0x230)
  | .grpWrite fn => some (fn, .ecm, 0, 0x20C)
  | .grpRead fn => some (fn, .ecm, 0, 0x20C)
  | .rebuild fn => some (fn, .ecm, 0, 0x20C)
  | .slotWrite fn => some (fn, .ecm, 0, 0x218)
  | .slotRead fn => some (fn, .ecm, 0, 0x218)
  | .natAddrWrite fn => some (fn, .nat, 0, 0x20C)
  | .natAddrRead fn => some (fn, .nat, 0, 0x20C)
  | .natPfxWrite fn => some (fn, .nat, 0, 0x224)
  | .natPfxRead fn => some (fn, .nat, 0, 0x224)
  | .natMapWrite fn => some (fn, .nat, 0, 0x658)
  | .shwStop fn => some (fn, .shw, 0, 0x210)
  | .aclEntWrite fn bank => some (fn, .acl, bank, 0x330)
  | .aclEntDelete fn bank => some (fn, .acl, bank, 0x330)
  | .aclEntRead fn bank _ => some (fn, .acl, bank, 0x330)
  | .egsQcmdStage fn slice => some (fn, .egs, slice, 0x2A8)
  | .egsQcmdLoad fn slice => some (fn, .egs, slice, 0x2A8)
  | .egsGrpStage fn slice => some (fn, .egs, slice, 0x2F8)
  | .egsGrpLoad fn slice => some (fn, .egs, slice, 0x2F8)
  | .egsGrpState fn slice => some (fn, .egs, slice, 0x2F8)
  | .mtrStage fn => some (fn, .mtr, 0, 0x218)
  | .mtrLoad fn => some (fn, .mtr, 0, 0x218)
  | .mtrStateLoad fn _ => some (fn, .mtr, 0, 0x218)
  | .freqChange fn _ => some (fn, .hbc, 0, 0x280)
  | .mapCfgWrite fn inst _ => some (fn, .hbc, inst, 0x200)
  | .incrWrite fn _ _ => some (fn, .tim, 0, 0x210)
  | .streamEnable fn stream _ => some (fn, .sdl, 0, (0x200 + 16 * stream))
  | .anchorNow fn => some (fn, .sdl, 0, 0x314)
  | .rotationGo fn => some (fn, .sdl, 0, 0x32C)
  | .mbxPendWrite fn j _ => some (fn, .hif, 0, (0x220 + 4 * (j % 4)))
  | .stgCfgWrite fn _ => some (fn, .dma, 0, 0x200)
  | .freeCmd fn _ => some (fn, .cpm, 0, 0x210)
  | .reclaim fn _ => some (fn, .cpm, 0, 0x214)
  | .qmemWrite fn queue _ => some (fn, .evq, 0, (0x400 + 4 * queue))
  | .grantWrite fn => some (fn, .pmc, 0, 0x20C)
  | .grantRead fn => some (fn, .pmc, 0, 0x20C)
  | .snapGo fn => some (fn, .gth, 0, 0x21C)
  | .snapArm fn => some (fn, .gth, 0, 0x21C)
  | .snapCancel fn => some (fn, .gth, 0, 0x21C)
  | .bwCfgWrite fn _ => some (fn, .pmc, 0, 0x300)
  | .ipxSendTemplates fn => some (fn, .pmc, 0, 0x41C)
  | .ipxEnableWrite fn _ => some (fn, .pmc, 0, 0x400)
  | .flashRead fn => some (fn, .boot, 0, 0x284)
  | .floorRaise fn => some (fn, .boot, 0, 0x240)
  | .storeGo fn _ _ _ => some (fn, .boot, 0, 0x60C)
  | .pcfgCommit fn => some (fn, .boot, 0, 0x500)
  | .pcfgReload fn => some (fn, .boot, 0, 0x500)
  | .dbgSubmit fn => some (fn, .sec, 0, 0x214)
  | _ => none

/-- For a command of the packet path or of its tables that never writes HBM: the device `t` after it with the parts that the command may change
as they were in `d`; register fields, counters, messages, output and event queues aside. `none` for other commands. -/
def tableFrame (d t : Dev) : Instr → Option Dev
  | .tplCmdRead .. | .tplCmdReadStaged .. | .mpfCmdRead .. | .mpfCmdReadStaged .. | .mcgCmdRead .. | .admCmdRead ..
  | .routeRead .. | .nhRead .. | .l2Read .. | .vlanRead .. | .grpRead .. | .rebuildDone | .slotRead .. | .natAddrRead ..
  | .natPfxRead .. | .natMapRead .. | .egsQcmdLoad .. | .egsGrpLoad .. | .egsGrpState .. | .mtrLoad .. => some t
  | .aclRepair .. | .aclEntWrite .. | .aclEntDelete .. | .aclEntDeferred .. => some { t with acl := d.acl }
  | .mcgCmdWrite .. | .admRecountDone => some { t with bsn := d.bsn }
  | .headEvaluation .. | .shaperIdleVisit .. | .pauseReceive .. => some { t with eg := d.eg }
  | .routeExpansionDone => some { t with expand := d.expand }
  | .mtrStateLoad .. | .mtrRefill => some { t with mtr := d.mtr }
  | .ruuRequestEnter .. | .memoryRequest .. | .memoryRequestDone .. | .moveDone => some { t with ruus := d.ruus }
  | .shwStart .. | .shwStop .. | .shwDump .. => some { t with dma := d.dma, shw := d.shw }
  | .numberVoid => some { t with eg := d.eg, pkts := d.pkts }
  | .exportStart .. => some { t with ftb := d.ftb, ruus := d.ruus }
  | .learnRequest => some { t with l2 := d.l2, pkts := d.pkts }
  | .aclScrub .. | .aclEntRead .. => some { t with acl := d.acl, err := d.err, mram := d.mram }
  | .rillArrival .. | .linkDown .. | .duskFlushDone .. => some { t with bsn := d.bsn, eg := d.eg, pkts := d.pkts }
  | .stockRefill .. | .stockReturn .. => some { t with free := d.free, ftb := d.ftb, ruus := d.ruus }
  | .tplCmdWrite .. | .mpfCmdWrite .. | .admCmdWrite .. | .nhWrite .. | .l2Add .. | .l2Delete .. | .vlanWrite .. | .grpWrite ..
  | .rebuild .. | .slotWrite .. | .natAddrWrite .. | .natPfxWrite .. | .natMapWrite .. | .egsQcmdStage .. | .egsGrpStage ..
  | .mtrStage .. => some { t with overflow := d.overflow, stg := d.stg, stgLate := d.stgLate }
  | .secondPass .. => some { t with acl := d.acl, err := d.err, mram := d.mram, pkts := d.pkts }
  | .commitDiscard .. => some { t with acl := d.acl, overflow := d.overflow, stg := d.stg, stgLate := d.stgLate }
  | .copyEnqueue .. => some { t with bsn := d.bsn, dma := d.dma, eg := d.eg, pkts := d.pkts }
  | .cellArrival .. => some { t with bsn := d.bsn, eg := d.eg, pkts := d.pkts, pmc := d.pmc }
  | .wheelTick .. | .wheelReplace .. | .pauseExpire .. => some { t with cyc := d.cyc, dt := d.dt, eg := d.eg, pmc := d.pmc }
  | .l2AgerVisit .. => some { t with cyc := d.cyc, dt := d.dt, l2 := d.l2, pmc := d.pmc }
  | .youngExpire .. | .rebirthExpire .. => some { t with cyc := d.cyc, dt := d.dt, pmc := d.pmc, ruus := d.ruus }
  | .routeAdd .. | .routeDelete .. => some { t with expand := d.expand, overflow := d.overflow, stg := d.stg, stgLate := d.stgLate }
  | .smacWrite .. => some { t with overflow := d.overflow, stg := d.stg, stgLate := d.stgLate, fab := { t.fab with hold := d.fab.hold } }
  | .frameEnd .. => some { t with bsn := d.bsn, eg := d.eg, pkts := d.pkts, ruus := d.ruus, sdl := d.sdl }
  | .gapTimeout .. => some { t with cyc := d.cyc, dt := d.dt, eg := d.eg, pkts := d.pkts, pmc := d.pmc }
  | .portCtlWrite .. | .linkUp .. | .downholdExpire .. =>
    some { t with bsn := d.bsn, cyc := d.cyc, dt := d.dt, eg := d.eg, pkts := d.pkts, pmc := d.pmc }
  | .copyTxEnd .. => some { t with bsn := d.bsn, eg := d.eg, err := d.err, mram := d.mram, pkts := d.pkts, pmc := d.pmc }
  | .shadowCheck .. =>
    some { t with dma := d.dma, expand := d.expand, overflow := d.overflow, shw := d.shw, stg := d.stg, stgLate := d.stgLate }
  | .fscEntryArrive .. | .hostCmdSubmit =>
    some { t with bsn := d.bsn, cpm := d.cpm, eg := d.eg, free := d.free, fsc := d.fsc, pkts := d.pkts, ruus := d.ruus }
  | .portSelect .. => some { t with bsn := d.bsn, dma := d.dma, eg := d.eg, err := d.err, mram := d.mram, pkts := d.pkts, pmc := d.pmc }
  | .entryExpire .. =>
    some { t with
      bsn := d.bsn, cpm := d.cpm, cyc := d.cyc, dt := d.dt, eg := d.eg, free := d.free, fsc := d.fsc, pkts := d.pkts,
      pmc := d.pmc, ruus := d.ruus }
  | .registerRead .. =>
    some { t with
      bsn := d.bsn, cpm := d.cpm, cyc := d.cyc, dt := d.dt, err := d.err, free := d.free, mram := d.mram, pmc := d.pmc, fab := {
      t.fab with latchHi := d.fab.latchHi, latchLo := d.fab.latchLo } }
  | .monRd =>
    some { t with
      bsn := d.bsn, cpm := d.cpm, cyc := d.cyc, dt := d.dt, err := d.err, free := d.free, mon := d.mon, mram := d.mram,
      pmc := d.pmc,
      fab := { t.fab with latchHi := d.fab.latchHi, latchLo := d.fab.latchLo } }
  | .txFrameEnter .. =>
    some { t with
      acl := d.acl, cyc := d.cyc, dma := d.dma, dt := d.dt, err := d.err, l2 := d.l2, mram := d.mram, nextPid := d.nextPid,
      pkts := d.pkts, pmc := d.pmc, ruus := d.ruus, turn := d.turn }
  | .ingressAccept .. =>
    some { t with
      acl := d.acl, cyc := d.cyc, dt := d.dt, eg := d.eg, err := d.err, l2 := d.l2, mram := d.mram, nextPid := d.nextPid,
      pkts := d.pkts, pmc := d.pmc, ruus := d.ruus, turn := d.turn }
  | .generationRetire =>
    some { t with
      acl := d.acl, act := d.act, bsn := d.bsn, cyc := d.cyc, dt := d.dt, eg := d.eg, fwd := d.fwd, fwdPrev := d.fwdPrev,
      glb := d.glb, l2 := d.l2, madeGen := d.madeGen, mtr := d.mtr, nat := d.nat, old := d.old, pmc := d.pmc, prev := d.prev,
      stg := d.stg, stgLate := d.stgLate, tpl := d.tpl, tplPrev := d.tplPrev }
  | _ => none

/-- The same for commands of the other blocks. -/
def systemFrame (d t : Dev) : Instr → Option Dev
  | .quiesceReq .. | .quiesced .. | .irqStatusWrite .. | .irqEnableWrite .. | .msixUnmask .. | .errInjArm ..
  | .commitCtlMultiBit .. | .rclkRead .. | .exportStop .. | .ucsPoisonClr .. | .ucsRead .. | .mapCfgWrite .. | .timeRead ..
  | .pcieLinkUp .. | .bindWrite .. | .stgCfgWrite .. | .dmaHeadWrite .. | .eventPost .. | .postComplete .. | .nextRead ..
  | .qmemWrite .. | .queueEnableWrite .. | .grantRead .. | .pcfgReload .. => some t
  | .resetRelease .. | .flashRead .. | .flashProgram .. | .flashErase .. | .pcfgCommit .. => some { t with boot := d.boot }
  | .cisternFree .. | .cisternAddref .. | .freeCmd .. | .reclaim .. | .poolRebuildDone .. | .cpmCommandDone =>
    some { t with cpm := d.cpm }
  | .dmaStopped .. | .descriptorFetch .. => some { t with dma := d.dma }
  | .getVersion | .getCapabilities .. | .negotiateAlgorithms .. | .getDigests | .getCertificate .. | .spdmUnsupported ..
  | .doeAbort | .doeDiscovery .. => some { t with doe := d.doe }
  | .fscLevelRecountDone => some { t with fsc := d.fsc }
  | .ftbResize .. | .ftbCmdDone => some { t with ftb := d.ftb }
  | .commitGo .. | .commitArm .. => some { t with glb := d.glb }
  | .ucsClone .. => some { t with load := d.load }
  | .monHelp | .monVer | .monId | .monDawn | .monTemp | .monPort | .monLog | .monCert | .monMram | .monLogin | .monLogout
  | .monCoreHalt | .monCoreResume | .monHbmRead | .monUnknownCommand | .monInputCharacter .. => some { t with mon := d.mon }
  | .grantWrite .. | .snapGo .. | .snapArm .. | .snapCancel .. | .bwCfgWrite .. | .bwRxBytesRead .. | .ipxSendTemplates ..
  | .ipxEnableWrite .. => some { t with pmc := d.pmc }
  | .streamEnable .. | .rotationGo .. => some { t with sdl := d.sdl }
  | .trngTestsPass => some { t with sec := d.sec }
  | .kill .. => some { t with threads := d.threads }
  | .ppsInEdge .. | .tenMhzMeasure | .calMeasurement .. => some { t with tim := d.tim }
  | .thermtrip => some { t with tmp := d.tmp }
  | .swap .. | .swapDrainDone .. | .trialRollback .. => some { t with ucs := d.ucs }
  | .powerStateChange .. | .flrDone .. | .toPfDoorbell .. | .fromPfDoorbell .. | .mbxPendWrite .. =>
    some { t with fab := { t.fab with fns := d.fab.fns } }
  | .counterValueWrite .. => some { t with fab := { t.fab with hold := d.fab.hold } }
  | .blockResetEnd .. => some { t with fab := { t.fab with inReset := d.fab.inReset } }
  | .ownerWrite .. | .routeDataWrite .. => some { t with fab := { t.fab with routes := d.fab.routes } }
  | .flashDone .. => some { t with boot := d.boot, free := d.free }
  | .monBaud => some { t with boot := d.boot, mon := d.mon }
  | .storeGo .. => some { t with boot := d.boot, mram := d.mram }
  | .descriptorComplete .. | .flushReadDone .. | .cisternAllocate .. | .deliverSend .. => some { t with cpm := d.cpm, dma := d.dma }
  | .cisternHandoff .. => some { t with cpm := d.cpm, fsc := d.fsc }
  | .ucsLoad .. => some { t with dma := d.dma, load := d.load }
  | .snapDeliver => some { t with dma := d.dma, pmc := d.pmc }
  | .dmaDoorbell .. => some { t with dma := d.dma, shw := d.shw }
  | .challenge .. | .getMeasurements .. => some { t with doe := d.doe, free := d.free }
  | .irqForceWrite .. => some { t with err := d.err, free := d.free }
  | .item0Read .. | .evqScrub .. => some { t with err := d.err, mram := d.mram }
  | .ftbRekey .. => some { t with free := d.free, ftb := d.ftb }
  | .monCoreRd => some { t with free := d.free, mon := d.mon }
  | .commitCancel .. => some { t with glb := d.glb, stgLate := d.stgLate }
  | .rotationDone => some { t with mram := d.mram, sdl := d.sdl }
  | .floorRaise .. => some { t with mram := d.mram, sec := d.sec }
  | .counterLowRead .. => some { t with fab := { t.fab with latchHi := d.fab.latchHi, latchLo := d.fab.latchLo } }
  | .vfEnableSet .. => some { t with fab := { t.fab with vfChange := d.fab.vfChange, vfWait := d.fab.vfWait } }
  | .storeDone .. | .pcfgCommitDone .. => some { t with boot := d.boot, mram := d.mram, sec := d.sec }
  | .fenceRead .. | .recordClockTick | .meterClockTick | .notifyTimeout .. | .snapAct | .snapPeriodCheck | .gatherDone ..
  | .bwWindowEnd | .vmonSample .. => some { t with cyc := d.cyc, dt := d.dt, pmc := d.pmc }
  | .ucsEnrol .. => some { t with dma := d.dma, free := d.free, load := d.load }
  | .sealSigned .. => some { t with dma := d.dma, free := d.free, sdl := d.sdl }
  | .busMasterEnableWrite .. => some { t with doe := d.doe, fab := { t.fab with fns := d.fab.fns, vfMse := d.fab.vfMse } }
  | .dbgSubmit .. => some { t with err := d.err, free := d.free, mram := d.mram }
  | .ucsScrub .. => some { t with err := d.err, mram := d.mram, ucs := d.ucs }
  | .rotationKeyReady => some { t with free := d.free, mram := d.mram, sdl := d.sdl }
  | .monFloor => some { t with mon := d.mon, mram := d.mram, sec := d.sec }
  | .confirm .. => some { t with mram := d.mram, sec := d.sec, ucs := d.ucs }
  | .dmaRunSet .. | .dmaRunClear .. | .dmaResume .. => some { t with cpm := d.cpm, dma := d.dma, hbc := d.hbc, shw := d.shw }
  | .monFence | .monIdleTimeout => some { t with cyc := d.cyc, dt := d.dt, mon := d.mon, pmc := d.pmc }
  | .epochClose .. => some { t with cyc := d.cyc, dt := d.dt, pmc := d.pmc, sdl := d.sdl }
  | .ppsOutPulse | .ppsOutFall => some { t with cyc := d.cyc, dt := d.dt, pmc := d.pmc, tim := d.tim }
  | .staleVoid .. | .evqDoorbell .. | .dropRemainder .. => some { t with cyc := d.cyc, dt := d.dt, pmc := d.pmc, turn := d.turn }
  | .trialExpire .. => some { t with cyc := d.cyc, dt := d.dt, pmc := d.pmc, ucs := d.ucs }
  | .incrWrite .. => some { t with cyc := d.cyc, dt := d.dt, pmc := d.pmc, fab := { t.fab with hold := d.fab.hold } }
  | .anchorNow .. => some { t with dma := d.dma, free := d.free, mram := d.mram, sdl := d.sdl }
  | .monUnlock => some { t with err := d.err, free := d.free, mon := d.mon, mram := d.mram }
  | .submitRetry .. => some { t with cpm := d.cpm, cyc := d.cyc, dma := d.dma, dt := d.dt, pmc := d.pmc }
  | .critRecordWrite => some { t with cyc := d.cyc, dt := d.dt, err := d.err, mram := d.mram, pmc := d.pmc }
  | .hbmReadReturn .. | .commandRetry .. => some { t with dma := d.dma, err := d.err, hbc := d.hbc, mram := d.mram, results := d.results }
  | .loadDone .. => some { t with dma := d.dma, load := d.load, mram := d.mram, sec := d.sec, ucs := d.ucs }
  | .vfChangeDone =>
    some { t with
      fab := { t.fab with
        fns := d.fab.fns, numVfs := d.fab.numVfs, vfChange := d.fab.vfChange, vfEnable := d.fab.vfEnable,
        vfWait := d.fab.vfWait } }
  | .completionTimeout .. =>
    some { t with cpm := d.cpm, cyc := d.cyc, dma := d.dma, dt := d.dt, hbc := d.hbc, load := d.load, pmc := d.pmc }
  | .anchorPeriodic => some { t with cyc := d.cyc, dma := d.dma, dt := d.dt, free := d.free, mram := d.mram, pmc := d.pmc, sdl := d.sdl }
  | .refreshWindow .. =>
    some { t with cyc := d.cyc, dt := d.dt, err := d.err, free := d.free, hbc := d.hbc, mram := d.mram, pmc := d.pmc }
  | .freqChange .. =>
    some { t with dma := d.dma, err := d.err, glb := d.glb, hbc := d.hbc, mram := d.mram, results := d.results, sdl := d.sdl }
  | .readReturnTimeout .. =>
    some { t with
      cyc := d.cyc, dma := d.dma, dt := d.dt, err := d.err, hbc := d.hbc, mram := d.mram, pmc := d.pmc, results := d.results }
  | .dprDone =>
    some { t with
      cyc := d.cyc, dt := d.dt, err := d.err, free := d.free, glb := d.glb, hbc := d.hbc, mon := d.mon, mram := d.mram,
      pmc := d.pmc,
      fab := { t.fab with inReset := d.fab.inReset } }
  | _ => none

/-- The same for commands that write HBM, or may move a request on whose write then shows there. -/
def memoryFrame (d t : Dev) : Instr → Option Dev
  | .hbmWriteAccept .. => some { t with dma := d.dma, hbc := d.hbc, results := d.results }
  | .ftbSetgeom .. => some { t with free := d.free, ftb := d.ftb, ruus := d.ruus }
  | .clearDone | .resizeclearDone => some { t with ftb := d.ftb, hbc := d.hbc, ruus := d.ruus }
  | .ftbReadannex .. => some { t with dma := d.dma, ftb := d.ftb, hbc := d.hbc, results := d.results }
  | .natMapWriteback => some { t with dma := d.dma, hbc := d.hbc, nat := d.nat, results := d.results }
  | .ipxMessageClose => some { t with dma := d.dma, hbc := d.hbc, pmc := d.pmc, results := d.results }
  | .rccModeWrite .. | .rccFlush .. | .rccFlushDone .. => some { t with dma := d.dma, hbc := d.hbc, results := d.results, ruus := d.ruus }
  | .streamDisable .. | .gapEntry .. => some { t with dma := d.dma, hbc := d.hbc, results := d.results, sdl := d.sdl }
  | .hbmCommandIssue .. | .hbmScrub .. => some { t with dma := d.dma, err := d.err, hbc := d.hbc, mram := d.mram, results := d.results }
  | .nat64AnnexRead .. => some { t with bsn := d.bsn, dma := d.dma, eg := d.eg, hbc := d.hbc, pkts := d.pkts, results := d.results }
  | .capWindowEnd .. | .ipxFlushExpire =>
    some { t with cyc := d.cyc, dma := d.dma, dt := d.dt, hbc := d.hbc, pmc := d.pmc, results := d.results }
  | .stagingDeliver .. => some { t with dma := d.dma, err := d.err, hbc := d.hbc, mram := d.mram, results := d.results, sdl := d.sdl }
  | .ledgerChain .. =>
    some { t with cyc := d.cyc, dma := d.dma, dt := d.dt, hbc := d.hbc, pmc := d.pmc, results := d.results, sdl := d.sdl }
  | .resultArrive .. =>
    some { t with
      acl := d.acl, dma := d.dma, err := d.err, hbc := d.hbc, mram := d.mram, nat := d.nat, results := d.results,
      threads := d.threads }
  | .burstStart .. | .burstEnd .. =>
    some { t with
      bsn := d.bsn, cpm := d.cpm, dma := d.dma, hbc := d.hbc, pkts := d.pkts, pmc := d.pmc, results := d.results, shw := d.shw }
  | .seal .. =>
    some { t with
      bsn := d.bsn, dma := d.dma, eg := d.eg, fsc := d.fsc, hbc := d.hbc, pkts := d.pkts, results := d.results, ruus := d.ruus,
      threads := d.threads }
  | .pcieCompletion .. =>
    some { t with
      cpm := d.cpm, cyc := d.cyc, dma := d.dma, dt := d.dt, fsc := d.fsc, hbc := d.hbc, load := d.load, pmc := d.pmc,
      results := d.results }
  | .flushusExpire .. =>
    some { t with
      bsn := d.bsn, cpm := d.cpm, cyc := d.cyc, dma := d.dma, dt := d.dt, hbc := d.hbc, pkts := d.pkts, pmc := d.pmc,
      results := d.results, shw := d.shw }
  | .ruuService .. | .ruuServiceResume .. | .pinUpdate .. | .poisonClear .. | .ftbInsert .. | .ftbReplace .. | .ftbLookup ..
  | .ftbDelete .. | .ftbReadloc .. | .ftbDeleteloc .. | .migrationStep .. | .sweepStep .. | .exportRead .. =>
    some { t with
      dma := d.dma, err := d.err, free := d.free, ftb := d.ftb, hbc := d.hbc, mram := d.mram, pkts := d.pkts, pmc := d.pmc,
      results := d.results, ruus := d.ruus }
  | .fscDispatch | .sealAdmitted .. =>
    some { t with
      bsn := d.bsn, cpm := d.cpm, dma := d.dma, eg := d.eg, fsc := d.fsc, hbc := d.hbc, pkts := d.pkts, results := d.results,
      ruus := d.ruus, threads := d.threads, ucs := d.ucs }
  | .timeSet .. | .timeStep .. =>
    some { t with
      acl := d.acl, act := d.act, bsn := d.bsn, cyc := d.cyc, dma := d.dma, dt := d.dt, eg := d.eg, fwd := d.fwd,
      fwdPrev := d.fwdPrev, glb := d.glb, hbc := d.hbc, l2 := d.l2, madeGen := d.madeGen, mtr := d.mtr, nat := d.nat,
      old := d.old, pmc := d.pmc, prev := d.prev, results := d.results, sdl := d.sdl, stg := d.stg, stgLate := d.stgLate,
      tim := d.tim, tpl := d.tpl, tplPrev := d.tplPrev }
  | _ => none

end Sys2Proof.Machine
end

