-- ==== Sys2Proof/Safety.lean ====
section
/-! DEFINITION. What a good state of the block is, and what it means that a command completes, in the terms that statements use. -/

namespace Sys2Proof.Machine

/-- HBM's contents are in canonical form. -/
def State.wf (s : State) : Bool := Mem.wf s.chip.hbm

/-- A command completes: `exec` answers a next state, whose queue is as before and whose chip has the property. -/
def Gives (c : Instr) (s : State) (P : Chip → Prop) : Prop :=
  ∃ t : State, exec c s = .next t ∧ t.pending = s.pending ∧ P t.chip

end Sys2Proof.Machine
end

