-- ==== Sys2Proof/Certificates/Slice0/Obligations.lean ====
section
/-! DEFINITION. The statements about the block. -/

open Sys2Proof Sys2Proof.Machine

/-- For every command and state, the step of the state with the command at the front of its queue is exec of it on the state with the
queue's rest. Every one of the 337 commands, whatever the state, answers a next state and leaves the queue as it is. On an empty
queue the step lets one CLK_TIME cycle pass and changes neither HBM nor anything of the device but what time moves (log entry 2:
the model's choice). (02_register_model.md: Ordering (R42); 01_architecture.md: Clocks (R19).) -/
def Obligations.StepRunsFront : Prop :=
  (∀ (c : Instr) (rest : List Instr) (s : State), step { s with pending := c :: rest } = exec c { s with pending := rest }) ∧
  (∀ (c : Instr) (s : State), ∃ t : State, exec c s = .next t ∧ t.pending = s.pending) ∧
  (∀ (s : State), s.pending = [] → ∃ t : State, step s = .next t ∧ t.pending = [] ∧ t.chip.hbm = s.chip.hbm ∧
    t.chip.dev.cyc = s.chip.dev.cyc + 1 ∧ t.chip.dev.untimed = s.chip.dev.untimed)

/-- From every state whose HBM lists its bytes with strictly rising addresses and none equal to what an unlisted address reads as, a
step that answers a next state answers one whose HBM does too, whatever command it runs. (11_hbm_controller.md: Client writes and
reads (R305, R310); 04_flow_table.md: Layout and clearing (R102, R131); 01_architecture.md: Device memories (R12).) -/
def Obligations.StepKeepsForm : Prop :=
  ∀ s t : State, s.wf = true → step s = .next t → t.wf = true

/-- After reset no command waits, HBM lists nothing and has its canonical form, every register field outside the page of TMP holds its
Reset value, the supply windows of TMP hold theirs, no block is released and none is live, no packet, queue, entry or reservation
exists, and no virtual function is enabled. What an unlisted byte of HBM reads as is the model's choice (log entry 1).
(01_architecture.md: Reset values (R9), cold reset (R25); 19_boot_security_monitor.md: Release (R506);
20_electrical_and_package.md: Supply windows (R537).) -/
def Obligations.ResetState : Prop :=
  State.reset.pending = [] ∧ State.reset.chip.hbm = [] ∧ State.reset.wf = true ∧ State.reset.chip.dev = Dev.reset ∧
  (∀ (f : Fld) (i j : Nat), f.key i j < 0x7000 * 8 ∨ 0x8000 * 8 ≤ f.key i j → Dev.reset.get f i j = f.reset j) ∧
  (∀ k w, vmonWindows[k]? = some w → Dev.reset.get TMP.VMON_WIN.Low 0 k = w.1 ∧ Dev.reset.get TMP.VMON_WIN.High 0 k = w.2) ∧
  (∀ (b : Blk) (i : Nat), Dev.reset.live b i = false) ∧ Dev.reset.pkts = [] ∧ Dev.reset.results = [] ∧ Dev.reset.stg = [] ∧
  (∀ q, (Dev.reset.queue q).pkts = []) ∧ (∀ k, k < 6 → (Dev.reset.stack k).selfRef = false) ∧ Dev.reset.fab.vfEnable = false ∧
  (∀ f, f ≠ 128 → Dev.reset.reachable f = false) ∧ Dev.reset.out = [] ∧ Dev.reset.cyc = 0

/-- For each of the 84 PF0-only register commands: of a function that is not reachable, it is answered as an Unsupported Request, and
nothing else changes but the count of the request; at an instance not released or in reset, it is discarded and counted in
BAR_MISS_CNT, and nothing but counters and messages changes; of a function without PF0's permissions, it is discarded, counted in
VF_DENY_CNT and recorded with its function and address, and nothing but counters, messages and event queues changes. HBM stays as
it is in all three. (02_register_model.md: Reset instances (R35), page access (R39), refusals (R40); 14_host_interface.md:
Unreachable functions (R396).) -/
def Obligations.TurnedAway : Prop :=
  ∀ (s : State) (d : Dev) (c : Instr) (fn i off : Nat) (b : Blk), s.chip.dev = d → gateOf c = some (fn, b, i, off) →
    (d.reachable fn = false → Gives c s fun t => t.dev = (d.request fn).emit (.unsupported fn) ∧ t.hbm = s.chip.hbm) ∧
    (d.reachable fn = true → d.live b i = false → Gives c s fun t => t.dev.beside = d.beside ∧ t.hbm = s.chip.hbm ∧
      t.dev.get HIF.BAR_MISS_CNT.Count = (d.get HIF.BAR_MISS_CNT.Count + 1) % 2 ^ HIF.BAR_MISS_CNT.Count.w) ∧
    (d.reachable fn = true → d.live b i = true → isPf fn = false → Gives c s fun t => t.dev.unposted = d.unposted ∧ t.hbm = s.chip.hbm ∧
      t.dev.get HIF.VF_DENY_CNT.Count = (d.get HIF.VF_DENY_CNT.Count + 1) % 2 ^ HIF.VF_DENY_CNT.Count.w ∧
      t.dev.get HIF.DENY_LAST_FN.Function = fn ∧
      t.dev.get HIF.DENY_LAST_ADDR.Address = (b.base i + off) % 2 ^ HIF.DENY_LAST_ADDR.Address.w)

/-- For each of 94 commands of the packet path and its tables, whatever the state: HBM stays as it is, and so does every part of the
device but register fields, counters, messages, output, event queues, and the parts that `tableFrame` names for the command: a
staged write only adds to staging, a read nothing at all, a head evaluation only egress, and so on. (01_architecture.md: Block
instances (R10), record ownership (R24); 02_register_model.md: Staging (R46); 08_forwarding_tables.md: Tables (R232 to R256);
09_associative_filters.md: Entries (R270); 10_egress_scheduling.md: Configuration (R300).) -/
def Obligations.TableFrames : Prop :=
  ∀ (s : State) (c : Instr), tableFrame s.chip.dev s.chip.dev c ≠ none → Gives c s fun t => t.hbm = s.chip.hbm ∧
    ∃ x, tableFrame s.chip.dev t.dev c = some x ∧ x.unposted = s.chip.dev.unposted

/-- For each of 164 commands of the other blocks, whatever the state: HBM stays as it is, and so does every part of the device but
register fields, counters, messages, output, event queues, and the parts that `systemFrame` names for the command: a monitor
command only the monitor, a doorbell of an event queue only that queue, a free of a Cistern buffer only the pools, and so on. For
each of 42 further commands that write HBM or move its requests on, the same holds of the parts that `memoryFrame` names, HBM
aside. (01_architecture.md: Block instances (R10); 14_host_interface.md: Functions (R396); 15_dma_and_cistern.md: Channels (R416);
16_event_queues.md: Queues (R453); 19_boot_security_monitor.md: Monitor (R524).) -/
def Obligations.SystemFrames : Prop :=
  (∀ (s : State) (c : Instr), systemFrame s.chip.dev s.chip.dev c ≠ none → Gives c s fun t => t.hbm = s.chip.hbm ∧
    ∃ x, systemFrame s.chip.dev t.dev c = some x ∧ x.unposted = s.chip.dev.unposted) ∧
  (∀ (s : State) (c : Instr), memoryFrame s.chip.dev s.chip.dev c ≠ none → Gives c s fun t =>
    ∃ x, memoryFrame s.chip.dev t.dev c = some x ∧ x.unposted = s.chip.dev.unposted)

/-- An operation whose condition holds: ADD adds its signed immediate to ActWord or StateWord, modulo 2^32 with Sat 0 and held within
0 to 2^32 − 1 with Sat 1. CAS of a lane sets Flag to 1 where the lane and the comparand agree under the mask, and then writes the
new value's masked bits, keeping the others; else it sets Flag to 0 and leaves the lane unchanged. Every other part of the image,
and everything else of the request, stays as it was. (05_record_update_units.md: R159.) -/
def Obligations.OperationArithmetic : Prop :=
  ∀ (off : Bool) (s t : OpState) (w : Nat), condHolds s (bits w 5 3) = true → runOp off s w = t →
    (∀ lo imm, w % 32 = 2 → (if bit w 9 = true then 480 else 448) = lo → sint 32 (bits w 16 32) = imm →
      (bit w 8 = false → (bits t.img lo 32 : Int) = ((bits s.img lo 32 : Int) + imm) % 2 ^ 32) ∧
      (bit w 8 = true → (bits t.img lo 32 : Int) = max 0 (min (2 ^ 32 - 1) ((bits s.img lo 32 : Int) + imm))) ∧
      (∀ k, k < lo ∨ lo + 32 ≤ k → bit t.img k = bit s.img k) ∧ { t with img := s.img } = s) ∧
    (∀ lo n, w % 32 = 5 → bits w 8 3 < 7 → laneField (bits w 8 3) = (lo, n) →
      ((∀ k, k < n → bit w (16 + k) = true → bit s.img (lo + k) = bit w (32 + k)) → t.flag = true ∧
        ∀ k, k < n → bit t.img (lo + k) = if bit w (16 + k) = true then bit w (48 + k) else bit s.img (lo + k)) ∧
      ((∃ k, k < n ∧ bit w (16 + k) = true ∧ bit s.img (lo + k) ≠ bit w (32 + k)) → t.flag = false ∧ t.img = s.img) ∧
      (∀ k, k < lo ∨ lo + n ≤ k → bit t.img k = bit s.img k) ∧ { t with img := s.img, flag := s.flag } = s)

/-- Freeing one cell of a port and class takes one from Used of that port and class, and one from SharedUsed where Used was above
Guarantee before; the Used of every other port and class, and everything else of the device but the count of cells, stays.
(03_packet_path.md: R72.) -/
def Obligations.FreedCell : Prop :=
  ∀ (d t : Dev) (p c : Nat), p < 138 → c < 16 → Dev.freeCell p c 1 d = t →
    t.used p c = d.used p c - 1 ∧ (∀ p' c', c' < 16 → p' ≠ p ∨ c' ≠ c → t.used p' c' = d.used p' c') ∧
    t.bsn.shared = (if (d.adm 0 p c).1 < d.used p c then d.bsn.shared - 1 else d.bsn.shared) ∧
    { t with bsn := d.bsn } = d

/-- EVENT_POST of an enabled queue with room, where CTL of the queue and of EVQ lets new work in, by an instance with fewer than 64
open reservations (no DMA channel, whose ownership is checked too), puts one incomplete packet of the next Seq at the tail, and
Seq advances modulo 65,536. POST_COMPLETE turns the reservation of that Seq into a complete packet with the payload written, its
Lost flag as it was. STALE_VOID voids the oldest open reservation of a queue other than the system queue: it is complete, Void,
its payload zeros. NOTIFY_TIMEOUT of a queue that holds a complete packet, with NotifyUs not 0, moves time on to NotifyUs after
its completion at least and sets the queue's Ready bit. Each of them completes. Of each of these forms, under the conditions
given, the conclusion is that exec answers a next state: eventPost, postComplete, staleVoid, notifyTimeout. (16_event_queues.md:
Posting (R456 to R458), Stale reservations (R460), Notification (R465).) -/
def Obligations.EvqPosts : Prop :=
  (∀ (s : State) (page typ queue items i : Nat) (b : Blk), pageBlk page = some (b, i) → b ≠ .dch → 1 ≤ items → items ≤ 8 →
    queue < 512 → s.chip.dev.flag EVP.CFG.Enable queue = true → s.chip.dev.accepts .evp queue = true → s.chip.dev.accepts .evq = true →
    (s.chip.dev.queue queue).fill + 1 + items ≤ s.chip.dev.queueSize queue → s.chip.dev.openPosts (b.page i) < 64 →
    Gives (.eventPost page typ queue items) s fun t =>
      t.dev.queue queue = EvQueue.markLost
        { s.chip.dev.queue queue with
          nextSeq := ((s.chip.dev.queue queue).nextSeq + 1) % 65536
          pkts := (s.chip.dev.queue queue).pkts ++
            [{ items := items, typ := typ % 16, src := (blkRow b).type % 256, seq := (s.chip.dev.queue queue).nextSeq,
               payload := List.replicate items 0, at0 := s.chip.dev.cyc, writer := b.page i }]
          tried := some s.chip.dev.cyc }) ∧
  (∀ (s : State) (queue seq : Nat) (payload : List Nat) (p : EvPkt),
    (s.chip.dev.queue queue).pkts.find? (fun p => p.seq = seq && !p.complete) = some p →
    Gives (.postComplete queue seq payload) s fun t =>
      ∃ p', p' ∈ (t.dev.queue queue).pkts ∧ p'.seq = seq ∧ p'.complete = true ∧ p'.void = false ∧ p'.typ = p.typ ∧ p'.lost = p.lost ∧
        p'.items = p.items ∧ p'.payload = (payload.map (· % 2 ^ 64)).take p.items) ∧
  (∀ (s : State) (queue : Nat) (p : EvPkt), (s.chip.dev.queue queue).pkts.find? (fun p => !p.complete) = some p →
    s.chip.dev.get EVQ.CFG.SysQueue ≠ queue →
    Gives (.staleVoid queue) s fun t =>
      ∃ p', p' ∈ (t.dev.queue queue).pkts ∧ p'.seq = p.seq ∧ p'.complete = true ∧ p'.void = true ∧
        p'.payload = List.replicate p.items 0) ∧
  (∀ (s : State) (queue : Nat) (p : EvPkt), (s.chip.dev.queue queue).complete.head? = some p → s.chip.dev.get EVP.CFG.NotifyUs queue ≠ 0 →
    Gives (.notifyTimeout queue) s fun t =>
      bit (t.dev.get (HDR.IRQ_STATUS .evp) queue) 0 = true ∧
        p.at1 + nsCyc (1000 * s.chip.dev.get EVP.CFG.NotifyUs queue) ≤ t.dev.cyc)

/-- ITEM0_READ by a function that may read the queue's page answers, with no injection armed there, the header of the first packet
held, and latches header and payload for that function. EVQ_DOORBELL through the window of the queue's owner, with the Seq of a
held packet, removes the packets up to and with it. DROP_REMAINDER removes every complete packet. NEXT_READ answers 0 where no
queue of the page's owner qualifies, and otherwise a qualifying queue with Valid, none of the qualifying queues having a higher
priority. Each of them completes. Of each of these forms, under the conditions given, the conclusion is that exec answers a next
state: item0Read, evqDoorbell, dropRemainder, nextRead. (16_event_queues.md: Reading (R461), Releasing (R462), NEXT (R463),
DropRemainder (R464).) -/
def Obligations.EvqReads : Prop :=
  (∀ (s : State) (fn queue len : Nat) (p : EvPkt), s.chip.dev.opensOwn fn .evp queue = true →
    (s.chip.dev.queue queue).held.head? = some p → s.chip.dev.injects .evp queue 0 = false →
    Gives (.item0Read fn queue len) s fun t =>
      t.dev.lastRead = some (.readData fn (toLE len p.header)) ∧
        Tab.find (t.dev.queue queue).latch fn = some (p.header :: p.payload) ∧
        (t.dev.queue queue).pkts = (s.chip.dev.queue queue).pkts) ∧
  (∀ (s : State) (fn window queue seq k : Nat), fn ≠ 128 → s.chip.dev.reachable fn = true → queue < 512 →
    (if fn = 0 then window else fn) < 128 → s.chip.dev.get (HDR.OWNER.Function .evp) queue = (if fn = 0 then window else fn) →
    ((s.chip.dev.queue queue).held.findIdx? fun p => p.seq == seq % 65536) = some k →
    Gives (.evqDoorbell fn window queue seq) s fun t =>
      (t.dev.queue queue).pkts = (s.chip.dev.queue queue).pkts.drop (k + 1)) ∧
  (∀ (s : State) (fn queue : Nat), s.chip.dev.opensOwn fn .evp queue = true →
    Gives (.dropRemainder fn queue) s fun t =>
      (t.dev.queue queue).pkts = (s.chip.dev.queue queue).pkts.filter fun p => !p.complete) ∧
  (∀ (s : State) (fn queue o : Nat), s.chip.dev.opensOwn fn .evp queue = true →
    s.chip.dev.get (HDR.OWNER.Function .evp) queue = o →
    Gives (.nextRead fn queue) s fun t =>
      ∃ v, t.dev.lastRead = some (.readData fn (toLE 4 v)) ∧
        ((v = 0 ∧ ∀ q, q < 512 → s.chip.dev.qualifies o q = false) ∨
         (∃ q, q < 512 ∧ v = q + 2 ^ 15 ∧ s.chip.dev.qualifies o q = true ∧
           ∀ r, r < 512 → s.chip.dev.qualifies o r = true → s.chip.dev.get EVP.CFG.Prio r ≤ s.chip.dev.get EVP.CFG.Prio q)))

/-- QMEM_WRITE of a queue that is not enabled, with a SizeCode of at most 10, a range within queue memory and none of it in the range
of an enabled queue, sets Base and SizeCode and clears Refused. QUEUE_ENABLE_WRITE sets Enable, Prio, NotifyPkts and NotifyUs
unless it enables a queue whose range overlaps that of another enabled queue; then it sets EnableRefused and leaves Enable.
EVQ_SCRUB of a word read with a corrected error, with no injection armed there, counts it in CORR; with an uncorrectable one in a
complete packet it poisons that packet. Each of them completes. Of each of these forms, under the conditions given, the conclusion
is that exec answers a next state: qmemWrite, queueEnableWrite, evqScrub. (16_event_queues.md: Queue memory (R453, R454), errors
(R470).) -/
def Obligations.EvqSettings : Prop :=
  (∀ (s : State) (fn queue data : Nat), s.chip.dev.opens fn .evq 0 = true → queue < 512 → bits data 16 4 ≤ 10 →
    s.chip.dev.flag EVP.CFG.Enable queue = false → 64 * bits data 0 13 + 64 * 2 ^ bits data 16 4 ≤ 524288 →
    s.chip.dev.overlaps queue (64 * bits data 0 13) (64 * 2 ^ bits data 16 4) = false →
    Gives (.qmemWrite fn queue data) s fun t =>
      t.dev.get EVQ.QMEM.Base 0 queue = bits data 0 13 ∧ t.dev.get EVQ.QMEM.SizeCode 0 queue = bits data 16 4 ∧
        t.dev.get EVQ.QMEM_STAT.Refused = 0) ∧
  (∀ (s : State) (fn queue data : Nat), s.chip.dev.opensOwn fn .evp queue = true →
    Gives (.queueEnableWrite fn queue data) s fun t =>
      if data % 2 = 1 ∧ s.chip.dev.overlaps queue (64 * s.chip.dev.get EVQ.QMEM.Base 0 queue) (s.chip.dev.queueSize queue) = true then
        t.dev.get EVP.QSTAT.EnableRefused queue = 1 ∧ t.dev.get EVP.CFG.Enable queue = s.chip.dev.get EVP.CFG.Enable queue
      else
        t.dev.get EVP.CFG.Enable queue = data % 2 ∧ t.dev.get EVP.CFG.Prio queue = bits data 1 2 ∧
          t.dev.get EVP.CFG.NotifyPkts queue = bits data 8 8 ∧ t.dev.get EVP.CFG.NotifyUs queue = bits data 16 16) ∧
  (∀ (s : State) (queue idx word : Nat), s.chip.dev.live .evq = true → queue < 512 → s.chip.dev.injects .evp queue 0 = false →
    Gives (.evqScrub queue idx word 1) s fun t =>
      t.dev.get EVP.CORR.Count queue = (s.chip.dev.get EVP.CORR.Count queue + 1) % 2 ^ EVP.CORR.Count.w) ∧
  (∀ (s : State) (queue idx word : Nat) (p : EvPkt), s.chip.dev.live .evq = true → queue < 512 →
    (s.chip.dev.queue queue).pkts[idx]? = some p → p.complete = true →
    Gives (.evqScrub queue idx word 2) s fun t => (t.dev.queue queue).pkts[idx]? = some (p.poison word))

/-- TPL_CMD Write through RUU0, of a word that is accepted at write and within the staging capacity, appends it to the staging and
clears Refused; through any other RUU it stages nothing and sets Refused with Reason 3. MPF_CMD Write does the same with a
profile's two words, bits [127:120] of which must be 0. TPL_CMD Read loads the active word, cut to 64 bits, in any RUU page;
ReadStaged through RUU0 loads the staged word. MPF_CMD Read and ReadStaged do the same with both words of the profile. Of each of
these forms, under the conditions given, the conclusion is that exec answers a next state: tplCmdWrite, mpfCmdWrite, tplCmdRead,
mpfCmdRead, tplCmdReadStaged, mpfCmdReadStaged. (05_record_update_units.md: Template and profile registers (R169), template words
(R153, R156); 02_register_model.md: Staging (R46).) -/
def Obligations.TemplateRegisters : Prop :=
  (∀ (s : State) (fn : Nat), s.chip.dev.opens fn .ruu 0 = true →
    tplWordValid (s.chip.dev.get RUU.TPL_SEL.Word) (s.chip.dev.get RUU.TPL_DATA.Data) = true → s.chip.dev.stgUsed tplBit 0 + 1 ≤ tplCap →
    Gives (.tplCmdWrite fn 0) s fun t =>
      t.dev.stg = s.chip.dev.stg ++
        [⟨tplBit, 0, 1, .tpl (s.chip.dev.get RUU.TPL_SEL.Index) (s.chip.dev.get RUU.TPL_SEL.Word) (s.chip.dev.get RUU.TPL_DATA.Data)⟩] ∧
      t.dev.get RUU.TPL_STAT.Refused = 0) ∧
  (∀ (s : State) (fn ruu : Nat), s.chip.dev.opens fn .ruu ruu = true → ruu ≠ 0 →
    Gives (.tplCmdWrite fn ruu) s (fun t => t.dev.stg = s.chip.dev.stg ∧ t.dev.get RUU.TPL_STAT.Refused ruu = 1 ∧
      t.dev.get RUU.TPL_STAT.Reason ruu = 3) ∧
    Gives (.mpfCmdWrite fn ruu) s (fun t => t.dev.stg = s.chip.dev.stg ∧ t.dev.get RUU.TPL_STAT.Refused ruu = 1 ∧
      t.dev.get RUU.TPL_STAT.Reason ruu = 3)) ∧
  (∀ (s : State) (fn : Nat), s.chip.dev.opens fn .ruu 0 = true → bits (s.chip.dev.get RUU.MPF_DATA_HI.Hi) 56 8 = 0 →
    s.chip.dev.get RUU.MPF_DATA_LO.Lo < 2 ^ 64 → s.chip.dev.stgUsed tplBit 0 + 2 ≤ tplCap →
    Gives (.mpfCmdWrite fn 0) s fun t =>
      t.dev.stg = s.chip.dev.stg ++ [⟨tplBit, 0, 2, .mpf (s.chip.dev.get RUU.MPF_SEL.Profile)
        (s.chip.dev.get RUU.MPF_DATA_LO.Lo + 2 ^ 64 * s.chip.dev.get RUU.MPF_DATA_HI.Hi)⟩] ∧
      t.dev.get RUU.TPL_STAT.Refused = 0) ∧
  (∀ (s : State) (fn ruu : Nat), s.chip.dev.opens fn .ruu ruu = true →
    Gives (.tplCmdRead fn ruu) s (fun t => t.dev.get RUU.TPL_DATA.Data ruu =
      s.chip.dev.tpl.word (s.chip.dev.get RUU.TPL_SEL.Index ruu) (s.chip.dev.get RUU.TPL_SEL.Word ruu) % 2 ^ 64) ∧
    Gives (.mpfCmdRead fn ruu) s (fun t =>
      t.dev.get RUU.MPF_DATA_LO.Lo ruu = s.chip.dev.tpl.profile (s.chip.dev.get RUU.MPF_SEL.Profile ruu) % 2 ^ 64 ∧
      t.dev.get RUU.MPF_DATA_HI.Hi ruu = s.chip.dev.tpl.profile (s.chip.dev.get RUU.MPF_SEL.Profile ruu) / 2 ^ 64 % 2 ^ 64)) ∧
  (∀ (s : State) (fn : Nat), s.chip.dev.opens fn .ruu 0 = true →
    Gives (.tplCmdReadStaged fn 0) s (fun t => t.dev.get RUU.TPL_DATA.Data =
      s.chip.dev.tplStaged (s.chip.dev.get RUU.TPL_SEL.Index) (s.chip.dev.get RUU.TPL_SEL.Word) % 2 ^ 64) ∧
    Gives (.mpfCmdReadStaged fn 0) s (fun t =>
      t.dev.get RUU.MPF_DATA_LO.Lo = s.chip.dev.mpfStaged (s.chip.dev.get RUU.MPF_SEL.Profile) % 2 ^ 64 ∧
      t.dev.get RUU.MPF_DATA_HI.Hi = s.chip.dev.mpfStaged (s.chip.dev.get RUU.MPF_SEL.Profile) / 2 ^ 64 % 2 ^ 64))

/-- While the data path moves and the RUU accepts work: with fewer than 256 entries, RUU_REQUEST_ENTER moves the first waiting request
of the class that R142 admits next to the tail of the queue. RUU_SERVICE of a request whose row meets that of a request in service
takes it off the queue and puts it behind that one, with the slots that the earlier ones work on; with fewer than 32 rows in
service, one with no such conflict that lacks slots is put in service waiting for its data, the reads of slots that other RUUs'
channels hold sent as memory requests. It keeps the cache mode and the generation found at the head. MEMORY_REQUEST and
MEMORY_REQUEST_DONE move the first such memory request from sent to performed and from performed to returned. YOUNG_EXPIRE leaves
no line of the RUU young whose time has passed, and its time is at or past the earliest young time. Of each of these forms, under
the conditions given, the conclusion is that exec answers a next state: ruuRequestEnter, ruuService, memoryRequest,
memoryRequestDone, youngExpire. (05_record_update_units.md: Request queue (R142, R143, R144), memory requests (R146), young lines
(R149).) -/
def Obligations.RuuQueue : Prop :=
  (∀ (s : State) (r k : Nat) (q : ReqKind), s.chip.dev.pathMoves = true → s.chip.dev.accepts .ruu r = true →
    (s.chip.dev.ruu r).queue.length < 256 → (s.chip.dev.ruu r).nextClass = some k →
    (s.chip.dev.ruu r).waiting.find? (fun q => q.cls == k) = some q →
    Gives (.ruuRequestEnter r) s fun t =>
      (t.dev.ruu r).queue = (s.chip.dev.ruu r).queue ++ [q] ∧ (t.dev.ruu r).waiting = (s.chip.dev.ruu r).waiting.erase q) ∧
  (∀ (s : State) (r m : Nat) (q : ReqKind) (rest : List ReqKind) (row : List Loc), s.chip.dev.pathMoves = true →
    (s.chip.dev.ruu r).queue = q :: rest → s.chip.dev.get RCC.CFG.Mode r = m → (s.chip.upd (·.underMode r m)).rowOf r q = row →
    (s.chip.dev.ruu r).service.any (conflicts row) = true →
    Gives (.ruuService r) s fun t => (t.dev.ruu r).queue = rest ∧
      (t.dev.ruu r).service = (s.chip.dev.ruu r).service ++
        [{ req := q, row := row, at0 := s.chip.dev.cyc, mode := m, gen := s.chip.dev.get GLB.COMMIT_STAT.Gen, behind := true,
           left := row.filter fun l => (s.chip.dev.ruu r).service.any fun v => conflicts row v && v.row.contains l }]) ∧
  (∀ (s : State) (r m : Nat) (q : ReqKind) (rest : List ReqKind) (row : List Loc), s.chip.dev.pathMoves = true →
    (s.chip.dev.ruu r).queue = q :: rest → s.chip.dev.get RCC.CFG.Mode r = m → (s.chip.upd (·.underMode r m)).rowOf r q = row →
    (s.chip.dev.ruu r).rows < 32 → (s.chip.dev.ruu r).service.any (conflicts row) = false →
    (s.chip.dev.underMode r m).missing r q ≠ [] →
    Gives (.ruuService r) s fun t => (t.dev.ruu r).queue = rest ∧
      (t.dev.ruu r).service = (s.chip.dev.ruu r).service ++
        [{ req := q, row := row, at0 := s.chip.dev.cyc, mode := m, gen := s.chip.dev.get GLB.COMMIT_STAT.Gen,
           mem := (((s.chip.dev.underMode r m).missing r q).filter fun l => l.channel != r).map fun l =>
             { target := l.channel, write := false, loc := l, at0 := s.chip.dev.cyc, state := .sent } }]) ∧
  (∀ (s : State) (home target i : Nat) (v : Service), s.chip.dev.pathMoves = true →
    ((s.chip.dev.ruu home).service.zipIdx.find? fun p => p.1.mem.any fun m => m.state == .sent && m.target == target) = some (v, i) →
    Gives (.memoryRequest home target) s fun t =>
      (t.dev.ruu home).service = (s.chip.dev.ruu home).service.set i { v with mem := moveMem target .sent .performed v.mem }) ∧
  (∀ (s : State) (home target i : Nat) (v : Service), s.chip.dev.pathMoves = true →
    ((s.chip.dev.ruu home).service.zipIdx.find? fun p => p.1.mem.any fun m => m.state == .performed && m.target == target) = some (v, i) →
    Gives (.memoryRequestDone home target) s fun t =>
      (t.dev.ruu home).service = (s.chip.dev.ruu home).service.set i { v with mem := moveMem target .performed .returned v.mem }) ∧
  (∀ (s : State) (r u : Nat), ((s.chip.dev.ruu r).lines.filterMap (·.young)).min? = some u →
    Gives (.youngExpire r) s fun t => u ≤ t.dev.cyc ∧ ∀ e ∈ (t.dev.ruu r).lines, ∀ v, e.young = some v → t.dev.cyc < v)

/-- While the data path moves: PIN_UPDATE whose turn has come, of a cached, valid record with the handle carried and MemberValid 0,
writes the member and MemberValid 1 into the line. RUU_SERVICE_RESUME of a migration step whose memory requests have all returned,
alone in service, moves the cursor past its position and ends its service; that of a packet that has lost no slot, whose digest no
slot holds and whose miss mode is 3, gives the packet its Drop action. WAY_TIMEOUT of a packet's memory request, alone in service,
gives the packet the Spillway action once WayTimeout's time has passed since the request was sent. A write of RCC.CFG.Mode sets
Mode, and sets Flushing where it changes the mode to 1 or 2. RCC.CTL_C.Flush sets Flushing. RCC_FLUSH_DONE clears Flushing, and
leaves no line where a change to Mode 2 is to empty the partition. A POISON_CMD Clear that is not busy is refused where the epoch
or the location's RUU does not match; otherwise, with work ahead of it, it waits in the RUU's queue with Busy set. Of each of
these forms, under the conditions given, the conclusion is that exec answers a next state: pinUpdate, ruuServiceResume,
wayTimeout, rccModeWrite, rccFlush, rccFlushDone, poisonClear. (05_record_update_units.md: Pinning (R168), timeouts (R147), cache
modes (R150), errors (R170), poison clears (R172); 04_flow_table.md: Migration (R133).) -/
def Obligations.RuuServes : Prop :=
  (∀ (s : State) (r h m : Nat) (l : Loc) (rest : List ReqKind) (x : Line), s.chip.dev.pathMoves = true →
    (s.chip.dev.ruu r).queue = .pin l h m :: rest → (s.chip.dev.ruu r).service = [] → l.ruu = r →
    (s.chip.dev.underMode r (s.chip.dev.get RCC.CFG.Mode r)).cached l = some x →
    recValid x.image = true → recHandle x.image = h → bit (recAct x.image) 31 = false →
    Gives (.pinUpdate r) s fun t =>
      (t.dev.cached l).map (·.image) = some (putBits (putBits x.image 448 12 m) 479 1 1) ∧ (t.dev.ruu r).queue = rest) ∧
  (∀ (s : State) (r k : Nat) (err : Bool) (v : Service), s.chip.dev.pathMoves = true → (s.chip.dev.ruu r).service = [v] →
    v.req = .migrate k → v.behind = false → v.mem.all (·.state == .returned) = true → v.round ≠ 0 →
    Gives (.ruuServiceResume r err) s fun t => (t.dev.ruu r).cursor = k + 1 ∧ (t.dev.ruu r).service = []) ∧
  (∀ (s : State) (r pid : Nat) (v : Service), s.chip.dev.pathMoves = true → (s.chip.dev.ruu r).service = [v] →
    v.req = .packet pid → v.behind = false → v.mem.all (·.state == .returned) = true → v.round = 0 →
    (s.chip.dev.underMode r v.mode).badReads r v.req v.left false = [] →
    ((s.chip.upd (·.underMode r v.mode)).hit (s.chip.dev.pkt pid).digest).1 = none →
    bits ((s.chip.dev.tplOf (s.chip.dev.pkt pid).gen).word (s.chip.dev.cfgOf (s.chip.dev.pkt pid).gen PRS.KP_TPL.TplSel
      (s.chip.dev.pkt pid).slice (s.chip.dev.pkt pid).profile) 0) 4 2 = 3 →
    Gives (.ruuServiceResume r false) s fun t =>
      (t.dev.pkt pid).action = some (actionWord 1 false false 3 0 0 false 0 0 none) ∧ (t.dev.ruu r).service = []) ∧
  (∀ (s : State) (r pid : Nat) (v : Service), s.chip.dev.pathMoves = true → (s.chip.dev.ruu r).service = [v] → v.req = .packet pid →
    v.behind = false → v.mem.any (·.state != .returned) = true →
    Gives (.wayTimeout r) s fun t => (t.dev.pkt pid).action = some spillAction ∧ (t.dev.ruu r).service = [] ∧
      ∀ m, v.mem.find? (·.state != .returned) = some m →
        m.at0 + 64 * max 1 (s.chip.dev.get RUU.CFG.WayTimeout r) ≤ t.dev.cyc) ∧
  (∀ (s : State) (fn r mode : Nat), s.chip.dev.opens fn .rcc r = true →
    Gives (.rccModeWrite fn r mode) s (fun t => t.dev.get RCC.CFG.Mode r = mode % 4 ∧
      (min 2 (mode % 4) ≠ min 2 (s.chip.dev.get RCC.CFG.Mode r) → mode % 4 ≠ 0 → t.dev.get RCC.STAT_C.Flushing r = 1)) ∧
    Gives (.rccFlush fn r) s (fun t => t.dev.get RCC.STAT_C.Flushing r = 1)) ∧
  (∀ (s : State) (r : Nat), s.chip.dev.flag RCC.STAT_C.Flushing r = true →
    Gives (.rccFlushDone r) s fun t => t.dev.get RCC.STAT_C.Flushing r = 0 ∧
      ((s.chip.dev.ruu r).emptying = true → (t.dev.ruu r).lines = [])) ∧
  (∀ (s : State) (fn r : Nat), s.chip.dev.opens fn .ruu r = true → s.chip.dev.flag RUU.POISON_STAT.Busy r = false →
    Gives (.poisonClear fn r) s fun t =>
      if s.chip.dev.get RUU.POISON_EPOCH.Epoch r ≠ s.chip.dev.get FTB.EPOCH.Epoch ∨ (locOfWord (s.chip.dev.get RUU.POISON_LOC.Loc r)).ruu ≠ r
      then t.dev.get RUU.POISON_STAT.Refused r = 1
      else t.dev.get RUU.POISON_STAT.Refused r = 0 ∧
        ((s.chip.dev.ruu r).queue ≠ [] → t.dev.get RUU.POISON_STAT.Busy r = 1 ∧
          (t.dev.ruu r).waiting = (s.chip.dev.ruu r).waiting ++ [.poison (locOfWord (s.chip.dev.get RUU.POISON_LOC.Loc r))]))

/-- For a function whose writes FTB accepts, with no command Busy and FTB accepting work: INSERT, REPLACE, LOOKUP and DELETE set Busy
and Op and, where the key's home RUU has work ahead of them, wait there with the operands taken; READLOC and DELETELOC do the same
at the RUU of CMD_LOC. READANNEX of a handle in use whose annex entry can be read, in phase 2 or above, loads CMD_KEY with the 48
bytes of its annex and has Result 0. SETGEOM under the conditions of R131 applies the geometry, active set 0, and enters Clear.
RESIZE under those of R132 enters ResizeClear for the target. REKEY of an empty, Ready table draws a new digest key. Each sets
Busy. A Go while Busy, or while FTB stops new work, sets Done with Result 7 and starts nothing. FTB_CMD_DONE of a command whose
result is ready clears Busy, sets Done and Result, and signals. Of each of these forms, under the conditions given, the conclusion
is that exec answers a next state: ftbInsert, ftbReplace, ftbLookup, ftbDelete, ftbReadloc, ftbDeleteloc, ftbReadannex,
ftbSetgeom, ftbResize, ftbRekey, ftbCmdDone. (04_flow_table.md: Host commands (R125, R126, R127), SetGeom (R131), Resize (R132),
Rekey (R110).) -/
def Obligations.FlowCommands : Prop :=
  (∀ (s : State) (fn r : Nat), s.chip.dev.opens fn .ftb 0 = true → s.chip.dev.takesGo = true →
    homeRuu (cmacWhole s.chip.dev.ftb.digestKey 3 (sliceB s.chip.dev.cmdKey 0 48)) = r → (s.chip.dev.ruu r).queue ≠ [] →
    ∀ p ∈ [(Instr.ftbInsert fn, 1), (.ftbReplace fn, 2), (.ftbLookup fn, 3), (.ftbDelete fn, 4)],
      Gives p.1 s fun t => t.dev.get FTB.CMD_STAT.Busy = 1 ∧ t.dev.get FTB.CMD_CTL.Op = p.2 ∧
        (t.dev.ruu r).waiting = (s.chip.dev.ruu r).waiting ++ [.host (s.chip.dev.hostCmd p.2)]) ∧
  (∀ (s : State) (fn r : Nat), s.chip.dev.opens fn .ftb 0 = true → s.chip.dev.takesGo = true →
    s.chip.dev.get FTB.CMD_LOC.Ruu = r → r < 384 → (s.chip.dev.ruu r).queue ≠ [] →
    ∀ p ∈ [(Instr.ftbReadloc fn, 5), (.ftbDeleteloc fn, 6)],
      Gives p.1 s fun t => t.dev.get FTB.CMD_STAT.Busy = 1 ∧ t.dev.get FTB.CMD_CTL.Op = p.2 ∧
        (t.dev.ruu r).waiting = (s.chip.dev.ruu r).waiting ++ [.host (s.chip.dev.hostCmd p.2)]) ∧
  (∀ (s : State) (fn : Nat), s.chip.dev.opens fn .ftb 0 = true → s.chip.dev.takesGo = true → 2 ≤ s.chip.dev.phase →
    s.chip.dev.handleUsed (s.chip.dev.get FTB.CMD_HANDLE.Handle) = true →
    s.chip.dev.spanBad (annexAddr (s.chip.dev.get FTB.CMD_HANDLE.Handle)) 48 = false →
    Gives (.ftbReadannex fn false) s fun t => t.dev.get FTB.CMD_STAT.Busy = 1 ∧ t.dev.ftb.cmdDone = some 0 ∧
      ∀ j, j < 12 → t.dev.get FTB.CMD_KEY.Key 0 j =
        ofLE (((Mem.readN s.chip.hbm (annexAddr (s.chip.dev.get FTB.CMD_HANDLE.Handle)) 48).drop (4 * j)).take 4)) ∧
  (∀ (s : State) (fn x n : Nat), s.chip.dev.opens fn .ftb 0 = true → s.chip.dev.takesGo = true →
    s.chip.dev.get FTB.RECORDS.Records = 0 → s.chip.dev.flag FTB.EXPORT_STAT.Active = false →
    (s.chip.dev.phase = 0 ∨ s.chip.dev.phase = 2) → s.chip.dev.get FTB.GEOM_CFG.MaxLog2 = x → s.chip.dev.get FTB.GEOM_CFG.TargetLog2 = n →
    24 ≤ n → n ≤ x → x ≤ 30 →
    Gives (.ftbSetgeom fn) s fun t => t.dev.get FTB.CMD_STAT.Busy = 1 ∧ t.dev.ftb.cmdDone = some 0 ∧ t.dev.get FTB.GEOM_STAT.MaxLog2 = x ∧
      t.dev.get FTB.GEOM_STAT.CapLog2 = n ∧ t.dev.get FTB.GEOM_STAT.ActiveSet = 0 ∧ t.dev.phase = 1) ∧
  (∀ (s : State) (fn : Nat), s.chip.dev.opens fn .ftb 0 = true → s.chip.dev.takesGo = true → s.chip.dev.phase = 2 →
    s.chip.dev.flag FTB.EXPORT_STAT.Active = false → s.chip.dev.get FTB.GEOM_CFG.TargetLog2 ≠ s.chip.dev.get FTB.GEOM_STAT.CapLog2 →
    24 ≤ s.chip.dev.get FTB.GEOM_CFG.TargetLog2 →
    s.chip.dev.get FTB.GEOM_CFG.TargetLog2 ≤ min (s.chip.dev.get FTB.GEOM_STAT.MaxLog2) 29 → 24 ≤ s.chip.dev.get FTB.GEOM_STAT.CapLog2 →
    s.chip.dev.get FTB.GEOM_STAT.CapLog2 ≤ min (s.chip.dev.get FTB.GEOM_STAT.MaxLog2) 29 →
    s.chip.dev.get FTB.RECORDS.Records ≤ 2 ^ s.chip.dev.get FTB.GEOM_CFG.TargetLog2 → (∀ k, k < 6 → s.chip.dev.caseTemp k ≤ 95) →
    Gives (.ftbResize fn) s fun t => t.dev.get FTB.CMD_STAT.Busy = 1 ∧ t.dev.ftb.cmdDone = some 0 ∧ t.dev.phase = 3 ∧
      t.dev.ftb.target = s.chip.dev.get FTB.GEOM_CFG.TargetLog2) ∧
  (∀ (s : State) (fn : Nat), s.chip.dev.opens fn .ftb 0 = true → s.chip.dev.takesGo = true →
    s.chip.dev.get FTB.RECORDS.Records = 0 → s.chip.dev.phase = 2 →
    Gives (.ftbRekey fn) s fun t => t.dev.get FTB.CMD_STAT.Busy = 1 ∧ t.dev.ftb.cmdDone = some 0 ∧
      t.dev.ftb.digestKey = (s.chip.dev.draw 4).1 ∧ t.dev.free = s.chip.dev.free + 4) ∧
  (∀ (s : State) (fn : Nat), s.chip.dev.opens fn .ftb 0 = true → s.chip.dev.takesGo = false →
    ∀ c ∈ [Instr.ftbInsert fn, .ftbReplace fn, .ftbLookup fn, .ftbDelete fn, .ftbReadloc fn, .ftbDeleteloc fn, .ftbReadannex fn false,
        .ftbSetgeom fn, .ftbResize fn, .ftbRekey fn],
      Gives c s fun t => t.dev.get FTB.CMD_STAT.Done = 1 ∧ t.dev.get FTB.CMD_STAT.Result = 7 ∧ t.dev.ftb = s.chip.dev.ftb ∧
        t.dev.ruus = s.chip.dev.ruus) ∧
  (∀ (s : State) (r : Nat), s.chip.dev.ftb.cmdDone = some r →
    Gives .ftbCmdDone s fun t => t.dev.get FTB.CMD_STAT.Busy = 0 ∧ t.dev.get FTB.CMD_STAT.Done = 1 ∧
      t.dev.get FTB.CMD_STAT.Result = r % 2 ^ FTB.CMD_STAT.Result.w ∧ t.dev.ftb.cmd = none ∧ t.dev.ftb.cmdDone = none ∧
      bit (t.dev.get (HDR.IRQ_STATUS .ftb)) 0 = true)

/-- CLEAR_DONE in Clear zeroes the annex and table set 0 and leaves every other byte of HBM; every handle below the capacity becomes
unused, and the phase is Ready. RESIZECLEAR_DONE in ResizeClear zeroes the set that is not active and leaves every other byte; the
epoch advances, every cursor is 0, and the phase is Move. MIGRATION_STEP in Move of an RUU that is not finished, holds no step and
has work ahead sends the step of its cursor to its queue. MOVE_DONE, once every RUU is finished, makes the other set active at the
target capacity, advances the epoch, and the phase is Ready. Of each of these forms, under the conditions given, the conclusion is
that exec answers a next state: clearDone, resizeclearDone, migrationStep, moveDone. (04_flow_table.md: Phases (R130), Clear
(R131), Move (R133), handles on a resize (R135).) -/
def Obligations.FlowGeometry : Prop :=
  (∀ (s : State) (x n lo hi : Nat), s.chip.dev.phase = 1 → s.chip.dev.get FTB.GEOM_STAT.MaxLog2 = x →
    s.chip.dev.get FTB.GEOM_STAT.CapLog2 = n → setRange x n 0 = (lo, hi) →
    Gives .clearDone s fun t => t.dev.phase = 2 ∧ t.dev.ftb.taken = [] ∧ t.dev.ftb.issueCap = 2 ^ n ∧
      ∀ a, Mem.read t.hbm a =
        if a % 2 ^ 29 < annexSize x ∨ (lo ≤ a % 2 ^ 29 ∧ a % 2 ^ 29 < hi) then 0 else Mem.read s.chip.hbm a) ∧
  (∀ (s : State) (lo hi : Nat), s.chip.dev.phase = 3 →
    setRange (s.chip.dev.get FTB.GEOM_STAT.MaxLog2) s.chip.dev.ftb.target (1 - s.chip.dev.get FTB.GEOM_STAT.ActiveSet) = (lo, hi) →
    Gives .resizeclearDone s fun t => t.dev.phase = 4 ∧
      t.dev.get FTB.EPOCH.Epoch = (s.chip.dev.get FTB.EPOCH.Epoch + 1) % 2 ^ FTB.EPOCH.Epoch.w ∧
      (∀ r, r < 384 → (t.dev.ruu r).cursor = 0) ∧
      ∀ a, Mem.read t.hbm a = if lo ≤ a % 2 ^ 29 ∧ a % 2 ^ 29 < hi then 0 else Mem.read s.chip.hbm a) ∧
  (∀ (s : State) (r : Nat), s.chip.dev.phase = 4 → s.chip.dev.ftb.stuck = false → r < 384 →
    (s.chip.dev.ruu r).cursor < slotsOf (s.chip.dev.get FTB.GEOM_STAT.CapLog2) r →
    (∀ k, .migrate k ∉ (s.chip.dev.ruu r).waiting ++ (s.chip.dev.ruu r).queue ++ (s.chip.dev.ruu r).service.map (·.req)) →
    (s.chip.dev.ruu r).queue ≠ [] →
    Gives (.migrationStep r) s fun t =>
      (t.dev.ruu r).waiting = (s.chip.dev.ruu r).waiting ++ [.migrate (s.chip.dev.ruu r).cursor]) ∧
  (∀ (s : State), s.chip.dev.phase = 4 →
    (∀ r, r < 384 → slotsOf (s.chip.dev.get FTB.GEOM_STAT.CapLog2) r ≤ (s.chip.dev.ruu r).cursor) →
    Gives .moveDone s fun t => t.dev.phase = 2 ∧
      t.dev.get FTB.GEOM_STAT.ActiveSet = (1 - s.chip.dev.get FTB.GEOM_STAT.ActiveSet) % 2 ∧
      t.dev.get FTB.GEOM_STAT.CapLog2 = s.chip.dev.ftb.target % 2 ^ FTB.GEOM_STAT.CapLog2.w ∧
      t.dev.get FTB.EPOCH.Epoch = (s.chip.dev.get FTB.EPOCH.Epoch + 1) % 2 ^ FTB.EPOCH.Epoch.w)

/-- SWEEP_STEP, with sweeping enabled and the RUU neither finished with the pass nor holding a step, sends the step of its position to
its queue where work is ahead of it; EXPORT_READ does the same in an active export whose channel has room. STOCK_REFILL of a stock
of 128 or fewer takes 128 handles, or what the pool holds; STOCK_RETURN of a stock above 384 gives 128 back. REBIRTH_EXPIRE moves
on to the end of the oldest removal's window and keeps only removals still within theirs. RECORD_CLOCK_TICK and METER_CLOCK_TICK
advance their clock by 1. RCLK_READ answers the record clock and latches device time beside it. EXPORT_START of a Ready table with
no export active starts one with Entries 0, and any other is refused; EXPORT_STOP ends an active one as Aborted. Of each of these
forms, under the conditions given, the conclusion is that exec answers a next state: sweepStep, exportRead, stockRefill,
stockReturn, rebirthExpire, recordClockTick, meterClockTick, rclkRead, exportStart, exportStop. (04_flow_table.md: Sweeping
(R118), handle stocks (R114), rebirth (R120), record clock (R107, R108), export (R129); 05_record_update_units.md: Meter clock
(R161).) -/
def Obligations.FlowUpkeep : Prop :=
  (∀ (s : State) (r : Nat), r < 384 → 2 ≤ s.chip.dev.phase → s.chip.dev.flag FTB.CTL_FT.SweepEnable = true →
    r ∉ s.chip.dev.ftb.sweepDone → (s.chip.dev.ruu r).sweepPos < slotsOf s.chip.dev.newSet.2 r →
    (∀ k, .sweep k ∉ (s.chip.dev.ruu r).waiting ++ (s.chip.dev.ruu r).queue ++ (s.chip.dev.ruu r).service.map (·.req)) →
    (s.chip.dev.ruu r).queue ≠ [] →
    Gives (.sweepStep r) s fun t => (t.dev.ruu r).waiting = (s.chip.dev.ruu r).waiting ++ [.sweep (s.chip.dev.ruu r).sweepPos]) ∧
  (∀ (s : State) (r : Nat), r < 384 → s.chip.dev.flag FTB.EXPORT_STAT.Active = true →
    s.chip.dev.streamRoom (s.chip.dev.get FTB.EXPORT_CFG.Channel) = true →
    (s.chip.dev.ruu r).exportPos < slotsOf (s.chip.dev.get FTB.GEOM_STAT.CapLog2) r →
    (∀ k w, .exportRead k w ∉ (s.chip.dev.ruu r).waiting ++ (s.chip.dev.ruu r).queue ++ (s.chip.dev.ruu r).service.map (·.req)) →
    (s.chip.dev.ruu r).queue ≠ [] →
    Gives (.exportRead r) s fun t => (t.dev.ruu r).waiting = (s.chip.dev.ruu r).waiting ++ [.exportRead (s.chip.dev.ruu r).exportPos s.chip.dev.ftb.walk]) ∧
  (∀ (s : State) (r : Nat), r < 384 → 2 ≤ s.chip.dev.phase → (s.chip.dev.ruu r).stock.length ≤ 128 → s.chip.dev.poolFree ≠ 0 →
    Gives (.stockRefill r) s fun t => (t.dev.ruu r).stock.length = (s.chip.dev.ruu r).stock.length + min 128 s.chip.dev.poolFree) ∧
  (∀ (s : State) (r : Nat), 384 < (s.chip.dev.ruu r).stock.length →
    Gives (.stockReturn r) s fun t => (t.dev.ruu r).stock.length + 128 = (s.chip.dev.ruu r).stock.length) ∧
  (∀ (s : State) (r dg at0 w : Nat), (s.chip.dev.ruu r).recent.getLast? = some (dg, at0) →
    nsCyc (1000 * s.chip.dev.get FTB.REBIRTH_CFG.Window) = w →
    Gives (.rebirthExpire r) s fun t => at0 + w ≤ t.dev.cyc ∧
      (t.dev.ruu r).recent = (s.chip.dev.ruu r).recent.filter fun e => decide (t.dev.cyc < e.2 + w)) ∧
  (∀ (s : State) (c : Nat), s.chip.dev.pllAt = some c → c ≤ s.chip.dev.cyc →
    Gives .recordClockTick s (fun t => t.dev.rclk = (s.chip.dev.rclk + 1) % 2 ^ 32) ∧
    Gives .meterClockTick s (fun t => t.dev.mclk = (s.chip.dev.mclk + 1) % 2 ^ 32)) ∧
  (∀ (s : State) (fn : Nat), s.chip.dev.opens fn .ftb 0 = true →
    Gives (.rclkRead fn) s (fun t => t.dev.lastRead = some (.readData fn (toLE 4 s.chip.dev.rclk)) ∧
      t.dev.get FTB.RCLK_NS.Nanoseconds = dtNs s.chip.dev.dt % 2 ^ FTB.RCLK_NS.Nanoseconds.w ∧
      t.dev.get FTB.RCLK_SEC_LO.SecondsLo = dtSec s.chip.dev.dt % 2 ^ 32 ∧
      t.dev.get FTB.RCLK_SEC_HI.SecondsHi = dtSec s.chip.dev.dt / 2 ^ 32 % 2 ^ FTB.RCLK_SEC_HI.SecondsHi.w) ∧
    Gives (.exportStart fn) s (fun t =>
      if s.chip.dev.phase = 2 ∧ s.chip.dev.flag FTB.EXPORT_STAT.Active = false then
        t.dev.get FTB.EXPORT_STAT.Active = 1 ∧ t.dev.get FTB.EXPORT_COUNT.Entries = 0 ∧ ∀ r, r < 384 → (t.dev.ruu r).exportPos = 0
      else t.dev.get FTB.EXPORT_STAT.Refused = 1)) ∧
  (∀ (s : State) (fn : Nat), s.chip.dev.opens fn .ftb 0 = true → s.chip.dev.flag FTB.EXPORT_STAT.Active = true →
    Gives (.exportStop fn) s fun t => t.dev.get FTB.EXPORT_STAT.Active = 0 ∧ t.dev.get FTB.EXPORT_STAT.Aborted = 1)

/-- For a function whose writes LPM accepts: ROUTE_CMD Add of a legal length, within the staging capacity, route SRAM and the length
limit of R236, appends the route to the staging; Delete of a route present in the staged view appends its removal; a short route
starts an expansion. Either is refused with Reason 5 for too long a length, then Reason 3 for full staging; Delete of an absent
route is refused with Reason 4; a refused write stages nothing. ROUTE_CMD Read loads the active result with Found 1, or clears
Found. NH_CMD Write within capacity appends the next hop in NH_DATA, and Read loads the active one. A write of the upper word of
SMAC[k] stages both words, the lower one written before. ROUTE_EXPANSION_DONE ends one expansion. None of the writes changes the
active tables. Of each of these forms, under the conditions given, the conclusion is that exec answers a next state: routeAdd,
routeDelete, routeRead, nhRead, nhWrite, smacWrite, routeExpansionDone. (08_forwarding_tables.md: Routes (R236, R238, R239), next
hops and SMAC (R551); 02_register_model.md: Staging (R46), 64-bit registers (R45).) -/
def Obligations.LpmCommands : Prop :=
  (∀ (s : State) (d : Dev) (fn : Nat) (k : RouteKey) (w : StgWrite), s.chip.dev = d → d.opens fn .lpm 0 = true → d.routeKey = k →
    w = .route k (some (d.get LPM.ROUTE_DATA.Route)) → k.len ≤ famBits k.v6 → d.stgUsed lpmBit 0 + 1 ≤ lpmCap →
    d.unitsWith k ≤ 8388608 → (k.v6 = true → 16 < k.len → ((d.staged.apply w).lengthsAt k.pfx).length ≤ 16) →
    Gives (.routeAdd fn) s fun t => t.dev.stg = d.stg ++ [⟨lpmBit, 0, 1, w⟩] ∧ t.dev.fwd = d.fwd ∧
      t.dev.expand = d.expand + (if k.len ≤ 16 then 1 else 0)) ∧
  (∀ (s : State) (d : Dev) (fn : Nat) (k : RouteKey), s.chip.dev = d → d.opens fn .lpm 0 = true → d.routeKey = k →
    k.len ≤ famBits k.v6 → d.stgUsed lpmBit 0 + 1 ≤ lpmCap → (d.staged.route k).isSome = true →
    Gives (.routeDelete fn) s fun t => t.dev.stg = d.stg ++ [⟨lpmBit, 0, 1, .route k none⟩] ∧ t.dev.fwd = d.fwd ∧
      t.dev.expand = d.expand + (if k.len ≤ 16 then 1 else 0)) ∧
  (∀ (s : State) (d : Dev) (fn : Nat) (k : RouteKey), s.chip.dev = d → d.opens fn .lpm 0 = true → d.routeKey = k →
    ∀ c ∈ [Instr.routeAdd fn, .routeDelete fn], ∀ why,
      (famBits k.v6 < k.len ∧ why = 5) ∨ (k.len ≤ famBits k.v6 ∧ lpmCap < d.stgUsed lpmBit 0 + 1 ∧ why = 3) ∨
        (c = .routeDelete fn ∧ k.len ≤ famBits k.v6 ∧ d.stgUsed lpmBit 0 + 1 ≤ lpmCap ∧ d.staged.route k = none ∧ why = 4) →
      Gives c s fun t => t.dev.stg = d.stg ∧ t.dev.fwd = d.fwd ∧ t.dev.expand = d.expand ∧
        t.dev.get LPM.ROUTE_STAT.Refused = 1 ∧ t.dev.get LPM.ROUTE_STAT.Reason = why) ∧
  (∀ (s : State) (d : Dev) (fn : Nat), s.chip.dev = d → d.opens fn .lpm 0 = true →
    Gives (.routeRead fn) s (fun t => match d.fwd.route d.routeKey with
      | some r => t.dev.get LPM.ROUTE_STAT.Found = 1 ∧ t.dev.get LPM.ROUTE_DATA.Route = r % 2 ^ LPM.ROUTE_DATA.Route.w
      | none => t.dev.get LPM.ROUTE_STAT.Found = 0) ∧
    Gives (.nhRead fn) s (fun t => ∀ v, Tab.get {} d.fwd.nhs (d.get LPM.NH_SEL.Index) = v →
      t.dev.nhData.dmac = v.dmac % 2 ^ 48 ∧ t.dev.nhData.vlan = v.vlan % 2 ^ LPM.NH_DATA1.Vlan.w ∧
      t.dev.nhData.port = v.port % 2 ^ LPM.NH_DATA2.Port.w ∧ t.dev.nhData.smac = v.smac % 2 ^ LPM.NH_DATA2.SmacIdx.w ∧
      t.dev.nhData.decTtl = v.decTtl ∧ t.dev.nhData.valid = v.valid) ∧
    (d.stgUsed lpmBit 0 + 1 ≤ lpmCap → Gives (.nhWrite fn) s fun t =>
      t.dev.stg = d.stg ++ [⟨lpmBit, 0, 1, .nextHop (d.get LPM.NH_SEL.Index) d.nhData⟩] ∧ t.dev.fwd = d.fwd)) ∧
  (∀ (s : State) (d : Dev) (fn k data lo : Nat), s.chip.dev = d → d.opens fn .lpm 0 = true → k < 64 → d.stgUsed lpmBit 0 + 1 ≤ lpmCap →
    Tab.get (d.get LPM.SMAC.SmacLo 0 k) d.fab.hold (Blk.lpm.base 0 + 0x300 + 8 * k) = lo →
    Gives (.smacWrite fn k data) s fun t =>
      t.dev.stg = d.stg ++ [⟨lpmBit, 0, 1, .reg (LPM.SMAC.SmacLo.key 0 k) lo⟩, ⟨lpmBit, 0, 0, .reg (LPM.SMAC.SmacHi.key 0 k) (data % 2 ^ 16)⟩] ∧
      t.dev.act = d.act) ∧
  (∀ (s : State), Gives .routeExpansionDone s fun t => t.dev.expand = s.chip.dev.expand - 1 ∧ t.dev.stg = s.chip.dev.stg)

/-- For a function whose writes L2T accepts: CMD Add within capacity stages the entry; Delete of a key present in the staged view
stages its removal; Read loads the active entry with Found 1 and its Learned bit, or clears both. VLAN_CMD Write stages the VLAN
entry and Read loads the active one. LEARN_REQUEST takes the oldest request: an unknown source is learned in an empty candidate
slot, a known source on the same port has its Hit set, and both frames need no flooding for it. L2_AGER_VISIT, with aging on,
moves on to the slot's visit time, AgeTime ÷ 2 after the last, removes a dynamic entry whose Hit is 0, and clears Hit of any
other. Of each of these forms, under the conditions given, the conclusion is that exec answers a next state: l2Add, l2Delete,
l2Read, vlanWrite, vlanRead, learnRequest, l2AgerVisit. (08_forwarding_tables.md: Learning (R241, R242), host entries (R243),
aging (R244).) -/
def Obligations.L2Commands : Prop :=
  (∀ (s : State) (d : Dev) (fn m v : Nat), s.chip.dev = d → d.opens fn .l2t 0 = true → d.l2Key = (m, v) →
    (d.stgUsed l2tBit 0 + 1 ≤ l2tCap → Gives (.l2Add fn) s fun t => t.dev.stg = d.stg ++
      [⟨l2tBit, 0, 1, .l2 m v (some (d.get L2T.DATA.Port, d.flag L2T.DATA.Static, d.flag L2T.DATA.Router))⟩] ∧ t.dev.l2 = d.l2) ∧
    (d.stgUsed l2tBit 0 + 1 ≤ l2tCap → d.l2Staged m v = true → Gives (.l2Delete fn) s fun t =>
      t.dev.stg = d.stg ++ [⟨l2tBit, 0, 1, .l2 m v none⟩] ∧ t.dev.l2 = d.l2) ∧
    Gives (.l2Read fn) s (fun t => match d.l2Find m v with
      | none => t.dev.get L2T.STAT.Found = 0 ∧ t.dev.get L2T.STAT.Learned = 0
      | some (_, e) => t.dev.get L2T.STAT.Found = 1 ∧ t.dev.get L2T.STAT.Learned = b2n e.learned ∧
          t.dev.get L2T.DATA.Port = e.port % 2 ^ L2T.DATA.Port.w ∧ t.dev.get L2T.DATA.Static = b2n e.static ∧
          t.dev.get L2T.DATA.Router = b2n e.router)) ∧
  (∀ (s : State) (d : Dev) (fn : Nat), s.chip.dev = d → d.opens fn .l2t 0 = true →
    (d.stgUsed l2tBit 0 + 1 ≤ l2tCap → Gives (.vlanWrite fn) s fun t => t.dev.stg = d.stg ++
      [⟨l2tBit, 0, 1, .vlan (d.get L2T.VLAN_SEL.Vlan) (d.get L2T.VLAN_DATA.FloodGroup) (d.flag L2T.VLAN_DATA.LearnEn)⟩]) ∧
    Gives (.vlanRead fn) s (fun t =>
      t.dev.get L2T.VLAN_DATA.FloodGroup = (d.vlanOf (d.get L2T.VLAN_SEL.Vlan)).1 % 2 ^ L2T.VLAN_DATA.FloodGroup.w ∧
      t.dev.get L2T.VLAN_DATA.LearnEn = b2n (d.vlanOf (d.get L2T.VLAN_SEL.Vlan)).2)) ∧
  (∀ (s : State) (d : Dev) (pid : Nat) (rest : List Nat) (p : Pkt), s.chip.dev = d → d.l2.reqs = pid :: rest →
    Tab.find d.pkts pid = some p →
    (∀ slot e, d.l2Find (macNum p.parsed.smac) p.vlan = some (slot, e) → e.port = p.port → Gives .learnRequest s fun t =>
      t.dev.l2.reqs = rest ∧ Tab.find t.dev.l2.ents slot = some { e with hit := true } ∧ (t.dev.pkt pid).look.learn = 0) ∧
    (∀ slot, d.l2Find (macNum p.parsed.smac) p.vlan = none →
      ((d.l2Slots (macNum p.parsed.smac) p.vlan).find? fun k => (Tab.find d.l2.ents k).isNone) = some slot →
      Gives .learnRequest s fun t => t.dev.l2.reqs = rest ∧ (t.dev.pkt pid).look.learn = 0 ∧
        ∃ e, Tab.find t.dev.l2.ents slot = some e ∧ e.mac = macNum p.parsed.smac ∧ e.vlan = p.vlan ∧ e.port = p.port ∧ e.static = false ∧
          e.router = false ∧ e.learned = true ∧ e.hit = true ∧ e.at0 = d.usNow)) ∧
  (∀ (s : State) (d : Dev) (slot : Nat) (e : L2Entry), s.chip.dev = d → d.get L2T.CFG.AgeTime ≠ 0 → Tab.find d.l2.ents slot = some e →
    Gives (.l2AgerVisit slot) s fun t => d.nextVisit slot ≤ t.dev.cyc ∧
      Tab.find t.dev.l2.ents slot = (if e.static = false ∧ e.hit = false then none else some { e with hit := false }) ∧
      ∀ k, k ≠ slot → Tab.find t.dev.l2.ents k = Tab.find d.l2.ents k)

/-- For a function whose writes ECM accepts: GRP_CMD Write of a group within its ranges and pools stages it, and of any other is
refused with Reason 1; SLOT_CMD Write stages the slot where its State is not 3, and is refused with Reason 1 where it is. Reads
load the active group or slot. GRP_CMD Rebuild of a group with slots, whose bucket count is legal, stages exactly the buckets
whose slot changes and sets Busy; in Mode 0, with an Active slot, bucket b of the staged view then holds the Active slot of number
b modulo their count. REBUILD_DONE clears Busy. Of each of these forms, under the conditions given, the conclusion is that exec
answers a next state: grpWrite, slotWrite, grpRead, slotRead, rebuild, rebuildDone. (08_forwarding_tables.md: Multipath groups
(R245, R248).) -/
def Obligations.EcmCommands : Prop :=
  (∀ (s : State) (d : Dev) (fn : Nat), s.chip.dev = d → d.opens fn .ecm 0 = true →
    (d.stgUsed ecmBit 0 + 1 ≤ ecmCap → d.grpData.ok = true → Gives (.grpWrite fn) s fun t =>
      t.dev.stg = d.stg ++ [⟨ecmBit, 0, 1, .ecmGroup (d.get ECM.GRP_SEL.Group) d.grpData⟩]) ∧
    (d.grpData.ok = false → Gives (.grpWrite fn) s fun t =>
      t.dev.stg = d.stg ∧ t.dev.get ECM.STAT.Refused = 1 ∧ t.dev.get ECM.STAT.Reason = 1) ∧
    (d.stgUsed ecmBit 0 + 1 ≤ ecmCap → d.get ECM.SLOT_DATA.State ≠ 3 → Gives (.slotWrite fn) s fun t =>
      t.dev.stg = d.stg ++ [⟨ecmBit, 0, 1, .ecmSlot (d.get ECM.SLOT_SEL.Slot) ⟨d.get ECM.SLOT_DATA.NextHop, d.get ECM.SLOT_DATA.State⟩⟩]) ∧
    (d.get ECM.SLOT_DATA.State = 3 → Gives (.slotWrite fn) s fun t =>
      t.dev.stg = d.stg ∧ t.dev.get ECM.STAT.Refused = 1 ∧ t.dev.get ECM.STAT.Reason = 1) ∧
    Gives (.grpRead fn) s (fun t => ∀ g, d.fwd.group (d.get ECM.GRP_SEL.Group) = g →
      t.dev.grpData.slotBase = g.slotBase % 2 ^ ECM.GRP_DATA0.SlotBase.w ∧ t.dev.grpData.slotCount = g.slotCount % 2 ^ ECM.GRP_DATA0.SlotCount.w ∧
      t.dev.grpData.bucketBase = g.bucketBase % 2 ^ ECM.GRP_DATA1.BucketBase.w ∧
      t.dev.grpData.bucketLog2 = g.bucketLog2 % 2 ^ ECM.GRP_DATA1.BucketLog2.w ∧ t.dev.grpData.resilient = g.resilient ∧
      t.dev.grpData.staleDrop = g.staleDrop) ∧
    Gives (.slotRead fn) s (fun t => ∀ v, d.fwd.slot (d.get ECM.SLOT_SEL.Slot) = v →
      t.dev.get ECM.SLOT_DATA.NextHop = v.nextHop % 2 ^ ECM.SLOT_DATA.NextHop.w ∧
      t.dev.get ECM.SLOT_DATA.State = v.state % 2 ^ ECM.SLOT_DATA.State.w)) ∧
  (∀ (s : State) (d : Dev) (fn : Nat) (g : EcmGroup), s.chip.dev = d → d.opens fn .ecm 0 = true →
    d.staged.group (d.get ECM.GRP_SEL.Group) = g → g.slotCount ≠ 0 → 6 ≤ g.bucketLog2 → g.bucketLog2 ≤ 12 →
    d.stgUsed ecmBit 0 + 2 ^ g.bucketLog2 ≤ ecmCap → g.resilient = false →
    (∃ k, k < g.slotCount ∧ (d.staged.slot (g.slotBase + k)).state = 1) →
    Gives (.rebuild fn) s fun t => t.dev.get ECM.STAT.Busy = 1 ∧
      (∀ act, (List.range g.slotCount).filter (fun k => (d.staged.slot (g.slotBase + k)).state == 1) = act →
        ∀ b, b < 2 ^ g.bucketLog2 → t.dev.staged.bkt (g.bucketBase + b) = act.getD (b % act.length) 0) ∧
      ∀ i, i < g.bucketBase ∨ g.bucketBase + 2 ^ g.bucketLog2 ≤ i → t.dev.staged.bkt i = d.staged.bkt i) ∧
  (∀ (s : State), Gives .rebuildDone s fun t => t.dev.get ECM.STAT.Busy = 0)

/-- For a function whose writes NAT accepts: ADDR_CMD Write stages an address entry with BlockLog2 from 6 to 12 whose first block lies
in the port range, PFX_CMD Write a prefix with a Len of 5 or less, MAP_CMD Write a map entry whose valid slots lie in their
addresses' port ranges; one out of range is refused with Reason 1 and stages nothing. Reads load the active entry: address and
prefix fields, and for the map the four block slots as the overlay or HBM holds them. NAT_MAP_WRITEBACK, where port 5 takes the
write and nothing waits at that pseudo-channel, writes the oldest overlay entry's 32 bytes to its HBM place, takes it off the
overlay and leaves every other byte of HBM. Its byte layout is the model's choice (log entry 31). Of each of these forms, under
the conditions given, the conclusion is that exec answers a next state: natAddrWrite, natAddrRead, natPfxWrite, natPfxRead,
natMapWrite, natMapRead, natMapWriteback. (08_forwarding_tables.md: NAT addresses, prefixes and block maps (R249, R250, R254).) -/
def Obligations.NatCommands : Prop :=
  (∀ (s : State) (d : Dev) (fn : Nat) (v : NatAddr), s.chip.dev = d → d.opens fn .nat 0 = true →
    v = { address := d.get NAT.ADDR_DATA0.Address, portBase := d.get NAT.ADDR_DATA1.PortBase, blockLog2 := d.get NAT.ADDR_DATA1.BlockLog2,
          nat64 := d.flag NAT.ADDR_DATA1.Kind, pfx64 := d.get NAT.ADDR_DATA1.Pfx64, valid := d.flag NAT.ADDR_DATA1.Valid } →
    (6 ≤ v.blockLog2 → v.blockLog2 ≤ 12 → v.portBase + 2 ^ v.blockLog2 ≤ 65536 → d.stgUsed natBit 0 + 1 ≤ natCap →
      Gives (.natAddrWrite fn) s fun t => t.dev.stg = d.stg ++ [⟨natBit, 0, 1, .natAddr (d.get NAT.ADDR_SEL.Index) v⟩]) ∧
    (v.blockLog2 < 6 ∨ 12 < v.blockLog2 ∨ 65536 < v.portBase + 2 ^ v.blockLog2 → Gives (.natAddrWrite fn) s fun t =>
      t.dev.stg = d.stg ∧ t.dev.get NAT.STAT.Refused = 1 ∧ t.dev.get NAT.STAT.Reason = 1)) ∧
  (∀ (s : State) (d : Dev) (fn : Nat), s.chip.dev = d → d.opens fn .nat 0 = true →
    Gives (.natAddrRead fn) s (fun t => ∀ v, Tab.get {} d.fwd.natAddr (d.get NAT.ADDR_SEL.Index) = v →
      t.dev.get NAT.ADDR_DATA0.Address = v.address % 2 ^ NAT.ADDR_DATA0.Address.w ∧
      t.dev.get NAT.ADDR_DATA1.PortBase = v.portBase % 2 ^ NAT.ADDR_DATA1.PortBase.w ∧
      t.dev.get NAT.ADDR_DATA1.BlockLog2 = v.blockLog2 % 2 ^ NAT.ADDR_DATA1.BlockLog2.w ∧ t.dev.get NAT.ADDR_DATA1.Kind = b2n v.nat64 ∧
      t.dev.get NAT.ADDR_DATA1.Pfx64 = v.pfx64 % 2 ^ NAT.ADDR_DATA1.Pfx64.w ∧ t.dev.get NAT.ADDR_DATA1.Valid = b2n v.valid) ∧
    (d.get NAT.PFX_LEN.Len ≤ 5 → d.stgUsed natBit 0 + 1 ≤ natCap → Gives (.natPfxWrite fn) s fun t =>
      t.dev.stg = d.stg ++ [⟨natBit, 0, 1, .natPfx (d.get NAT.PFX_SEL.Prefix) ⟨d.get NAT.PFX_DATA.Bits 0 0 +
        2 ^ 32 * d.get NAT.PFX_DATA.Bits 0 1 + 2 ^ 64 * d.get NAT.PFX_DATA.Bits 0 2, d.get NAT.PFX_LEN.Len⟩⟩]) ∧
    (5 < d.get NAT.PFX_LEN.Len → Gives (.natPfxWrite fn) s fun t =>
      t.dev.stg = d.stg ∧ t.dev.get NAT.STAT.Refused = 1 ∧ t.dev.get NAT.STAT.Reason = 1) ∧
    Gives (.natPfxRead fn) s (fun t => ∀ v, Tab.get {} d.fwd.natPfx (d.get NAT.PFX_SEL.Prefix) = v →
      t.dev.get NAT.PFX_LEN.Len = v.len % 2 ^ NAT.PFX_LEN.Len.w ∧
      ∀ j, j < 3 → t.dev.get NAT.PFX_DATA.Bits 0 j = v.bits / 2 ^ (32 * j) % 2 ^ 32) ∧
    (d.mapData.all d.staged.blockOk = true → d.stgUsed natBit 0 + 1 ≤ natCap → Gives (.natMapWrite fn) s fun t =>
      t.dev.stg = d.stg ++ [⟨natBit, 0, 1, .natMap (d.get NAT.MAP_SEL.Entry) d.mapData⟩]) ∧
    (d.mapData.all d.staged.blockOk = false → Gives (.natMapWrite fn) s fun t =>
      t.dev.stg = d.stg ∧ t.dev.get NAT.STAT.Refused = 1 ∧ t.dev.get NAT.STAT.Reason = 1) ∧
    Gives (.natMapRead fn) s (fun t => ∀ e, s.chip.mapEntry (d.get NAT.MAP_SEL.Entry) = e → e.slots.length = 4 →
      ∀ j, j < 4 → ∀ w, e.slots[j]? = some w → t.dev.get NAT.MAP_DATA.AddrIndex 0 j = bits w 0 16 ∧
        t.dev.get NAT.MAP_DATA.BlockNo 0 j = bits w 16 12 ∧ t.dev.get NAT.MAP_DATA.Valid 0 j = bits w 31 1)) ∧
  (∀ (s : State) (d : Dev) (i : Nat) (e : MapEntry) (rest : List (Nat × MapEntry)), s.chip.dev = d → d.nat.overlay = (i, e) :: rest →
    e.slots.length = 4 → d.mapAddr i % 32 = 0 → d.hbmMayPut 5 (d.mapAddr i) = true → (d.hpc (d.mapAddr i / 2 ^ 29)).waiting = [] →
    Gives .natMapWriteback s fun t => t.dev.nat.overlay = rest ∧ Mem.readN t.hbm (d.mapAddr i) 32 = e.bytes ∧
      ∀ a, a < d.mapAddr i ∨ d.mapAddr i + 32 ≤ a → Mem.read t.hbm a = Mem.read s.chip.hbm a)

/-- For a function whose writes SHW accepts: CTL Start of an idle walker with entries to check makes it Active from entry 0 with its
counts cleared; Stop clears Active and what a dump has still to send; Dump of an idle walker with no dump under way puts one
32-byte entry for each host entry of the table to the dump channel, in order and as far as the channel has room, keeps the rest
for later, and sets Done where none is left. SHADOW_CHECK of an Active walker whose read has been issued ends the pass with
FetchError where the fetch failed; an entry of a generation ahead of the device's counts as pending; any other counts as checked,
and as a mismatch unless the device's entry of that key has the same data. The walker moves on to the next entry; after the last
it ends with Done, DEVCOUNT, and Surplus where the counts differ. Of each of these forms, under the conditions given, the
conclusion is that exec answers a next state: shwStart, shwStop, shwDump, shadowCheck. (08_forwarding_tables.md: Shadow walker
(R256); 15_dma_and_cistern.md: Stream entries (R429).) -/
def Obligations.ShadowWalker : Prop :=
  (∀ (s : State) (d : Dev) (fn : Nat), s.chip.dev = d → d.opens fn .shw 0 = true →
    (d.flag SHW.STAT.Active = false → d.shw.dump = [] → d.get SHW.COUNT.Count ≠ 0 → Gives (.shwStart fn) s fun t => t.dev.get SHW.STAT.Active = 1 ∧
      t.dev.shw.idx = 0 ∧ t.dev.get SHW.CHECKED.Checked = 0 ∧ t.dev.get SHW.MISMATCH.Mismatch = 0 ∧ t.dev.get SHW.PENDING.Pending = 0 ∧
      t.dev.get SHW.REPAIRED.Repaired = 0) ∧
    Gives (.shwStop fn) s (fun t => t.dev.get SHW.STAT.Active = 0 ∧ t.dev.shw.dump = []) ∧
    (∀ ch es, d.flag SHW.STAT.Active = false → d.shw.dump = [] → d.get SHW.CFG.DumpChannel = ch →
      (s.chip.shwKeys (d.get SHW.CFG.Table)).map (s.chip.shadowBytes (d.get SHW.CFG.Table)) = es →
      Gives (.shwDump fn) s fun t => ∃ k, (t.dev.chan ch).stream = (d.chan ch).stream ++ es.take k ∧ t.dev.shw.dump = es.drop k ∧
        (es.drop k = [] → t.dev.get SHW.STAT.Done = 1) ∧ (es.drop k ≠ [] → t.dev.streamRoom ch = false))) ∧
  (∀ (s : State) (d : Dev) (entry : List Byte), s.chip.dev = d → d.flag SHW.STAT.Active = true → d.walkerReads = true →
    Gives (.shadowCheck entry true) s fun t => t.dev.get SHW.STAT.Active = 0 ∧ t.dev.get SHW.STAT.FetchError = 1 ∧
      t.dev.get SHW.CHECKED.Checked = d.get SHW.CHECKED.Checked) ∧
  (∀ (s : State) (d : Dev) (entry : List Byte) (gen key data ahead : Nat), s.chip.dev = d → d.flag SHW.STAT.Active = true →
    d.walkerReads = true → entry.length = 32 → ofLE ((entry.drop 2).take 2) = gen → ofLE ((entry.drop 4).take 20) = key → ofLE (entry.drop 24) = data →
    (gen + 65536 - d.get GLB.COMMIT_STAT.Gen) % 65536 = ahead →
    Gives (.shadowCheck entry false) s fun t => t.dev.shw.idx = d.shw.idx + 1 ∧
      t.dev.get SHW.STAT.Active = (if d.get SHW.COUNT.Count ≤ d.shw.idx + 1 then 0 else d.get SHW.STAT.Active) ∧
      (∀ n, d.get SHW.COUNT.Count ≤ d.shw.idx + 1 → (s.chip.shwKeys (d.get SHW.CFG.Table)).length = n →
        t.dev.get SHW.STAT.Done = 1 ∧ t.dev.get SHW.DEVCOUNT.DevCount = n % 2 ^ SHW.DEVCOUNT.DevCount.w ∧
          (d.get SHW.COUNT.Count ≠ n → t.dev.get SHW.STAT.Surplus = 1)) ∧
      if 1 ≤ ahead ∧ ahead ≤ 32767 then t.dev.get SHW.PENDING.Pending = (d.get SHW.PENDING.Pending + 1) % 2 ^ SHW.PENDING.Pending.w ∧
        t.dev.get SHW.CHECKED.Checked = d.get SHW.CHECKED.Checked
      else t.dev.get SHW.CHECKED.Checked = (d.get SHW.CHECKED.Checked + 1) % 2 ^ SHW.CHECKED.Checked.w ∧
        t.dev.get SHW.MISMATCH.Mismatch = (if (s.chip.shwEntry (d.get SHW.CFG.Table) key).map (· % 2 ^ 64) = some data
          then d.get SHW.MISMATCH.Mismatch else (d.get SHW.MISMATCH.Mismatch + 1) % 2 ^ SHW.MISMATCH.Mismatch.w))

/-- For a function whose writes GLB accepts, with no commit armed or Busy, a nonzero mask without overflow, and the previous act at
least 4 us before: Go arms the mask for 420 ns from now, and Arm for the time in COMMIT_TIME where it is that far ahead and its
nanoseconds are legal. Arm for an earlier time is refused with Reason 1 and arms nothing. Cancel of a commit whose act is 420 ns
away or more disarms it; later it stays armed. Discard removes the staged writes of the masked blocks and their overflow status,
and a staged register of theirs reads as active again. A COMMIT_CTL write with several bits set is refused with Reason 6. Of each
of these forms, under the conditions given, the conclusion is that exec answers a next state: commitGo, commitArm,
commitCtlMultiBit, commitCancel, commitDiscard. (02_register_model.md: Commits (R48, R49, R50), discard (R46); 01_architecture.md:
lead rule (R26).) -/
def Obligations.CommitArming : Prop :=
  (∀ (s : State) (d : Dev) (fn m : Nat), s.chip.dev = d → d.opens fn .glb 0 = true → d.glb.armed = none →
    d.flag GLB.COMMIT_STAT.Busy = false → d.get GLB.COMMIT_MASK.Mask = m → m ≠ 0 → (∀ b ∈ d.overflow, bit m b = false) →
    ((∀ p, d.glb.prevAct = some p → p + nsU 4000 ≤ d.dt + armLead) → Gives (.commitGo fn) s fun t =>
      t.dev.glb.armed = some ⟨m, d.dt + armLead⟩ ∧ t.dev.get GLB.COMMIT_STAT.Armed = 1 ∧ t.dev.stg = d.stg) ∧
    (d.dt + armLead ≤ d.commitTime → (∀ p, d.glb.prevAct = some p → p + nsU 4000 ≤ d.commitTime) →
      d.get GLB.COMMIT_TIME_NS.Nanoseconds ≤ 999999999 → Gives (.commitArm fn) s fun t =>
        t.dev.glb.armed = some ⟨m, d.commitTime⟩ ∧ t.dev.get GLB.COMMIT_STAT.Armed = 1 ∧ t.dev.stg = d.stg)) ∧
  (∀ (s : State) (d : Dev) (fn : Nat), s.chip.dev = d → d.opens fn .glb 0 = true →
    (d.commitTime < d.dt + armLead → Gives (.commitArm fn) s fun t => t.dev.glb = d.glb ∧ t.dev.get GLB.COMMIT_STAT.Refused = 1 ∧
      t.dev.get GLB.COMMIT_STAT.Reason = 1) ∧
    Gives (.commitCtlMultiBit fn) s (fun t => t.dev.glb = d.glb ∧ t.dev.stg = d.stg ∧ t.dev.get GLB.COMMIT_STAT.Refused = 1 ∧
      t.dev.get GLB.COMMIT_STAT.Reason = 6) ∧
    (∀ a, d.glb.armed = some a → Gives (.commitCancel fn) s fun t =>
      t.dev.glb.armed = (if d.dt + armLead ≤ a.act then none else some a) ∧
      t.dev.get GLB.COMMIT_STAT.Armed = (if d.dt + armLead ≤ a.act then 0 else d.get GLB.COMMIT_STAT.Armed)) ∧
    (∀ m, d.get GLB.COMMIT_MASK.Mask = m → Gives (.commitDiscard fn) s fun t =>
      t.dev.stg = d.stg.filter (fun e => !bit m e.blk) ∧ t.dev.overflow = d.overflow.filter (fun b => !bit m b) ∧
      ∀ (f : Fld) (i j v : Nat) (e : StgEntry), e ∈ d.stg → bit m e.blk = true → e.w = .reg (f.key i j) v →
        f.key i j ≠ RUU.TPL_STAT.Staged.key 0 0 → t.dev.get f i j = d.cfg f i j))

/-- COMMIT_ACT of an armed commit, with no snapshot armed and the previous generation retired: the staged writes of the masked blocks
that came before the act cycle leave the staging; the forwarding tables and the active registers are those before with these
writes applied in order, and the old ones, with the old limits, queue and meter settings, are kept for the previous generation;
ACL swaps its planes where the mask has it; the generation is one more, Busy is 1 and nothing is armed. With the previous
generation not retired it sets Late and applies nothing. GENERATION_RETIRE clears Busy once no packet uses the previous
generation; a commit whose act time has come meanwhile acts in the CLK_TIME cycle after. PORT_RECONFIGURATION with a lead of 420
ns or more gives the lanes of a MAC block the ports of a list that fills the block, and no other lane; it carries its own act time
and ports, which is the model's choice (log entry 34). Of each of these forms, under the conditions given, the conclusion is that
exec answers a next state: commitAct, generationRetire, portReconfiguration. (02_register_model.md: Commits (R47, R52);
01_architecture.md: act order and port reconfiguration (R14, R27); 09_associative_filters.md: planes (R273).) -/
def Obligations.CommitActing : Prop :=
  (∀ (s : State) (d : Dev) (a : Armed) (early late : List StgEntry), s.chip.dev = d → d.glb.armed = some a → d.pmc.snapArm = none →
    d.flag GLB.COMMIT_STAT.Busy = false → d.stg.splitAt (d.stg.length - d.stgLate) = (early, late) →
    Gives .commitAct s fun t => t.dev.stg = early.filter (fun e => !bit a.mask e.blk) ++ late ∧ t.dev.stgLate = 0 ∧
      t.dev.fwd = (early.filter fun e => bit a.mask e.blk).foldl (fun f e => f.apply e.w) d.fwd ∧
      t.dev.act = (early.filter fun e => bit a.mask e.blk).foldl (fun (r : Tab Nat) e => match e.w with
        | .reg k v => Tab.set r k v
        | _ => r) d.act ∧
      t.dev.prev = d.act ∧ t.dev.fwdPrev = d.fwd ∧ t.dev.old = { lim := d.bsn.lim, qcfg := d.eg.qcfg, mtr := d.mtr.cfg } ∧
      t.dev.acl.prevPlane = d.acl.plane ∧
      t.dev.acl.plane = (if bit a.mask 6 then 1 - d.acl.plane else d.acl.plane) ∧
      t.dev.get GLB.COMMIT_STAT.Gen = (d.get GLB.COMMIT_STAT.Gen + 1) % 65536 ∧ t.dev.get GLB.COMMIT_STAT.Busy = 1 ∧
      t.dev.get GLB.COMMIT_STAT.Armed = 0 ∧ t.dev.glb.armed = none ∧ t.dev.glb.prevAct = some a.act) ∧
  (∀ (s : State) (d : Dev) (a : Armed), s.chip.dev = d → d.glb.armed = some a → d.pmc.snapArm = none →
    d.flag GLB.COMMIT_STAT.Busy = true →
    Gives .commitAct s fun t => t.dev.get GLB.COMMIT_STAT.Late = 1 ∧ t.dev.stg = d.stg ∧ t.dev.fwd = d.fwd ∧ t.dev.act = d.act ∧
      t.dev.glb.armed = some a) ∧
  (∀ (s : State) (d : Dev), s.chip.dev = d → d.flag GLB.COMMIT_STAT.Busy = true → d.usesPrev = false →
    ((∀ a, d.glb.armed = some a → d.dt + d.get TIM.INCR.Incr ≤ a.act) → Gives .generationRetire s fun t =>
      t.dev.get GLB.COMMIT_STAT.Busy = 0 ∧ t.dev.acl.prevPlane = d.acl.plane ∧ t.dev.acl.plane = d.acl.plane ∧ t.dev.fwd = d.fwd) ∧
    (∀ a, d.glb.armed = some a → a.act < d.dt + d.get TIM.INCR.Incr → Gives .generationRetire s fun t =>
      t.dev.cyc = d.cyc + 1 ∧ t.dev.glb.armed = none ∧ t.dev.get GLB.COMMIT_STAT.Late = 1 ∧ t.dev.get GLB.COMMIT_STAT.Busy = 1 ∧
      t.dev.get GLB.COMMIT_STAT.Gen = (d.get GLB.COMMIT_STAT.Gen + 1) % 65536 ∧ t.dev.fwdPrev = d.fwd ∧
      t.dev.fwd = ((d.stg.take (d.stg.length - d.stgLate)).filter fun e => bit a.mask e.blk).foldl (fun f e => f.apply e.w) d.fwd)) ∧
  (∀ (s : State) (d : Dev) (act mac : Nat) (ports : List (Nat × Nat)) (l : List (Nat × Nat × Nat)), s.chip.dev = d →
    d.dt + armLead ≤ act → mac < 16 → portLanes 0 ports = some l →
    Gives (.portReconfiguration act mac ports) s fun t =>
      (∀ e ∈ l, Tab.get lanePort t.dev.eg.width (8 * mac + e.1) = e.2) ∧
      (∀ k, k < 8 → (∀ e ∈ l, e.1 ≠ k) → Tab.get lanePort t.dev.eg.width (8 * mac + k) = (0, 0)) ∧
      ∀ k, k < 8 * mac ∨ 8 * mac + 8 ≤ k → Tab.get lanePort t.dev.eg.width k = Tab.get lanePort d.eg.width k)

/-- For a function whose writes the bank accepts, with an index within the bank, no commit Busy or due, no error injected, and no
command waiting: ENT_CMD Write of a legal action word gives an entry that is not valid in the active plane its value, mask and
action and its valid bit of the staging plane, and is refused with Reason 1 where it is valid in the active plane; Delete clears
its staging valid bit; either waits behind a Busy commit. Read loads both valid bits and the hit count, and with ClearHits clears
the count. ACL_ENT_DEFERRED applies the oldest waiting Delete once no commit is Busy or due. Entries are those of the bank as its
staged Width lays it out. ACL_REPAIR takes the first queued repair and gives its entry its stored copy again. ACL_SCRUB queues a
repair for the first entry in error of a bank without repairs. SECOND_PASS of a search leaves it no pass to come. Of each of these
forms, under the conditions given, the conclusion is that exec answers a next state: aclEntWrite, aclEntDelete, aclEntRead,
aclEntDeferred, aclRepair, aclScrub, secondPass. (09_associative_filters.md: Second pass (R267), repair and scrub (R268), entry
writes (R270, R274, R275).) -/
def Obligations.AclCommands : Prop :=
  (∀ (s : State) (d : Dev) (fn n i : Nat) (e : AclEnt), s.chip.dev = d → n < 16 → d.opens fn .acl n = true →
    d.get ACL.ENT_SEL.Index n = i → i < d.aclEntries n → (d.laidBank n).ent i = e → d.acl.plane < 2 →
    (d.flag GLB.COMMIT_STAT.Busy = false → d.actDue = false → (d.bank n).deferred = [] → aclActionOk (d.get ACL.ACTION.Action n) = true →
      Gives (.aclEntWrite fn n) s fun t =>
        if e.inPlane d.acl.plane = true then t.dev.bank n = d.bank n ∧ t.dev.get ACL.ENT_STAT.Refused n = 1 ∧ t.dev.get ACL.ENT_STAT.Reason n = 1
        else ((t.dev.bank n).ent i).v = d.aclWords ACL.VALUE.Value n ∧ ((t.dev.bank n).ent i).m = d.aclWords ACL.MASK.Mask n ∧
          ((t.dev.bank n).ent i).act = d.get ACL.ACTION.Action n ∧ ((t.dev.bank n).ent i).inPlane (1 - d.acl.plane) = true ∧
          ((t.dev.bank n).ent i).inPlane d.acl.plane = false ∧ ∀ k, k ≠ i → (t.dev.bank n).ent k = (d.laidBank n).ent k) ∧
    (d.flag GLB.COMMIT_STAT.Busy = false → d.actDue = false → (d.bank n).deferred = [] → Gives (.aclEntDelete fn n) s fun t =>
      ((t.dev.bank n).ent i).inPlane (1 - d.acl.plane) = false ∧ ((t.dev.bank n).ent i).inPlane d.acl.plane = e.inPlane d.acl.plane ∧
      ∀ k, k ≠ i → (t.dev.bank n).ent k = (d.laidBank n).ent k) ∧
    (d.flag GLB.COMMIT_STAT.Busy = true ∨ d.actDue = true → Gives (.aclEntDelete fn n) s fun t =>
      (t.dev.bank n).ents = (d.bank n).ents ∧ ∃ o, (t.dev.bank n).deferred = (d.bank n).deferred ++ [o] ∧ o.write = false ∧ o.idx = i) ∧
    (∀ clear, d.injects .acl n 1 = false → Gives (.aclEntRead fn n clear) s fun t =>
      t.dev.get ACL.ENT_STAT.ActiveValid n = b2n (e.inPlane d.acl.plane) ∧
      t.dev.get ACL.ENT_STAT.StagedValid n = b2n (e.inPlane (1 - d.acl.plane)) ∧ t.dev.get ACL.HIT.Hits n = e.hits % 2 ^ ACL.HIT.Hits.w ∧
      ((t.dev.bank n).ent i).hits = if clear = true then 0 else e.hits)) ∧
  (∀ (s : State) (d : Dev) (n : Nat) (o : AclOp) (rest : List AclOp), s.chip.dev = d → (d.bank n).deferred = o :: rest → o.write = false →
    d.acl.plane < 2 → d.flag GLB.COMMIT_STAT.Busy = false → d.actDue = false →
    Gives (.aclEntDeferred n) s fun t => (t.dev.bank n).deferred = rest ∧ ((t.dev.bank n).ent o.idx).inPlane (1 - d.acl.plane) = false) ∧
  (∀ (s : State) (d : Dev) (n i : Nat) (rest : List Nat), s.chip.dev = d → (d.bank n).repair = i :: rest → d.injects .acl n 0 = false →
    Gives (.aclRepair n) s fun t => (t.dev.bank n).repair = rest ∧ (t.dev.bank n).ent i = { (d.bank n).ent i with arr := none }) ∧
  (∀ (s : State) (d : Dev) (n i v m : Nat) (e : AclEnt) (rest : Tab AclEnt), s.chip.dev = d → (d.bank n).repair = [] → d.injects .acl n 1 = false →
    (d.bank n).ents = (i, e) :: rest → e.arr = some (v, m) → v ≠ e.v ∨ m ≠ e.m →
    Gives (.aclScrub n) s fun t => (t.dev.bank n).repair.head? = some i ∧ (t.dev.bank n).repair.length ≤ 4) ∧
  (∀ (s : State) (d : Dev) (pid n : Nat) (p : Pkt) (h : BankHit), s.chip.dev = d → Tab.find d.pkts pid = some p →
    p.look.banks.find? (fun h => h.bank = n && h.again) = some h →
    Gives (.secondPass pid n) s fun t => ∃ q, Tab.find t.dev.pkts pid = some q ∧
      (∀ x ∈ q.look.banks, x.bank = n → x.again = false) ∧ q.look.banks.length = p.look.banks.length)

/-- For a function whose writes accept: GRANT_CMD Write puts the fields of GRANT_DATA and GRANT_RANGE into the selected grant and Read
loads them. SNAP_CTL Go, with nothing armed or held, a scope that selects a block and a channel bound to Stream, arms a snapshot
420 ns from now; Arm does so for the time in SNAP_TIME where it is that far ahead and legal; Cancel of an act 420 ns away or more
disarms it. SNAP_ACT with none held takes one: the next Seq, the generation, one result for each instance in scope, Gathering 1,
and the next act one period later where there is a period. SNAP_PERIOD_CHECK with a snapshot still held skips the act. GATHER_DONE
ends the gather within the bound of R481. SNAP_DELIVER of a gathered snapshot, with room, puts its entry at the end of the
channel's stream; the buffer keeps it, Held, until the channel takes it from the front of the stream, and is then free, with Held
0. Of each of these forms, under the conditions given, the conclusion is that exec answers a next state: grantWrite, grantRead,
snapGo, snapArm, snapCancel, snapAct, snapPeriodCheck, gatherDone, snapDeliver. (17_counters_and_snapshots.md: Grants (R476),
arming (R477), acting (R478, R479), gathering (R481), entry (R482).) -/
def Obligations.Snapshots : Prop :=
  (∀ (s : State) (d : Dev) (fn : Nat), s.chip.dev = d → d.opens fn .pmc 0 = true →
    Gives (.grantWrite fn) s (fun t => Tab.get {} t.dev.pmc.grants (d.get PMC.GRANT_SEL.Entry) =
      (⟨d.get PMC.GRANT_DATA.Function, d.flag PMC.GRANT_DATA.Valid, d.get PMC.GRANT_RANGE.FirstPage, d.get PMC.GRANT_RANGE.LastPage⟩ : Grant)) ∧
    Gives (.grantRead fn) s (fun t => ∀ g, Tab.get {} d.pmc.grants (d.get PMC.GRANT_SEL.Entry) = g →
      t.dev.get PMC.GRANT_DATA.Function = g.fn % 2 ^ PMC.GRANT_DATA.Function.w ∧ t.dev.get PMC.GRANT_DATA.Valid = b2n g.valid ∧
      t.dev.get PMC.GRANT_RANGE.FirstPage = g.first % 2 ^ PMC.GRANT_RANGE.FirstPage.w ∧
      t.dev.get PMC.GRANT_RANGE.LastPage = g.last % 2 ^ PMC.GRANT_RANGE.LastPage.w)) ∧
  (∀ (s : State) (d : Dev) (fn : Nat), s.chip.dev = d → d.opens fn .gth 0 = true →
    (d.pmc.snapArm = none → d.pmc.snap = none → (∃ b ∈ blkTable, d.inScope b.type = true) →
      d.get DMA.BIND.Endpoint 0 (d.get GTH.SNAP_CFG.Channel) = 9 →
      Gives (.snapGo fn) s (fun t => t.dev.pmc.snapArm = some (d.dt + armLead) ∧ t.dev.get GTH.SNAP_STAT.Armed = 1) ∧
      (d.dt + armLead ≤ d.snapTime → d.get GTH.SNAP_TIME_NS.Nanoseconds ≤ 999999999 →
        Gives (.snapArm fn) s fun t => t.dev.pmc.snapArm = some d.snapTime ∧ t.dev.get GTH.SNAP_STAT.Armed = 1)) ∧
    (d.snapTime < d.dt + armLead → Gives (.snapArm fn) s fun t => t.dev.pmc = d.pmc ∧ t.dev.get GTH.SNAP_STAT.Refused = 1 ∧
      t.dev.get GTH.SNAP_STAT.Reason = 1) ∧
    (∀ a, d.pmc.snapArm = some a → Gives (.snapCancel fn) s fun t =>
      t.dev.pmc.snapArm = (if d.dt + armLead ≤ a then none else some a))) ∧
  (∀ (s : State) (d : Dev) (a p : Nat), s.chip.dev = d → d.pmc.snapArm = some a → d.get GTH.SNAP_PERIOD.Period = p →
    (d.pmc.snap = none → Gives .snapAct s fun t => t.dev.get GTH.SNAP_STAT.Gathering = 1 ∧
      t.dev.pmc.snapSeq = (d.pmc.snapSeq + 1) % 2 ^ 32 ∧
      t.dev.pmc.snapArm = (if p = 0 then none else some (a + nsU (1000 * p))) ∧
      ∃ b, t.dev.pmc.snap = some b ∧ b.seq = t.dev.pmc.snapSeq ∧ b.gen = d.get GLB.COMMIT_STAT.Gen ∧ b.gathered = none ∧
        b.results.map (·.page) = d.scoped.map (fun x => x.1.page x.2) ∧ ∀ r ∈ b.results, r.words.length = 17) ∧
    (∀ b, d.pmc.snap = some b → Gives .snapPeriodCheck s fun t => t.dev.pmc.snap = some b ∧ t.dev.get GTH.SNAP_STAT.Skipped = 1 ∧
      t.dev.get GTH.SNAP_SKIPS.Count = (d.get GTH.SNAP_SKIPS.Count + 1) % 2 ^ GTH.SNAP_SKIPS.Count.w ∧
      t.dev.pmc.snapArm = if p = 0 then none else some (a + nsU (1000 * p)))) ∧
  (∀ (s : State) (d : Dev) (b : SnapBuf) (cycles : Nat), s.chip.dev = d → d.pmc.snap = some b →
    (b.gathered = none → Gives (.gatherDone cycles) s fun t => t.dev.pmc.snap = some { b with gathered := some (min cycles b.bound) } ∧
      t.dev.get GTH.SNAP_STAT.Gathering = 0 ∧ t.dev.get GTH.SNAP_STAT.Held = 1 ∧ b.at0 + ceilDiv (25 * min cycles b.bound) 8 ≤ t.dev.cyc) ∧
    (∀ n ch, b.gathered = some n → b.sent = none → d.get GTH.SNAP_CFG.Channel = ch → d.streamRoom ch = true →
      Gives .snapDeliver s fun t => t.dev.pmc.snap = some { b with sent := some (ch, (d.chan ch).stream.length) } ∧
        (t.dev.chan ch).stream = (d.chan ch).stream ++ [b.entry] ∧ t.dev.get GTH.SNAP_STAT.Held = d.get GTH.SNAP_STAT.Held) ∧
    (∀ ch, b.sent = some (ch, 0) → (d.snapTaken ch).pmc.snap = none ∧ (d.snapTaken ch).get GTH.SNAP_STAT.Held = 0) ∧
    (∀ ch n, b.sent = some (ch, n + 1) → (d.snapTaken ch).pmc.snap = some { b with sent := some (ch, n) }))

/-- BW_WINDOW_END with Enable 1 latches the counts of the window for reading, starts the next from none, and counts one window, not
short. A BW_CFG write sets Window and Enable. A read of BW_RX_BYTES latches the selected port's window for the function and
answers its received bytes. IPX_CFG write with Enable from 0 to 1 makes export Active, its Message count 0 and the Template Set
due; IPX_MSG SendTemplates makes the Template Set due in the next Message. With the ring empty, a Message open and room in the
channel, IPX_MESSAGE_CLOSE with Enable cleared sends it: one Stream entry more, IPX_SEQ advanced by its records, no record left,
and Active 0; IPX_FLUSH_EXPIRE sends it whatever Enable is, at FlushMs after the Message's first record at the earliest. Of each
of these forms, under the conditions given, the conclusion is that exec answers a next state: bwWindowEnd, bwCfgWrite,
bwRxBytesRead, ipxSendTemplates, ipxEnableWrite, ipxMessageClose, ipxFlushExpire. (17_counters_and_snapshots.md: Bandwidth windows
(R484, R485), IPFIX export (R486 to R490).) -/
def Obligations.BandwidthIpfix : Prop :=
  (∀ (s : State) (d : Dev), s.chip.dev = d → d.flag PMC.BW_CFG.Enable = true →
    Gives .bwWindowEnd s fun t => t.dev.pmc.latched = d.pmc.cur ∧ t.dev.pmc.cur = [] ∧ t.dev.get PMC.BW_STAT.Short = 0 ∧
      t.dev.get PMC.BW_STAT.Windows = (d.get PMC.BW_STAT.Windows + 1) % 2 ^ PMC.BW_STAT.Windows.w) ∧
  (∀ (s : State) (d : Dev) (fn data : Nat), s.chip.dev = d → d.opens fn .pmc 0 = true →
    Gives (.bwCfgWrite fn data) s (fun t => t.dev.get PMC.BW_CFG.Window = data % 2 ^ PMC.BW_CFG.Window.w ∧
      t.dev.get PMC.BW_CFG.Enable = data / 2 ^ 31 % 2 ∧
      (d.flag PMC.BW_CFG.Enable = true → t.dev.pmc.latched = d.pmc.cur ∧ t.dev.get PMC.BW_STAT.Short = 1)) ∧
    (∀ len, Gives (.bwRxBytesRead fn len) s fun t =>
      t.dev.lastRead = some (.readData fn (toLE len (Tab.get {} d.pmc.latched (d.get PMC.BW_SEL.Port) : Bw).rxB)) ∧
      t.dev.bwOf fn = Tab.get {} d.pmc.latched (d.get PMC.BW_SEL.Port)) ∧
    Gives (.ipxSendTemplates fn) s (fun t => t.dev.pmc.tplNext = true) ∧
    (d.flag PMC.IPX_CFG.Enable = false → bit data 0 = true → Gives (.ipxEnableWrite fn data) s fun t =>
      t.dev.get PMC.IPX_CFG.Enable = 1 ∧ t.dev.get PMC.IPX_STAT.Active = 1 ∧ t.dev.pmc.tplNext = true ∧ t.dev.pmc.msgCount = 0 ∧
      (d.flag PMC.IPX_STAT.Active = false → t.dev.get PMC.IPX_CFG.ClassMask = bits data 8 8 ∧ t.dev.get PMC.IPX_CFG.Channel = bits data 16 8))) ∧
  (∀ (s : State) (d : Dev) (ch : Nat), s.chip.dev = d → d.pmc.ipxRing = [] → d.pmc.open ≠ 0 → d.get PMC.IPX_CFG.Channel = ch →
    d.streamRoom ch = true →
    (d.flag PMC.IPX_CFG.Enable = false → Gives .ipxMessageClose s fun t =>
      (t.dev.chan ch).stream.length = (d.chan ch).stream.length + 1 ∧ t.dev.pmc.open = 0 ∧ t.dev.get PMC.IPX_STAT.Active = 0 ∧
      t.dev.get PMC.IPX_SEQ.Seq = (d.get PMC.IPX_SEQ.Seq + d.pmc.open) % 2 ^ 32) ∧
    Gives .ipxFlushExpire s (fun t => (t.dev.chan ch).stream.length = (d.chan ch).stream.length + 1 ∧ t.dev.pmc.open = 0 ∧
      t.dev.get PMC.IPX_SEQ.Seq = (d.get PMC.IPX_SEQ.Seq + d.pmc.open) % 2 ^ 32 ∧
      d.pmc.msgSince + nsCyc (1000000 * max 1 (d.get PMC.IPX_CFG1.FlushMs)) ≤ t.dev.cyc))

/-- INGRESS_ACCEPT of a frame on an Ethernet port that is Up with its link, on a lane of the port, with slice, MAC and lane accepting
work and no error injected into the slice's tables, makes the next packet: its port, lane, bytes, length with FCS, cells to come,
and the current generation; where its port has no FcsGate its descriptor waits at its home RUU. On a recirculation port, with no
frame waiting at a host port of the slice, it takes the oldest copy waiting there. CELL_ARRIVAL of a packet whose port and class
are below their guarantee, with a cell free, stores one cell more, with a link entry of its port and class, charged to them and
not to the shared pool; with no cell free the first cell's refusal drops the packet. FRAME_END of a whole frame with a good FCS,
that of the bytes as they came, ends it as good, and sends its descriptor where that had waited for the FCS; a bad FCS of a packet
whose descriptor waited drops it. Of each of these forms, under the conditions given, the conclusion is that exec answers a next
state: ingressAccept, cellArrival, frameEnd. (03_packet_path.md: Acceptance and cells (R68, R70, R71), frame end (R77);
01_architecture.md: ports and recirculation (R15); 13_time_and_sundial.md: ingress stamps (R360).) -/
def Obligations.IngressPath : Prop :=
  (∀ (s : State) (d : Dev) (port lane late : Nat) (frame : List Byte), s.chip.dev = d → port < 128 → (d.port port).state = 2 →
    (d.port port).link = true → port ≤ lane → lane < port + (d.portMode port).1 → d.glb.dpr = .idle → d.arbiterOn (portSlice port) = true →
    d.accepts .mac (port / 8) = true → d.accepts .ser lane = true → d.injects .prs (portSlice port) 0 = false →
    Gives (.ingressAccept port lane late frame) s fun t => t.dev.nextPid = d.nextPid + 1 ∧ ∃ p, Tab.find t.dev.pkts d.nextPid = some p ∧
      p.port = port ∧ p.lane = lane ∧ p.slice = portSlice port ∧ p.bytes = frame ∧ p.len = frame.length + 4 ∧
      p.gen = d.get GLB.COMMIT_STAT.Gen ∧ p.total = ceilDiv (min (frame.length + 4) 10240 - 4) 256 ∧ p.due = p.total ∧ p.merged = false ∧
      p.action = none ∧
      (d.cfg PRS.PORT_CFG.FcsGate (portSlice port) (portIdx port) = 0 → p.sent = true ∧
        (t.dev.ruu (homeRuu p.digest)).waiting = (d.ruu (homeRuu p.digest)).waiting ++ [.packet d.nextPid])) ∧
  (∀ (s : State) (d : Dev) (port lane late : Nat) (frame f : List Byte) (rest : List (List Byte)), s.chip.dev = d → 130 ≤ port → port < 138 →
    Tab.get [] d.eg.recirc (port - 130) = f :: rest → d.arbiterOn (portSlice port) = true → d.hostWaits (portSlice port) = false →
    d.injects .prs (portSlice port) 0 = false →
    Gives (.ingressAccept port lane late frame) s fun t => t.dev.nextPid = d.nextPid + 1 ∧ Tab.get [] t.dev.eg.recirc (port - 130) = rest ∧
      ∃ p, Tab.find t.dev.pkts d.nextPid = some p ∧ p.port = port ∧ p.bytes = f) ∧
  (∀ (s : State) (d : Dev) (pid : Nat) (p : Pkt), s.chip.dev = d → Tab.find d.pkts pid = some p → p.due ≠ 0 → p.dropped = false →
    (d.freeCells ≠ 0 → d.used p.port p.cls < (d.admOf p.gen 0 p.port p.cls).1 → Gives (.cellArrival pid) s fun t =>
      Tab.find t.dev.pkts pid = some { p with cells := p.cells + 1, due := p.due - 1 } ∧
      t.dev.used p.port p.cls = d.used p.port p.cls + 1 ∧ t.dev.bsn.cells = d.bsn.cells + 1 ∧ t.dev.bsn.shared = d.bsn.shared ∧
      ∃ l, Tab.find t.dev.bsn.links d.bsn.takeFree.1 = some l ∧ l.port = p.port ∧ l.cls = p.cls) ∧
    (d.freeCells = 0 → p.due = p.total → Gives (.cellArrival pid) s fun t =>
      ∀ q, Tab.find t.dev.pkts pid = some q → q.dropped = true ∧ q.targets = [])) ∧
  (∀ (s : State) (d : Dev) (pid fcs good len : Nat) (p : Pkt), s.chip.dev = d → Tab.find d.pkts pid = some p → p.due = 0 → p.ended = false →
    p.dropped = false → p.asCame.getD (crc32 p.bytes, p.len) = (good, len) → len ≤ 10240 →
    (128 ≤ p.port ∨ fcs = good → Gives (.frameEnd pid fcs) s fun t => ∃ q, Tab.find t.dev.pkts pid = some q ∧ q.ended = true ∧
      q.fcs = 0 ∧ q.sent = true ∧ q.trunc = p.trunc ∧ (p.sent = false → (t.dev.ruu (homeRuu p.digest)).waiting =
        (d.ruu (homeRuu p.digest)).waiting ++ [.packet pid])) ∧
    (p.port < 128 → fcs ≠ good → p.sent = false → Gives (.frameEnd pid fcs) s fun t =>
      ∀ q, Tab.find t.dev.pkts pid = some q → q.dropped = true))

/-- For a packet due for its merge with no filter winner, no meter, no ledger mark: Action 1 drops it. Action 2 makes it merged and
punted. Action 0 with no NAT format, whose destination MAC is known on a port at most 137 and not as a router, makes it merged
with that port as its one target and reference; with an order domain it takes the next number of the domain for the port's slice,
which advances modulo 65,536. NAT64_ANNEX_READ of a packet whose annex entry was read with an uncorrectable error drops it; one
whose entry is IPv6 with the destination port of the ACTION takes its destination address from it and no longer waits. Of each of
these forms, under the conditions given, the conclusion is that exec answers a next state: actionMerge, nat64AnnexRead.
(03_packet_path.md: Merge and numbers (R80, R87); 08_forwarding_tables.md: Forwarding results (R231, R232), NAT64 annex (R253);
09_associative_filters.md: Merge order (R271); 06_flow_engines.md: Punts (R176).) -/
def Obligations.MergeStep : Prop :=
  (∀ (s : State) (d : Dev) (pid a : Nat) (p : Pkt), s.chip.dev = d → Tab.find d.pkts pid = some p → d.mergeable pid p = true →
    p.action = some a → bit a 7 = false → (∀ g, g < 4 → d.winner p.gen g p.look.banks = none) → d.meterOf p.gen p.port none = none →
    (a % 4 = 1 → Gives (.actionMerge pid) s fun t => ∀ q, Tab.find t.dev.pkts pid = some q → q.dropped = true ∧ q.targets = []) ∧
    (a % 4 = 2 → Gives (.actionMerge pid) s fun t => ∃ q, Tab.find t.dev.pkts pid = some q ∧ q.merged = true ∧ q.punted = true) ∧
    (a % 4 = 0 → bits a 12 2 < 2 → p.look.learn = 0 → p.look.l2hit = true → p.look.l2router = false → p.look.l2port ≤ 137 → p.fcs = 0 →
      Gives (.actionMerge pid) s fun t => ∃ q, Tab.find t.dev.pkts pid = some q ∧ q.merged = true ∧ q.targets = [p.look.l2port] ∧ q.refs = 1 ∧
        match p.domain with
        | none => q.seqs = []
        | some dom => ∃ n, n = Tab.get 0 d.eg.seq (seqKey dom (portSlice p.look.l2port)) ∧
            q.seqs = [(portSlice p.look.l2port, n, Tab.get 0 d.eg.tag (tagKey dom (portSlice p.look.l2port)))] ∧
            Tab.get 0 t.dev.eg.seq (seqKey dom (portSlice p.look.l2port)) = (n + 1) % 65536)) ∧
  (∀ (s : State) (d : Dev) (pid : Nat) (p : Pkt), s.chip.dev = d → Tab.find d.pkts pid = some p → p.annexDue = true → p.dropped = false →
    Gives (.nat64AnnexRead pid true) s (fun t => ∀ q, Tab.find t.dev.pkts pid = some q → q.dropped = true) ∧
    (∀ a k, p.action = some a → d.spanBad (annexAddr (bits a 32 30)) 48 = false → Mem.readN s.chip.hbm (annexAddr (bits a 32 30)) 48 = k → bit (k.getD 1 0).toNat 0 = true →
      be k 36 2 = bits a 80 16 → Gives (.nat64AnnexRead pid false) s fun t => ∃ q, Tab.find t.dev.pkts pid = some q ∧ q.annexDue = false ∧
        ∀ e, p.edits.nat = some e → q.edits.nat = some { e with dst := some ((k.drop 4).take 16) }))

/-- RILL_ARRIVAL at a slice that accepts work, of a merged packet that owes it a copy and has not been there: a packet without a
domain is released at once; one whose number is the next expected, under the tag in force, is released; one whose number is ahead
by less than the window, not held yet and with room, is held. GAP_TIMEOUT with one packet held and no voids moves time on to
GapTimeout after its arrival at least, releases it and expects the number after it. NUMBER_VOID takes the oldest number waiting to
be voided; where the tag is in force and it is the one expected of an empty Rill, the number after it is expected. Of each of
these forms, under the conditions given, the conclusion is that exec answers a next state: rillArrival, gapTimeout, numberVoid.
(03_packet_path.md: Rill (R88, R89, R90, R92, R93).) -/
def Obligations.RillOrder : Prop :=
  (∀ (s : State) (d : Dev) (pid e : Nat) (p : Pkt), s.chip.dev = d → Tab.find d.pkts pid = some p → p.merged = true → p.dropped = false →
    p.punted = false → p.annexDue = false → e ∉ p.arrived → (∃ x ∈ p.targets, portSlice x = e) → d.accepts .rsq e = true →
    (p.domain = none → Gives (.rillArrival pid e) s fun t => e ∈ (t.dev.pkt pid).released ∧ e ∈ (t.dev.pkt pid).arrived) ∧
    (∀ dom n, p.domain = some dom → p.seqs.find? (fun x => x.1 == e) = some (e, n, Tab.get 0 d.eg.tag (tagKey dom e)) → n < 65536 →
      (d.rillOf e).expected dom = n → Gives (.rillArrival pid e) s fun t => e ∈ (t.dev.pkt pid).released) ∧
    (∀ dom n a, p.domain = some dom → p.seqs.find? (fun x => x.1 == e) = some (e, n, Tab.get 0 d.eg.tag (tagKey dom e)) →
      ahead n ((d.rillOf e).expected dom) = a → a ≠ 0 → a < min 4096 (max 1 (d.get RSQ.CFG.Window e)) → (d.rillOf e).held.length < 16384 →
      (∀ h ∈ (d.rillOf e).held, h.domain = dom → h.num ≠ n) →
      Gives (.rillArrival pid e) s fun t => (t.dev.rillOf e).held = (d.rillOf e).held ++ [⟨dom, n, pid, d.cyc⟩] ∧
        (t.dev.pkt pid).released = p.released)) ∧
  (∀ (s : State) (d : Dev) (e : Nat) (h : Held), s.chip.dev = d → (d.rillOf e).held = [h] → (d.rillOf e).voids = [] → h.num < 65536 →
    Gives (.gapTimeout e) s fun t => (t.dev.rillOf e).held = [] ∧ (t.dev.rillOf e).expected h.domain = (h.num + 1) % 65536 ∧
      e ∈ (t.dev.pkt h.pid).released ∧ h.at0 + 20 * max 1 (d.get RSQ.CFG.GapTimeout e) ≤ t.dev.cyc) ∧
  (∀ (s : State) (d : Dev) (e dom n tag : Nat) (rest : List (Nat × Nat × Nat × Nat)), s.chip.dev = d →
    d.eg.voidQ = (e, dom, n, tag) :: rest →
    Gives .numberVoid s fun t => t.dev.eg.voidQ = rest ∧
      (tag = Tab.get 0 d.eg.tag (tagKey dom e) → (d.rillOf e).held = [] → (d.rillOf e).voids = [] → n < 65536 →
        (d.rillOf e).expected dom = n → (t.dev.rillOf e).expected dom = (n + 1) % 65536 ∧ (t.dev.rillOf e).voids = []))

/-- COPY_ENQUEUE of a copy that Rill has released in turn, of a whole good frame, without a shaper group, to a port that takes it with
its queue below its limit, appends the copy to the queue's ready list, charges its cells to the queue, and the packet owes it no
more. With no error injected into the cell reads of BSN, PORT_SELECT of an Up Ethernet port that sends nothing takes the head copy
of the queue that is next and starts to send it; a recirculation port takes a copy and puts the frame as it leaves to its slice's
ingress. COPY_TX_END, with the link up on an Ethernet port and no such error, of a copy whose frame has ended whole hands the
frame out and the port sends nothing. PAUSE_RECEIVE of a PAUSE frame on an Up port that honours them sets the pause of its 16
queues, or ends it at 0. PAUSE_EXPIRE moves on to the earliest pause's end and no pause whose time has passed is left. Of each of
these forms, under the conditions given, the conclusion is that exec answers a next state: copyEnqueue, portSelect, copyTxEnd,
pauseReceive, pauseExpire. (03_packet_path.md: Enqueue (R73, R76, R80); 10_egress_scheduling.md: Queues (R281, R282), port
scheduling (R292), pauses (R293).) -/
def Obligations.EgressQueues : Prop :=
  (∀ (s : State) (d : Dev) (pid port q : Nat) (p : Pkt), s.chip.dev = d → Tab.find d.pkts pid = some p → p.merged = true → p.dropped = false →
    p.punted = false → p.annexDue = false → port ∈ p.targets → portSlice port ∈ p.released → d.behind pid port p.domain = false →
    d.accepts .egs (portSlice port) = true → p.ended = true → p.fcs = 0 → d.queueOf p port = q → d.portTakes port = true →
    (d.eq port q).cells < (d.admOf p.gen 1 port q).2 → (d.groupOf p port q).1.filter (fun n => (d.gcfg n).mode ≠ 0) = none →
    Gives (.copyEnqueue pid port) s fun t => (t.dev.pkt pid).targets = p.targets.filter (· != port) ∧
      (t.dev.eq port q).cells = (d.eq port q).cells + p.total ∧ ∃ c, (t.dev.eq port q).ready = (d.eq port q).ready ++ [c] ∧
        c.pid = pid ∧ c.port = port ∧ c.queue = q ∧ c.len = p.outB.length + 4 ∧ c.cells = p.total ∧ c.group = none) ∧
  (∀ (s : State) (d : Dev) (port lane q : Nat) (c : Copy) (rest : List Copy), s.chip.dev = d → d.pathMoves = true → port < 128 →
    (d.port port).state = 2 → (d.port port).link = true → (d.port port).tx = none → port ≤ lane → lane < port + (d.portMode port).1 →
    d.nextQueue port = some q → (d.eq port q).ready = c :: rest → d.injects .bsn 0 0 = false →
    Gives (.portSelect port lane) s fun t => (t.dev.port port).tx = some c ∧ (t.dev.eq port q).ready = rest ∧
      (t.dev.eq port q).cells = (d.eq port q).cells - c.cells) ∧
  (∀ (s : State) (d d' : Dev) (port lane : Nat) (c : Copy), s.chip.dev = d → d.pathMoves = true → 130 ≤ port → port < 138 →
    d.takeFifo port = some (c, d') → d.injects .bsn 0 0 = false →
    Gives (.portSelect port lane) s fun t =>
      Tab.get [] t.dev.eg.recirc (port - 130) = Tab.get [] d.eg.recirc (port - 130) ++ [(d.pkt c.pid).outB]) ∧
  (∀ (s : State) (d : Dev) (port : Nat) (c : Copy), s.chip.dev = d → (d.port port).tx = some c → (d.pkt c.pid).ended = true →
    (d.pkt c.pid).trunc = false → (128 ≤ port ∨ (d.port port).link = true) → d.injects .bsn 0 0 = false →
    Gives (.copyTxEnd port) s fun t => (t.dev.port port).tx = none ∧
      Out.frame port (d.port port).txB (c.cut && (d.pkt c.pid).fcs != 0) ∈ t.dev.out) ∧
  (∀ (s : State) (d : Dev) (port en n : Nat) (ns : List Nat), s.chip.dev = d → d.inUse port = true → (d.port port).state = 2 →
    d.cfg EGS.PORT_CFG.PauseEn (portSlice port) (portIdx port) ≠ 0 →
    Gives (.pauseReceive port false en (n :: ns)) s fun t => ∀ q, q < 16 →
      (t.dev.eq port q).pauseTo = if n = 0 then none else some (d.cyc + d.pauseCycles port n)) ∧
  (∀ (s : State) (d : Dev) (port q u : Nat), s.chip.dev = d → q < 16 → (d.eq port q).pauseTo = some u →
    (∀ r v, r < 16 → (d.eq port r).pauseTo = some v → u ≤ v) →
    Gives (.pauseExpire port) s fun t => u ≤ t.dev.cyc ∧ (t.dev.eq port q).pauseTo = none ∧
      ∀ r v, r < 16 → (t.dev.eq port r).pauseTo = some v → t.dev.cyc < v)

/-- HEAD_EVALUATION of a group whose head has not been evaluated computes its eligible time as R289 and R290 say for the cycle it
became head: where the time has come the head joins its ready list and the next copy is head; otherwise the group takes an entry
in its slice's wheel at the tick of that time. WHEEL_TICK of a wheel whose one entry is at level 0 moves on to its due tick at
least, and to the head's eligible time, takes the entry off and the group's head joins its ready list. WHEEL_REPLACE of one whose
entry is at level 1 gives it the due tick and level of R285 for its eligible time at the tick and shaper time it moved on to.
SHAPER_IDLE_VISIT of a group with nothing waiting and no visit ahead of the clock brings TAT up to shaper time, and the credit of
a group in Mode 2 up to the last boundary, at most Burst. Of each of these forms, under the conditions given, the conclusion is
that exec answers a next state: headEvaluation, wheelTick, wheelReplace, shaperIdleVisit. (10_egress_scheduling.md: Timing wheel
(R285, R286), head evaluation (R288, R289, R290), idle visits (R291).) -/
def Obligations.Shapers : Prop :=
  (∀ (s : State) (d : Dev) (g el : Nat) (st : GrpState) (c : Copy) (rest : List Copy), s.chip.dev = d → (d.grp g).list = c :: rest →
    (d.grp g).eval = none → evalHead (d.gcfg g) (d.grp g) (d.grp g).headAt (c.grpCharge (d.gcfg g)) = (el, st) →
    Gives (.headEvaluation g) s fun t => (t.dev.grp g).tat = st.tat ∧ (t.dev.grp g).credit = st.credit ∧
      match dueTick el (d.grp g).headAt with
      | none => (t.dev.grp g).list = rest ∧ (t.dev.eq c.port c.queue).ready = (d.eq c.port c.queue).ready ++ [c]
      | some w => (t.dev.grp g).list = c :: rest ∧ (t.dev.grp g).eval = some el ∧
          Tab.get [] t.dev.eg.wheel (g / 32768) = Tab.get [] d.eg.wheel (g / 32768) ++ [⟨g, w, wheelLevel w d.tick⟩]) ∧
  (∀ (s : State) (d : Dev) (e p0 : Nat) (w : WheelEnt) (c : Copy) (rest : List Copy), s.chip.dev = d → d.pllAt = some p0 → p0 ≤ d.cyc →
    Tab.get [] d.eg.wheel e = [w] → w.level = 0 → (d.grp w.grp).list = c :: rest →
    Gives (.wheelTick e) s fun t => w.due ≤ t.dev.tick ∧ (d.grp w.grp).eligibleAt ≤ t.dev.sincePll ∧ Tab.get [] t.dev.eg.wheel e = [] ∧ (t.dev.grp w.grp).list = rest ∧
      (t.dev.eq c.port c.queue).ready = (d.eq c.port c.queue).ready ++ [c]) ∧
  (∀ (s : State) (d : Dev) (e p0 el : Nat) (w : WheelEnt), s.chip.dev = d → d.pllAt = some p0 → p0 ≤ d.cyc →
    Tab.get [] d.eg.wheel e = [w] → w.level = 1 → (d.grp w.grp).eval = some el →
    Gives (.wheelReplace e) s fun t => (w.due / 2 ^ 12 - 1) * 2 ^ 12 ≤ t.dev.tick ∧
      ∀ v, t.dev.tick + ceilDiv ((el + 2 ^ 64 - t.dev.sincePll * 2 ^ 24 % 2 ^ 64) % 2 ^ 64) (5 * 2 ^ 24) = v →
        Tab.get [] t.dev.eg.wheel e = [{ w with due := v, level := wheelLevel v t.dev.tick }]) ∧
  (∀ (s : State) (d : Dev) (g : Nat) (x : GrpState), s.chip.dev = d → d.grp g = x → x.list = [] → x.k ≤ d.boundary →
    Gives (.shaperIdleVisit g) s fun t => (t.dev.grp g).tat = laterOf d.shaperTime x.tat ∧ (t.dev.grp g).k = d.boundary ∧
      (t.dev.grp g).credit = if (d.gcfg g).mode = 2 then
        min ((d.gcfg g).burst : Int) (x.credit + ((d.boundary : Int) - x.k) * max 1 (d.gcfg g).quantum) else x.credit)

/-- For a function whose writes the slice accepts: QCMD for a port the slice has stages the queue entry of QCFG, or loads the active
one into QCFG, and is refused with Reason 2 for any other port; GRP_CMD stages the group of the GRP registers where Mode is not 3,
loads the active group's Mode, Cost, Burst and Quantum, or loads its state: credit in Mode 2, TAT otherwise, and the number of
copies waiting. MTR CMD stages the meter of its registers, loads the active rates and bursts, or loads tokens and counts, clearing
the counts with bit 3. MTR_REFILL refills every meter to the present meter clock. Of each of these forms, under the conditions
given, the conclusion is that exec answers a next state: egsQcmdStage, egsQcmdLoad, egsGrpStage, egsGrpLoad, egsGrpState,
mtrStage, mtrLoad, mtrStateLoad, mtrRefill. (10_egress_scheduling.md: Configuration commands (R300, R301), refill (R297);
02_register_model.md: Staging (R46).) -/
def Obligations.EgressSettings : Prop :=
  (∀ (s : State) (d : Dev) (fn e : Nat), s.chip.dev = d → e < 8 → d.opens fn .egs e = true →
    (∀ p, portOfIdx e (d.get EGS.QSEL.Port e) = some p →
      (d.stgUsed egsBit e + 1 ≤ egsCap → Gives (.egsQcmdStage fn e) s fun t => t.dev.stg = d.stg ++
        [⟨egsBit, e, 1, .queue (p * 16 + d.get EGS.QSEL.Queue e) ⟨d.get EGS.QCFG.Level e, d.get EGS.QCFG.Weight e, d.get EGS.QCFG.DefGroup e,
          d.flag EGS.QCFG.DefValid e⟩⟩]) ∧
      Gives (.egsQcmdLoad fn e) s (fun t => ∀ v, d.qcfg p (d.get EGS.QSEL.Queue e) = v →
        t.dev.get EGS.QCFG.Level e = v.level % 2 ^ EGS.QCFG.Level.w ∧ t.dev.get EGS.QCFG.Weight e = v.weight % 2 ^ EGS.QCFG.Weight.w ∧
        t.dev.get EGS.QCFG.DefGroup e = v.defGroup % 2 ^ EGS.QCFG.DefGroup.w ∧ t.dev.get EGS.QCFG.DefValid e = b2n v.defValid)) ∧
    (portOfIdx e (d.get EGS.QSEL.Port e) = none → ∀ c ∈ [Instr.egsQcmdStage fn e, .egsQcmdLoad fn e], Gives c s fun t => t.dev.stg = d.stg ∧
      t.dev.get EGS.CMD_STAT.Refused e = 1 ∧ t.dev.get EGS.CMD_STAT.Reason e = 2) ∧
    (d.stgUsed egsBit e + 1 ≤ egsCap → d.get EGS.GRP_CFG.Mode e ≠ 3 → Gives (.egsGrpStage fn e) s fun t => ∃ v, t.dev.stg = d.stg ++
      [⟨egsBit, e, 1, .group (d.selGroup e) v⟩] ∧ v.mode = d.get EGS.GRP_CFG.Mode e ∧ v.packets = d.flag EGS.GRP_CFG.Account e ∧
      v.overhead = d.get EGS.GRP_CFG.Overhead e ∧ v.cost = d.get EGS.GRP_COST.Cost e ∧ v.burst = d.get EGS.GRP_BURST.Burst e ∧
      v.quantum = d.get EGS.GRP_QUANTUM.Quantum e) ∧
    Gives (.egsGrpLoad fn e) s (fun t => ∀ v, d.gcfg (d.selGroup e) = v → t.dev.get EGS.GRP_CFG.Mode e = v.mode % 4 ∧
      t.dev.get EGS.GRP_COST.Cost e = v.cost % 2 ^ EGS.GRP_COST.Cost.w ∧ t.dev.get EGS.GRP_BURST.Burst e = v.burst % 2 ^ EGS.GRP_BURST.Burst.w ∧
      t.dev.get EGS.GRP_QUANTUM.Quantum e = v.quantum % 2 ^ EGS.GRP_QUANTUM.Quantum.w) ∧
    Gives (.egsGrpState fn e) s (fun t => t.dev.get EGS.GRP_STATE.State e = (if (d.gcfg (d.selGroup e)).mode = 2
        then uint 32 (d.grp (d.selGroup e)).credit else (d.grp (d.selGroup e)).tat) % 2 ^ EGS.GRP_STATE.State.w ∧
      t.dev.get EGS.GRP_DEPTH.Waiting e = (d.grp (d.selGroup e)).list.length % 2 ^ EGS.GRP_DEPTH.Waiting.w)) ∧
  (∀ (s : State) (d : Dev) (fn : Nat), s.chip.dev = d → d.opens fn .mtr 0 = true →
    (d.stgUsed mtrBit 0 + 1 ≤ mtrCap → Gives (.mtrStage fn) s fun t => t.dev.stg = d.stg ++ [⟨mtrBit, 0, 1, .meter (d.get MTR.SEL.Meter)
      ⟨d.get MTR.CIR.Cir, d.get MTR.PIR.Pir, d.get MTR.CBS.Cbs, d.get MTR.PBS.Pbs, d.mtrWord⟩⟩]) ∧
    Gives (.mtrLoad fn) s (fun t => ∀ v : MtrCfg, Tab.get {} d.mtr.cfg (d.get MTR.SEL.Meter) = v →
      t.dev.get MTR.CIR.Cir = v.cir % 2 ^ MTR.CIR.Cir.w ∧ t.dev.get MTR.PIR.Pir = v.pir % 2 ^ MTR.PIR.Pir.w ∧
      t.dev.get MTR.CBS.Cbs = v.cbs % 2 ^ MTR.CBS.Cbs.w ∧ t.dev.get MTR.PBS.Pbs = v.pbs % 2 ^ MTR.PBS.Pbs.w ∧
      t.dev.get MTR.CFG.Valid = bits v.cfg 31 1) ∧
    (∀ clear, Gives (.mtrStateLoad fn clear) s fun t => ∀ x, d.meter (d.get MTR.SEL.Meter) = x →
      t.dev.get MTR.TOKENS_C.TokensC = x.tokC % 2 ^ MTR.TOKENS_C.TokensC.w ∧ t.dev.get MTR.TOKENS_P.TokensP = x.tokP % 2 ^ MTR.TOKENS_P.TokensP.w ∧
      t.dev.get MTR.GREEN.Green = x.green % 2 ^ MTR.GREEN.Green.w ∧ t.dev.get MTR.YELLOW.Yellow = x.yellow % 2 ^ MTR.YELLOW.Yellow.w ∧
      t.dev.get MTR.RED.Red = x.red % 2 ^ MTR.RED.Red.w ∧
      (clear = true → ∀ y, t.dev.meter (d.get MTR.SEL.Meter) = y → y.green = 0 ∧ y.yellow = 0 ∧ y.red = 0 ∧ y.tokC = x.tokC))) ∧
  (∀ (s : State) (d : Dev), s.chip.dev = d →
    Gives .mtrRefill s fun t => ∀ m, t.dev.meter m = meterRefill (Tab.get {} d.mtr.cfg m) (d.meter m) d.mclk)

/-- PORT_CTL_WRITE of a port with lanes, none failed: Enable 1 of a Disabled port makes it Up where its link is up, else Down; Enable
0 of a Down or Up port makes it Dusk. LINK_DOWN of a port in use clears the link and, of an Up port, starts DownHold; LINK_UP of
one that no reset holds sets the link and makes a Down port Up, and an Up port whose hold has run out Dusk. DOWNHOLD_EXPIRE of an
Up port without link moves on to the end of its hold at least and makes it Dusk. DUSK_FLUSH_DONE empties its queues and leaves
Dusk: Disabled without Enable, else Up or Down by its link. For a function whose writes accept, MCG_CMD Write puts the group of
MCG_DATA and Read loads it; ADM CMD Write of an entry in range stages Guarantee and Limit, Read loads the active ones, and either
is refused with Reason 1 out of range. ADM_RECOUNT_DONE ends a recount's reserve-only admission, with each count the number of
link entries of its port and class. Of each of these forms, under the conditions given, the conclusion is that exec answers a next
state: portCtlWrite, linkDown, linkUp, downholdExpire, duskFlushDone, mcgCmdWrite, mcgCmdRead, admCmdWrite, admCmdRead,
admRecountDone. (03_packet_path.md: Port states (R82, R83, R84), multicast groups (R79), admission limits (R74);
18_errors_and_injection.md: Admission recount (R495).) -/
def Obligations.PortsAndBasin : Prop :=
  (∀ (s : State) (d : Dev) (fn mac i data : Nat) (x : PortSt), s.chip.dev = d → mac < 16 → i < 8 → d.opens fn .mac mac = true →
    d.port (8 * mac + i) = x → (d.portMode (8 * mac + i)).1 ≠ 0 →
    (data % 2 = 1 → x.state = 0 → (∀ k, k < (d.portMode (8 * mac + i)).1 →
        bit (d.get BOOT.LANE_FAIL.Lanes 0 ((8 * mac + i + k) / 32)) ((8 * mac + i + k) % 32) = false) →
      Gives (.portCtlWrite fn mac i data) s fun t => (t.dev.port (8 * mac + i)).state = (if x.link then 2 else 1) ∧
        t.dev.get MAC.PORT_CTL.Enable mac i = 1 ∧ t.dev.get MAC.PORT_CTL.DownHold mac i = bits data 1 10) ∧
    (data % 2 = 0 → x.state = 1 ∨ x.state = 2 → Gives (.portCtlWrite fn mac i data) s fun t =>
      (t.dev.port (8 * mac + i)).state = 3 ∧ t.dev.get MAC.PORT_CTL.Enable mac i = 0)) ∧
  (∀ (s : State) (d : Dev) (n : Nat) (x : PortSt), s.chip.dev = d → d.inUse n = true → d.port n = x →
    (x.link = true → Gives (.linkDown n) s fun t => (t.dev.port n).link = false ∧ (t.dev.port n).state = x.state ∧
      (t.dev.port n).holdTo = if x.state = 2 then some (d.cyc + nsCyc (1000 * d.get MAC.PORT_CTL.DownHold (n / 8) (n % 8))) else none) ∧
    (x.link = false → x.held = false → (∀ u, x.holdTo = some u → x.state = 2 → d.cyc < u) → Gives (.linkUp n) s fun t =>
      (t.dev.port n).link = true ∧ (t.dev.port n).holdTo = none ∧ (t.dev.port n).state = if x.state = 1 then 2 else x.state) ∧
    (∀ u, x.link = false → x.held = false → x.holdTo = some u → x.state = 2 → u ≤ d.cyc → Gives (.linkUp n) s fun t =>
      (t.dev.port n).link = true ∧ (t.dev.port n).state = 3) ∧
    (∀ u, x.holdTo = some u → x.state = 2 → x.link = false → Gives (.downholdExpire n) s fun t =>
      u ≤ t.dev.cyc ∧ (t.dev.port n).state = 3) ∧
    (x.state = 3 → Gives (.duskFlushDone n) s fun t => (∀ q, q < 16 → (t.dev.eq n q).ready = []) ∧ (t.dev.port n).held = false ∧
      (t.dev.port n).state = if d.flag MAC.PORT_CTL.Enable (n / 8) (n % 8) = false then 0 else if x.link then 2 else 1)) ∧
  (∀ (s : State) (d : Dev) (fn : Nat), s.chip.dev = d → d.opens fn .bsn 0 = true →
    Gives (.mcgCmdWrite fn) s (fun t => Tab.get 0 t.dev.bsn.mcast (d.get BSN.MCG_SEL.Group) =
      d.get BSN.MCG_DATA0.Ports 0 0 + 2 ^ 32 * d.get BSN.MCG_DATA0.Ports 0 1 + 2 ^ 64 * d.get BSN.MCG_DATA0.Ports 0 2 +
      2 ^ 96 * d.get BSN.MCG_DATA0.Ports 0 3 + 2 ^ 128 * d.get BSN.MCG_DATA4.PortsHi + 2 ^ 138 * d.get BSN.MCG_DATA4.Hairpin) ∧
    Gives (.mcgCmdRead fn) s (fun t => ∀ v, Tab.get 0 d.bsn.mcast (d.get BSN.MCG_SEL.Group) = v →
      (∀ j, j < 4 → t.dev.get BSN.MCG_DATA0.Ports 0 j = bits v (32 * j) 32) ∧ t.dev.get BSN.MCG_DATA4.PortsHi = bits v 128 10 ∧
      t.dev.get BSN.MCG_DATA4.Hairpin = bits v 138 1)) ∧
  (∀ (s : State) (d : Dev) (fn : Nat), s.chip.dev = d → d.opens fn .adm 0 = true →
    (∀ k, d.admSel = some k → d.stgUsed admBit 0 + 1 ≤ admCap → Gives (.admCmdWrite fn) s fun t =>
      t.dev.stg = d.stg ++ [⟨admBit, 0, 1, .limit k (d.get ADM.GUAR.Guarantee) (d.get ADM.LIMIT.Limit)⟩]) ∧
    (∀ k, d.admSel = some k → Gives (.admCmdRead fn) s fun t =>
      t.dev.get ADM.GUAR.Guarantee = (Tab.get (0, 0) d.bsn.lim k).1 % 2 ^ ADM.GUAR.Guarantee.w ∧
      t.dev.get ADM.LIMIT.Limit = (Tab.get (0, 0) d.bsn.lim k).2 % 2 ^ ADM.LIMIT.Limit.w) ∧
    (137 < d.get ADM.SEL.Port ∨ (d.get ADM.SEL.Kind = 0 ∧ 7 < d.get ADM.SEL.Index) → ∀ c ∈ [Instr.admCmdWrite fn, .admCmdRead fn],
      Gives c s fun t => t.dev.stg = d.stg ∧ t.dev.get ADM.STAT.Refused = 1 ∧ t.dev.get ADM.STAT.Reason = 1)) ∧
  (∀ (s : State), s.chip.dev.bsn.reserveOnly = true → Gives .admRecountDone s fun t => t.dev.bsn.reserveOnly = false ∧
    t.dev.bsn.shared = (t.dev.bsn.used.map fun u => u.2 - (Tab.get (0, 0) s.chip.dev.bsn.lim u.1).1).foldl (· + ·) 0 ∧
    ((∀ e ∈ s.chip.dev.bsn.links, e.2.cls < 16) → ∀ port cls, cls < 16 →
      t.dev.used port cls = (s.chip.dev.bsn.links.filter fun e => e.2.port == port && e.2.cls == cls).length))

/-- For a function whose writes DMA accepts: BIND of a channel in State 0 to an endpoint of at most 9, alone where it is a receive
endpoint and with fewer than 16 others where it transmits, binds it, and of a channel in another state is refused. STG_CFG with a
sum of at most 32,768 blocks is taken. A doorbell through the window of the channel's owner adds to its Credit up to 65,535; a
greater sum leaves Credit and counts in DB_OVF. For the channel's owner or PF0: Run = 1 in State 0 with an endpoint starts it
(State 1); Run = 0 clears Credit, and makes a halted channel State 0 and a running one stopping; Resume with Run of a halted
channel clears HALT and starts it; HEAD is written, aligned to 32, in State 0 and 3. DMA_STOPPED of a stopping channel with
nothing outstanding makes it State 0. Of each of these forms, under the conditions given, the conclusion is that exec answers a
next state: bindWrite, stgCfgWrite, dmaDoorbell, dmaRunSet, dmaRunClear, dmaResume, dmaHeadWrite, dmaStopped.
(15_dma_and_cistern.md: Binding (R417), doorbells (R422), Run and Stop (R423, R439), Resume and HEAD (R438), staging (R441).) -/
def Obligations.DmaControl : Prop :=
  (∀ (s : State) (d : Dev) (fn c data v : Nat), s.chip.dev = d → d.opens fn .dma 0 = true → c < dmaChans → data % 16 = v →
    (d.get DCH.STAT.State c = 0 → v ≤ 9 → (isRx v = true → ∀ k, k < dmaChans → k ≠ c → d.endpoint k ≠ v) →
      (isTx v = true → ((List.range dmaChans).filter fun k => k != c && d.endpoint k == v).length < 16) →
      Gives (.bindWrite fn c data) s fun t => t.dev.endpoint c = v) ∧
    (d.get DCH.STAT.State c ≠ 0 → Gives (.bindWrite fn c data) s fun t =>
      t.dev.endpoint c = d.endpoint c ∧ t.dev.get DMA.BIND_STAT.Refused = 1) ∧
    (bits data 0 15 + bits data 16 15 ≤ 32768 → Gives (.stgCfgWrite fn data) s fun t =>
      t.dev.get DMA.STG_CFG.ReadMin = bits data 0 15 ∧ t.dev.get DMA.STG_CFG.WriteMin = bits data 16 15)) ∧
  (∀ (s : State) (d : Dev) (fn window c add w : Nat), s.chip.dev = d → fn ≠ 128 → d.reachable fn = true → c < dmaChans →
    (if fn = 0 then window else fn) = w → w < 128 → d.chanOwner c = w →
    Gives (.dmaDoorbell fn window c add) s fun t =>
      if d.get DCH.STAT.Credit c + add % 65536 ≤ 65535 then t.dev.get DCH.STAT.Credit c = d.get DCH.STAT.Credit c + add % 65536
      else t.dev.get DCH.STAT.Credit c = d.get DCH.STAT.Credit c ∧
        t.dev.get DMA.DB_OVF.Count = (d.get DMA.DB_OVF.Count + 1) % 2 ^ DMA.DB_OVF.Count.w) ∧
  (∀ (s : State) (d : Dev) (fn c : Nat), s.chip.dev = d → c < dmaChans → d.opensOwn fn .dch c = true →
    ((d.chan c).stopping = false → d.endpoint c ≠ 0 → d.get DCH.STAT.State c = 0 → Gives (.dmaRunSet fn c) s fun t =>
      t.dev.get DCH.STAT.State c = 1 ∧ t.dev.get DCH.CTL.Run c = 1 ∧ (t.dev.chan c).hops = 0) ∧
    (d.get DCH.STAT.State c = 3 → Gives (.dmaRunClear fn c) s fun t => t.dev.get DCH.STAT.State c = 0 ∧ t.dev.get DCH.STAT.Credit c = 0 ∧
      t.dev.get DCH.CTL.Run c = 0) ∧
    (d.get DCH.STAT.State c = 1 ∨ d.get DCH.STAT.State c = 2 → Gives (.dmaRunClear fn c) s fun t =>
      (t.dev.chan c).stopping = true ∧ t.dev.get DCH.STAT.Credit c = 0 ∧ t.dev.get DCH.CTL.Run c = 0) ∧
    ((d.chan c).stopping = false → d.endpoint c ≠ 0 → d.get DCH.STAT.State c = 3 → Gives (.dmaResume fn c true) s fun t =>
      t.dev.get DCH.STAT.State c = 1 ∧ t.dev.get DCH.HALT.Reason c = 0 ∧ t.dev.get DCH.HALT.DescAccess c = 0 ∧
      t.dev.get DCH.HALT.Direction c = 0) ∧
    (∀ addr, d.get DCH.STAT.State c = 0 ∨ d.get DCH.STAT.State c = 3 → Gives (.dmaHeadWrite fn c addr) s fun t =>
      t.dev.get DCH.HEAD.Addr c = addr / 32 * 32 % 2 ^ 64)) ∧
  (∀ (s : State) (d : Dev) (c : Nat), s.chip.dev = d → (d.chan c).stopping = true → (d.chan c).reads = [] → (d.chan c).descs = [] →
    Gives (.dmaStopped c) s fun t => (t.dev.chan c).stopping = false ∧ t.dev.get DCH.STAT.State c = 0)

/-- For a channel that may: DESCRIPTOR_FETCH asks for contiguous descriptors at HEAD. PCIE_COMPLETION of a one-descriptor read that
brings a good Data descriptor frees the read, takes it, moves HEAD on and takes one Credit. BURST_START of a channel on the read
engine whose turn it is makes it State 2 with a burst, and the next channel's turn follows. FLUSHUS_EXPIRE of an Idle channel
other than a Stream one, with a level and credit, moves on to the end of FlushUs at least and makes it State 2. BURST_END of a
read burst with nothing left ends it, and an HbmIn or Submit channel is Idle. COMPLETION_TIMEOUT of a running channel's read halts
it with Reason 2 no earlier than the timeout, and HALT_ADDR holds the address of the request; of a read of the loader or the
walker it ends the load or the pass, and the read's tag is free. PCIE_COMPLETION of a read of the loader, or of a discarded one,
frees its tag. DESCRIPTOR_COMPLETE writes back the first completed descriptor, on HbmIn once the channel's writes are accepted,
and first sends its flush read where it asks for one; FLUSH_READ_DONE writes it back, where its function may issue requests.
TX_FRAME_ENTER makes the oldest whole frame of a host port the next packet, padded to 60 bytes, where no error is injected into
the slice's tables. SUBMIT_RETRY asks for the buffer again no earlier than its time. Of each of these forms, under the conditions
given, the conclusion is that exec answers a next state: descriptorFetch, pcieCompletion, burstStart, flushusExpire, burstEnd,
completionTimeout, descriptorComplete, flushReadDone, txFrameEnter, submitRetry. (15_dma_and_cistern.md: Descriptors (R424, R425),
bursts (R427, R428), completion (R430, R431, R432), Tx frames (R435), errors (R436, R437), Submit (R450).) -/
def Obligations.DmaTransfers : Prop :=
  (∀ (s : State) (d : Dev) (c n : Nat), s.chip.dev = d → d.dmaRuns c = true → d.endpoint c ≠ 0 →
    (∀ r ∈ (d.chan c).reads, r.why = .desc → r.drop = true) →
    d.readRoom c (d.get DCH.HEAD.Addr c) (32 * min 8 (d.get DCH.STAT.Credit c)) / 32 * 32 = n → n ≠ 0 →
    Gives (.descriptorFetch c) s fun t => Out.read c (d.chanOwner c) (d.get DCH.HEAD.Addr c) n ∈ t.dev.out ∧
      ∃ r, (t.dev.chan c).reads = (d.chan c).reads ++ [r] ∧ r.why = .desc ∧ r.addr = d.get DCH.HEAD.Addr c ∧ r.len = n ∧ r.at0 = d.cyc ∧
        r.drop = false) ∧
  (∀ (s : State) (d : Dev) (c idx : Nat) (data : List Byte) (r : DmaRead) (w : DescW), s.chip.dev = d → c < dmaChans →
    (d.chan c).reads[idx]? = some r → r.why = .desc → r.drop = false → r.len = 32 → data.length = 32 → d.get DCH.HEAD.Addr c = r.addr →
    descOf data = w → w.kind = 0 → d.get DCH.STAT.Credit c ≠ 0 → d.descBad c w = false →
    Gives (.pcieCompletion c idx 0 false data) s fun t => (t.dev.chan c).reads = (d.chan c).reads.eraseIdx idx ∧
      t.dev.get DCH.HEAD.Addr c = (if w.next = 0 then r.addr + 32 else w.next) % 2 ^ 64 ∧
      t.dev.get DCH.STAT.Credit c = (d.get DCH.STAT.Credit c - 1) % 65536 ∧
      ∃ y, (t.dev.chan c).descs = (d.chan c).descs ++ [y] ∧ y.addr = r.addr ∧ y.host = w.host ∧ y.len = w.len ∧ y.moved = 0 ∧
        y.whole = (w.len == 0 && (d.endpoint c == 1 || d.endpoint c == 2))) ∧
  (∀ (s : State) (d : Dev) (c : Nat), s.chip.dev = d → c < dmaChans → [1, 3, 5].contains (d.endpoint c) = true →
    d.dmaPick false = some c →
    Gives (.burstStart c) s fun t => t.dev.get DCH.STAT.State c = 2 ∧ (t.dev.chan c).burst.isSome = true ∧ (t.dev.chan c).since = none ∧
      Tab.get 0 t.dev.dma.rr (d.get DCH.CFG.Prio c) = c + 1) ∧
  (∀ (s : State) (d : Dev) (c u : Nat), s.chip.dev = d → c < dmaChans → (d.chan c).since = some u → d.chanState c = 1 →
    d.dmaRuns c = true → d.get DCH.TRIG.FlushUs c ≠ 0 → d.dmaLevel c ≠ 0 → d.hasCredit c = true → d.endpoint c ≠ 9 →
    Gives (.flushusExpire c) s fun t => u + nsCyc (1000 * d.get DCH.TRIG.FlushUs c) ≤ t.dev.cyc ∧ t.dev.get DCH.STAT.State c = 2) ∧
  (∀ (s : State) (d : Dev) (c : Nat), s.chip.dev = d → c < dmaChans → [1, 3, 5, 7].contains (d.endpoint c) = true →
    (d.chan c).burst = some 0 →
    Gives (.burstEnd c) s fun t => (t.dev.chan c).burst = none ∧ (t.dev.chan c).descs = (d.chan c).descs ∧
      (d.endpoint c = 1 ∨ d.endpoint c = 7 → t.dev.get DCH.STAT.State c = 1)) ∧
  (∀ (s : State) (d : Dev) (c idx : Nat) (r : DmaRead), s.chip.dev = d → c < dmaChans → (d.chan c).reads[idx]? = some r → r.drop = false →
    d.dmaRuns c = true → Gives (.completionTimeout c idx) s fun t => r.at0 + cplTimeout (d.fn (d.chanOwner c)).cto ≤ t.dev.cyc ∧
      t.dev.get DCH.STAT.State c = 3 ∧ t.dev.get DCH.HALT.Reason c = 2 ∧ t.dev.get DCH.HALT_ADDR.Addr c = r.base % 2 ^ 64) ∧
  (∀ (s : State) (d : Dev) (idx : Nat) (walker : Bool) (r : IntRead), s.chip.dev = d → d.intAt walker idx = some r →
    (r.drop = false → Gives (.completionTimeout (dmaChans + b2n walker) idx) s fun t => r.at0 + cplTimeout (d.fn 0).cto ≤ t.dev.cyc ∧
      t.dev.dma.ints.length + 1 = d.dma.ints.length ∧ if walker then t.dev.get SHW.STAT.Active = 0 else ∀ l, t.dev.load = some l → l.result = 8) ∧
    (walker = false ∨ r.drop = true → ∀ data, Gives (.pcieCompletion (dmaChans + b2n walker) idx 0 false data) s fun t =>
      t.dev.dma.ints = d.dma.ints.erase r)) ∧
  (∀ (s : State) (d : Dev) (c : Nat) (y : DmaDesc) (rest : List DmaDesc), s.chip.dev = d → c < dmaChans → (d.chan c).descs = y :: rest →
    (y.whole = true → d.dmaMay c = true → (d.endpoint c == 1 && d.unaccepted 2 c) = false →
      (y.flush && writesHost (d.endpoint c) && !y.flushed) = false → Gives (.descriptorComplete c) s fun t =>
      (t.dev.chan c).descs = (d.chan c).descs.filter (·.id != y.id) ∧
      t.dev.get DCH.DONE.Count c = (d.get DCH.DONE.Count c + 1) % 2 ^ DCH.DONE.Count.w) ∧
    (y.whole = true → d.dmaMay c = true → (y.flush && writesHost (d.endpoint c) && !y.flushed) = true → y.flushSent = false →
      d.tagsUsed < 768 → Gives (.descriptorComplete c) s fun t => Out.read c (d.chanOwner c) y.host 0 ∈ t.dev.out ∧
        (t.dev.chan c).descs.head? = some { y with flushSent := true } ∧ t.dev.get DCH.DONE.Count c = d.get DCH.DONE.Count c) ∧
    (∀ i, ((d.chan c).reads.findIdx? fun r => r.why == .flush && !r.drop) = some i → y.flushSent = true →
      d.dmaMay c = true → Gives (.flushReadDone c) s fun t =>
      (t.dev.chan c).descs = (d.chan c).descs.filter (·.id != y.id) ∧ (t.dev.chan c).reads = (d.chan c).reads.eraseIdx i ∧
      t.dev.get DCH.DONE.Count c = (d.get DCH.DONE.Count c + 1) % 2 ^ DCH.DONE.Count.w)) ∧
  (∀ (s : State) (d : Dev) (port : Nat) (f : TxFrame) (rest : List TxFrame), s.chip.dev = d → port = 128 ∨ port = 129 →
    Tab.get [] d.dma.hostTx port = f :: rest → d.arbiterOn (portSlice port) = true →
    d.injects .prs (portSlice port) 0 = false →
    Gives (.txFrameEnter port) s fun t => Tab.get [] t.dev.dma.hostTx port = rest ∧ t.dev.nextPid = d.nextPid + 1 ∧
      ∃ p, Tab.find t.dev.pkts d.nextPid = some p ∧ p.port = port ∧ p.bytes = f.bytes ++ List.replicate (60 - f.bytes.length) 0) ∧
  (∀ (s : State) (d : Dev) (c u : Nat), s.chip.dev = d → (d.chan c).retryAt = some u → (d.chan c).buf = none →
    ((d.chan c).descs.find? fun y => !y.whole).isSome = true →
    Gives (.submitRetry c) s fun t => u ≤ t.dev.cyc ∧
      (((t.dev.chan c).buf.isSome = true ∧ (t.dev.chan c).retryAt = none) ∨
       ((t.dev.chan c).buf = none ∧ (t.dev.chan c).retryAt = some (t.dev.cyc + nsCyc 1000))))

/-- CISTERN_ALLOCATE of one management core answers it a handle of the smallest pool that covers the bytes and has a buffer: held
once, its owner the tag given, its holder the core; where no pool has one it answers the empty response. CISTERN_FREE of a handle
takes a reference and the last one makes the buffer free, or is refused as Stale, DoubleFree or Foreign, in that order, latched in
REFUSE_LAST and REFUSE_REASON with the buffer unchanged. CISTERN_ADDREF by the holder adds one below 15, and is refused and
counted at 15. CISTERN_HANDOFF by the holder makes the destination the holder, which is handed the handle; from anyone else it
does nothing. FREE_CMD and RECLAIM with no command Busy start one; CPM_COMMAND_DONE of a reclaim leaves no buffer held with that
owner, and of a free that R448 allows takes a reference; either sets Done. DELIVER_SEND by a holding core puts its message to the
function's Deliver channel. POOL_REBUILD_DONE ends a rebuild with the pool's free buffers in number order. Of each of these forms,
under the conditions given, the conclusion is that exec answers a next state: cisternAllocate, cisternFree, cisternAddref,
cisternHandoff, deliverSend, freeCmd, reclaim, cpmCommandDone, poolRebuildDone. (15_dma_and_cistern.md: Holders (R445), allocation
(R446, R447), frees (R448), reclaims (R449), Deliver (R450), rebuild (R451).) -/
def Obligations.CisternCommands : Prop :=
  (∀ (s : State) (d : Dev) (core bytes owner p : Nat), s.chip.dev = d → 1 ≤ core → core ≤ 4 → 1 ≤ bytes → bytes ≤ poolBytes p → p < 4 →
    d.poolHas p = true → (∀ q, q < p → bytes ≤ poolBytes q → d.poolHas q = false) →
    Gives (.cisternAllocate [(core, bytes, owner)] none) s fun t => ∃ h, t.dev.lastRead = some (.cistern (127 + core) h) ∧ handlePool h = p ∧
      (t.dev.buf (handleKey h)).held = true ∧ (t.dev.buf (handleKey h)).gen = handleGen h ∧ (t.dev.buf (handleKey h)).refs = 1 ∧
      (t.dev.buf (handleKey h)).owner = owner % 256 ∧ (t.dev.buf (handleKey h)).holder = 127 + core) ∧
  (∀ (s : State) (d : Dev) (core bytes owner : Nat), s.chip.dev = d → 1 ≤ core → core ≤ 4 →
    (∀ q, q < 4 → 1 ≤ bytes → bytes ≤ poolBytes q → d.poolHas q = false) →
    Gives (.cisternAllocate [(core, bytes, owner)] none) s fun t => t.dev.lastRead = some (.cistern (127 + core) emptyHandle) ∧
      t.dev.cpm.bufs = d.cpm.bufs) ∧
  (∀ (s : State) (d : Dev) (tag h why : Nat) (b : CistBuf), s.chip.dev = d → d.buf (handleKey h) = b →
    why = (if handleReal h = false ∨ b.gen ≠ handleGen h then 2 else if b.held = false then 1
      else if tag ≠ b.owner ∧ tag ≠ b.holder then 3 else 0) → why ≠ 0 →
    Gives (.cisternFree tag h) s fun t => t.dev.buf (handleKey h) = b ∧ t.dev.get CPM.REFUSE_LAST.Handle = h % 2 ^ 24 ∧
      t.dev.get CPM.REFUSE_LAST.Requester = tag % 2 ^ 8 ∧ t.dev.get CPM.REFUSE_REASON.Reason = why) ∧
  (∀ (s : State) (d : Dev) (tag h : Nat), s.chip.dev = d → d.holds tag h = false →
    Gives (.cisternAddref tag h) s (fun t => t.dev = d) ∧ ∀ dest data, Gives (.cisternHandoff tag h dest data) s fun t => t.dev = d) ∧
  (∀ (s : State) (d : Dev) (tag h : Nat) (b : CistBuf), s.chip.dev = d → d.buf (handleKey h) = b → handleReal h = true →
    b.gen = handleGen h → b.held = true →
    (tag = b.holder → 15 ≤ b.refs → Gives (.cisternAddref tag h) s fun t => t.dev.buf (handleKey h) = b ∧ t.dev.cpm.addRefs = d.cpm.addRefs + 1) ∧
    (tag = b.owner ∨ tag = b.holder → Gives (.cisternFree tag h) s fun t =>
      if b.refs ≤ 1 then (t.dev.buf (handleKey h)).held = false
      else t.dev.buf (handleKey h) = { b with refs := b.refs - 1 }) ∧
    (tag = b.holder → b.refs < 15 → Gives (.cisternAddref tag h) s fun t => t.dev.buf (handleKey h) = { b with refs := b.refs + 1 }) ∧
    (∀ dest data, tag = b.holder → Gives (.cisternHandoff tag h dest data) s fun t => (t.dev.buf (handleKey h)).holder = dest ∧
      (t.dev.buf (handleKey h)).held = true ∧
      if dest = 132 then t.dev.fsc.inbox = d.fsc.inbox ++ [h] else t.dev.lastRead = some (.cistern dest h)) ∧
    (∀ core f c data, b.holder = 128 + core → d.deliverChan f = some c → Gives (.deliverSend core f h data) s fun t =>
      (t.dev.chan c).msgs = (d.chan c).msgs ++ [(core, h)] ∧ (t.dev.buf (handleKey h)).holder = 133)) ∧
  (∀ (s : State) (d : Dev) (fn arg : Nat), s.chip.dev = d → d.opens fn .cpm 0 = true → d.flag CPM.CMD_STAT.Busy = false →
    Gives (.freeCmd fn arg) s (fun t => t.dev.get CPM.CMD_STAT.Busy = 1 ∧ t.dev.cpm.cmd = some (0, arg % 2 ^ 24)) ∧
    Gives (.reclaim fn arg) s (fun t => t.dev.get CPM.CMD_STAT.Busy = 1 ∧ t.dev.cpm.cmd = some (1, arg % 256))) ∧
  (∀ (s : State) (d : Dev) (arg : Nat), s.chip.dev = d →
    (d.cpm.cmd = some (1, arg) → Gives .cpmCommandDone s fun t => t.dev.cpm.cmd = none ∧ t.dev.get CPM.CMD_STAT.Busy = 0 ∧
      t.dev.get CPM.CMD_STAT.Done = 1 ∧ ∀ k, (t.dev.buf k).held = true → (t.dev.buf k).owner ≠ arg) ∧
    (d.cpm.cmd = some (0, arg) → d.freeReason 0 arg = 0 → Gives .cpmCommandDone s fun t => t.dev.cpm.cmd = none ∧
      t.dev.get CPM.CMD_STAT.Busy = 0 ∧ t.dev.get CPM.CMD_STAT.Done = 1 ∧
      ((d.buf (handleKey arg)).refs ≤ 1 → (t.dev.buf (handleKey arg)).held = false))) ∧
  (∀ (s : State) (d : Dev) (p : Nat), s.chip.dev = d → p ∈ d.cpm.rebuilding →
    Gives (.poolRebuildDone p) s fun t => p ∉ t.dev.cpm.rebuilding ∧ Tab.get [] t.dev.cpm.freed p =
      (List.range (Tab.get 0 d.cpm.fresh p)).filter fun n => !(d.buf (bufKey p n)).held && !(d.buf (bufKey p n)).gone)

/-- FSC_ENTRY_ARRIVE of a punted packet at a level below its Limit, with an entry free, puts it in the level of its ACTION, or
SpillPrio for Spillway: behind all entries but those of the same cycle that come from a higher ingress slice or the host.
ENTRY_EXPIRE of a level with Expire removes its oldest entry no earlier than Expire after it came; a packet whose level does not
let it overflow is dropped. FSC_DISPATCH at a rate of one, with work at the next level, takes its oldest entry; a packet's thread
starts on the lowest free thread of the cluster with the most free, in its active bank; a thread of which a sealed entry is left
to send is not free. HOST_CMD_SUBMIT takes the oldest message; a good one whose dispatch entry some active bank permits its
function joins its level. RESULT_ARRIVE of a running thread's result that is no NAT lookup and no filter search puts its 16 bytes
in the slot, MemError where a general-region read met an uncorrectable word, and the thread waits for it no more.
FSC_LEVEL_RECOUNT_DONE ends the recount. Of each of these forms, under the conditions given, the conclusion is that exec answers a
next state: fscEntryArrive, entryExpire, fscDispatch, hostCmdSubmit, resultArrive, fscLevelRecountDone. (06_flow_engines.md: Punt
entries (R176, R179), dispatch (R175, R177), host commands (R191, R192), recount (R190), results (R180, R189).) -/
def Obligations.EngineWork : Prop :=
  (∀ (s : State) (d : Dev) (pid l : Nat) (p : Pkt) (front back : List FscEntry), s.chip.dev = d → Tab.find d.pkts pid = some p → p.punted = true → p.inFsc = false →
    p.dropped = false → (if p.action.getD 0 % 4 = 3 then d.get FSC.CFG.SpillPrio else bits (p.action.getD 0) 14 3) = l →
    (d.lvl l).length < min 32768 (d.get FSC.LVL_CFG.Limit 0 l) → d.fscUsed < 32768 → d.lvl l = front ++ back →
    (∀ e, e ∈ back → e.at0 = d.cyc ∧ p.slice % 8 < d.workRank e.work) →
    (∀ e, front.getLast? = some e → e.at0 = d.cyc → d.workRank e.work ≤ p.slice % 8) →
    Gives (.fscEntryArrive pid) s fun t => t.dev.lvl l = front ++ ⟨.pkt pid, d.cyc⟩ :: back ∧ (t.dev.pkt pid).inFsc = true) ∧
  (∀ (s : State) (d : Dev) (l pid : Nat) (e : FscEntry) (rest : List FscEntry), s.chip.dev = d → d.lvl l = e :: rest → e.work = .pkt pid →
    d.get FSC.LVL_TIME.Expire 0 l ≠ 0 → (d.pkt pid).action.getD 0 % 4 = 3 ∨ d.flag FSC.LVL_CFG.Overflow 0 l = false →
    Gives (.entryExpire l) s fun t => e.at0 + 20 * d.get FSC.LVL_TIME.Expire 0 l ≤ t.dev.cyc ∧ t.dev.lvl l = rest ∧
      ∀ q, Tab.find t.dev.pkts pid = some q → q.dropped = true) ∧
  (∀ (s : State) (d : Dev) (l cl pid : Nat) (aged : Bool) (e : FscEntry) (rest : List FscEntry), s.chip.dev = d → d.fsc.recount = false →
    d.accepts .fsc = true → d.glb.dpr = .idle → d.get FSC.CFG.Rate ≤ 1 → d.nextLevel = some (l, aged) → d.bestCluster = some cl →
    d.lvl l = e :: rest → e.work = .pkt pid → d.gateOk cl (d.activeBank cl) (d.packetThread pid l (d.activeBank cl)).pc = true →
    Gives .fscDispatch s fun t => t.dev.lvl l = rest ∧ ∃ n x, n < 256 ∧ d.thr cl n = none ∧
      (∀ m, m < n → m ∈ d.busyThreads cl ∨ ∃ o ∈ d.fsc.orphans, o.cluster = cl ∧ o.thread = m) ∧ (∀ o ∈ d.fsc.orphans, o.cluster = cl → o.thread ≠ n) ∧
      t.dev.thr cl n = some x ∧ x.work = .pkt pid ∧ x.level = l ∧ x.bank = d.activeBank cl ∧
      x.pc = (d.packetThread pid l (d.activeBank cl)).pc ∧ x.at0 = d.cyc) ∧
  (∀ (s : State) (d : Dev) (h : Nat) (m : HostMsg) (rest : List Nat), s.chip.dev = d → d.fsc.inbox = h :: rest → d.hostMsg h = (m, true) →
    (∃ c, c < 16 ∧ bit (d.dispEntry c m.opcode) 15 = true ∧ (m.fn = 0 ∨ bit (d.dispEntry c m.opcode) 16 = true)) →
    (d.lvl m.prio).length < min 32768 (d.get FSC.LVL_CFG.Limit 0 m.prio) → d.fscUsed < 32768 →
    Gives .hostCmdSubmit s fun t => t.dev.fsc.inbox = rest ∧ t.dev.lvl m.prio = d.lvl m.prio ++ [⟨.cmd m, d.cyc⟩]) ∧
  (∀ (s : State) (d : Dev) (r : EngResult) (rest : List EngResult) (x : Thread) (err : Bool), s.chip.dev = d → d.results = r :: rest →
    d.thr r.src.cluster r.src.thread = some x → x.run = r.src.run → r.nat = none → r.search = none →
    Gives (.resultArrive err) s fun t => t.dev.results = rest ∧ ∃ y, t.dev.thr r.src.cluster r.src.thread = some y ∧
      y.slots = putB x.slots (16 * r.src.slot) (match r.raw with
        | none => statusBytes r (d.get FTB.EPOCH.Epoch)
        | some b => if r.flag = true ∧ err = true then toLE 8 (2 ^ 4 * 8) ++ toLE 8 0 else b) ∧ y.wait = x.wait.erase r.src.slot ∧ y.gp = x.gp ∧
      y.recB = (if r.src.load = true ∧ r.status = 0 then sliceB r.data 0 64 else x.recB)) ∧
  (∀ (s : State), Gives .fscLevelRecountDone s fun t => t.dev.fsc.recount = false)

/-- A word that may issue, whose next address is legal and which is no safe point, moves the thread to that address with the units'
results in the general registers. MICROWORD_ISSUE, or the command of its request, then appends one entry to a journal of fewer
than 16: GenWrite's address and data, Fence, Delete by location, Write and Ops by digest, Insert by key, and an event's items,
each read from the operand area at the register named. RecRead by digest sends its request to the digest's home RUU, a lookup in
L2T and a general-region read that port 1 accepts at once send their results, and the thread waits for the slot. In an end word,
Forward and Drop of a packet and Reply of a host command end the journal and put all its entries under seal. Of each of these
forms, under the conditions given, the conclusion is that exec answers a next state: microwordIssue, genWrite, fenceReq,
recDelete, recWrite, recInsert, recOps, eventPostReq, recRead, routineLookup, genRead, forward, drop, reply. (06_flow_engines.md:
Request operands (R207), journal (R180, R184); 07_microcode_store.md: Microwords (R202, R203, R204).) -/
def Obligations.EngineWords : Prop :=
  (∀ (s : State) (d : Dev) (cl n : Nat) (x : Thread) (w o pc hdr : Nat) (st : List Nat) (b : List Byte), s.chip.dev = d → d.mayIssue cl n x w = true →
    x.gp.getD (bits w 109 4) 0 = o → x.reqSpace.drop o = b → ofLE (sliceB b 0 8) = hdr → bit w 38 = false → bit w 37 = false →
    d.nextPc cl x w (x.units w (compact d.dt)).2 = .ok (pc, st) →
    (∀ (c i : Instr) (j : Journal), c = .microwordIssue cl n ∨ c = i → x.journal.length < 16 →
      (i = .genWrite cl n ∧ bits w 97 4 = 8 ∧ operandOk o 16 = true ∧ ∃ a, d.genAddr b = some a ∧ j = .gen a (ofLE (sliceB b 8 8))) ∨
      (i = .fenceReq cl n ∧ bits w 97 4 = 13 ∧ j = .fence) ∨
      (i = .recDelete cl n ∧ bits w 97 4 = 5 ∧ bits w 101 4 = 2 ∧ operandOk o 16 = true ∧
        j = .delete (.loc (locOfWord (ofLE (sliceB b 8 4))) (ofLE (sliceB b 12 2))) (bits w 105 4)) ∨
      (i = .recWrite cl n ∧ bits w 97 4 = 3 ∧ bits w 101 4 = 1 ∧ operandOk o 128 = true ∧
        j = .write (.digest (ofLE (sliceB b 8 16))) (bits hdr 4 5) (ofLE (sliceB b 64 64)) (bits w 105 4)) ∨
      (i = .recInsert cl n ∧ bits w 97 4 = 4 ∧ bits w 101 4 = 3 ∧ operandOk o 128 = true ∧
        j = .insert (.key (sliceB b 8 48)) (ofLE (sliceB b 64 64)) (bits w 105 4)) ∨
      (i = .recOps cl n ∧ bits w 97 4 = 2 ∧ bits w 101 4 = 1 ∧ hdr % 16 ≤ 8 ∧ operandOk o (64 + 8 * (hdr % 16)) = true ∧
        j = .ops (.digest (ofLE (sliceB b 8 16))) (items64 (b.drop 64) (hdr % 16)) (bits w 105 4)) ∨
      (i = .eventPostReq cl n ∧ bits w 97 4 = 9 ∧ bits w 101 4 = 0 ∧ 1 ≤ be b 2 1 ∧ be b 2 1 ≤ 7 ∧ operandOk o (8 + 8 * be b 2 1) = true ∧
        j = .event (ofLE (sliceB b 0 2) % 512) (items64 (b.drop 8) (be b 2 1))) →
      Gives c s fun t => ∃ y, t.dev.thr cl n = some y ∧ y.journal = x.journal ++ [j] ∧ y.pc = pc ∧ y.stack = st ∧ y.sealing = none ∧
        y.gp = (x.units w (compact d.dt)).1.gp ∧ t.hbm = s.chip.hbm) ∧
    (bits w 97 4 = 1 → bits w 101 4 = 1 → operandOk o 24 = true → Gives (.recRead cl n) s fun t => ∃ y q, t.dev.thr cl n = some y ∧
      y.wait = x.wait ++ [bits w 105 4] ∧ y.pc = pc ∧ y.journal = x.journal ∧
      (t.dev.ruu (homeRuu (ofLE (sliceB b 8 16)))).waiting = (d.ruu (homeRuu (ofLE (sliceB b 8 16)))).waiting ++ [q] ∧
      q = .engine { cluster := cl, thread := n, run := x.run, slot := bits w 105 4, load := true } (.digest (ofLE (sliceB b 8 16))) .read) ∧
    (bits w 97 4 = 6 → bits w 101 4 = 1 → operandOk o 8 = true → Gives (.routineLookup cl n) s fun t => ∃ y r, t.dev.thr cl n = some y ∧
      y.wait = x.wait ++ [bits w 105 4] ∧ y.pc = pc ∧ t.dev.results = d.results ++ [r] ∧ r.src.slot = bits w 105 4 ∧
      ∀ slot e, d.l2Find (be b 0 6) (ofLE (sliceB b 6 2) % 4096) = some (slot, e) → r.raw =
        some (toLE 8 (1 + 2 * e.port + 2 ^ 9 * b2n e.static + 2 ^ 10 * b2n e.router + 2 ^ 11 * b2n e.learned) ++ toLE 8 0)) ∧
    (∀ a, bits w 97 4 = 7 → operandOk o 8 = true → d.genAddr b = some a → d.burstBad a = false → d.hbmMayRead 1 a = true →
      (d.hpc (a / 2 ^ 29)).waiting = [] → Gives (.genRead cl n) s fun t => ∃ y r,
      t.dev.thr cl n = some y ∧ y.wait = x.wait ++ [bits w 105 4] ∧ y.pc = pc ∧ t.dev.results = d.results ++ [r] ∧
      r.src.slot = bits w 105 4 ∧ r.raw = some (toLE 8 1 ++ Mem.readN s.chip.hbm a 8))) ∧
  (∀ (s : State) (d : Dev) (cl n : Nat) (x : Thread) (w o : Nat) (b : List Byte) (c i : Instr) (j : Journal), s.chip.dev = d →
    d.mayIssue cl n x w = true → x.gp.getD (bits w 109 4) 0 = o → x.reqSpace.drop o = b → bit w 38 = true → x.journal.length < 16 →
    c = .microwordIssue cl n ∨ c = i →
    (i = .forward cl n ∧ bits w 97 4 = 10 ∧ (∃ pid, x.work = .pkt pid) ∧ be b 0 1 ≤ 2 ∧ ofLE (sliceB b 8 2) ≤ 512 ∧ operandOk o 10 = true ∧
      j = .forward (be b 0 1) (ofLE (sliceB b 2 2)) (be b 4 1) (ofLE (sliceB b 6 2)) (ofLE (sliceB b 8 2))) ∨
    (i = .drop cl n ∧ bits w 97 4 = 11 ∧ (∃ pid, x.work = .pkt pid) ∧ j = .drop) ∨
    (i = .reply cl n ∧ bits w 97 4 = 12 ∧ (∃ m, x.work = .cmd m) ∧ be b 0 1 ≤ 6 ∧ operandOk o (8 + 8 * be b 0 1) = true ∧
      j = .reply (items64 (b.drop 8) (be b 0 1)) (ofLE (sliceB b 2 2) % 2 ^ 13)) →
    Gives c s fun t => ∃ y q, t.dev.thr cl n = some y ∧ y.journal = [] ∧ y.pc = x.pc ∧ y.sealing = some q ∧ q.fin = true ∧ q.sent = false ∧
      q.left.map (·.2) = x.journal ++ [j])

/-- SEAL of a thread of whose number no aborted thread left entries, while the data path moves, with one entry under seal: a GenWrite
that port 1 of its pseudo-channel takes at once puts its 8 bytes at its address and nothing else of HBM changes; a Fence stays
while a write of the thread still waits to be accepted; a Drop of a packet drops it; the seal is otherwise sent with nothing left.
SEAL_ADMITTED of a sent seal with no entry waiting at an RUU and no write to be accepted: the thread ends where the word was an
end word, and otherwise goes on with no seal. RUNLIMIT_EXPIRE of a thread without a seal ends it no earlier than RunLimit after
its start, ABORT_LAST naming Reason 1, the thread and its address. KILL of a running thread marks it to be killed at its seal. Of
each of these forms, under the conditions given, the conclusion is that exec answers a next state: seal, sealAdmitted,
runlimitExpire, kill. (06_flow_engines.md: Seals (R181, R184), disposition (R185), RunLimit (R188), aborts and Kill (R189);
11_hbm_controller.md: Fences (R311).) -/
def Obligations.EngineSeals : Prop :=
  (∀ (s : State) (d : Dev) (cl n i : Nat) (x : Thread) (q : Seal) (j : Journal), s.chip.dev = d → d.pathMoves = true →
    (∀ o ∈ d.fsc.orphans, o.cluster = cl → o.thread ≠ n) → d.thr cl n = some x → x.sealing = some q → q.left = [(i, j)] →
    (∀ a v, j = .gen a v → q.fin = false → a % 64 ≤ 56 → (d.hpc (a / 2 ^ 29)).waiting = [] →
      d.hbmFree (a / 2 ^ 29) { readOf 1 0 a with write := true, merge := true } = true → Gives (.seal cl n) s fun t =>
      t.dev.thr cl n = some { x with sealing := some { q with left := [], sent := true } } ∧ Mem.readN t.hbm a 8 = toLE 8 v ∧
      ∀ k, k < a ∨ a + 8 ≤ k → Mem.read t.hbm k = Mem.read s.chip.hbm k) ∧
    (j = .fence → q.fin = false → (d.unaccepted 1 (threadSrc cl n) = true → Gives (.seal cl n) s fun t => t.dev.thr cl n = some { x with sealing := some { q with sent := false } }) ∧
      (d.unaccepted 1 (threadSrc cl n) = false → Gives (.seal cl n) s fun t =>
        t.dev.thr cl n = some { x with sealing := some { q with left := [], sent := true } })) ∧
    (∀ pid, j = .drop → x.work = .pkt pid → Gives (.seal cl n) s fun t =>
      t.dev.thr cl n = some { x with sealing := some { q with left := [], sent := true } } ∧ t.hbm = s.chip.hbm ∧
      ∀ p, Tab.find t.dev.pkts pid = some p → p.dropped = true ∧ p.targets = [])) ∧
  (∀ (s : State) (d : Dev) (cl n : Nat) (x : Thread) (q : Seal), s.chip.dev = d → d.thr cl n = some x → x.sealing = some q → q.sent = true →
    d.sealWaits cl n x.run = false → d.unaccepted 1 (threadSrc cl n) = false → x.kill = false →
    Gives (.sealAdmitted cl n) s fun t => t.dev.thr cl n = if q.fin then none else some { x with sealing := none }) ∧
  (∀ (s : State) (d : Dev) (cl n : Nat) (x : Thread), s.chip.dev = d → cl < 16 → d.thr cl n = some x →
    (x.sealing = none → Gives (.runlimitExpire cl n) s fun t => x.at0 + 48 * max 1 (d.get FEN.CFG.RunLimit cl) ≤ t.dev.cyc ∧
      t.dev.thr cl n = none ∧ t.dev.get FEN.ABORT_LAST.Reason cl = 1 ∧
      t.dev.get FEN.ABORT_LAST.Thread cl = n % 2 ^ FEN.ABORT_LAST.Thread.w ∧
      t.dev.get FEN.ABORT_LAST.Address cl = x.pc % 2 ^ FEN.ABORT_LAST.Address.w) ∧
    (∀ fn, n < 256 → d.opens fn .fen cl = true → Gives (.kill fn cl n) s fun t => t.dev.thr cl n = some { x with kill := true }))

/-- For a function whose writes UCS0 accepts: UCS_LOAD or UCS_CLONE with no load running and no target busy starts its operation, with
LOAD_STAT.Busy 1 and the targets' inactive banks Loading; a Load whose image fails a check of R218 starts with that result and no
target. Either with a load running leaves it, with Result 7; with a target busy it starts with result 7 and no target. UCS_ENROL
starts with its check's result, changes no key yet and draws the nonce afresh; LOAD_DONE of an accepted record puts its key in its
slot, or removes the slot's, and of a refused one gives the result and changes no key. LOAD_DONE while the loader has bytes to
read and no tag to read them with ends nothing. With nothing left to read, LOAD_DONE of a load of one cluster writes the image's
part over the inactive bank and leaves it Ready, or Incompatible with Result 9; of a clone it copies the source's active bank; of
a target whose comparison failed it leaves the bank Empty with Result 13. Of each of these forms, under the conditions given, the
conclusion is that exec answers a next state: ucsLoad, ucsClone, ucsEnrol, loadDone. (07_microcode_store.md: Enrolment (R216,
R217), loads and clones (R218, R219), reading (R228); 19_boot_security_monitor.md: MRAM writes (R520).) -/
def Obligations.UcsLoads : Prop :=
  (∀ (s : State) (d : Dev) (fn r : Nat) (image img : List Byte) (err : Bool) (ts : List Nat), s.chip.dev = d → d.opens fn .ucs 0 = true →
    d.get UCS.LOAD_CFG.Op = 1 → d.load = none → d.loadTargets = ts → d.loadBusy ts = false →
    (if d.flag UCS.LOAD_CFG.Source = true then Tab.get [] d.mram.images (d.get UCS.LOAD_CFG.MramSlot)
      else sliceB image 0 (d.get UCS.LOAD_LEN.Length)) = img →
    d.flag UCS.LOAD_CFG.Source = true ∨ err = false → d.imageCheck img = r →
    Gives (.ucsLoad fn image err) s fun t => t.dev.get UCS.LOAD_STAT.Busy = 1 ∧ t.dev.mram = d.mram ∧
      (r = 0 → (∃ q, t.dev.load = some ⟨1, ts, 0, [], img, false, 0, ts, q⟩) ∧ ∀ c ∈ ts, t.dev.bankState c (1 - d.activeBank c) = 1) ∧
      (r ≠ 0 → ∃ q, t.dev.load = some ⟨1, [], r, [], [], false, 0, ts, q⟩)) ∧
  (∀ (s : State) (d : Dev) (fn : Nat) (ts : List Nat), s.chip.dev = d → d.opens fn .ucs 0 = true →
    d.get UCS.LOAD_CFG.Op = 2 → d.load = none → d.loadTargets = ts → d.loadBusy ts = false →
    Gives (.ucsClone fn) s fun t => t.dev.get UCS.LOAD_STAT.Busy = 1 ∧
      t.dev.load = some ⟨2, ts, 0, [], [], d.flag UCS.LOAD_CFG.Self, d.get UCS.LOAD_CFG.CloneSrc, ts, (0, 0)⟩ ∧
      ∀ c ∈ ts, t.dev.bankState c (1 - d.activeBank c) = 1) ∧
  (∀ (s : State) (d : Dev) (fn op : Nat) (image : List Byte) (err : Bool) (i : Instr), s.chip.dev = d → d.opens fn .ucs 0 = true →
    (i = .ucsLoad fn image err ∧ op = 1) ∨ (i = .ucsClone fn ∧ op = 2) → d.get UCS.LOAD_CFG.Op = op →
    (∀ l, d.load = some l → Gives i s fun t => t.dev.load = some l ∧ t.dev.get UCS.LOAD_STAT.Result = 7 ∧ t.dev.ucs = d.ucs) ∧
    (d.load = none → d.loadBusy d.loadTargets = true → Gives i s fun t =>
      t.dev.load = some ⟨op, [], 7, [], [], false, 0, d.loadTargets, (0, 0)⟩ ∧ t.dev.get UCS.LOAD_STAT.Busy = 1 ∧ t.dev.ucs = d.ucs)) ∧
  (∀ (s : State) (d : Dev) (fn : Nat) (record r : List Byte), s.chip.dev = d → d.opens fn .ucs 0 = true → d.get UCS.LOAD_CFG.Op = 3 →
    d.load = none → sliceB record 0 (d.get UCS.LOAD_LEN.Length) = r → d.mramOpen 0 = true → d.sec.trngBad = false →
    Gives (.ucsEnrol fn record false) s fun t => (∃ q, t.dev.load = some ⟨3, [], d.enrolCheck r, [], if d.enrolCheck r = 0 then r else [], false, 0, [], q⟩) ∧
      t.dev.get UCS.ENR_NONCE.Nonce = (Dev.draw 2 d).1 % 2 ^ UCS.ENR_NONCE.Nonce.w ∧
      t.dev.mram = d.mram) ∧
  (∀ (s : State) (d : Dev) (e : Nat) (r : List Byte), s.chip.dev = d → d.load = some ⟨3, [], e, [], r, false, 0, [], (0, 0)⟩ →
    Gives (.loadDone []) s fun t => t.dev.load = none ∧ t.dev.get UCS.LOAD_STAT.Busy = 0 ∧ t.dev.get UCS.LOAD_STAT.Done = 1 ∧
      t.dev.get UCS.LOAD_STAT.Result = e % 16 ∧ (e ≠ 0 → t.dev.mram = d.mram) ∧
      (e = 0 → le r 4 1 = 1 → t.dev.mram.keys = Tab.set d.mram.keys (le r 5 1) ⟨sliceB r 16 97, le r 6 1 == 1⟩) ∧
      (e = 0 → le r 4 1 = 2 → t.dev.mram.keys = Tab.del d.mram.keys (le r 5 1))) ∧
  (∀ (s : State) (d : Dev) (l : LoadSt) (c : Nat), s.chip.dev = d → d.load = some l → c < 16 → d.activeBank c < 2 → l.targets = [c] → l.fail = [] → l.result = 0 →
    (l.ask.2 ≠ 0 → d.get DMA.INT_CFG.IntTags = 0 → ∀ bad, Gives (.loadDone bad) s fun t => t.dev.load = some l ∧ t.dev.ucs = d.ucs) ∧
    (l.ask.2 = 0 →
    (l.op = 1 → Gives (.loadDone []) s fun t => t.dev.load = none ∧ t.dev.get UCS.LOAD_STAT.Busy = 0 ∧ t.dev.get UCS.LOAD_STAT.Done = 1 ∧
      ∀ x, ((d.store c).bank (1 - d.activeBank c)).write l.image = x → (t.dev.store c).bank (1 - d.activeBank c) = x ∧
        (t.dev.store c).bank (d.activeBank c) = (d.store c).bank (d.activeBank c) ∧
        t.dev.bankState c (1 - d.activeBank c) = x.readiness ∧ t.dev.get UCS.LOAD_STAT.Result = (if x.readiness = 4 then 9 else 0)) ∧
    (l.op = 2 → l.self = false → Gives (.loadDone []) s fun t => t.dev.load = none ∧ t.dev.get UCS.LOAD_STAT.Done = 1 ∧
      (t.dev.store c).bank (1 - d.activeBank c) = (d.store l.src).bank (d.activeBank l.src)) ∧
    Gives (.loadDone [c]) s fun t => t.dev.load = none ∧ t.dev.get UCS.LOAD_STAT.Result = 13 ∧
      (t.dev.store c).bank (1 - d.activeBank c) = {} ∧ t.dev.bankState c (1 - d.activeBank c) = 0))

/-- For a function whose writes the cluster's UCS page accepts: SWAP with no reason of R220 to refuse it starts the drain and ends a
trial, and otherwise is refused with the lowest reason. SWAP_DRAIN_DONE with no thread running makes the other bank active (State
Active, the old one Ready), counts the swap, and starts a trial where TrialTime is set and the swap was not written during one.
TRIAL_ROLLBACK with the aborts reached before TrialTime ends, and the other bank Ready and above the floors, starts a drain and
sets RolledBack. TRIAL_EXPIRE ends the trial no earlier than its end, the active bank staying. CONFIRM ends it too, and with
RaiseFloor, SEC accepting the write, raises both floors to the active bank's versions at least. POISON_CLR clears POISON; UCS_READ
loads the word or dispatch entry, a vendor address reading 0. UCS_SCRUB, no injection armed, moves its position on by one; an
uncorrectable error in the active bank poisons the word and shows in POISON. Of each of these forms, under the conditions given,
the conclusion is that exec answers a next state: swap, confirm, ucsPoisonClr, ucsRead, swapDrainDone, trialRollback, trialExpire,
ucsScrub. (07_microcode_store.md: Swaps (R220, R221, R224), trials (R222), confirm (R225), scrubbing (R227), reading (R198,
R228).) -/
def Obligations.UcsSwaps : Prop :=
  (∀ (s : State) (d : Dev) (fn c : Nat), s.chip.dev = d → c < 16 → d.opens fn .ucs c = true →
    (d.swapReason c = 0 → Gives (.swap fn c) s fun t => t.dev.get UCS.STAT.Draining c = 1 ∧ t.dev.get UCS.STAT.Trial c = 0 ∧
      t.dev.activeBank c = d.activeBank c ∧ (t.dev.store c).back = d.onTrial c ∧ (t.dev.store c).trialEnd = none) ∧
    (∀ why, d.swapReason c = why → why ≠ 0 → Gives (.swap fn c) s fun t => t.dev.get UCS.SWAP_STAT.Refused c = 1 ∧
      t.dev.get UCS.SWAP_STAT.Reason c = why ∧ t.dev.get UCS.STAT.Draining c = d.get UCS.STAT.Draining c ∧ t.dev.ucs = d.ucs) ∧
    (∀ raise, Gives (.confirm fn c raise) s fun t => t.dev.get UCS.STAT.Trial c = 0 ∧ (t.dev.store c).trialEnd = none ∧
      t.dev.activeBank c = d.activeBank c ∧ (raise = false → t.dev.mram = d.mram) ∧
      (raise = true → d.mramOpen 0 = true → ∀ x, (d.store c).bank (d.activeBank c) = x →
        t.dev.mram.vendorFloor = max d.mram.vendorFloor ((x.vendor.map (·.2)).getD 0) ∧
        t.dev.mram.custFloor = max d.mram.custFloor ((x.cust.map (·.2)).getD 0))) ∧
    Gives (.ucsPoisonClr fn c) s (fun t => t.dev.get UCS.POISON.Valid c = 0 ∧ t.dev.get UCS.POISON.Address c = 0 ∧
      t.dev.get UCS.POISON.Bank c = 0 ∧ t.dev.ucs = d.ucs) ∧
    (∀ a x, d.get UCS.READ_SEL.Addr c = a → (d.store c).bank (d.get UCS.READ_SEL.Bank c) = x → Gives (.ucsRead fn c) s fun t =>
      ∀ j, j < 6 → t.dev.get UCS.READ_DATA.Data c j = bits (if d.flag UCS.READ_SEL.Dispatch c = true then Tab.get 0 x.disp (a % 256)
        else if vendorAddr a = true then 0 else Tab.get 0 x.words a) (32 * j) 32)) ∧
  (∀ (s : State) (d : Dev) (c ab : Nat), s.chip.dev = d → c < 16 → d.activeBank c = ab → ab < 2 → d.flag UCS.STAT.Draining c = true →
    d.busyThreads c = [] → Gives (.swapDrainDone c) s fun t => t.dev.activeBank c = 1 - ab ∧ t.dev.get UCS.STAT.Draining c = 0 ∧
      t.dev.bankState c ab = 2 ∧ t.dev.bankState c (1 - ab) = 3 ∧
      t.dev.get UCS.SWAP_STAT.SwapCount c = (d.get UCS.SWAP_STAT.SwapCount c + 1) % 2 ^ UCS.SWAP_STAT.SwapCount.w ∧
      (t.dev.store c).a = (d.store c).a ∧ (t.dev.store c).b = (d.store c).b ∧
      (if d.get UCS.SWAP_CFG.TrialTime c ≠ 0 ∧ (d.store c).back = false then
        t.dev.get UCS.STAT.Trial c = 1 ∧ (t.dev.store c).trialEnd = some (d.cyc + d.get UCS.SWAP_CFG.TrialTime c * msCyc)
      else t.dev.get UCS.STAT.Trial c = 0 ∧ (t.dev.store c).trialEnd = none)) ∧
  (∀ (s : State) (d : Dev) (c : Nat), s.chip.dev = d → c < 16 → d.onTrial c = true → d.flag UCS.SWAP_CFG.AutoRollback c = true →
    d.flag UCS.STAT.Draining c = false → max 1 (d.get UCS.SWAP_CFG.TrialAborts c) ≤ (d.store c).trialAborts →
    d.bankState c (1 - d.activeBank c) = 2 → d.belowFloor c (1 - d.activeBank c) = false → Gives (.trialRollback c) s fun t => t.dev.get UCS.STAT.Draining c = 1 ∧
      t.dev.get UCS.STAT.Trial c = 0 ∧ t.dev.get UCS.SWAP_STAT.RolledBack c = 1 ∧ (t.dev.store c).rollback = true) ∧
  (∀ (s : State) (d : Dev) (c e : Nat), s.chip.dev = d → c < 16 → (d.store c).trialEnd = some e → Gives (.trialExpire c) s fun t =>
    t.dev.get UCS.STAT.Trial c = 0 ∧ (t.dev.store c).trialEnd = none ∧ e ≤ t.dev.cyc ∧ t.dev.activeBank c = d.activeBank c) ∧
  (∀ (s : State) (d : Dev) (c p : Nat), s.chip.dev = d → c < 16 → (d.store c).scrub = p →
    d.injects .ucs c 0 = false → d.injects .ucs c 1 = false →
    (Gives (.ucsScrub c 0) s fun t => t.dev = d.setStore c { d.store c with scrub := (p + 1) % 66048 }) ∧
    (p / 33024 = d.activeBank c → p % 33024 < 32768 → Gives (.ucsScrub c 2) s fun t => (t.dev.store c).scrub = (p + 1) % 66048 ∧
      (t.dev.store c).poison = (d.store c).poison ++ [p / 33024 * 32768 + p % 33024] ∧ t.dev.flag UCS.POISON.Valid c = true))

/-- For a reachable function that may write the word of the page: IRQ_STATUS_WRITE clears the bits written 1 and keeps the others
(HIF's own Counter bit may rise, since the request is counted there); IRQ_ENABLE_WRITE sets the enables, and where that makes the
summary of a page other than HIF 1, with its route enabled and nothing holding the vector, the message of the owner's vector goes
out; IRQ_FORCE_WRITE sets the bits written 1, and on a page with IRQ_FIRST not valid takes the lowest as forced. Status and enable
writes leave everything else of the device but counters, messages and registers. ROUTE_DATA_WRITE sets the selected page's route,
or refuses and disables it for a vector beyond the owner's. MSIX_UNMASK clears the mask, and sends a pending message that nothing
else holds. ERR_INJ_ARM arms the detector and clears Fired; on CLK and SEC it is discarded while Inject is locked. Of each of
these forms, under the conditions given, the conclusion is that exec answers a next state: irqStatusWrite, irqEnableWrite,
irqForceWrite, errInjArm, routeDataWrite, msixUnmask. (02_register_model.md: Interrupts (R53, R54, R55, R56), access (R39), error
injection (R57); 14_host_interface.md: MSI-X (R400); 18_errors_and_injection.md: injection of CLK and SEC (R496).) -/
def Obligations.PageInterrupts : Prop :=
  (∀ (s : State) (d : Dev) (fn page data i : Nat) (b : Blk), s.chip.dev = d → pageBlk page = some (b, i) → d.reachable fn = true →
    (d.mayWrite fn b i 0x010 = true → Gives (.irqStatusWrite fn page data) s fun t => t.dev.beside = d.beside ∧ t.hbm = s.chip.hbm ∧
      (∀ k, k < 32 → k = 31 → b ≠ .hif → bit (t.dev.get (HDR.IRQ_STATUS b) i) k = (bit (d.get (HDR.IRQ_STATUS b) i) k && !bit data k)) ∧
      ∀ k, k < 31 → bit (t.dev.get (HDR.IRQ_STATUS b) i) k = (bit (d.get (HDR.IRQ_STATUS b) i) k && !bit data k)) ∧
    (d.mayWrite fn b i 0x014 = true → Gives (.irqEnableWrite fn page data) s fun t => t.dev.beside = d.beside ∧ t.hbm = s.chip.hbm ∧
      t.dev.get (HDR.IRQ_ENABLE b) i = data % 2 ^ 32 ∧
      (∀ r o e, b ≠ .hif → Tab.get {} d.fab.routes (b.page i) = r → d.get (HDR.OWNER.Function b) i = o → d.vec o r.vector = e →
        (d.get (HDR.IRQ_STATUS b) i &&& data) &&& 0xBFFFFFFF ≠ 0 → r.enable = true → e.mask = false → (d.fn o).fmask = false →
        (d.fn o).bme = true → Out.msix o r.vector e.addr e.data ∈ t.dev.out)) ∧
    (d.mayWrite fn b i 0x018 = true → Gives (.irqForceWrite fn page data) s fun t => t.hbm = s.chip.hbm ∧
      (∀ k, k < 31 → bit (t.dev.get (HDR.IRQ_STATUS b) i) k = (bit (d.get (HDR.IRQ_STATUS b) i) k || bit data k)) ∧
      (∀ k, b ≠ .hif → d.flag (HDR.IRQ_FIRST.Valid b) i = false → k < 32 → bit data k = true → (∀ j, j < k → bit data j = false) →
        t.dev.get (HDR.IRQ_FIRST.Valid b) i = 1 ∧ t.dev.get (HDR.IRQ_FIRST.Forced b) i = 1 ∧ t.dev.get (HDR.IRQ_FIRST.Bit b) i = k)) ∧
    (∀ det continuous, d.mayWrite fn b i 0x020 = true →
      (d.injOpen b = true → Gives (.errInjArm fn page det continuous) s fun t => t.dev.get (HDR.ERR_INJ.Detector b) i = det % 256 ∧
        t.dev.get (HDR.ERR_INJ.Mode b) i = b2n continuous ∧ t.dev.get (HDR.ERR_INJ.Arm b) i = 1 ∧
        t.dev.get (HDR.ERR_INJ.Fired b) i = 0) ∧
      (d.injOpen b = false → Gives (.errInjArm fn page det continuous) s fun t =>
        t.dev.get (HDR.ERR_INJ.Arm b) i = d.get (HDR.ERR_INJ.Arm b) i ∧
        t.dev.get HIF.BAR_MISS_CNT.Count = (d.get HIF.BAR_MISS_CNT.Count + 1) % 2 ^ HIF.BAR_MISS_CNT.Count.w))) ∧
  (∀ (s : State) (d : Dev) (fn data v p i : Nat) (b : Blk), s.chip.dev = d → d.opens fn .err 0 = true → d.get ERR.ROUTE_SEL.Page = p →
    bits data 0 11 = v → pageBlk p = some (b, i) → Gives (.routeDataWrite fn data) s fun t =>
      if v < vectors (d.get (HDR.OWNER.Function b) i) then Tab.get {} t.dev.fab.routes p = ⟨v, bit data 31⟩
      else (Tab.get {} t.dev.fab.routes p).enable = false ∧
        t.dev.get ERR.ROUTE_REFUSED.Count = (d.get ERR.ROUTE_REFUSED.Count + 1) % 2 ^ ERR.ROUTE_REFUSED.Count.w) ∧
  (∀ (s : State) (d : Dev) (fn v : Nat) (e : MsixVec), s.chip.dev = d → fn ≠ 128 → d.reachable fn = true → v < vectors fn →
    d.vec fn v = e → e.mask = true → Gives (.msixUnmask fn v) s fun t => (t.dev.vec fn v).mask = false ∧
      (e.pend = true → (d.fn fn).fmask = false → (d.fn fn).bme = true →
        Out.msix fn v e.addr e.data ∈ t.dev.out ∧ (t.dev.vec fn v).pend = false))

/-- For a reachable function that may write CTL: QUIESCE_REQ sets or clears QuiesceReq, and Quiesced clears with it. QUIESCED with no
work in progress sets Quiesced. BLOCK_RESET puts a lane, MAC block, slice block, flow engine or record cache in reset, empties an
event queue with its OWNER kept, and its next Seq unless a notice of its own voided reservations takes one, and of any other block
sets ResetRefused. BLOCK_RESET_END ends it. FENCE_READ answers the run's WriteSeq, and with an operation pending moves 2 us on and
answers Stall too. OWNER_WRITE of a function the page may have sets it, and a change disables the route; of another it changes
nothing and counts in VF_DENY_CNT. For a reachable function that may read the counter: COUNTER_LOW_READ answers the low word,
latches the high word, and for a chained pair both words of the next counter; a wide one answers both words; a latched low word is
answered instead. COUNTER_VALUE_WRITE, the lower word written before, sets the 48-bit value. Of each of these forms, under the
conditions given, the conclusion is that exec answers a next state: quiesceReq, blockReset, fenceRead, ownerWrite, counterLowRead,
counterValueWrite, quiesced, blockResetEnd. (02_register_model.md: Block reset (R35), quiesce (R36), ownership (R38), FENCE (R43),
counters (R45, R475); 01_architecture.md: Reset scopes (R25); 16_event_queues.md: Reset of a queue (R466).) -/
def Obligations.PageControl : Prop :=
  (∀ (s : State) (d : Dev) (fn page i : Nat) (b : Blk), s.chip.dev = d → pageBlk page = some (b, i) → d.reachable fn = true →
    (∀ on, d.mayWrite fn b i 0x008 = true → Gives (.quiesceReq fn page on) s fun t => t.dev.get (HDR.CTL.QuiesceReq b) i = b2n on ∧
      t.dev.get (HDR.STAT.Quiesced b) i = (if on = true then d.get (HDR.STAT.Quiesced b) i else 0) ∧ t.hbm = s.chip.hbm) ∧
    (isPf fn = true → Gives (.blockReset fn page) s fun t =>
      if b = .evp then (t.dev.queue i).pkts = [] ∧
        (d.get EVQ.CFG.SysQueue ≠ i ∨ (d.queue i).pkts.all (·.complete) = true → (t.dev.queue i).nextSeq = (d.queue i).nextSeq) ∧
        t.dev.get (HDR.OWNER.Function b) i = d.get (HDR.OWNER.Function b) i % 2 ^ 7
      else if b = .ser ∨ b = .mac ∨ b = .prs ∨ b = .slc ∨ b = .rsq ∨ b = .fen ∨ b = .rcc then b.page i ∈ t.dev.fab.inReset
      else t.dev.get (HDR.STAT.ResetRefused b) i = 1 ∧ t.hbm = s.chip.hbm ∧ t.dev.beside = d.beside) ∧
    (d.opPending b i = false → Gives (.fenceRead fn page) s fun t =>
      t.dev.lastRead = some (.readData fn (toLE 4 (d.get (HDR.FENCE.WriteSeq b) i))) ∧ t.dev.cyc = d.cyc) ∧
    (d.opPending b i = true → Gives (.fenceRead fn page) s fun t =>
      t.dev.lastRead = some (.readData fn (toLE 4 (d.get (HDR.FENCE.WriteSeq b) i + 2 ^ 31))) ∧ t.dev.cyc = d.cyc + nsCyc 2000) ∧
    (∀ o, d.mayWrite fn b i 0x044 = true → Gives (.ownerWrite fn page o) s fun t =>
      if o % 128 ≠ 0 ∧ ((blkRow b).assignable = false ∨ d.fnExists (o % 128) = false) then
        t.dev.get (HDR.OWNER.Function b) i = d.get (HDR.OWNER.Function b) i ∧ t.dev.fab.routes = d.fab.routes ∧
          t.dev.get HIF.VF_DENY_CNT.Count = (d.get HIF.VF_DENY_CNT.Count + 1) % 2 ^ HIF.VF_DENY_CNT.Count.w
      else t.dev.get (HDR.OWNER.Function b) i = o % 128 ∧
        (d.get (HDR.OWNER.Function b) i ≠ o % 128 → (Tab.get {} t.dev.fab.routes (b.page i)).enable = false)) ∧
    (∀ k x, k < 16 → d.mayRead fn b i (0x108 + 16 * k) = true → ((d.request fn).ctr (b.page i) k).value = x →
      Tab.find d.fab.latchLo (latchKey fn (b.page i) k) = none →
      Gives (.counterLowRead fn page k false) s (fun t => t.dev.lastRead = some (.readData fn (toLE 4 (x % 2 ^ 32))) ∧
        Tab.find t.dev.fab.latchHi (latchKey fn (b.page i) k) = some (x / 2 ^ 32) ∧
        (k % 2 = 0 → d.flag (HDR.CSEL.Chain b) i k = true → ∀ y, ((d.request fn).ctr (b.page i) (k + 1)).value = y →
          Tab.find t.dev.fab.latchLo (latchKey fn (b.page i) (k + 1)) = some (y % 2 ^ 32) ∧
          Tab.find t.dev.fab.latchHi (latchKey fn (b.page i) (k + 1)) = some (y / 2 ^ 32))) ∧
      Gives (.counterLowRead fn page k true) s (fun t => t.dev.lastRead = some (.readData fn (toLE 8 x)))) ∧
    (∀ k v, k < 16 → d.mayRead fn b i (0x108 + 16 * k) = true → Tab.find d.fab.latchLo (latchKey fn (b.page i) k) = some v →
      Gives (.counterLowRead fn page k false) s fun t => t.dev.lastRead = some (.readData fn (toLE 4 v))) ∧
    (∀ k data lo, k < 16 → d.mayWrite fn b i (0x10C + 16 * k) = true → Tab.find d.fab.hold (b.base i + 0x108 + 16 * k) = some lo →
      Gives (.counterValueWrite fn page k data) s fun t => (t.dev.ctr (b.page i) k).value = (lo + 2 ^ 32 * data) % 2 ^ 48)) ∧
  (∀ (s : State) (d : Dev) (page i : Nat) (b : Blk), s.chip.dev = d → pageBlk page = some (b, i) →
    d.flag (HDR.CTL.QuiesceReq b) i = true → d.workIn b i = false →
    Gives (.quiesced page) s fun t => t.dev = d.set (HDR.STAT.Quiesced b) 1 i) ∧
  (∀ (s : State) (page : Nat), Gives (.blockResetEnd page) s fun t => page ∉ t.dev.fab.inReset)

/-- A client's write of a burst it may write, to a pseudo-channel that takes requests, with nothing waiting, room and within the cap,
stores its masked bytes at the burst and no other byte, and enters the queue; one of a port other than RUUs' and FTB's below the
general region does nothing. HBM_COMMAND_ISSUE with nothing waiting, no request urgent and no command error injected serves the
chosen request: to a closed bank it activates the row, to another open row it precharges, and to its own row it sends the column
command, after which a write leaves the queue and a read waits for its return. HBM_READ_RETURN of data without an error takes the
oldest such read off the queue, and of a corrected error, its client not having taken it, also queues a repair write; of
uncorrectable data it takes the read off too, and a thread's result becomes MemError. COMMAND_RETRY retries the last command up to
three times, and then takes it off the queue, a write leaving the check pattern over its burst. READ_RETURN_TIMEOUT takes the
oldest accepted read off no earlier than 4 us after its acceptance. HBM contents change with the write only. Of each of these
forms, under the conditions given, the conclusion is that exec answers a next state: hbmWriteAccept, hbmCommandIssue,
hbmReadReturn, readReturnTimeout, commandRetry. (11_hbm_controller.md: Writes and reads (R305, R310), queue (R313, R317),
scheduling (R315, R316), retries (R330, R331).) -/
def Obligations.HbmRequests : Prop :=
  (∀ (s : State) (d : Dev) (pc port addr mask a : Nat) (data : List Byte) (x : HbmReq), s.chip.dev = d → pc < 384 → port ≤ 6 →
    addr < 0x18000000 → addr % 64 = 0 → d.hbmMayWrite pc port addr data = true → hbmAddr pc addr = a →
    x = { port := port, write := true, t := addr / 64, put := maskedPut addr mask data, ord := d.hbc.ord, at0 := d.cyc,
          merge := (List.range 4).any (fun q => bits mask (16 * q) 16 != 0 && bits mask (16 * q) 16 != 65535),
          mark := if port = 5 ∧ d.phase = 3 then some (d.migMark (d.clearedTo addr)) else none } →
    (d.hpc pc).waiting = [] → d.hbmFree pc x = true → Gives (.hbmWriteAccept pc port addr mask data) s fun t =>
      (∀ i, i < 64 → Mem.read t.hbm (a + i) = if bit mask i = true then data.getD i 0 else Mem.read s.chip.hbm (a + i)) ∧
      (∀ y, y < a ∨ a + 64 ≤ y → Mem.read t.hbm y = Mem.read s.chip.hbm y) ∧
      (t.dev.hpc pc).queue.getLast? = some x) ∧
  (∀ (s : State) (pc port addr mask : Nat) (data : List Byte), 1 ≤ port → port ≠ 5 →
    addr < generalBase (s.chip.dev.get FTB.GEOM_STAT.MaxLog2) →
    Gives (.hbmWriteAccept pc port addr mask data) s fun t => t = s.chip) ∧
  (∀ (s : State) (d : Dev) (pc bk row : Nat) (x : HbmReq) (b : HbmBank), s.chip.dev = d → pc < 384 → d.hbmServes pc = true →
    (d.hpc pc).waiting = [] → (∀ y ∈ (d.hpc pc).queue, d.urgency pc y ≠ 3) → d.hbmChoose pc = some x → d.bankRow pc x.t = (bk, row) →
    d.injects .hbc (pc / 64) 1 = false → d.injects .hbc (pc / 64) 2 = false →
    (d.hpc pc).bank bk = b → Gives (.hbmCommandIssue pc) s fun t => t.hbm = s.chip.hbm ∧
      (b.openRow d.cyc = none → ((t.dev.hpc pc).bank bk).row = some row ∧ ((t.dev.hpc pc).bank bk).openTo = none ∧
        (t.dev.hpc pc).issued = some (.activate bk row)) ∧
      (∀ r, b.openRow d.cyc = some r → r ≠ row → ((t.dev.hpc pc).bank bk).row = none ∧ (t.dev.hpc pc).issued = some (.precharge bk)) ∧
      (b.openRow d.cyc = some row → ((t.dev.hpc pc).bank bk).last = some row ∧
        (x.write = true → (t.dev.hpc pc).queue = (d.hpc pc).queue.erase x ∧
          ∃ auto, (t.dev.hpc pc).issued = some (.write bk (d.column pc x.t) auto)) ∧
        (x.write = false → { x with act := true, col := true } ∈ (t.dev.hpc pc).queue ∧
          ∃ auto, (t.dev.hpc pc).issued = some (.read bk (d.column pc x.t) auto)))) ∧
  (∀ (s : State) (d : Dev) (pc : Nat) (x : HbmReq), s.chip.dev = d → pc < 384 → (d.hpc pc).due = some x →
    ((d.hpc pc).spoiled x.t = false →
      ((d.hpc pc).weak x.t = false → Gives (.hbmReadReturn pc 0) s fun t => (t.dev.hpc pc).queue = (d.hpc pc).queue.erase x ∧
        (t.dev.hpc pc).waiting = (d.hpc pc).waiting ∧ t.hbm = s.chip.hbm) ∧
      (x.taken = false → Gives (.hbmReadReturn pc 1) s fun t => (t.dev.hpc pc).queue = (d.hpc pc).queue.erase x ∧
        (t.dev.hpc pc).waiting = (d.hpc pc).waiting ++
          [{ port := 6, src := 1, ord := d.hbc.ord, write := true, t := x.t, repair := true }])) ∧
    Gives (.hbmReadReturn pc 2) s (fun t => (t.dev.hpc pc).queue = (d.hpc pc).queue.erase x ∧ t.hbm = s.chip.hbm ∧
      ∀ src a e b, x.eng = some (src, a) → e ∈ t.dev.results → e.src = src → e.raw = some b → b = toLE 8 (2 ^ 4 * 8) ++ toLE 8 0)) ∧
  (∀ (s : State) (d : Dev) (pc : Nat) (x : HbmReq), s.chip.dev = d → pc < 384 → ((d.hpc pc).queue.find? fun y => !y.write) = some x →
    Gives (.readReturnTimeout pc) s (fun t => (t.dev.hpc pc).queue = (d.hpc pc).queue.erase x ∧ x.at0 + nsCyc 4000 ≤ t.dev.cyc ∧
      t.hbm = s.chip.hbm)) ∧
  (∀ (s : State) (d : Dev) (pc : Nat) (crc : Bool) (x : HbmReq), s.chip.dev = d → pc < 384 → (d.hpc pc).lastCmd = some x →
    crc = false ∨ x.write = true → Gives (.commandRetry pc crc) s fun t =>
      if (d.hpc pc).retries < 3 then (t.dev.hpc pc).retries = (d.hpc pc).retries + 1 ∧ (t.dev.hpc pc).queue = (d.hpc pc).queue
      else (t.dev.hpc pc).lastCmd = none ∧ (t.dev.hpc pc).retries = 0 ∧
        (∀ y ∈ (t.dev.hpc pc).queue, y.ord ≠ x.ord) ∧ (x.write = true → ∀ q, q < 4 → x.t * 4 + q ∈ (t.dev.hpc pc).bad))

/-- CAP_WINDOW_END moves on and clears the bytes counted against the caps where nothing waits to be accepted. REFRESH_WINDOW of a live
stack out of self-refresh closes every row, takes the temperature's refresh interval, and blocks the pseudo-channel for 350 ns.
HBM_TEMP_READ of at most 105 degrees sets Case, and Hot and Derate by the limits of R321. HBM_SCRUB of a good burst, its read
taken by port 6, moves to the next pseudo-channel, and from the last of them to the next burst, counting a pass at the end. For a
function whose writes the controller accepts: FREQ_CHANGE without Go sets Rate; a change that R326 refuses sets Refused with its
reason; otherwise it sets Busy, holds the data path, stops the Sundial horizon and puts every stack in self-refresh.
FREQ_HOLD_END, 17 us after the start at least (log entry 61), brings the new rate into force and lets the data path go on.
MAP_CFG_WRITE sets a disabled controller's orders, and refuses an enabled one's and order 3 (log entry 61). Of each of these
forms, under the conditions given, the conclusion is that exec answers a next state: capWindowEnd, refreshWindow, hbmTempRead,
hbmScrub, freqChange, freqHoldEnd, mapCfgWrite. (11_hbm_controller.md: Mapping (R307, R308), caps (R317), refresh (R319, R320),
temperature (R321), frequency change (R326, R327, R328), scrubbing (R332).) -/
def Obligations.HbmUpkeep : Prop :=
  (∀ (s : State) (d : Dev) (k : Nat), s.chip.dev = d → Gives (.capWindowEnd k) s fun t =>
    ((∀ i, i < 64 → (d.hpc (64 * k + i)).waiting = []) → (t.dev.stack k).capBytes = []) ∧ d.cyc < t.dev.cyc ∧ t.dev.cyc ≤ d.cyc + 1250) ∧
  (∀ (s : State) (d : Dev) (pc : Nat) (est : List (Int × Nat × Nat × Int)), s.chip.dev = d → pc < 384 → d.live .hbc (pc / 64) = true →
    (d.stack (pc / 64)).selfRef = false → Gives (.refreshWindow pc est) s fun t => (∀ b, ((t.dev.hpc pc).bank b).row = none) ∧
      (t.dev.hpc pc).windows = (d.hpc pc).windows + 1 ∧ (t.dev.hpc pc).winEnd = t.dev.cyc + nsCyc 350 ∧ d.cyc ≤ t.dev.cyc ∧
      (t.dev.hpc pc).hot = d.flag HBC.TEMP_STAT.Hot (pc / 64) ∧ t.hbm = s.chip.hbm) ∧
  (∀ (s : State) (d : Dev) (k : Nat) (v : Int), s.chip.dev = d → k < 6 → d.live .hbc k = true → v ≤ 105 →
    Gives (.hbmTempRead k v) s fun t => t.dev.get HBC.TEMP_STAT.Case k = uint 8 v ∧
      t.dev.get HBC.TEMP_STAT.Hot k = b2n (if 85 < v then true else if v ≤ 83 then false else d.flag HBC.TEMP_STAT.Hot k) ∧
      t.dev.get HBC.TEMP_STAT.Derate k = b2n (if 95 < v then true else if v ≤ 93 then false else d.flag HBC.TEMP_STAT.Derate k)) ∧
  (∀ (s : State) (d : Dev) (k p q : Nat), s.chip.dev = d → k < 6 → d.flag HBC.SCRUB_CFG.Enable k = true → (d.stack k).scrubPc = q →
    d.pathMoves = true → (d.hpc (64 * k + q)).waiting = [] → d.hbmFree (64 * k + q) { port := 6, write := false, t := p } = true →
    d.get HBC.SCRUB_POS.Position k = p → (d.hpc (64 * k + q)).spoiled p = false → (d.hpc (64 * k + q)).weak p = false →
    Gives (.hbmScrub k 0) s fun t => (t.dev.stack k).scrubPc = (if q < 63 then q + 1 else 0) ∧
      t.dev.get HBC.SCRUB_POS.Position k = (if q < 63 then p else if p + 1 < scrubBursts then p + 1 else 0) ∧
      (¬ q < 63 → ¬ p + 1 < scrubBursts →
        t.dev.get HBC.SCRUB_STAT.Passes k = (d.get HBC.SCRUB_STAT.Passes k + 1) % 2 ^ HBC.SCRUB_STAT.Passes.w)) ∧
  (∀ (s : State) (d : Dev) (fn data why : Nat), s.chip.dev = d → d.opens fn .hbc 0 = true → d.freqReason (data % 4) = why →
    Gives (.freqChange fn data) s fun t => t.dev.get HBC.FREQ_CTL.Rate = data % 4 ∧ t.hbm = s.chip.hbm ∧
      (bit data 4 = false → t.dev.hbc = d.hbc ∧ t.dev.get HBC.FREQ_STAT.Refused = d.get HBC.FREQ_STAT.Refused) ∧
      (bit data 4 = true → why ≠ 0 → t.dev.hbc = d.hbc ∧ t.dev.get HBC.FREQ_STAT.Refused = 1 ∧ t.dev.get HBC.FREQ_STAT.Reason = why) ∧
      (bit data 4 = true → why = 0 → t.dev.get HBC.FREQ_STAT.Busy = 1 ∧ t.dev.hbc.freqAt = some d.cyc ∧
        t.dev.hbc.freqRate = data % 4 ∧ t.dev.glb.hold = 1 ∧ t.dev.sdl.holdAt = some d.horizon ∧
        ∀ k, k < 6 → (t.dev.stack k).selfRef = true)) ∧
  (∀ (s : State) (d : Dev) (t0 : Nat), s.chip.dev = d → d.hbc.freqAt = some t0 → d.glb.dprWait = none →
    Gives .freqHoldEnd s fun t => t.dev.get HBC.FREQ_STAT.Current = d.hbc.freqRate % 4 ∧ t.dev.get HBC.FREQ_STAT.Busy = 0 ∧
      t.dev.get HBC.FREQ_STAT.Done = 1 ∧ t.dev.glb.hold = 0 ∧ t.dev.hbc.freqAt = none ∧ t.dev.sdl.holdAt = none ∧
      t0 + nsCyc 17000 ≤ t.dev.cyc ∧ ((∀ r, (d.hpc r).waiting = []) → t.hbm = s.chip.hbm)) ∧
  (∀ (s : State) (d : Dev) (fn i data a b : Nat), s.chip.dev = d → i < 6 → d.opens fn .hbc i = true → bits data 0 2 = a → bits data 2 2 = b →
    Gives (.mapCfgWrite fn i data) s fun t =>
      if d.flag (HDR.CTL.Enable .hbc) i = false ∧ a ≠ 3 ∧ b ≠ 3 then
        t.dev.get HBC.MAP_CFG.TableOrder i = a ∧ t.dev.get HBC.MAP_CFG.GenOrder i = b
      else t.dev.get HBC.MAP_CFG.TableOrder i = d.get HBC.MAP_CFG.TableOrder i ∧
        t.dev.get HBC.MAP_CFG.GenOrder i = d.get HBC.MAP_CFG.GenOrder i ∧
        t.dev.get (HDR.ERR_COUNT.Count .hbc) i = min (d.get (HDR.ERR_COUNT.Count .hbc) i + 1) (2 ^ (HDR.ERR_COUNT.Count .hbc).w - 1))

/-- For a function whose writes TIM accepts: TIME_SET makes device time SET_* in the next cycle, and with Step too the offset is added
in the cycle after; with more than 999,999,999 ns it is refused and nothing moves. TIME_STEP adds the signed operand to what
device time would be. Both set Valid and Stepped. INCR_WRITE of a value in range, whole or as the upper word after the lower,
takes effect in the next cycle; out of range INCR stays. TIME_READ answers the nanoseconds and latches the other parts.
PPS_OUT_PULSE raises the pin, PPS_OUT_FALL lowers it no earlier than Width after the rise. PPS_IN_EDGE of the selected sense, half
a second after the last one at least, stamps device time. TEN_MHZ_MEASURE takes the elapsed time since the previous one.
CAL_MEASUREMENT of a linked lane moves the constant by the averaged difference, at most 16 units, where that is 8 units or more,
and counts a generation. Of each of these forms, under the conditions given, the conclusion is that exec answers a next state:
timeSet, timeStep, timeRead, incrWrite, ppsOutPulse, ppsOutFall, ppsInEdge, tenMhzMeasure, calMeasurement.
(13_time_and_sundial.md: Device time (R352, R353, R354, R370), 1PPS and 10 MHz (R356, R357, R358), calibration (R364, R365).) -/
def Obligations.TimeBase : Prop :=
  (∀ (s : State) (d : Dev) (fn new m incr : Nat), s.chip.dev = d → d.opens fn .tim 0 = true → 2 ^ 48 * secUnits = m →
    d.get TIM.INCR.Incr = incr →
    dtOf (d.get TIM.SET_SEC_LO.SecondsLo + 2 ^ 32 * d.get TIM.SET_SEC_HI.SecondsHi) (d.get TIM.SET_NS.Nanoseconds) = new →
    (d.get TIM.SET_NS.Nanoseconds ≤ 999999999 →
      Gives (.timeSet fn false) s (fun t => t.dev.dt = new % m ∧ t.dev.cyc = d.cyc + 1 ∧ t.dev.get TIM.TIME_STAT.Valid = 1 ∧
        t.dev.get TIM.TIME_STAT.Stepped = 1 ∧ t.dev.get TIM.TIME_STAT.StepCount = (d.get TIM.TIME_STAT.StepCount + 1) % 2 ^ 16) ∧
      Gives (.timeSet fn true) s (fun t => (t.dev.dt : Int) = ((new : Int) + incr + d.stepOffset * 2 ^ 24) % (m : Int) ∧
        t.dev.cyc = d.cyc + 2)) ∧
    (∀ andStep, 999999999 < d.get TIM.SET_NS.Nanoseconds → Gives (.timeSet fn andStep) s fun t => t.dev.dt = d.dt ∧ t.dev.cyc = d.cyc ∧
      t.dev.get TIM.TIME_STAT.Refused = 1 ∧ t.dev.sdl = d.sdl ∧ t.hbm = s.chip.hbm) ∧
    Gives (.timeStep fn) s (fun t => (t.dev.dt : Int) = ((d.dt : Int) + incr + d.stepOffset * 2 ^ 24) % (m : Int) ∧
      t.dev.cyc = d.cyc + 1 ∧ t.dev.get TIM.TIME_STAT.Valid = 1 ∧ t.dev.get TIM.TIME_STAT.Stepped = 1) ∧
    Gives (.timeRead fn) s (fun t => t.dev.lastRead = some (.readData fn (toLE 4 (dtNs d.dt))) ∧
      t.dev.get TIM.TIME_SEC_LO.SecondsLo = dtSec d.dt % 2 ^ 32 ∧ t.dev.get TIM.TIME_SEC_HI.SecondsHi = dtSec d.dt / 2 ^ 32 % 2 ^ 16 ∧
      t.dev.get TIM.TIME_FRAC.Fraction = dtFrac d.dt % 2 ^ 16 ∧ t.dev.dt = d.dt)) ∧
  (∀ (s : State) (d : Dev) (fn data v : Nat) (whole : Bool), s.chip.dev = d → d.opens fn .tim 0 = true →
    (whole = true ∧ v = data % 2 ^ 48) ∨ (whole = false ∧ ∃ lo, Tab.find d.fab.hold (Blk.tim.base 0 + 0x210) = some lo ∧
      v = (lo + 2 ^ 32 * (data % 2 ^ 32)) % 2 ^ 48) → Gives (.incrWrite fn whole data) s fun t =>
      if 878729692919 ≤ v ∧ v ≤ 880488911523 then t.dev.get TIM.INCR.Incr = v ∧ t.dev.cyc = d.cyc + 1
      else t.dev.get TIM.INCR.Incr = d.get TIM.INCR.Incr ∧ t.dev.cyc = d.cyc) ∧
  (∀ (s : State) (d : Dev), s.chip.dev = d →
    (d.flag TIM.PPS_OUT_CFG.Enable = true → d.tim.ppsOut = false → Gives .ppsOutPulse s fun t => t.dev.tim.ppsOut = true ∧
      t.dev.tim.ppsAt = t.dev.cyc ∧ t.dev.lastRead = some (.pin "PPS_OUT" true)) ∧
    (d.tim.ppsOut = true → Gives .ppsOutFall s fun t => t.dev.tim.ppsOut = false ∧ t.dev.lastRead = some (.pin "PPS_OUT" false) ∧
      d.tim.ppsAt + msCyc * max 1 (d.get TIM.PPS_OUT_CFG.Width) ≤ t.dev.cyc) ∧
    (∀ falling, d.flag TIM.PPS_IN_CFG.Enable = true → d.flag TIM.PPS_IN_CFG.Falling = falling →
      (∀ a, d.tim.ppsInAt = some a → a + secCyc / 2 ≤ d.cyc) → Gives (.ppsInEdge falling) s fun t =>
        t.dev.get TIM.PPS_IN_STAMP.Stamp = compact d.dt % 2 ^ 64 ∧ t.dev.tim.ppsInAt = some d.cyc) ∧
    (d.flag TIM.TEN_CFG.Enable = true → Gives .tenMhzMeasure s fun t => t.dev.tim.tenAt = some d.dt ∧
      ∀ a, d.tim.tenAt = some a → t.dev.get TIM.TEN_ELAPSED.Elapsed = uint 48 (((d.dt / 2 ^ 24 : Nat) : Int) - ((a / 2 ^ 24 : Nat) : Int)) ∧
        t.dev.get TIM.TEN_STAT.Count = (d.get TIM.TEN_STAT.Count + 1) % 2 ^ 32)) ∧
  (∀ (s : State) (d : Dev) (lane c n : Nat) (transmit : Bool) (sum diff : Int), s.chip.dev = d → lane < 128 →
    d.flag TIM.CAL_CFG.Enable = true → (∃ p, d.portOfLane lane = some p ∧ (d.port p).link = true) → 2 ^ d.get TIM.CAL_CFG.AvgLog2 = n →
    Tab.get 0 (if transmit = true then d.tim.tx else d.tim.rx) lane = c → sum - (c : Int) * n = diff →
    Gives (.calMeasurement lane transmit sum) s fun t =>
      (-(8 * n : Int) < diff ∧ diff < 8 * n → t.dev.tim.rx = d.tim.rx ∧ t.dev.tim.tx = d.tim.tx) ∧
      ((8 * n : Int) ≤ diff → Tab.get 0 (if transmit = true then t.dev.tim.tx else t.dev.tim.rx) lane =
        uint 20 ((c : Int) + min 16 (diff / n))) ∧
      (diff ≤ -(8 * n : Int) → Tab.get 0 (if transmit = true then t.dev.tim.tx else t.dev.tim.rx) lane =
        uint 20 ((c : Int) - min 16 (-diff / n))) ∧
      (diff ≤ -(8 * n : Int) ∨ (8 * n : Int) ≤ diff →
        t.dev.get TIM.CAL_GEN.Generation = (d.get TIM.CAL_GEN.Generation + 1) % 2 ^ 32))

/-- For a function whose writes SDL accepts: STREAM_ENABLE of an inactive stream that R379 does not refuse begins its next run with a
start seal waiting; a refused one leaves the stream and gives the reason; an active stream whose fields would change is refused
with 6. STREAM_DISABLE of an active stream clears Enable and ends the run. LEDGER_CHAIN of the oldest buffered entry, late or
passed by the horizon and before the boundary, no gap entry being due before it, with room in the ring (its place aligned, as R386
has STAGE_CFG, and its write taken by port 3 at once), gives it the next Index, hashes it into the chain and writes its 64 bytes
to the ring, and no other byte of HBM. GAP_ENTRY of a drained buffer chains the gap the same way and counts what it stands for as
lost. EPOCH_CLOSE past the boundary, every earlier entry chained, leaves a seal of the epoch's entries to be signed and opens the
next epoch at the boundary. Of each of these forms, under the conditions given, the conclusion is that exec answers a next state:
streamEnable, streamDisable, ledgerChain, gapEntry, epochClose. (13_time_and_sundial.md: Chaining (R373, R374), epochs (R375),
runs (R378, R379, R380), gap entries (R385), staging (R386).) -/
def Obligations.SundialRuns : Prop :=
  (∀ (s : State) (d : Dev) (fn k data r : Nat) (x : Stream), s.chip.dev = d → d.opens fn .sdl 0 = true → k < 16 → d.stream k = x →
    (x.active = false → (d.setStreamCfg k data).enableReason k = r → Gives (.streamEnable fn k data) s fun t =>
      (r = 0 → (t.dev.stream k).active = true ∧ (t.dev.stream k).ending = false ∧ (t.dev.stream k).run = x.nextRun ∧
        (t.dev.stream k).nextRun = x.nextRun + 1 ∧ (t.dev.stream k).index = 0 ∧ t.dev.get SDL.STREAM_CFG.Enable 0 k = 1 ∧
        ∃ q, (t.dev.stream k).seals = x.seals ++ [q] ∧ q.kind = 1 ∧ q.run = x.nextRun ∧ q.count = 0 ∧ q.index = 0) ∧
      (r ≠ 0 → t.dev.stream k = x ∧ t.dev.get SDL.STREAM_STAT.Refused 0 k = 1 ∧ t.dev.get SDL.STREAM_STAT.Reason 0 k = r)) ∧
    (x.active = true → d.sameStreamCfg k data = false → ∀ i ∈ [Instr.streamEnable fn k data, .streamDisable fn k data],
      Gives i s fun t => t.dev.stream k = x ∧ t.dev.get SDL.STREAM_STAT.Refused 0 k = 1 ∧ t.dev.get SDL.STREAM_STAT.Reason 0 k = 6 ∧
        t.hbm = s.chip.hbm) ∧
    (x.active = true → x.ending = false → d.sameStreamCfg k data = true → x.jobs = [] → x.buf = [] → x.gap = none →
      Gives (.streamDisable fn k data) s fun t => (t.dev.stream k).ending = true ∧ (t.dev.stream k).active = true ∧
        t.dev.get SDL.STREAM_CFG.Enable 0 k = 0 ∧ t.hbm = s.chip.hbm ∧
        ∃ q, (t.dev.stream k).seals = x.seals ++ [q] ∧ q.kind = 3 ∧ q.stop = d.dt ∧ q.chain = x.h)) ∧
  (∀ (s : State) (d : Dev) (k a : Nat) (x : Stream), s.chip.dev = d → k < 16 → d.stream k = x → x.active = true → x.jobs = [] →
    d.ringFull k = false → d.ringAddr k x.put = a → a % 64 = 0 → (d.hpc (a / 2 ^ 29)).waiting = [] → d.hbmMayPut 3 a = true →
    (∀ e rest b, x.buf = e :: rest → x.gap = none ∨ 2048 < x.buf.length → b = sliceB (putB e.bytes 8 (toLE 8 x.index)) 0 64 → e.late = true ∨ (d.horizonFree = true ∧ e.stamp < x.bound ∧
      e.stamp + 1 + nsU (16 * max 1 (d.get SDL.MERGE_CFG.Hold)) ≤ d.dt ∧ d.dt < 2 ^ 48 * secUnits) →
      Gives (.ledgerChain k) s fun t => (t.dev.stream k).buf = rest ∧ (t.dev.stream k).index = x.index + 1 ∧
        (t.dev.stream k).h = sha384 (x.h ++ b.take 63) ∧ (t.dev.stream k).put = x.put + 1 ∧ (t.dev.stream k).lost = x.lost + e.lost ∧
        t.hbm = Mem.writeN s.chip.hbm a b) ∧
    (∀ g b, x.gap = some g → x.buf.length ≤ 2048 → b = sliceB (putB g.bytes 8 (toLE 8 x.index)) 0 64 →
      Gives (.gapEntry k) s fun t => (t.dev.stream k).gap = none ∧ (t.dev.stream k).buf = x.buf ∧
        (t.dev.stream k).index = x.index + 1 ∧ (t.dev.stream k).lost = x.lost + g.count ∧
        (t.dev.stream k).h = sha384 (x.h ++ b.take 63) ∧ t.hbm = Mem.writeN s.chip.hbm a b) ∧
    (x.ending = false → (∀ e rest, x.buf = e :: rest → e.late = false ∧ x.bound ≤ e.stamp) → d.horizonFree = true →
      x.bound + nsU (16 * max 1 (d.get SDL.MERGE_CFG.Hold)) ≤ d.dt → d.dt < 2 ^ 48 * secUnits →
      Gives (.epochClose k) s fun t => (t.dev.stream k).start = x.bound ∧ (t.dev.stream k).first = x.index ∧ (t.dev.stream k).lost = 0 ∧
        (t.dev.stream k).bound = x.bound + nsU (1000 * d.get SDL.EPOCH.EpochUs 0 k) ∧ (t.dev.stream k).h = x.h ∧
        ∃ q, (t.dev.stream k).seals = x.seals ++ [q] ∧ q.start = x.start ∧ q.stop = x.bound ∧ q.first = x.first ∧
          q.count = x.index - x.first ∧ q.lost = x.lost ∧ q.chain = x.h ∧ q.kind = (if x.rotate = true then 2 else 0)))

/-- SEAL_SIGNED of a stream's oldest seal, with SEC able to sign, signs it: the next seal names the hash of this one, and a final seal
makes the stream inactive. STAGING_DELIVER with room in the channel, the read taken by port 3 and good data, puts the next entry's
64 bytes of the ring in it. With anchors enabled (log entry 70), ANCHOR_PERIODIC, and ANCHOR_NOW by a function whose writes SDL
accepts, a second after the last anchor at least, make an anchor: its number is one more than the last one's, and it goes to the
slot opposite. ANCHOR_NOW sooner only counts. ROTATION_GO makes the controller Busy towards the next serial, or is refused with 1
while Busy or 2 with the history full. ROTATION_KEY_READY makes that key current, keeps the old one, and every active stream owes
a rotation seal. ROTATION_DONE with none owed erases the old private key and ends the rotation, and otherwise shows how many are
owed. Of each of these forms, under the conditions given, the conclusion is that exec answers a next state: sealSigned,
stagingDeliver, anchorPeriodic, anchorNow, rotationGo, rotationKeyReady, rotationDone. (13_time_and_sundial.md: Seals (R376, R377,
R380), anchors (R382), ledger keys (R383, R384), staging (R386).) -/
def Obligations.SundialSeals : Prop :=
  (∀ (s : State) (d : Dev) (k key : Nat) (x : Stream) (q : SealReq) (rest : List SealReq) (body sig : List Byte), s.chip.dev = d →
    d.stream k = x → x.seals = q :: rest → d.canSign q.key = some key → q.bytes k d.mram.boot x.prevSeal = body →
    (d.secSign key body).1 = sig → Gives (.sealSigned k) s fun t => (t.dev.stream k).seals = rest ∧
      (t.dev.stream k).prevSeal = sha384 (body ++ sig) ∧ (t.dev.stream k).lastIndex = q.index ∧
      (t.dev.stream k).active = (x.active && q.kind != 3) ∧ (t.dev.stream k).h = x.h ∧ t.hbm = s.chip.hbm) ∧
  (∀ (s : State) (d : Dev) (k ec : Nat) (x : Stream), s.chip.dev = d → k < 16 → d.stream k = x →
    d.get SDL.STREAM_CFG.EntryChannel 0 k = ec → x.got < x.put → d.streamRoom ec = true → d.pathMoves = true →
    d.burstBad (d.ringAddr k x.got) = false →
    d.hbmMayRead 3 (d.ringAddr k x.got) = true → (d.hpc (d.ringAddr k x.got / 2 ^ 29)).waiting = [] → Gives (.stagingDeliver k) s fun t => (t.dev.stream k).got = x.got + 1 ∧
      t.hbm = s.chip.hbm ∧ ∃ more, (t.dev.chan ec).stream = (d.chan ec).stream ++ [Mem.readN s.chip.hbm (d.ringAddr k x.got) 64] ++ more) ∧
  (∀ (s : State) (d : Dev) (n : Nat), s.chip.dev = d → (∃ key, d.canSign d.mram.ledgerSerial = some key) →
    ofLE (sliceB d.mram.anchor 16 8) + 1 = n →
    ∀ i, (i = .anchorPeriodic ∧ d.flag SDL.ANCHOR_CFG.Enable = true ∧ d.live .sdl = true) ∨
      (∃ fn, i = .anchorNow fn ∧ d.opens fn .sdl 0 = true ∧ d.flag SDL.ANCHOR_CFG.Enable = true ∧ ∀ a, d.sdl.anchorAt = some a → a + secCyc ≤ d.cyc) →
    Gives i s fun t => t.dev.get SDL.ANCHOR_SEQ.Seq = n % 2 ^ 64 ∧ t.dev.sdl.anchorAt = some t.dev.cyc ∧
      (∀ a, d.sdl.anchorAt = some a → a + secCyc ≤ t.dev.cyc) ∧
      (d.mram.anchorLast = 1 → t.dev.mram.anchorLast = 0 ∧ t.dev.mram.anchorB = d.mram.anchorB) ∧
      (d.mram.anchorLast ≠ 1 → t.dev.mram.anchorLast = 1 ∧ t.dev.mram.anchorA = d.mram.anchorA)) ∧
  (∀ (s : State) (d : Dev) (fn a : Nat), s.chip.dev = d → d.opens fn .sdl 0 = true → d.sdl.anchorAt = some a → d.cyc < a + secCyc →
    Gives (.anchorNow fn) s fun t => t.dev.mram = d.mram ∧ t.dev.sdl = d.sdl) ∧
  (∀ (s : State) (d : Dev) (fn : Nat), s.chip.dev = d → d.opens fn .sdl 0 = true → Gives (.rotationGo fn) s fun t =>
    if d.flag SDL.ROT_STAT.Busy = true then t.dev.get SDL.ROT_STAT.Refused = 1 ∧ t.dev.get SDL.ROT_STAT.Reason = 1 ∧ t.dev.sdl = d.sdl
    else if 1024 ≤ d.mram.ledgerCerts.length then
      t.dev.get SDL.ROT_STAT.Refused = 1 ∧ t.dev.get SDL.ROT_STAT.Reason = 2 ∧ t.dev.sdl = d.sdl
    else t.dev.get SDL.ROT_STAT.Busy = 1 ∧ t.dev.sdl.rotKey = some (d.mram.ledgerSerial + 1)) ∧
  (∀ (s : State) (d : Dev) (n : Nat), s.chip.dev = d → d.sdl.rotKey = some n →
    (d.mram.ledgerSerial + 1 = n → d.sec.stopped = false → d.sec.trngBad = false → Gives .rotationKeyReady s fun t =>
      t.dev.mram.ledgerSerial = n ∧ t.dev.get SDL.KEY_SERIAL.Serial = n % 2 ^ 32 ∧
      Tab.find t.dev.mram.ledgerKeys (n - 1) = Tab.find d.mram.ledgerKeys (n - 1) ∧
      (∃ key, Tab.find t.dev.mram.ledgerKeys n = some key ∧ 1 ≤ key ∧ key < brainpool.n) ∧
      ∀ k, k < 16 → (d.stream k).active = true → (d.stream k).ending = false → (t.dev.stream k).rotate = true) ∧
    (d.mram.ledgerSerial = n → (∀ k, k < 16 → (d.stream k).rotate = false ∧ (∀ q ∈ (d.stream k).seals, q.key = n) ∧
      ((d.stream k).active = true → (d.stream k).key = n)) → Gives .rotationDone s fun t => t.dev.sdl.rotKey = none ∧
        t.dev.get SDL.ROT_STAT.Busy = 0 ∧ t.dev.get SDL.ROT_STAT.Done = 1 ∧ t.dev.get SDL.ROT_STAT.Pending = 0 ∧
        Tab.find t.dev.mram.ledgerKeys (n - 1) = none) ∧
    (∀ k, k < 16 → (d.stream k).rotate = true → Gives .rotationDone s fun t => t.dev.sdl.rotKey = some n ∧ t.dev.mram = d.mram ∧
      t.dev.get SDL.ROT_STAT.Pending = d.rotPending % 2 ^ 16))

/-- PCIE_LINK_UP after reset release shows rate and width; PCIE_LINK_RESET takes the link down and leaves PF0 with its configuration
space reset and an FLR in progress, and no VF. With configuration requests answered: VF_ENABLE_SET of at most 127 VFs starts a
change, or waits for a removal in progress; VF_ENABLE_CLEAR of a change towards VFs turns it to none; POWER_STATE_CHANGE and
BUS_MASTER_ENABLE_WRITE change their fields of an existing function and no others, VF MSE being one for all VFs (log entry 84) and
DOE Interrupt Enable PF0's, and messages that only Bus Master Enable or the Function Mask held go out. VF_CHANGE_DONE brings the
change into force. FLR resets the function's configuration space, or changes nothing while one is in progress; FLR_DONE ends it.
TO_PF_DOORBELL by a VF with its mailbox free, and FROM_PF_DOORBELL by PF0 with the VF's free, take the length and set Busy or
Full; otherwise they are refused. MBX_PEND_WRITE clears the bits written 1 and those functions' Busy. Before configuration
requests are answered, a write gets Retry Status. Of each of these forms, under the conditions given, the conclusion is that exec
answers a next state: pcieLinkUp, pcieLinkReset, vfEnableSet, vfEnableClear, vfChangeDone, powerStateChange, busMasterEnableWrite,
flr, flrDone, toPfDoorbell, fromPfDoorbell, mbxPendWrite, getVersion. (14_host_interface.md: Functions and power (R392, R396),
link (R394), VFs (R397, R398), mailbox (R403, R404), FLR (R405, R406), MSI-X (R54, R401).) -/
def Obligations.HostFunctions : Prop :=
  (∀ (s : State) (d : Dev) (rate width : Nat), s.chip.dev = d → d.boot.relAt ≠ none → 1 ≤ rate → rate ≤ 5 → width ∈ [1, 2, 4, 8] →
    Gives (.pcieLinkUp rate width) s fun t => t.dev.get HIF.LINK_STAT.Up = 1 ∧ t.dev.get HIF.LINK_STAT.Rate = rate ∧
      t.dev.get HIF.LINK_STAT.Width = width) ∧
  (∀ (s : State), Gives .pcieLinkReset s fun t => t.dev.get HIF.LINK_STAT.Up = 0 ∧ t.dev.get HIF.LINK_STAT.Rate = 0 ∧
    t.dev.get HIF.LINK_STAT.Width = 0 ∧ (t.dev.fn 0).flr = true ∧ (t.dev.fn 0).mse = false ∧ (t.dev.fn 0).bme = false ∧
    t.dev.fab.vfMse = false ∧ t.dev.fab.vfEnable = false ∧ t.dev.fab.vfWait = none) ∧
  (∀ (s : State) (d : Dev), s.chip.dev = d → d.cfgUp 0 = true →
    (∀ n, n ≤ 127 → d.fab.vfEnable = false → Gives (.vfEnableSet n) s fun t =>
      (d.fab.vfChange = none → t.dev.fab.vfChange = some (n, true)) ∧
      (∀ m, d.fab.vfChange = some (m, false) → t.dev.fab.vfChange = some (m, false) ∧ t.dev.fab.vfWait = some n)) ∧
    (∀ n, d.fab.vfEnable = false → d.fab.vfChange = some (n, true) → Gives .vfEnableClear s fun t =>
      t.dev.fab.vfChange = some (0, false) ∧ t.dev.fab.vfWait = none ∧ t.dev.fab.numVfs = d.fab.numVfs)) ∧
  (∀ (s : State) (d : Dev) (n : Nat) (on : Bool), s.chip.dev = d → d.fab.vfChange = some (n, on) → Gives .vfChangeDone s fun t =>
    t.dev.fab.numVfs = n ∧ t.dev.fab.vfEnable = on ∧ t.dev.fab.vfChange = d.fab.vfWait.map (fun k => (k, true)) ∧
      t.dev.get HIF.VF_STAT.NumVfs = n % 2 ^ HIF.VF_STAT.NumVfs.w ∧ t.dev.get HIF.VF_STAT.VfEnable = b2n on ∧
      ∀ f, f ≠ 0 → t.dev.fn f = {}) ∧
  (∀ (s : State) (d : Dev) (f : Nat), s.chip.dev = d → d.fnExists f = true → d.cfgUp f = true →
    (∀ d3, Gives (.powerStateChange f d3) s fun t => t.dev = d.setFn f { d.fn f with d3 := d3 }) ∧
    (∀ mse bme mps mrrs ctl, Gives (.busMasterEnableWrite f mse bme mps mrrs ctl) s fun t =>
      t.dev.fn f = { d.fn f with
        mse := if f = 0 then mse else (d.fn f).mse, bme := bme, mps := 128 * 2 ^ min 2 mps, mrrs := 128 * 2 ^ min 5 mrrs
        cto := ctl % 16, fmask := bit ctl 4 } ∧
      t.dev.fab.vfMse = (if f = 0 then d.fab.vfMse else mse) ∧ t.dev.doe.intOn = (if f = 0 then bit ctl 5 else d.doe.intOn) ∧
      (∀ v e, v < 2048 → d.vec f v = e → e.pend = true → e.mask = false → bme = true → bit ctl 4 = false →
        Out.msix f v e.addr e.data ∈ t.dev.out))) ∧
  (∀ (s : State) (d : Dev) (f : Nat), s.chip.dev = d → d.fnExists f = true → d.boot.hostUp = true →
    ((d.fn f).flr = true → Gives (.flr f) s fun t => t = s.chip) ∧
    ((d.fn f).flr = false → Gives (.flr f) s fun t => (t.dev.fn f).mse = false ∧ (t.dev.fn f).bme = false ∧
      (t.dev.fn f).d3 = false ∧ (t.dev.fn f).fmask = false)) ∧
  (∀ (s : State) (d : Dev) (f : Nat), s.chip.dev = d → f < 128 → (d.fn f).flr = true → Gives (.flrDone f) s fun t =>
    t.dev.fn f = { d.fn f with flr := false } ∧ bit (t.dev.get HIF.FLR_ACTIVE.Active 0 (f / 32)) (f % 32) = false) ∧
  (∀ (s : State) (d : Dev) (f w data : Nat), s.chip.dev = d → 0 < f → f < 128 → d.reachable f = true → Gives (.toPfDoorbell f w data) s fun t =>
    if (d.fn f).mbx.busy = true then t.dev.fn f = d.fn f ∧
      t.dev.get HIF.VF_DENY_CNT.Count = (d.get HIF.VF_DENY_CNT.Count + 1) % 2 ^ HIF.VF_DENY_CNT.Count.w
    else (t.dev.fn f).mbx = { (d.fn f).mbx with busy := true, toPfLen := data % 512 } ∧
      bit (t.dev.get HIF.MBX_PEND.Pending 0 (f / 32)) (f % 32) = true) ∧
  (∀ (s : State) (d : Dev) (w data : Nat), s.chip.dev = d → 0 < w → w < 128 → d.reachable 0 = true → Gives (.fromPfDoorbell 0 w data) s fun t =>
    if (d.fn w).mbx.full = true then t.dev.fn w = d.fn w ∧
      t.dev.get HIF.VF_DENY_CNT.Count = (d.get HIF.VF_DENY_CNT.Count + 1) % 2 ^ HIF.VF_DENY_CNT.Count.w
    else (t.dev.fn w).mbx = { (d.fn w).mbx with full := true, fromPfLen := data % 512 }) ∧
  (∀ (s : State) (d : Dev) (fn j data : Nat), s.chip.dev = d → d.opens fn .hif 0 = true → j < 4 → Gives (.mbxPendWrite fn j data) s fun t =>
    ∀ n, n < 32 → bit (t.dev.get HIF.MBX_PEND.Pending 0 j) n = (bit (d.get HIF.MBX_PEND.Pending 0 j) n && !bit data n) ∧
      (t.dev.fn (32 * j + n)).mbx.busy = ((d.fn (32 * j + n)).mbx.busy && !bit data n)) ∧
  (∀ (s : State) (d : Dev) (n : Nat) (d3 : Bool), s.chip.dev = d → d.boot.hostUp = false →
    ∀ i ∈ [Instr.vfEnableSet n, .vfEnableClear, .powerStateChange 0 d3, .flr 0, .getVersion], Gives i s fun t =>
      t.dev = d.emit (.retryStatus 0))

/-- While PF0's configuration requests are answered: DOE_DISCOVERY lists the two data objects, DOE_ABORT abandons the response. A
response that is ready sends the DOE vector where its interrupt is enabled. GET_VERSION begins negotiation; GET_CAPABILITIES and
NEGOTIATE_ALGORITHMS advance it from the step before, and in any other step get UnexpectedRequest, as the other requests do before
negotiation has completed; an object over 1,024 bytes is not taken. After it: GET_DIGESTS answers the digest of slot 0's chain,
GET_CERTIFICATE at most 4,032 bytes of it from the offset, CHALLENGE and a signed GET_MEASUREMENTS a fresh nonce and a signature
over the transcript by the attestation key, an unsigned GET_MEASUREMENTS the blocks asked for. A code outside the table gets
UnsupportedRequest with the code. The layouts of DOE and SPDM messages are the model's, PRESUMED from the standards the manual
names (log entry 65). Of each of these forms, under the conditions given, the conclusion is that exec answers a next state:
doeDiscovery, doeAbort, getVersion, getCapabilities, negotiateAlgorithms, getDigests, getCertificate, challenge, getMeasurements,
spdmUnsupported. (14_host_interface.md: DOE (R409), SPDM (R410), certificates (R411), measurements (R412).) -/
def Obligations.SpdmAnswers : Prop :=
  (∀ (s : State) (d : Dev) (m : List Byte), s.chip.dev = d → d.cfgUp 0 = true →
    (∀ i, Gives (.doeDiscovery i) s fun t => t.dev.doe.phase = d.doe.phase ∧ t.dev.doe.resp = doeObj 0 (match i % 256 with
      | 0 => [1, 0, 0, 1]
      | 1 => [1, 0, 1, 0]
      | _ => [0xFF, 0xFF, 0, 0])) ∧
    (Gives .doeAbort s fun t => t.dev.doe.resp = []) ∧
    (m = [0x10, 0x04, 0, 0, 0, 1, 0, 0x12] → Gives .getVersion s fun t => t.dev.doe =
      { phase := 1, msgA := [0x10, 0x84, 0, 0] ++ m, resp := doeObj 1 m, intOn := d.doe.intOn }) ∧
    (∀ v e i, v = Config.doeVector.toNat → d.doe.intOn = true → d.vec 0 v = e → e.mask = false → (d.fn 0).fmask = false →
      (d.fn 0).bme = true → Gives (.doeDiscovery i) s fun t => Out.msix 0 v e.addr e.data ∈ t.dev.out) ∧
    (∀ ct flags dts size, m = [0x12, 0x61, 0, 0, 0, 16, 0, 0] ++ toLE 4 0x16 ++ toLE 4 4096 ++ toLE 4 4096 →
      Gives (.getCapabilities ct flags dts size) s fun t =>
        if d.doe.phase = 1 then t.dev.doe.phase = 2 ∧ t.dev.doe.resp = doeObj 1 m
        else t.dev.doe.phase = d.doe.phase ∧ t.dev.doe.resp = doeObj 1 [0x12, 0x7F, 4, 0]) ∧
    (∀ n req, 1024 < 12 + req.length → Gives (.negotiateAlgorithms n req) s fun t => t.dev.doe = d.doe) ∧
    (∀ n req, 12 + req.length ≤ 1024 → Gives (.negotiateAlgorithms n req) s fun t =>
      if d.doe.phase = 2 then t.dev.doe.phase = 3 else t.dev.doe.phase = d.doe.phase ∧ t.dev.doe.resp = doeObj 1 [0x12, 0x7F, 4, 0]) ∧
    (d.doe.phase ≠ 3 → ∀ slot offset length summary nonce attr op, ∀ i ∈ [Instr.getDigests, .getCertificate slot offset length,
      .challenge slot summary nonce, .getMeasurements attr op nonce slot], Gives i s fun t =>
        t.dev.doe = { d.doe with resp := doeObj 1 [0x12, 0x7F, 4, 0] }) ∧
    (∀ code, Gives (.spdmUnsupported code) s fun t => t.dev.doe.resp = doeObj 1 (if spdmCodes.contains (code % 256) = true then
      [0x12, 0x7F, 4, 0] else [0x12, 0x7F, 7, BitVec.ofNat 8 (code % 256)]))) ∧
  (∀ (s : State) (d : Dev) (chain : List Byte), s.chip.dev = d → d.cfgUp 0 = true → d.doe.phase = 3 → d.slot0 = chain →
    (Gives .getDigests s fun t => t.dev.doe.resp = doeObj 1 ([0x12, 0x01, 0, 1] ++ sha384 chain)) ∧
    (∀ slot offset length p, slot % 16 = 0 → offset < chain.length → (chain.drop offset).take (min 4032 length) = p →
      Gives (.getCertificate slot offset length) s fun t => t.dev.doe.resp = doeObj 1 ([0x12, 0x02, 0, 0] ++ toLE 2 p.length ++
        toLE 2 (chain.length - offset - p.length) ++ p)) ∧
    (∀ key summary nonce q m mine e, d.attestKey = some key → summary = 0 ∨ summary = 0xFF → d.nonce32 = (mine, e) →
      q = [0x12, 0x83, 0] ++ toLE 1 summary ++ sliceB nonce 0 32 →
      m = [0x12, 0x03, 0, 1] ++ sha384 chain ++ mine ++ (if summary = 0 then [] else sha384 d.measureAll) ++ [0, 0] →
      Gives (.challenge 0 summary nonce) s fun t => t.dev.doe.resp =
        doeObj 1 (m ++ (e.spdmSign key "responder-challenge_auth signing" (d.doe.msgA ++ d.doe.msgB ++ q ++ m)).1)) ∧
    (∀ attr op slot nonce q m mine e rec_ count, op ≤ 6 ∨ op = 0xFF → bit attr 0 = false ∨ slot % 16 = 0 → d.nonce32 = (mine, e) →
      q = [0x12, 0xE0] ++ toLE 1 attr ++ toLE 1 op ++ (if bit attr 0 = true then sliceB nonce 0 32 ++ toLE 1 slot else []) →
      rec_ = (if op = 0 then [] else if op = 0xFF then d.measureAll else d.measureBlock op) →
      count = (if op = 0 then 0 else if op = 0xFF then 6 else 1) →
      m = [0x12, 0x60] ++ toLE 1 (if op = 0 then 6 else 0) ++ [0] ++ toLE 1 count ++ toLE 3 rec_.length ++ rec_ ++ mine ++ [0, 0] →
      Gives (.getMeasurements attr op nonce slot) s fun t =>
        (bit attr 0 = false → t.dev.doe.resp = doeObj 1 m ∧ t.dev.doe.msgM = d.doe.msgM ++ q ++ m) ∧
        (bit attr 0 = true → ∀ key, d.attestKey = some key → t.dev.doe.msgM = [] ∧ t.dev.doe.resp =
          doeObj 1 (m ++ (e.spdmSign key "responder-measurements signing" (d.doe.msgA ++ (d.doe.msgM ++ q ++ m))).1))))

/-- With configuration requests answered and VF Enable in force, VF_ENABLE_CLEAR takes the VFs out of force and starts the change to
none: VF Enable reads 0 in the fabric, no VF Enable write waits, and until the change is done NumVFs is as before, so no VF's
request is served any more. Of each of these forms, under the conditions given, the conclusion is that exec answers a next state:
vfEnableClear. (14_host_interface.md: Removal of VFs (R397, R398), what an FLR leaves (R405).) -/
def Obligations.VfRemoval : Prop :=
  ∀ (s : State) (d : Dev), s.chip.dev = d → d.cfgUp 0 = true → d.fab.vfEnable = true → Gives .vfEnableClear s fun t =>
    t.dev.fab.vfEnable = false ∧ t.dev.fab.vfChange = some (0, false) ∧ t.dev.fab.vfWait = none ∧ t.dev.fab.numVfs = d.fab.numVfs ∧
      ∀ f, f ≠ 0 → f ≠ 128 → t.dev.reachable f = false

/-- A corrected error of a live instance, nothing injected, shows in its ERR_ADDR and ERR_COUNT and in ERR's log as class 0, and HBM
and the data path stay as they are; an injected one-bit error of a correcting detector does too, sets Fired, and disarms in once
mode. BSN detector 1 with DeviceAuto 0 stops the arbiters. FTB detector 0 stops migration, inserts and sweeps. A CLK detector
clears HBM and holds the data path. CRIT_RECORD_WRITE writes the report held, a second after the last write at least, to the slot
opposite. DIE_SENSOR_READ takes the readings, and DIE_MAX the hottest sensor's where that is no thermal limit. VMON_SAMPLE takes
the readings, and one outside its window sets TMP event 1. THERMTRIP drives the pin once. Of each of these forms, under the
conditions given, the conclusion is that exec answers a next state: detectorReport, critRecordWrite, dieSensorRead, vmonSample,
thermtrip. (18_errors_and_injection.md: Reports and the log (R493, R502), classes (R494, R495, R498), critical record (R503);
02_register_model.md: Error registers (R34), injection (R57); 20_electrical_and_package.md: Sensors (R537, R543, R544).) -/
def Obligations.DetectorReports : Prop :=
  (∀ (s : State) (d : Dev) (page det addr a k i : Nat) (b : Blk), s.chip.dev = d → pageBlk page = some (b, i) → det < detCount b →
    d.live b i = true ∨ b = .clk → (b, det) ∉ [(Blk.ruu, 3), (.hbc, 0), (.evq, 0), (.evp, 0)] →
    (d.injects b i det = false → Gives (.detectorReport page det addr false a k) s fun t => t.hbm = s.chip.hbm ∧ t.dev.glb = d.glb ∧
      t.dev.get (HDR.ERR_ADDR.Addr b) i = addr % 2 ^ 32 ∧ t.dev.get (HDR.ERR_COUNT.LastDetector b) i = det ∧
      t.dev.get (HDR.ERR_COUNT.Count b) i = min (d.get (HDR.ERR_COUNT.Count b) i + 1) (2 ^ 24 - 1) ∧
      ∃ e ∈ t.dev.err.log, e.page = b.page i ∧ e.det = det ∧ e.cls = 0) ∧
    (∀ n, d.injects b i det = true → detCorrects b det = true → n < 32 → d.get (HDR.ERR_INJ_DATA.Pattern b) i = 2 ^ n →
      ∀ unc, Gives (.detectorReport page det addr unc a k) s fun t => t.hbm = s.chip.hbm ∧ t.dev.get (HDR.ERR_INJ.Fired b) i = 1 ∧
        (d.flag (HDR.ERR_INJ.Mode b) i = false → t.dev.get (HDR.ERR_INJ.Arm b) i = 0) ∧
        t.dev.get (HDR.ERR_COUNT.LastDetector b) i = det)) ∧
  (∀ (s : State) (d : Dev) (page addr a k : Nat) (b : Blk), s.chip.dev = d → pageBlk page = some (b, 0) → d.live b 0 = true →
    (b = .bsn → d.injects b 0 1 = false → d.flag ERR.CONTAIN_CFG.DeviceAuto = false → Gives (.detectorReport page 1 addr true a k) s fun t =>
      t.dev.err.stopped = true ∧ t.hbm = s.chip.hbm) ∧
    (b = .ftb → d.injects b 0 0 = false → Gives (.detectorReport page 0 addr true a k) s fun t => t.dev.ftb.stuck = true ∧
      t.dev.get FTB.CTL_FT.InsertEnable = 0 ∧ t.dev.get FTB.CTL_FT.SweepEnable = 0 ∧ t.hbm = s.chip.hbm) ∧
    (∀ det, b = .clk → det < 2 → d.injects b 0 det = false → Gives (.detectorReport page det addr true a k) s fun t =>
      t.hbm = [] ∧ t.dev.glb.hold = 2 ∧ t.dev.err.stopped = true)) ∧
  (∀ (s : State) (d : Dev) (e : LogEntry) (t0 : Nat), s.chip.dev = d → d.err.critHeld = some e → d.err.critAt = some t0 →
    Gives .critRecordWrite s fun t => t0 + secCyc ≤ t.dev.cyc ∧ t.dev.err.critHeld = none ∧ t.dev.err.critAt = some t.dev.cyc ∧
      (d.mram.crit.last = 1 → t.dev.mram.crit = { d.mram.crit with slotA := some e, last := 0 }) ∧
      (d.mram.crit.last ≠ 1 → t.dev.mram.crit = { d.mram.crit with slotB := some e, last := 1 })) ∧
  (∀ (s : State) (d : Dev), s.chip.dev = d → d.live .tmp = true →
    (∀ (rs : List Int), Gives (.dieSensorRead rs []) s fun t => (∀ k v, k < 24 → rs[k]? = some v → Tab.get 0 t.dev.tmp.die k = uint 10 v) ∧
      ∀ i v, t.dev.tmp.hottest = some (i, v) → v ≤ 500 → t.dev.get TMP.DIE_MAX.DieMax = uint 10 v ∧ t.dev.get TMP.DIE_MAX.Sensor = i) ∧
    (∀ (rs : List Nat), Gives (.vmonSample rs) s fun t => ∀ k v, k < 9 → rs[k]? = some v → t.dev.get TMP.VMON.Millivolts 0 k = v % 65536 ∧
      (v % 65536 < d.get TMP.VMON_WIN.Low 0 k ∨ d.get TMP.VMON_WIN.High 0 k < v % 65536 →
        bit (t.dev.get (HDR.IRQ_STATUS .tmp)) 1 = true))) ∧
  (∀ (s : State) (d : Dev), s.chip.dev = d → Gives .thermtrip s fun t => t.dev.tmp.trip = true ∧
    t.dev.out = d.out ++ (if d.tmp.trip = true then [] else [.pin "THERMTRIP#" false]))

/-- For a function whose writes GLB accepts: DPR_GO with Go and no reset or frequency hold in progress begins a soft reset, with every
stack in self-refresh, no request queued at any pseudo-channel, none waiting at one whose controller takes requests, and every row
closed; without Go it only sets Hold, and during a reset Go starts nothing more. DPR_SELF_REFRESH with Hold 0 carries the reset
out no earlier than 36 us after it began: no packet, no result and no occupied cell is left. DPR_HOLD_RELEASE clears Hold and does
the same for a reset that waits. THERMAL_RELEASE does it where a thermal report has set Hold, once every stack and the die are
cool, and nothing before. DPR_DONE with Hold 0, 50 us after the beginning at least, takes every stack out of self-refresh, and
shows Done. Of each of these forms, under the conditions given, the conclusion is that exec answers a next state: dprGo,
dprHoldRelease, dprSelfRefresh, thermalRelease, dprDone. (18_errors_and_injection.md: Datapath soft reset (R499, R500), thermal
hold (R501); 11_hbm_controller.md: Self-refresh (R336); 01_architecture.md: What it resets (R25, R95).) -/
def Obligations.SoftReset : Prop :=
  (∀ (s : State) (d : Dev) (fn data : Nat) (lost : List (Nat × Nat)), s.chip.dev = d → d.opens fn .glb 0 = true →
    (data % 2 = 1 → d.glb.dpr = .idle → d.glb.hold ≠ 1 → Gives (.dprGo fn data lost) s fun t => t.dev.glb.dpr = .begun ∧
      t.dev.glb.dprAt = d.cyc ∧ (∀ k, k < 6 → (t.dev.stack k).selfRef = true) ∧
      ∀ r, (t.dev.hpc r).queue = [] ∧ (∀ b, ((t.dev.hpc r).bank b).row = none) ∧
        (r < 384 → d.glb.hold = 0 → d.accepts .hbc (r / 64) = true → (d.stack (r / 64)).selfRef = false → (t.dev.hpc r).waiting = [])) ∧
    (data % 2 = 0 ∨ d.glb.dpr ≠ .idle → Gives (.dprGo fn data lost) s fun t => t.dev.get GLB.DPR_CTL.Hold = bits data 1 1 ∧
      t.dev.glb = { d.glb with hotHold := d.glb.hotHold && bit data 1 } ∧ t.hbm = s.chip.hbm) ∧
    (d.glb.dpr ≠ .begun → Gives (.dprHoldRelease fn) s fun t => t.dev.get GLB.DPR_CTL.Hold = 0 ∧
      t.dev.glb = { d.glb with hotHold := false }) ∧
    (d.glb.dpr = .begun → Gives (.dprHoldRelease fn) s fun t => t.dev.get GLB.DPR_CTL.Hold = 0 ∧ t.dev.glb.dpr = .refreshed ∧
      t.dev.pkts = [] ∧ t.dev.results = [] ∧ t.dev.bsn.cells = 0 ∧ t.hbm = s.chip.hbm)) ∧
  (∀ (s : State) (d : Dev), s.chip.dev = d → d.glb.dpr = .begun →
    (d.flag GLB.DPR_CTL.Hold = false → Gives .dprSelfRefresh s fun t => t.dev.glb.dpr = .refreshed ∧ t.dev.pkts = [] ∧ t.dev.results = [] ∧
      t.dev.bsn.cells = 0 ∧ d.glb.dprAt + nsCyc 36000 ≤ t.dev.cyc ∧ t.hbm = s.chip.hbm) ∧
    (d.flag GLB.DPR_CTL.Hold = true → d.glb.hotHold = true →
      ((∀ k, k < 6 → sint 8 (d.get HBC.TEMP_STAT.Case k) ≤ 100) → sint 10 (d.get TMP.DIE_MAX.DieMax) ≤ 460 →
        Gives .thermalRelease s fun t => t.dev.get GLB.DPR_CTL.Hold = 0 ∧ t.dev.glb.dpr = .refreshed ∧ t.dev.pkts = []) ∧
      (∀ k, k < 6 → 100 < sint 8 (d.get HBC.TEMP_STAT.Case k) → Gives .thermalRelease s fun t => t = s.chip) ∧
      (460 < sint 10 (d.get TMP.DIE_MAX.DieMax) → Gives .thermalRelease s fun t => t = s.chip))) ∧
  (∀ (s : State) (d : Dev), s.chip.dev = d → d.glb.dpr = .refreshed →
    (d.flag GLB.DPR_CTL.Hold = true → Gives .dprDone s fun t => t = s.chip) ∧
    (d.flag GLB.DPR_CTL.Hold = false → Gives .dprDone s fun t => t.dev.glb.dpr = .idle ∧
    t.dev.get GLB.DPR_STAT.Active = 0 ∧ t.dev.get GLB.DPR_STAT.Done = 1 ∧ (∀ k, k < 6 → (t.dev.stack k).selfRef = false) ∧
    d.glb.dprAt + nsCyc 50000 ≤ t.dev.cyc ∧ t.hbm = s.chip.hbm))

/-- PERST lists nothing in HBM, returns every register field but the rail windows to its Reset value, and keeps MRAM and the flash.
RESET_RELEASE begins stage 1 with the recovery strap, once. DAWN_STAGE_END, no stop having happened, ends the stage in progress:
stage 1 locks the PLL and advances the boot counter, or marks its failure; its faults 1 to 3 stop Dawn, with GLB, BOOT, MON and
SEC released; stage 2 in recovery stops it with fault 4; stage 3 releases its blocks and lets configuration requests be answered;
stage 4 enables the controllers with every burst zero, or stops with faults 1 and 6; stage 5 without a flash directory stops with
fault 7; stage 6 takes the lane constants, marks failed lanes, and releases every block. Stages 1, 3, 4 and 6, where they
complete, record their end, no earlier than the time given. Of each of these forms, under the conditions given, the conclusion is
that exec answers a next state: perst, resetRelease, dawnStageEnd. (19_boot_security_monitor.md: Dawn stages (R506), release
(R507), faults (R508), persistent configuration (R521); 01_architecture.md: Cold reset (R25); 13_time_and_sundial.md: Boot counter
(R381).) -/
def Obligations.DawnStages : Prop :=
  (∀ (s : State) (d : Dev) (power : Bool), s.chip.dev = d → Gives (.perst power) s fun t => t.hbm = [] ∧ t.dev.mram = d.mram ∧
    t.dev.boot.flash = d.boot.flash ∧ t.dev.boot.relAt = none ∧ t.dev.pkts = [] ∧ t.dev.fab.released = [] ∧
    t.dev.tmp.trip = (d.tmp.trip && !power) ∧ ∀ f i j, f.blk ≠ .tmp → i < (blkRow f.blk).inst → f.off + f.step * j + 4 ≤ 4096 * (blkRow f.blk).pages →
      f.lo < 32 → t.dev.get f i j = f.reset j) ∧
  (∀ (s : State) (d : Dev) (rcv : Bool), s.chip.dev = d →
    (d.boot.relAt = none → Gives (.resetRelease rcv) s fun t => t.dev.boot.relAt = some d.cyc ∧ t.dev.boot.rcv = rcv ∧
      t.dev.get BOOT.STAT.Stage = 1 ∧ t.dev.get BOOT.STAT.Recovery = b2n rcv) ∧
    (d.boot.relAt ≠ none → Gives (.resetRelease rcv) s fun t => t = s.chip)) ∧
  (∀ (s : State) (d : Dev) (us fault info t0 st : Nat) (cf : Bool) (cal : List (Nat × Nat × Nat × Nat × Nat × Nat))
    (lanes : List (Nat × Nat × Nat)) (failed : List Nat) (i : Instr), s.chip.dev = d → d.boot.relAt = some t0 → d.boot.stopped = false →
    i = .dawnStageEnd us fault info cf cal lanes failed → d.get BOOT.STAT.Stage = st →
    ((st = 1 ∧ fault = 0) ∨ st = 3 ∨ (st = 4 ∧ fault = 0) ∨ st = 6 → Gives i s fun t => t0 + us * 1250 ≤ t.dev.cyc ∧
      t.dev.get BOOT.STAGE_US.Us 0 (st - 1) = (t.dev.cyc - t0) / 1250 % 2 ^ BOOT.STAGE_US.Us.w) ∧
    (st = 1 → fault = 0 → Gives i s fun t => t.dev.get BOOT.STAT.Stage = 2 ∧ t.dev.pllAt = some t.dev.cyc ∧
      t.dev.mram.boot = d.mram.boot + (if cf = true then 0 else 1) ∧ (cf = false → t.dev.sdl.bootOk = true) ∧
      (cf = true → t.dev.get BOOT.STAT.BootCounterFail = 1) ∧ t.dev.mram.attest ≠ none) ∧
    (st = 1 → 1 ≤ fault → fault ≤ 3 → Gives i s fun t => t.dev.boot.stopped = true ∧ t.dev.get BOOT.STAT.Stage = 1 ∧
      t.dev.get BOOT.STAT.Fault = fault ∧ t.dev.get BOOT.STAT.FaultInfo = info % 256 ∧ ∀ b ∈ stopBlocks, b ∈ t.dev.fab.released) ∧
    (st = 2 → d.boot.rcv = true → Gives i s fun t => t.dev.boot.stopped = true ∧ t.dev.get BOOT.STAT.Stage = 2 ∧
      t.dev.get BOOT.STAT.Fault = 4 ∧ t.dev.boot.hostUp = true ∧ ∀ b ∈ stopBlocks, b ∈ t.dev.fab.released) ∧
    (st = 3 → Gives i s fun t => t.dev.get BOOT.STAT.Stage = 4 ∧ t.dev.boot.hostUp = true ∧ t.dev.boot.pcfg = d.mram.pcfg ∧
      (∀ b ∈ stage3Blocks, b ∈ t.dev.fab.released ∧ t.dev.flag (HDR.CTL.Enable b) = true) ∧ t.hbm = s.chip.hbm) ∧
    (st = 4 → fault = 0 → Gives i s fun t => t.dev.get BOOT.STAT.Stage = 5 ∧ t.hbm = [] ∧
      ∀ k, k < 6 → t.dev.flag (HDR.CTL.Enable .hbc) k = true) ∧
    (st = 4 → fault = 1 ∨ fault = 6 → Gives i s fun t => t.dev.boot.stopped = true ∧ t.dev.get BOOT.STAT.Stage = 4 ∧
      t.dev.get BOOT.STAT.Fault = fault ∧ t.hbm = s.chip.hbm) ∧
    (st = 5 → d.flashDir.1 = none → Gives i s fun t => t.dev.boot.stopped = true ∧ t.dev.get BOOT.STAT.Stage = 5 ∧
      t.dev.get BOOT.STAT.Fault = 7 ∧ t.dev.get BOOT.STAT.FaultInfo = 0) ∧
    (st = 6 → Gives i s fun t => t.dev.get BOOT.STAT.Stage = 7 ∧ (∀ b, stage3Blocks.contains b = false → b ∈ t.dev.fab.released) ∧
      t.dev.get TIM.CAL_GEN.Generation = 0 ∧ (∀ l ∈ failed, l < 128 → bit (t.dev.get BOOT.LANE_FAIL.Lanes 0 (l / 32)) (l % 32) = true) ∧
      (failed ≠ [] → t.dev.get BOOT.STAT.LaneFail = 1)))

/-- For a function whose writes BOOT accepts: the three flash commands start their operation at FLASH_ADDR, or are discarded while one
runs. FLASH_DONE of a read fills the buffer; of a program in time it leaves in the page the old bytes with the buffer's zeros; of
an erase it leaves 64 KiB of ones; other bytes stay; a late one sets Error (what it leaves is free). FLOOR_RAISE raises the floor
to the lower running version where SEC accepts it. STORE_GO checks the image and empties the slot, or is refused without touching
it; STORE_DONE stores it, with the result. PCFG_COMMIT of a valid record starts, and of another sets Refused; PCFG_COMMIT_DONE
puts it in the slot opposite the latest, or leaves both after a bad read-back; PCFG_RELOAD loads the record in force next.
DBG_SUBMIT opens the token's scopes, or is refused with its reason, and the nonce is drawn afresh. TRNG_TESTS_PASS lets draws be
served again. Of each of these forms, under the conditions given, the conclusion is that exec answers a next state: flashRead,
flashProgram, flashErase, flashDone, floorRaise, storeGo, storeDone, pcfgCommit, pcfgReload, pcfgCommitDone, dbgSubmit,
trngTestsPass. (19_boot_security_monitor.md: Firmware floor (R513), flash (R514), image stores (R515), MRAM writes (R519, R520),
persistent configuration (R521), debug unlock (R522, R523); 18_errors_and_injection.md: TRNG tests (R495).) -/
def Obligations.BootStores : Prop :=
  (∀ (s : State) (d : Dev) (fn op : Nat) (i : Instr), s.chip.dev = d → d.opens fn .boot 0 = true →
    (i, op) ∈ [(Instr.flashRead fn, 1), (.flashProgram fn, 2), (.flashErase fn, 3)] → Gives i s fun t => t.dev.boot.flash = d.boot.flash ∧
      (d.boot.op = none → t.dev.boot.op = some (op, d.get BOOT.FLASH_ADDR.Addr) ∧ t.dev.get BOOT.FLASH_STAT.Busy = 1) ∧
      (d.boot.op ≠ none → t.dev.boot = d.boot ∧
        t.dev.get HIF.BAR_MISS_CNT.Count = (d.get HIF.BAR_MISS_CNT.Count + 1) % 2 ^ HIF.BAR_MISS_CNT.Count.w)) ∧
  (∀ (s : State) (d : Dev) (op a b : Nat), s.chip.dev = d → d.boot.op = some (op, a) →
    d.boot.stopped = true ∨ (d.get BOOT.STAT.Stage ≠ 2 ∧ d.get BOOT.STAT.Stage ≠ 5) →
    (op = 1 → Gives (.flashDone false) s fun t => t.dev.boot.op = none ∧ t.dev.get BOOT.FLASH_STAT.Done = 1 ∧
      t.dev.get BOOT.FLASH_STAT.Busy = 0 ∧ t.dev.boot.flash = d.boot.flash ∧
      ∀ k, k < 64 → t.dev.get BOOT.FLASH_BUF.Buf 0 k = ofLE (d.flashB (a + 4 * k) 4)) ∧
    (op = 2 → a % 2 ^ 24 / 256 * 256 = b → Gives (.flashDone false) s fun t => t.dev.boot.op = none ∧ t.dev.get BOOT.FLASH_STAT.Done = 1 ∧
      (∀ i, i < 256 → Tab.get 255 t.dev.boot.flash (b + i) =
        bits (d.get BOOT.FLASH_BUF.Buf 0 (i / 4)) (8 * (i % 4)) 8 &&& (Tab.get 255 d.boot.flash (b + i) % 256)) ∧
      ∀ y, y < b ∨ b + 256 ≤ y → Tab.get 255 t.dev.boot.flash y = Tab.get 255 d.boot.flash y) ∧
    (op = 3 → a % 2 ^ 24 / 65536 * 65536 = b → Gives (.flashDone false) s fun t => t.dev.boot.op = none ∧ t.dev.get BOOT.FLASH_STAT.Done = 1 ∧
      (∀ i, i < 65536 → Tab.get 255 t.dev.boot.flash (b + i) = 255) ∧
      ∀ y, y < b ∨ b + 65536 ≤ y → Tab.get 255 t.dev.boot.flash y = Tab.get 255 d.boot.flash y) ∧
    (op = 2 ∨ op = 3 → Gives (.flashDone true) s fun t => t.dev.boot.op = none ∧ t.dev.get BOOT.FLASH_STAT.Error = 1)) ∧
  (∀ (s : State) (d : Dev) (fn v : Nat), s.chip.dev = d → d.opens fn .boot 0 = true →
    min (d.get BOOT.SECVER.Monitor) (d.get BOOT.SECVER.Firmware) = v → Gives (.floorRaise fn) s fun t =>
      t.dev.mram.fwFloor = if d.mram.fwFloor < v ∧ d.mramOpen 0 = true then v else d.mram.fwFloor) ∧
  (∀ (s : State) (d : Dev) (fn slot k n : Nat) (image img : List Byte) (err : Bool), s.chip.dev = d → d.opens fn .boot 0 = true →
    slot % 8 = k → d.get BOOT.STORE_LEN.Length = n → sliceB image 0 n = img → d.boot.storing = none →
    (d.mramOpen (2 + k) = false → Gives (.storeGo fn slot image err) s fun t => t.dev.boot.storing = some (k, img, 7) ∧ t.dev.mram = d.mram) ∧
    (∀ r, d.mramOpen (2 + k) = true → r = (if n = 0 then 0 else if 786432 < n then 1 else if err = true then 8 else d.imageCheck img) →
      Gives (.storeGo fn slot image err) s fun t => t.dev.boot.storing = some (k, img, r) ∧ t.dev.get BOOT.STORE_STAT.Busy = 1 ∧
        t.dev.mram.images = (if r = 0 then Tab.del d.mram.images k else d.mram.images))) ∧
  (∀ (s : State) (d : Dev) (k r : Nat) (img : List Byte) (bad : Bool), s.chip.dev = d → d.boot.storing = some (k, img, r) →
    Gives (.storeDone bad) s fun t => t.dev.boot.storing = none ∧ t.dev.get BOOT.STORE_STAT.Busy = 0 ∧ t.dev.get BOOT.STORE_STAT.Done = 1 ∧
      t.dev.get BOOT.STORE_STAT.Result = (if r ≠ 0 then r % 16 else if bad = true then 13 else 0) ∧
      t.dev.mram.images = (if r = 0 ∧ bad = false ∧ img ≠ [] then Tab.set d.mram.images k img else d.mram.images)) ∧
  (∀ (s : State) (d : Dev) (fn : Nat), s.chip.dev = d → d.opens fn .boot 0 = true →
    (pcfgOk d.pcfgCopy = true → d.boot.commit = none → d.mramOpen 1 = true → Gives (.pcfgCommit fn) s fun t =>
      t.dev.boot.commit = some d.pcfgCopy ∧ t.dev.get BOOT.PCFG_STAT.Busy = 1 ∧ t.dev.mram = d.mram) ∧
    (pcfgOk d.pcfgCopy = false → Gives (.pcfgCommit fn) s fun t => t.dev.boot = d.boot ∧ t.dev.get BOOT.PCFG_STAT.Refused = 1 ∧
      t.dev.mram = d.mram) ∧
    (Gives (.pcfgReload fn) s fun t => t.dev.mram = d.mram ∧
      ∀ k, k < 64 → t.dev.get BOOT.PCFG.Record 0 k = ofLE (sliceB d.mram.pcfg (4 * k) 4))) ∧
  (∀ (s : State) (d : Dev) (r : List Byte), s.chip.dev = d → d.boot.commit = some r →
    Gives (.pcfgCommitDone false) s (fun t => t.dev.boot.commit = none ∧ t.dev.get BOOT.PCFG_STAT.Done = 1 ∧
      t.dev.get BOOT.PCFG_STAT.Busy = 0 ∧
      (d.mram.pcfgLast = 1 → t.dev.mram.pcfgA = r ∧ t.dev.mram.pcfgB = d.mram.pcfgB ∧ t.dev.mram.pcfgLast = 0) ∧
      (d.mram.pcfgLast ≠ 1 → t.dev.mram.pcfgB = r ∧ t.dev.mram.pcfgA = d.mram.pcfgA ∧ t.dev.mram.pcfgLast = 1)) ∧
    Gives (.pcfgCommitDone true) s (fun t => t.dev.boot.commit = none ∧ t.dev.get BOOT.PCFG_STAT.Refused = 1 ∧ t.dev.mram = d.mram)) ∧
  (∀ (s : State) (d : Dev) (fn why : Nat) (tok : List Byte), s.chip.dev = d → d.opens fn .sec 0 = true → d.sec.stopped = false →
    d.sec.trngBad = false → (List.range 32).flatMap (fun k => toLE 4 (d.get SEC.DBG_TOKEN.Token 0 k)) = tok → d.tokenReason tok = why →
    Gives (.dbgSubmit fn) s fun t => t.dev.get SEC.DBG_NONCE.Nonce = (Dev.draw 2 d).1 % 2 ^ 64 ∧
      (why = 0 → t.dev.get SEC.DBG_STAT.Scope = (d.get SEC.DBG_STAT.Scope ||| le tok 6 2) % 8) ∧
      (why ≠ 0 → t.dev.get SEC.DBG_STAT.Refused = 1 ∧ t.dev.get SEC.DBG_STAT.Reason = why ∧
        t.dev.get SEC.DBG_STAT.Scope = d.get SEC.DBG_STAT.Scope)) ∧
  (∀ (s : State), Gives .trngTestsPass s fun t => t.dev.sec.trngBad = false ∧ t.dev.sec.stopped = s.chip.dev.sec.stopped)

/-- A write of one word of BAR0 that a reachable function may write, which starts no command and which no rule of its block refuses,
of an instance released and not in reset: no HBM changes; without a staged field in the word, an RW or RWS field of at most 32
bits takes its bits of the value, an RW1C one loses the bits written 1, and an RO or RC one stays, nothing else of the device
changing but counters, messages, and what TIME_QUAL keeps of the quality before it and ANCHOR_CFG sets of the anchors' period (log
entry 126); a wide RW field takes both words when its upper word follows its lower one; a staged field within the block's capacity
shows the value and waits in staging, what acts staying the same, and beyond it nothing is staged. A word of the vector table
takes the data word. A write to an unreachable function or beyond the BAR is an Unsupported Request; one that is misaligned,
shorter than a word or longer than 64 bytes, or of a word that is reserved or in reset, is discarded and counted as a miss; one
without permission is discarded, counted and recorded. Of each of these forms, under the conditions given, the conclusion is that
exec answers a next state: registerWrite. (02_register_model.md: Access (R32), the header (R34, R35), permissions (R39, R40),
split registers (R45), staging (R46); 01_architecture.md: Access codes (R8); 14_host_interface.md: MSI-X (R400), VFs (R396).) -/
def Obligations.RegisterWrites : Prop :=
  (∀ (s : State) (d e : Dev) (fn addr v i off : Nat) (b : Blk) (data : List Byte) (host : Option (List Byte)), s.chip.dev = d →
    d.request fn = e → d.wordOpen fn addr b i off → e.mayWrite fn b i off = true → data.length = 4 → ofLE data = v →
    e.plainWord b i off v host → ((wordRows b off).map fun x => x.1.fld.key i x.2).Nodup →
    ((∀ x ∈ wordRows b off, x.1.staged = true → b = .l2t) → Gives (.registerWrite fn 0 addr data host) s fun t => t.hbm = s.chip.hbm ∧
      ((∀ x ∈ wordRows b off, x.1.fld.w ≤ 32) → t.dev.beside =
        { d with tim := { d.tim with past := t.dev.tim.past }, sdl := { d.sdl with anchorDue := t.dev.sdl.anchorDue } }.beside ∧
        (b = .tim ∧ off = TIM.TIME_QUAL.Quality.off ∨ t.dev.tim = d.tim) ∧ (b = .sdl ∧ off = SDL.ANCHOR_CFG.Period.off ∨ t.dev.sdl = d.sdl)) ∧
      ∀ r j, (r, j) ∈ wordRows b off →
        (r.fld.w ≤ 32 → r.acc = .rw ∨ r.acc = .rws → t.dev.get r.fld i j = r.fld.taken j off v) ∧
        (r.fld.w ≤ 32 → r.acc = .rw1c → e.get r.fld i j < 2 ^ r.fld.w → t.dev.get r.fld i j = e.get r.fld i j - (e.get r.fld i j &&& r.fld.taken j off v)) ∧
        (r.acc = .ro ∨ r.acc = .ros ∨ r.acc = .rc → t.dev.get r.fld i j = e.get r.fld i j) ∧
        (∀ lo, 32 < r.fld.w → r.acc = .rw ∨ r.acc = .rws → (∀ x ∈ wordRows b off, 32 < x.1.fld.w → x = (r, j)) → 8 * off ≠ r.fld.start j → Tab.find d.fab.hold (b.base i + off - 4) = some lo →
          t.dev.get r.fld i j = (lo + 2 ^ 32 * v) % 2 ^ r.fld.w)) ∧
    (∀ r j m k cap, b ≠ .l2t → (wordRows b off).filter (fun x => x.1.staged) = [(r, j)] → stageOf b i = (m, k, cap) →
      Gives (.registerWrite fn 0 addr data host) s fun t => t.hbm = s.chip.hbm ∧ t.dev.act = d.act ∧
        (d.stgUsed m k + 1 ≤ cap → t.dev.get r.fld i j = r.fld.taken j off v ∧
          t.dev.stg = d.stg ++ [⟨m, k, 1, .reg (r.fld.key i j) (r.fld.taken j off v)⟩]) ∧
        (cap < d.stgUsed m k + 1 → t.dev.stg = d.stg ∧ m ∈ t.dev.overflow))) ∧
  (∀ (s : State) (d : Dev) (fn bar addr : Nat) (data : List Byte) (host : Option (List Byte)), s.chip.dev = d →
    (d.reachable fn = false ∨ hasBar fn bar = false ∨ barLen fn bar < addr + data.length →
      Gives (.registerWrite fn bar addr data host) s fun t => t.dev = (d.request fn).emit (.unsupported fn) ∧ t.hbm = s.chip.hbm) ∧
    (d.reachable fn = true → hasBar fn bar = true → addr + data.length ≤ barLen fn bar →
      (data.length < 4 ∨ addr % 4 ≠ 0 ∨ 64 < data.length ∨ (bar = 0 ∧ data.length = 4 ∧ (locate addr = none ∨
        ∃ b i off, locate addr = some (b, i, off) ∧ (known b off = false ∨ 0x200 ≤ off ∧ d.live b i = false))) →
        Gives (.registerWrite fn bar addr data host) s fun t => t.dev.beside = d.beside ∧ t.hbm = s.chip.hbm ∧
          t.dev.get HIF.BAR_MISS_CNT.Count = (d.get HIF.BAR_MISS_CNT.Count + 1) % 2 ^ HIF.BAR_MISS_CNT.Count.w) ∧
      (∀ b i off, bar = 0 → data.length = 4 → addr % 4 = 0 → locate addr = some (b, i, off) → known b off = true →
        off < 0x200 ∨ d.live b i = true → d.mayWrite fn b i off = false →
        Gives (.registerWrite fn bar addr data host) s fun t => t.dev.unposted = d.unposted ∧ t.hbm = s.chip.hbm ∧
          t.dev.get HIF.VF_DENY_CNT.Count = (d.get HIF.VF_DENY_CNT.Count + 1) % 2 ^ HIF.VF_DENY_CNT.Count.w ∧
          t.dev.get HIF.DENY_LAST_ADDR.Address = addr % 2 ^ HIF.DENY_LAST_ADDR.Address.w ∧
          t.dev.get HIF.DENY_LAST_FN.Function = fn % 128) ∧
      (∀ n, bar = 4 → n < vectors fn → addr = 16 * n + 8 → data.length = 4 →
        Gives (.registerWrite fn bar addr data host) s fun t => (t.dev.vec fn n).data = ofLE data ∧ t.hbm = s.chip.hbm)))

/-- A read of one word of BAR0 that a reachable function may read, of an instance released and not in reset, in a block without reads
of its own (not ERR, EVQ queues, FTB, TIM or PMC) and without write-only fields, answers the word made of its fields' values, each
in its place, and changes nothing else where no field of it clears on reading; a field that does, whose top bit the word holds, is
0 after, or, where it keeps the highest or the lowest number since the last read, that number now (HighWater of RSQ.HWM, RUU.QHWM,
FSC.LVL_HWM, FEN.JRN_HWM and HIF.TAGS, BSN.FREE_LOW, Low of CPM.POOL; the clearing to the present is the model's reading, log
entry 13). A word of the vector table answers its data. A read to an unreachable function or beyond the BAR is an Unsupported
Request; one misaligned or longer than 64 bytes answers zeros and counts as a miss, as does one of a word reserved or in reset;
one without permission answers zeros, is counted and recorded. Of each of these forms, under the conditions given, the conclusion
is that exec answers a next state: registerRead. (02_register_model.md: Access (R32), the header (R35), permissions (R39, R40);
01_architecture.md: Access codes (R8); 14_host_interface.md: MSI-X (R400), VFs (R396).) -/
def Obligations.RegisterReads : Prop :=
  (∀ (s : State) (d e : Dev) (fn addr i off : Nat) (b : Blk), s.chip.dev = d → d.request fn = e → d.wordOpen fn addr b i off →
    e.mayRead fn b i off = true → b ≠ .err → b ≠ .evp → b ≠ .ftb → b ≠ .tim → b ≠ .pmc → (∀ x ∈ wordRows b off, x.1.acc ≠ .wo) →
    Gives (.registerRead fn 0 addr 4) s fun t => t.hbm = s.chip.hbm ∧
      t.dev.lastRead = some (.readData fn
        (toLE 4 ((wordRows b off).map fun x => x.1.fld.place x.2 off (e.view x.1.fld i x.2)).sum)) ∧
      ((∀ x ∈ wordRows b off, x.1.acc ≠ .rc) → t.dev.beside = d.beside ∧ t.dev.regs = e.regs) ∧
      (((wordRows b off).map fun x => x.1.fld.key i x.2).Nodup → ∀ r j, (r, j) ∈ wordRows b off → r.acc = .rc →
        r.fld.start j + r.fld.w ≤ 8 * off + 32 →
        (r.fld ∉ [BSN.FREE_LOW.FreeLow, CPM.POOL.Low, RSQ.HWM.HighWater, RUU.QHWM.HighWater, FSC.LVL_HWM.HighWater, FEN.JRN_HWM.HighWater,
          HIF.TAGS.HighWater] → t.dev.get r.fld i j = 0) ∧
        (r.fld = RSQ.HWM.HighWater → t.dev.get r.fld i j = e.get RSQ.STAT.Used i % 2 ^ r.fld.w) ∧
        (r.fld = RUU.QHWM.HighWater → t.dev.get r.fld i j = e.get RUU.QSTAT.Used i % 2 ^ r.fld.w) ∧
        (r.fld = FSC.LVL_HWM.HighWater → t.dev.get r.fld i j = e.get FSC.LVL_STAT.Waiting i j % 2 ^ r.fld.w) ∧
        (r.fld = FEN.JRN_HWM.HighWater → t.dev.get r.fld i j =
          ((e.threads.filter fun x => x.1 / 256 == i).foldl (fun n x => max n x.2.journal.length) 0) % 2 ^ r.fld.w) ∧
        (r.fld = HIF.TAGS.HighWater → t.dev.get r.fld i j = e.get HIF.TAGS.InUse % 2 ^ r.fld.w) ∧
        (r.fld = BSN.FREE_LOW.FreeLow → t.dev.bsn.freeLow = e.freeCells) ∧
        (r.fld = CPM.POOL.Low → Tab.find t.dev.cpm.low j = some (e.poolFree' j)))) ∧
  (∀ (s : State) (d : Dev) (fn bar addr len : Nat), s.chip.dev = d →
    (d.reachable fn = false ∨ hasBar fn bar = false ∨ barLen fn bar < addr + len →
      Gives (.registerRead fn bar addr len) s fun t => t.dev = (d.request fn).emit (.unsupported fn) ∧ t.hbm = s.chip.hbm) ∧
    (d.reachable fn = true → hasBar fn bar = true → addr + len ≤ barLen fn bar →
      (addr % 4 ≠ 0 ∨ 64 < len ∨ (bar = 0 ∧ len = 4 ∧ (locate addr = none ∨
        ∃ b i off, locate addr = some (b, i, off) ∧ (known b off = false ∨ 0x200 ≤ off ∧ d.live b i = false))) →
        Gives (.registerRead fn bar addr len) s fun t => t.dev.beside = d.beside ∧ t.hbm = s.chip.hbm ∧
          t.dev.lastRead = some (.readData fn (List.replicate len 0)) ∧
          t.dev.get HIF.BAR_MISS_CNT.Count = (d.get HIF.BAR_MISS_CNT.Count + 1) % 2 ^ HIF.BAR_MISS_CNT.Count.w) ∧
      (∀ b i off, bar = 0 → len = 4 → addr % 4 = 0 → locate addr = some (b, i, off) → known b off = true →
        off < 0x200 ∨ d.live b i = true → d.mayRead fn b i off = false →
        Gives (.registerRead fn bar addr len) s fun t => t.dev.unposted = d.unposted ∧ t.hbm = s.chip.hbm ∧
          t.dev.lastRead = some (.readData fn [0, 0, 0, 0]) ∧
          t.dev.get HIF.VF_DENY_CNT.Count = (d.get HIF.VF_DENY_CNT.Count + 1) % 2 ^ HIF.VF_DENY_CNT.Count.w ∧
          t.dev.get HIF.DENY_LAST_ADDR.Address = addr % 2 ^ HIF.DENY_LAST_ADDR.Address.w ∧
          t.dev.get HIF.DENY_LAST_FN.Function = fn) ∧
      (∀ n, bar = 4 → n < vectors fn → addr = 16 * n + 8 → len = 4 →
        Gives (.registerRead fn bar addr len) s fun t => t.dev.lastRead = some (.readData fn (toLE 4 (d.vec fn n).data)) ∧
          t.hbm = s.chip.hbm)))

/-- While the monitor takes the command that the ended line spells: `help` names exactly the commands of the level, `help` of a name
prints its syntax or ERR 2, `ver` the ROM, monitor and firmware versions and each cluster's, `id` serial, key hash, boot counter
and KEY_SERIAL, `dawn` the stage, fault and stage times, `temp` the die and the six stacks, `port` every configured port or one,
ERR 1 for one that is not, `log n` the last n log entries, `cert n` a certificate 32 bytes a line, or ERR 1, `mram` the boot
counter, the ledger certificates, every slot and the floors, `logout` sets Level 0, `unlock` prints the nonce, and with a token
submits it, ERR 6 if refused and its scope if not. Each answers with data lines, one final line and one prompt. A malformed line
or an unknown name answers ERR 1 or 2. A command above the level answers ERR 3, and one that HostLock stops ERR 5, with nothing
else of the device touched but the monitor, counters and messages. The layout of the data lines is the model's (log entry 66). Of
each of these forms, under the conditions given, the conclusion is that exec answers a next state: monHelp, monVer, monId,
monDawn, monTemp, monPort, monLog, monCert, monMram, monLogout, monUnlock, monUnknownCommand, monRd, monFence, monFloor,
monResetDp, monResetChip, monCoreHalt, monHbmRead, monWr, monBaud, monCoreResume. (19_boot_security_monitor.md: Lines and answers
(R526), commands (R527), debug unlock (R522); 18_errors_and_injection.md: Log (R502).) -/
def Obligations.MonitorPrints : Prop :=
  (∀ (s : State) (d e : Dev), s.chip.dev = d → d.count .mon 0 0x230 = e →
    (d.monTakes (.help none) → Gives .monHelp s fun t => ∃ ls, t.dev.answered e.out ls 0 ∧
      ∀ n l x, (n, l, x) ∈ monTable → (str n ∈ ls ↔ l ≤ d.get MON.STAT.Level)) ∧
    (∀ w, d.monTakes (.help (some w)) → ((∀ x ∈ monTable, str x.1 ≠ w) → Gives .monHelp s fun t => t.dev.answered e.out [] 2) ∧
      ∀ n l x, (n, l, x) ∈ monTable → str n = w → Gives .monHelp s fun t => t.dev.answered e.out [str x] 0) ∧
    (d.monTakes .ver → Gives .monVer s fun t => ∃ ls, t.dev.answered e.out ls 0 ∧ ls.length = 19 ∧
      str "rom " ++ verText Config.romVersion.toNat ∈ ls ∧ str "monitor " ++ verText (d.get BOOT.FW_VER.Monitor) ∈ ls ∧
      str "firmware " ++ verText (d.get BOOT.MGMT_VER.Firmware) ∈ ls ∧
      ∀ k, k < 16 → str "ucs" ++ dec k ++ str " " ++ hexText 4 (d.get UCS.VERSION.Version k) ∈ ls) ∧
    (d.monTakes .ident → Gives .monId s fun t => ∃ ls, t.dev.answered e.out ls 0 ∧ ls.length = 4 ∧
      str "serial " ++ hexGroups 4 Config.serial.toNat ∈ ls ∧ str "boot " ++ dec d.mram.boot ∈ ls ∧
      str "key " ++ hexBytes (sha384 (brainpool.pub Config.identityKey)) ∈ ls ∧
      str "ledger " ++ dec (d.get SDL.KEY_SERIAL.Serial) ∈ ls) ∧
    (d.monTakes .dawn → Gives .monDawn s fun t => ∃ ls, t.dev.answered e.out ls 0 ∧
      str "stage " ++ dec (d.get BOOT.STAT.Stage) ∈ ls ∧ str "fault " ++ dec (d.get BOOT.STAT.Fault) ∈ ls ∧
      (∀ k, k < 6 → str "stage " ++ dec (k + 1) ++ str " " ++ dec (d.get BOOT.STAGE_US.Us 0 k) ∈ ls) ∧
      str "dir " ++ hexText 2 (d.get BOOT.DIR_USED.Entries) ∈ ls) ∧
    (d.monTakes .temp → Gives .monTemp s fun t => ∃ ls, t.dev.answered e.out ls 0 ∧ ls.length = 7 ∧
      str "die " ++ decInt (sint 10 (d.get TMP.DIE_MAX.DieMax)) ∈ ls ∧
      ∀ k, k < 6 → str "hbm" ++ dec k ++ str " " ++ decInt (sint 8 (d.get HBC.TEMP_STAT.Case k)) ++ str " " ++
        dec (d.get HBC.TEMP_STAT.Hot k) ++ str " " ++ dec (d.get HBC.TEMP_STAT.Derate k) ∈ ls)) ∧
  (∀ (s : State) (d e : Dev), s.chip.dev = d → d.count .mon 0 0x230 = e →
    (∀ p, d.monTakes (.port (some p)) → ((d.portMode p).1 = 0 → Gives .monPort s fun t => t.dev.answered e.out [] 1) ∧
      ((d.portMode p).1 ≠ 0 → Gives .monPort s fun t => t.dev.answered e.out [str "port " ++ dec p ++ str " " ++
        dec (d.port p).state ++ str " " ++ dec (b2n (d.port p).link) ++ str " " ++ dec (d.speed p)] 0)) ∧
    (d.monTakes (.port none) → Gives .monPort s fun t => ∃ ls, t.dev.answered e.out ls 0 ∧
      ∀ p, p < 128 → (d.portMode p).1 ≠ 0 → str "port " ++ dec p ++ str " " ++ dec (d.port p).state ++ str " " ++
        dec (b2n (d.port p).link) ++ str " " ++ dec (d.speed p) ∈ ls) ∧
    (∀ n pre (l : List LogEntry), d.monTakes (.log n) → d.err.log = pre ++ l → l.length = n ∨ l.length ≤ n ∧ pre = [] →
      Gives .monLog s fun t => t.dev.answered e.out (l.map fun x => hexBytes x.bytes) 0) ∧
    (∀ n, d.monTakes (.cert n) → (∀ c, n ≤ 2 ∧ d.cert n = c ∨ 2 < n ∧ Tab.find d.mram.ledgerCerts (n - 2) = some c →
        Gives .monCert s fun t => ∃ ls, t.dev.answered e.out ls 0 ∧ ls.flatten = hexBytes c ∧ ∀ l ∈ ls, l.length ≤ 64) ∧
      (2 < n → Tab.find d.mram.ledgerCerts (n - 2) = none → Gives .monCert s fun t => t.dev.answered e.out [] 1)) ∧
    (d.monTakes .mram → Gives .monMram s fun t => ∃ ls, t.dev.answered e.out ls 0 ∧ str "boot " ++ dec d.mram.boot ∈ ls ∧
      str "anchor " ++ dec (d.get SDL.ANCHOR_SEQ.Seq) ∈ ls ∧ str "certs " ++ dec d.mram.ledgerCerts.length ∈ ls ∧
      (∀ k, k < 8 → (Tab.find d.mram.images k = none → str "slot " ++ dec k ++ str " " ++ str "empty" ∈ ls) ∧
        ∀ f, Tab.find d.mram.images k = some f → str "slot " ++ dec k ++ str " " ++ verText (le f 8 4) ∈ ls) ∧
      str "floor vendor " ++ dec d.mram.vendorFloor ∈ ls ∧ str "floor customer " ++ dec d.mram.custFloor ∈ ls ∧
      str "floor fw " ++ dec d.mram.fwFloor ∈ ls) ∧
    (d.monTakes .logout → Gives .monLogout s fun t => t.dev.answered e.out [] 0 ∧ t.dev.get MON.STAT.Level = 0) ∧
    (d.monTakes (.unlock none) → Gives .monUnlock s fun t => t.dev.answered e.out [hexText 4 (d.get SEC.DBG_NONCE.Nonce)] 0) ∧
    (∀ tok why, d.monTakes (.unlock (some tok)) → d.sec.stopped = false → d.sec.trngBad = false → d.tokenReason tok = why →
      Gives .monUnlock s fun t => ∃ pre, (why = 0 → t.dev.answered pre [str "scope " ++ dec (le tok 6 2)] 0 ∧
          t.dev.get SEC.DBG_STAT.Scope = (d.get SEC.DBG_STAT.Scope ||| le tok 6 2) % 8) ∧
        (why ≠ 0 → t.dev.answered pre [] 6 ∧ t.dev.get SEC.DBG_STAT.Scope = d.get SEC.DBG_STAT.Scope ∧
          t.dev.get SEC.DBG_STAT.Reason = why))) ∧
  (∀ (s : State) (d : Dev) (l : List Byte), s.chip.dev = d → d.monRuns = true → d.mon.ask = 0 → d.mon.dp = none → d.mon.ready = some l →
    (∀ n, parseLine l = .error n → Gives .monUnknownCommand s fun t => t.dev.answered d.out [] n) ∧
    (∀ i cmd, (i, cmd) ∈ ([(.monRd, .rd 0x5200 1), (.monFence, .fence 0x5200), (.monFloor, .floor), (.monResetDp, .resetDp),
        (.monResetChip, .resetChip), (.monCoreHalt, .coreHalt 1), (.monHbmRead, .hbm 0 0 1)] : List (Instr × MonCmd)) →
      parseLine l = .ok cmd → d.get MON.STAT.Level < cmd.level → Gives i s fun t => t.dev.answered d.out [] 3 ∧
        t.hbm = s.chip.hbm ∧ { t.dev.beside with mon := d.mon } = d.beside) ∧
    (∀ i cmd, (i, cmd) ∈ ([(.monWr none, .wr 0x5240 1), (.monBaud, .baud 115200 false), (.monFloor, .floor), (.monResetDp, .resetDp),
        (.monResetChip, .resetChip), (.monCoreResume, .coreResume 1), (.monHbmRead, .hbm 0 0 1)] : List (Instr × MonCmd)) →
      parseLine l = .ok cmd → cmd.level ≤ d.get MON.STAT.Level → d.flag MON.CTL.HostLock = true →
      Gives i s fun t => t.dev.answered d.out [] 5 ∧ t.hbm = s.chip.hbm ∧ { t.dev.beside with mon := d.mon } = d.beside))

/-- A character other than a line's end or an erasing one joins the line, an erasing one removes the last, and CR ends the line; each
restarts the idle time and is echoed but at a password. `login` asks for the password unless refused; the right one raises the
level and clears the failures, a wrong one answers ERR 4 and counts, the third locking logins for 60 s and each further one for
twice as long, up to 3,600 s. IdleS seconds without input end in Observe. `rd` of a word prints address and value; `wr` of a plain
RW word sets it; `fence` prints WriteSeq; `baud` takes the rate after its answer; `floor fw` raises the floor as the register
does; `reset dp` starts a soft reset, ERR 7 while one runs, and ERR 8 after 1 ms; `reset chip` asks, and on y resets all but MRAM
and flash. `core` halts, resumes or prints a free word; `hbm` prints a word of the general region, ERR 6 outside it. The model
reads `rd`, `wr` and `hbm` as 32-bit words (log entry 66). Of each of these forms, under the conditions given, the conclusion is
that exec answers a next state: monInputCharacter, monLogin, monIdleTimeout, monResetDp, monResetChip, monRd, monWr, monFence,
monBaud, monFloor, monCoreHalt, monCoreResume, monCoreRd, monHbmRead. (19_boot_security_monitor.md: Characters (R526), levels and
logins (R525), commands (R527), HostLock (R528); 02_register_model.md: FENCE (R43); 18_errors_and_injection.md: Datapath soft
reset (R499).) -/
def Obligations.MonitorActs : Prop :=
  (∀ (s : State) (d : Dev), s.chip.dev = d → d.monRuns = true →
    (∀ ch, ch < 256 → Gives (.monInputCharacter ch) s fun t => t.dev.mon.inputAt = d.cyc ∧ t.dev.cyc = d.cyc ∧
      t.dev.out = d.out ++ (if d.mon.ask = 1 ∨ d.mon.ask = 2 then [] else [.uart [BitVec.ofNat 8 ch]]) ∧
      (ch = 8 ∨ ch = 127 → t.dev.mon.line = d.mon.line.dropLast ∧ t.dev.mon.ready = d.mon.ready) ∧
      (ch ≠ 8 → ch ≠ 127 → ch ≠ 10 → ch ≠ 13 → d.mon.line.length < 256 →
        t.dev.mon.line = d.mon.line ++ [BitVec.ofNat 8 ch] ∧ t.dev.mon.ready = d.mon.ready) ∧
      (ch = 13 → d.mon.ready = none → t.dev.mon.ready = some d.mon.line ∧ t.dev.mon.line = [])) ∧
    (∀ pw k n, d.mon.ready = some pw → d.mon.ask = k → k = 1 ∨ k = 2 → d.mon.fails = n →
      (sha384 (sliceB d.boot.pcfg 16 16 ++ pw) = d.passHash → Gives .monLogin s fun t => t.dev.answered d.out [] 0 ∧
        t.dev.get MON.STAT.Level = max k (d.get MON.STAT.Level) % 4 ∧ t.dev.mon.fails = 0 ∧ t.dev.mon.lockTo = none) ∧
      (sha384 (sliceB d.boot.pcfg 16 16 ++ pw) ≠ d.passHash → Gives .monLogin s fun t => ∃ pre, t.dev.answered pre [] 4 ∧
        t.dev.get MON.STAT.Level = d.get MON.STAT.Level ∧ t.dev.mon.fails = n + 1 ∧
        t.dev.get MON.LOGIN_FAIL.Count = (d.get MON.LOGIN_FAIL.Count + 1) % 65536 ∧
        (n < 2 → t.dev.mon.lockTo = none) ∧ (n = 2 → t.dev.mon.lockTo = some (d.cyc + 60 * secCyc)) ∧
        (2 < n → t.dev.mon.lockTo = some (d.cyc + min 3600 (2 * d.mon.wait) * secCyc)))) ∧
    (d.get MON.STAT.Level ≠ 0 → Gives .monIdleTimeout s fun t => t.dev.get MON.STAT.Level = 0 ∧
      d.mon.inputAt + secCyc * max 1 (d.get MON.CFG.IdleS) ≤ t.dev.cyc) ∧
    (∀ t0, d.mon.dp = some t0 → Gives .monResetDp s fun t => ∃ pre, t.dev.answered pre [] 8 ∧ t0 + msCyc ≤ t.dev.cyc) ∧
    (∀ l, d.mon.ready = some l → d.mon.ask = 3 →
      (l.map lower = str "y" → Gives .monResetChip s fun t => t.dev.mram = d.mram ∧ t.dev.boot.flash = d.boot.flash ∧ t.hbm = [] ∧
        t.dev.out = d.out ∧ t.dev.regs = Dev.reset.regs ∧ t.dev.cyc = 0) ∧
      (l.map lower ≠ str "y" → Gives .monResetChip s fun t => t.dev.answered d.out [] 0 ∧ t.hbm = s.chip.hbm))) ∧
  (∀ (s : State) (d e : Dev), s.chip.dev = d → d.count .mon 0 0x230 = e →
    (d.monTakes (.login false) → (ofLE d.passHash ≠ 0 → d.lockedOut = false → Gives .monLogin s fun t => t.dev.mon.ask = 1 ∧
        t.dev.mon.ready = none ∧ t.dev.out = e.out ++ [.uart (str "password:")]) ∧
      (ofLE d.passHash = 0 ∨ d.lockedOut = true → Gives .monLogin s fun t => t.dev.answered e.out [] 4 ∧ t.dev.mon.fails = d.mon.fails)) ∧
    (∀ a i off v b, d.monTakes (.rd a 1) → d.wordOpen 128 a b i off → e.read0 128 a = (e, v) →
      Gives .monRd s fun t => t.dev.answered e.out [hexText 2 a ++ str " " ++ hexText 2 v] 0 ∧ t.hbm = s.chip.hbm) ∧
    (∀ a v i off b r j host, d.monTakes (.wr a v) → d.wordOpen 128 a b i off → e.mayWrite 128 b i off = true →
      e.plainWord b i off v host → wordRows b off = [(r, j)] → r.staged = false → r.acc = .rw ∨ r.acc = .rws → r.fld.w ≤ 32 →
      r.fld.blk = b → b ≠ .mon → Gives (.monWr host) s fun t => t.dev.answered e.out [] 0 ∧ t.hbm = s.chip.hbm ∧
        t.dev.get r.fld i j = r.fld.taken j off v) ∧
    (∀ a i off b, d.monTakes (.fence a) → locate a = some (b, i, off) → d.opPending b i = false → Gives .monFence s fun t =>
      t.dev.answered e.out [str "seq " ++ dec (d.get (HDR.FENCE.WriteSeq b) i % 65536) ++ str " stall " ++
        dec (d.get (HDR.FENCE.WriteSeq b) i / 2 ^ 31)] 0 ∧ t.dev.cyc = d.cyc) ∧
    (∀ r, d.monTakes (.baud r false) → Gives .monBaud s fun t => t.dev.answered e.out [] 0 ∧ t.dev.mon.baud = baudRates.idxOf r) ∧
    (d.monTakes .floor → (d.mramOpen 0 = true ∨ min (d.get BOOT.SECVER.Monitor) (d.get BOOT.SECVER.Firmware) ≤ d.mram.fwFloor →
      d.live .boot 0 = true → Gives .monFloor s fun t =>
        (∃ pre, t.dev.answered pre [] 0) ∧ t.dev.mram.fwFloor = (e.raiseFw).mram.fwFloor)) ∧
    (d.monTakes .resetDp → (d.glb.dpr ≠ .idle → Gives .monResetDp s fun t => t.dev.answered e.out [] 7) ∧
      (d.glb.dpr = .idle → d.glb.hold ≠ 1 → d.live .glb 0 = true → Gives .monResetDp s fun t => t.dev.mon.dp = some d.cyc ∧
        t.dev.mon.ready = none ∧ t.dev.glb.dpr = .begun)) ∧
    (d.monTakes .resetChip → Gives .monResetChip s fun t => t.dev.mon.ask = 3 ∧ t.dev.mon.ready = none ∧ t.hbm = s.chip.hbm ∧
      t.dev.out = e.out ++ [.uart (str "confirm (y/n)")]) ∧
    (∀ k, d.monTakes (.coreHalt k) → Gives .monCoreHalt s fun t => t.dev.answered e.out [] 0 ∧ k ∈ t.dev.mon.halted ∧
      ∀ x, x ≠ k → (x ∈ t.dev.mon.halted ↔ x ∈ d.mon.halted)) ∧
    (∀ k, d.monTakes (.coreResume k) → Gives .monCoreResume s fun t => t.dev.answered e.out [] 0 ∧ k ∉ t.dev.mon.halted ∧
      ∀ x, x ≠ k → (x ∈ t.dev.mon.halted ↔ x ∈ d.mon.halted)) ∧
    (∀ k a, d.monTakes (.coreRd k a) → Gives .monCoreRd s fun t => t.dev.answered e.out
      [hexText 2 a ++ str " " ++ hexText 2 (Config.sramWord k a d.free).toNat] 0 ∧ t.dev.free = d.free + 1) ∧
    (∀ p o, d.monTakes (.hbm p o 1) → d.live .hbc (p / 64) = true →
      (generalBase (d.get FTB.GEOM_STAT.MaxLog2) ≤ o → o + 4 ≤ generalEnd → d.pathMoves = true → Gives .monHbmRead s fun t =>
        t.dev.answered e.out [hexText 2 o ++ str " " ++ hexText 2 (ofLE (Mem.readN s.chip.hbm (hbmAddr p o) 4))] 0 ∧ t.hbm = s.chip.hbm) ∧
      (o < generalBase (d.get FTB.GEOM_STAT.MaxLog2) ∨ generalEnd < o + 4 → Gives .monHbmRead s fun t =>
        t.dev.answered e.out [] 6 ∧ t.hbm = s.chip.hbm)))
end

