-- ==== Sys2Proof/Laws/Tab.lean ====
section
/-! SUPPORT. Laws of sparse tables and of memory: reads after writes, and the canonical form, which every memory operation keeps. -/

namespace Sys2Proof.Machine

variable {α : Type}

/-! ### Reads after writes -/

theorem Tab.get_set_same (d : α) (t : Tab α) (k : Nat) (v : α) : Tab.get d (t.set k v) k = v := by
  induction t with
  | nil => simp [Tab.set, Tab.get]
  | cons e t ih =>
    obtain ⟨k', v'⟩ := e
    simp only [Tab.set]
    split
    · simp [Tab.get]
    · split
      · simp [Tab.get]
      · rename_i h h'
        simp [Tab.get, Ne.symm h', ih]

theorem Tab.get_set_ne (d : α) (t : Tab α) {k j : Nat} (v : α) (h : j ≠ k) : Tab.get d (t.set k v) j = Tab.get d t j := by
  induction t with
  | nil => simp [Tab.set, Tab.get, Ne.symm h]
  | cons e t ih =>
    obtain ⟨k', v'⟩ := e
    simp only [Tab.set]
    split
    · simp [Tab.get, Ne.symm h]
    · split
      · rename_i h1 h2
        subst h2
        simp [Tab.get, Ne.symm h]
      · simp [Tab.get, ih]

theorem Tab.get_del_same (d : α) (t : Tab α) (k : Nat) : Tab.get d (t.del k) k = d := by
  induction t with
  | nil => rfl
  | cons e t ih =>
    obtain ⟨k', v'⟩ := e
    simp only [Tab.del]
    split
    · exact ih
    · rename_i h
      simp [Tab.get, h, ih]

theorem Tab.get_del_ne (d : α) (t : Tab α) {k j : Nat} (h : j ≠ k) : Tab.get d (t.del k) j = Tab.get d t j := by
  induction t with
  | nil => rfl
  | cons e t ih =>
    obtain ⟨k', v'⟩ := e
    simp only [Tab.del]
    split
    · rename_i h'
      simp [Tab.get, ih, h', Ne.symm h]
    · simp [Tab.get, ih]

/-- A read of the key just put gives the value. -/
@[simp] theorem Tab.get_put_same [DecidableEq α] (d : α) (t : Tab α) (k : Nat) (v : α) : Tab.get d (t.put d k v) k = v := by
  unfold Tab.put
  split
  · rename_i h
    rw [Tab.get_del_same, h]
  · exact Tab.get_set_same d t k v

/-- A put leaves every other key alone. -/
theorem Tab.get_put_ne [DecidableEq α] (d d' : α) (t : Tab α) {k j : Nat} (v : α) (h : j ≠ k) :
    Tab.get d' (t.put d k v) j = Tab.get d' t j := by
  unfold Tab.put
  split
  · exact Tab.get_del_ne d' t h
  · exact Tab.get_set_ne d' t v h

theorem Tab.find_set_same (t : Tab α) (k : Nat) (v : α) : Tab.find (t.set k v) k = some v := by
  induction t with
  | nil => simp [Tab.set, Tab.find]
  | cons e t ih =>
    obtain ⟨k', v'⟩ := e
    simp only [Tab.set]
    split
    · simp [Tab.find]
    · split
      · simp [Tab.find]
      · rename_i h h'
        simp [Tab.find, Ne.symm h', ih]

theorem Tab.find_set_ne (t : Tab α) {k j : Nat} (v : α) (h : j ≠ k) : Tab.find (t.set k v) j = Tab.find t j := by
  induction t with
  | nil => simp [Tab.set, Tab.find, Ne.symm h]
  | cons e t ih =>
    obtain ⟨k', v'⟩ := e
    simp only [Tab.set]
    split
    · simp [Tab.find, Ne.symm h]
    · split
      · rename_i h1 h2
        subst h2
        simp [Tab.find, Ne.symm h]
      · simp [Tab.find, ih]

theorem Tab.find_del_ne (t : Tab α) {k j : Nat} (h : j ≠ k) : Tab.find (t.del k) j = Tab.find t j := by
  induction t with
  | nil => rfl
  | cons e t ih =>
    obtain ⟨k', v'⟩ := e
    simp only [Tab.del]
    split
    · rename_i h'
      simp [Tab.find, ih, h', Ne.symm h]
    · simp [Tab.find, ih]

theorem Tab.find_del_same (t : Tab α) (k : Nat) : Tab.find (t.del k) k = none := by
  induction t with
  | nil => rfl
  | cons e t ih =>
    obtain ⟨k', v'⟩ := e
    simp only [Tab.del]
    split
    · exact ih
    · rename_i h
      simp [Tab.find, h, ih]

theorem Tab.find_put_ne [DecidableEq α] (d : α) (t : Tab α) {k j : Nat} (v : α) (h : j ≠ k) :
    Tab.find (t.put d k v) j = Tab.find t j := by
  unfold Tab.put
  split
  · exact Tab.find_del_ne t h
  · exact Tab.find_set_ne t v h

theorem Tab.get_eq_find (d : α) (t : Tab α) (k : Nat) : Tab.get d t k = (Tab.find t k).getD d := by
  induction t with
  | nil => rfl
  | cons e t ih =>
    obtain ⟨k', v'⟩ := e
    simp only [Tab.get, Tab.find]
    split
    · rfl
    · exact ih

/-! ### The canonical form -/

/-- Every key of a table is above `k`. -/
def Tab.above (k : Nat) (t : Tab α) : Prop := ∀ e ∈ t, k < e.1

theorem Tab.rising_cons (e : Nat × α) (t : Tab α) : Tab.rising (e :: t) = true ↔ Tab.above e.1 t ∧ Tab.rising t = true := by
  induction t generalizing e with
  | nil => simp [Tab.rising, Tab.above]
  | cons f t ih =>
    obtain ⟨k, v⟩ := e
    obtain ⟨k', v'⟩ := f
    simp only [Tab.rising, Bool.and_eq_true, decide_eq_true_eq]
    constructor
    · rintro ⟨h, r⟩
      refine ⟨?_, r⟩
      intro x hx
      rcases List.mem_cons.1 hx with rfl | hx
      · exact h
      · exact Nat.lt_trans h (((ih (k', v')).1 r).1 x hx)
    · rintro ⟨h, r⟩
      exact ⟨h (k', v') (List.mem_cons_self ..), r⟩

theorem Tab.mem_del {t : Tab α} {k : Nat} {e : Nat × α} (h : e ∈ t.del k) : e ∈ t := by
  induction t with
  | nil => exact h
  | cons f t ih =>
    obtain ⟨k', v'⟩ := f
    simp only [Tab.del] at h
    split at h
    · exact List.mem_cons_of_mem _ (ih h)
    · rcases List.mem_cons.1 h with rfl | h
      · exact List.mem_cons_self ..
      · exact List.mem_cons_of_mem _ (ih h)

theorem Tab.mem_set {t : Tab α} {k : Nat} {v : α} {e : Nat × α} (h : e ∈ t.set k v) : e = (k, v) ∨ e ∈ t := by
  induction t with
  | nil => simpa [Tab.set] using h
  | cons f t ih =>
    obtain ⟨k', v'⟩ := f
    simp only [Tab.set] at h
    split at h
    · rcases List.mem_cons.1 h with h | h
      · exact .inl h
      · exact .inr h
    · split at h
      · rcases List.mem_cons.1 h with h | h
        · exact .inl h
        · exact .inr (List.mem_cons_of_mem _ h)
      · rcases List.mem_cons.1 h with h | h
        · exact .inr (h ▸ List.mem_cons_self ..)
        · rcases ih h with h | h
          · exact .inl h
          · exact .inr (List.mem_cons_of_mem _ h)

theorem Tab.rising_del {t : Tab α} (k : Nat) (h : Tab.rising t = true) : Tab.rising (t.del k) = true := by
  induction t with
  | nil => rfl
  | cons f t ih =>
    obtain ⟨k', v'⟩ := f
    obtain ⟨ha, hr⟩ := (Tab.rising_cons _ _).1 h
    simp only [Tab.del]
    split
    · exact ih hr
    · exact (Tab.rising_cons _ _).2 ⟨fun e he => ha e (Tab.mem_del he), ih hr⟩

theorem Tab.rising_set {t : Tab α} (k : Nat) (v : α) (h : Tab.rising t = true) : Tab.rising (t.set k v) = true := by
  induction t with
  | nil => rfl
  | cons f t ih =>
    obtain ⟨k', v'⟩ := f
    obtain ⟨ha, hr⟩ := (Tab.rising_cons _ _).1 h
    simp only [Tab.set]
    split
    · rename_i hk
      refine (Tab.rising_cons _ _).2 ⟨?_, h⟩
      intro e he
      rcases List.mem_cons.1 he with rfl | he
      · exact hk
      · exact Nat.lt_trans hk (ha e he)
    · split
      · rename_i hk
        subst hk
        exact (Tab.rising_cons _ _).2 ⟨ha, hr⟩
      · rename_i h1 h2
        refine (Tab.rising_cons _ _).2 ⟨?_, ih hr⟩
        intro e he
        rcases Tab.mem_set he with rfl | he
        · show k' < k
          omega
        · exact ha e he

theorem Tab.rising_put [DecidableEq α] (d : α) {t : Tab α} (k : Nat) (v : α) (h : Tab.rising t = true) :
    Tab.rising (t.put d k v) = true := by
  unfold Tab.put
  split
  · exact Tab.rising_del k h
  · exact Tab.rising_set k v h

theorem Tab.noDefault_iff [DecidableEq α] (d : α) (t : Tab α) : Tab.noDefault d t = true ↔ ∀ e ∈ t, e.2 ≠ d := by
  induction t with
  | nil => simp [Tab.noDefault]
  | cons f t ih =>
    obtain ⟨k', v'⟩ := f
    simp [Tab.noDefault, ih]

theorem Tab.noDefault_put [DecidableEq α] (d : α) {t : Tab α} (k : Nat) (v : α) (h : Tab.noDefault d t = true) :
    Tab.noDefault d (t.put d k v) = true := by
  rw [Tab.noDefault_iff] at *
  unfold Tab.put
  split
  · exact fun e he => h e (Tab.mem_del he)
  · rename_i hv
    intro e he
    rcases Tab.mem_set he with rfl | he
    · exact hv
    · exact h e he

/-! ### Memory -/

@[simp] theorem Mem.read_write_same (m : Mem) (a : Nat) (b : Byte) : Mem.read (Mem.write m a b) a = b :=
  Tab.get_put_same ..

theorem Mem.read_write_ne (m : Mem) {a a' : Nat} (b : Byte) (h : a' ≠ a) : Mem.read (Mem.write m a b) a' = Mem.read m a' :=
  Tab.get_put_ne _ _ _ _ h

theorem Mem.wf_write {m : Mem} (a : Nat) (b : Byte) (h : Mem.wf m = true) : Mem.wf (Mem.write m a b) = true := by
  simp only [Mem.wf, Bool.and_eq_true] at *
  exact ⟨Tab.rising_put _ _ _ h.1, Tab.noDefault_put _ _ _ h.2⟩

theorem Mem.wf_writeN {m : Mem} (a : Nat) (bs : List Byte) (h : Mem.wf m = true) : Mem.wf (Mem.writeN m a bs) = true := by
  induction bs generalizing m a with
  | nil => exact h
  | cons b bs ih => exact ih _ (Mem.wf_write a b h)

/-- A write of a run leaves every byte outside it alone. -/
theorem Mem.read_writeN_out (m : Mem) (a : Nat) (bs : List Byte) {x : Nat} (h : x < a ∨ a + bs.length ≤ x) :
    Mem.read (Mem.writeN m a bs) x = Mem.read m x := by
  induction bs generalizing m a with
  | nil => rfl
  | cons b bs ih =>
    simp only [List.length_cons] at h
    rw [Mem.writeN, ih _ _ (by omega), Mem.read_write_ne _ _ (by omega)]

/-- A fold of writes keeps the canonical form. -/
theorem Mem.wf_foldl {β : Type} (f : Mem → β → Mem) (hf : ∀ m x, Mem.wf m = true → Mem.wf (f m x) = true) (l : List β) {m : Mem}
    (h : Mem.wf m = true) : Mem.wf (l.foldl f m) = true := by
  induction l generalizing m with
  | nil => exact h
  | cons x l ih => exact ih (hf _ _ h)

end Sys2Proof.Machine
end

