-- ==== Sys2Proof/Laws/State.lean ====
section
/-! SUPPORT. Laws of the state: what each update of one part leaves of every other part, and register fields after a write. -/

namespace Sys2Proof.Machine

/-! ### `Dev.set` -/

@[simp] theorem Dev.set_act (d : Dev) (f : Fld) (v i j : Nat) : (d.set f v i j).act = d.act := rfl
@[simp] theorem Dev.set_prev (d : Dev) (f : Fld) (v i j : Nat) : (d.set f v i j).prev = d.prev := rfl
@[simp] theorem Dev.set_cyc (d : Dev) (f : Fld) (v i j : Nat) : (d.set f v i j).cyc = d.cyc := rfl
@[simp] theorem Dev.set_dt (d : Dev) (f : Fld) (v i j : Nat) : (d.set f v i j).dt = d.dt := rfl
@[simp] theorem Dev.set_fab (d : Dev) (f : Fld) (v i j : Nat) : (d.set f v i j).fab = d.fab := rfl
@[simp] theorem Dev.set_evq (d : Dev) (f : Fld) (v i j : Nat) : (d.set f v i j).evq = d.evq := rfl
@[simp] theorem Dev.set_err (d : Dev) (f : Fld) (v i j : Nat) : (d.set f v i j).err = d.err := rfl
@[simp] theorem Dev.set_glb (d : Dev) (f : Fld) (v i j : Nat) : (d.set f v i j).glb = d.glb := rfl
@[simp] theorem Dev.set_pmc (d : Dev) (f : Fld) (v i j : Nat) : (d.set f v i j).pmc = d.pmc := rfl
@[simp] theorem Dev.set_pllAt (d : Dev) (f : Fld) (v i j : Nat) : (d.set f v i j).pllAt = d.pllAt := rfl
@[simp] theorem Dev.set_ruus (d : Dev) (f : Fld) (v i j : Nat) : (d.set f v i j).ruus = d.ruus := rfl
@[simp] theorem Dev.set_ftb (d : Dev) (f : Fld) (v i j : Nat) : (d.set f v i j).ftb = d.ftb := rfl
@[simp] theorem Dev.set_tpl (d : Dev) (f : Fld) (v i j : Nat) : (d.set f v i j).tpl = d.tpl := rfl
@[simp] theorem Dev.set_tplPrev (d : Dev) (f : Fld) (v i j : Nat) : (d.set f v i j).tplPrev = d.tplPrev := rfl
@[simp] theorem Dev.set_results (d : Dev) (f : Fld) (v i j : Nat) : (d.set f v i j).results = d.results := rfl
@[simp] theorem Dev.set_pkts (d : Dev) (f : Fld) (v i j : Nat) : (d.set f v i j).pkts = d.pkts := rfl
@[simp] theorem Dev.set_nextPid (d : Dev) (f : Fld) (v i j : Nat) : (d.set f v i j).nextPid = d.nextPid := rfl
@[simp] theorem Dev.set_stg (d : Dev) (f : Fld) (v i j : Nat) : (d.set f v i j).stg = d.stg := rfl
@[simp] theorem Dev.set_overflow (d : Dev) (f : Fld) (v i j : Nat) : (d.set f v i j).overflow = d.overflow := rfl
@[simp] theorem Dev.set_stgLate (d : Dev) (f : Fld) (v i j : Nat) : (d.set f v i j).stgLate = d.stgLate := rfl
@[simp] theorem Dev.set_old (d : Dev) (f : Fld) (v i j : Nat) : (d.set f v i j).old = d.old := rfl
@[simp] theorem Dev.set_turn (d : Dev) (f : Fld) (v i j : Nat) : (d.set f v i j).turn = d.turn := rfl
@[simp] theorem Dev.set_fwd (d : Dev) (f : Fld) (v i j : Nat) : (d.set f v i j).fwd = d.fwd := rfl
@[simp] theorem Dev.set_fwdPrev (d : Dev) (f : Fld) (v i j : Nat) : (d.set f v i j).fwdPrev = d.fwdPrev := rfl
@[simp] theorem Dev.set_l2 (d : Dev) (f : Fld) (v i j : Nat) : (d.set f v i j).l2 = d.l2 := rfl
@[simp] theorem Dev.set_nat (d : Dev) (f : Fld) (v i j : Nat) : (d.set f v i j).nat = d.nat := rfl
@[simp] theorem Dev.set_acl (d : Dev) (f : Fld) (v i j : Nat) : (d.set f v i j).acl = d.acl := rfl
@[simp] theorem Dev.set_shw (d : Dev) (f : Fld) (v i j : Nat) : (d.set f v i j).shw = d.shw := rfl
@[simp] theorem Dev.set_mtr (d : Dev) (f : Fld) (v i j : Nat) : (d.set f v i j).mtr = d.mtr := rfl
@[simp] theorem Dev.set_bsn (d : Dev) (f : Fld) (v i j : Nat) : (d.set f v i j).bsn = d.bsn := rfl
@[simp] theorem Dev.set_eg (d : Dev) (f : Fld) (v i j : Nat) : (d.set f v i j).eg = d.eg := rfl
@[simp] theorem Dev.set_expand (d : Dev) (f : Fld) (v i j : Nat) : (d.set f v i j).expand = d.expand := rfl
@[simp] theorem Dev.set_madeGen (d : Dev) (f : Fld) (v i j : Nat) : (d.set f v i j).madeGen = d.madeGen := rfl
@[simp] theorem Dev.set_dma (d : Dev) (f : Fld) (v i j : Nat) : (d.set f v i j).dma = d.dma := rfl
@[simp] theorem Dev.set_cpm (d : Dev) (f : Fld) (v i j : Nat) : (d.set f v i j).cpm = d.cpm := rfl
@[simp] theorem Dev.set_fsc (d : Dev) (f : Fld) (v i j : Nat) : (d.set f v i j).fsc = d.fsc := rfl
@[simp] theorem Dev.set_threads (d : Dev) (f : Fld) (v i j : Nat) : (d.set f v i j).threads = d.threads := rfl
@[simp] theorem Dev.set_ucs (d : Dev) (f : Fld) (v i j : Nat) : (d.set f v i j).ucs = d.ucs := rfl
@[simp] theorem Dev.set_load (d : Dev) (f : Fld) (v i j : Nat) : (d.set f v i j).load = d.load := rfl
@[simp] theorem Dev.set_tim (d : Dev) (f : Fld) (v i j : Nat) : (d.set f v i j).tim = d.tim := rfl
@[simp] theorem Dev.set_sdl (d : Dev) (f : Fld) (v i j : Nat) : (d.set f v i j).sdl = d.sdl := rfl
@[simp] theorem Dev.set_mram (d : Dev) (f : Fld) (v i j : Nat) : (d.set f v i j).mram = d.mram := rfl
@[simp] theorem Dev.set_sec (d : Dev) (f : Fld) (v i j : Nat) : (d.set f v i j).sec = d.sec := rfl
@[simp] theorem Dev.set_hbc (d : Dev) (f : Fld) (v i j : Nat) : (d.set f v i j).hbc = d.hbc := rfl
@[simp] theorem Dev.set_boot (d : Dev) (f : Fld) (v i j : Nat) : (d.set f v i j).boot = d.boot := rfl
@[simp] theorem Dev.set_mon (d : Dev) (f : Fld) (v i j : Nat) : (d.set f v i j).mon = d.mon := rfl
@[simp] theorem Dev.set_tmp (d : Dev) (f : Fld) (v i j : Nat) : (d.set f v i j).tmp = d.tmp := rfl
@[simp] theorem Dev.set_doe (d : Dev) (f : Fld) (v i j : Nat) : (d.set f v i j).doe = d.doe := rfl
@[simp] theorem Dev.set_out (d : Dev) (f : Fld) (v i j : Nat) : (d.set f v i j).out = d.out := rfl
@[simp] theorem Dev.set_free (d : Dev) (f : Fld) (v i j : Nat) : (d.set f v i j).free = d.free := rfl

/-! ### `Dev.bump` -/

@[simp] theorem Dev.bump_act (d : Dev) (f : Fld) (n i j : Nat) : (d.bump f n i j).act = d.act := rfl
@[simp] theorem Dev.bump_prev (d : Dev) (f : Fld) (n i j : Nat) : (d.bump f n i j).prev = d.prev := rfl
@[simp] theorem Dev.bump_cyc (d : Dev) (f : Fld) (n i j : Nat) : (d.bump f n i j).cyc = d.cyc := rfl
@[simp] theorem Dev.bump_dt (d : Dev) (f : Fld) (n i j : Nat) : (d.bump f n i j).dt = d.dt := rfl
@[simp] theorem Dev.bump_fab (d : Dev) (f : Fld) (n i j : Nat) : (d.bump f n i j).fab = d.fab := rfl
@[simp] theorem Dev.bump_evq (d : Dev) (f : Fld) (n i j : Nat) : (d.bump f n i j).evq = d.evq := rfl
@[simp] theorem Dev.bump_err (d : Dev) (f : Fld) (n i j : Nat) : (d.bump f n i j).err = d.err := rfl
@[simp] theorem Dev.bump_glb (d : Dev) (f : Fld) (n i j : Nat) : (d.bump f n i j).glb = d.glb := rfl
@[simp] theorem Dev.bump_pmc (d : Dev) (f : Fld) (n i j : Nat) : (d.bump f n i j).pmc = d.pmc := rfl
@[simp] theorem Dev.bump_pllAt (d : Dev) (f : Fld) (n i j : Nat) : (d.bump f n i j).pllAt = d.pllAt := rfl
@[simp] theorem Dev.bump_ruus (d : Dev) (f : Fld) (n i j : Nat) : (d.bump f n i j).ruus = d.ruus := rfl
@[simp] theorem Dev.bump_ftb (d : Dev) (f : Fld) (n i j : Nat) : (d.bump f n i j).ftb = d.ftb := rfl
@[simp] theorem Dev.bump_tpl (d : Dev) (f : Fld) (n i j : Nat) : (d.bump f n i j).tpl = d.tpl := rfl
@[simp] theorem Dev.bump_tplPrev (d : Dev) (f : Fld) (n i j : Nat) : (d.bump f n i j).tplPrev = d.tplPrev := rfl
@[simp] theorem Dev.bump_results (d : Dev) (f : Fld) (n i j : Nat) : (d.bump f n i j).results = d.results := rfl
@[simp] theorem Dev.bump_pkts (d : Dev) (f : Fld) (n i j : Nat) : (d.bump f n i j).pkts = d.pkts := rfl
@[simp] theorem Dev.bump_nextPid (d : Dev) (f : Fld) (n i j : Nat) : (d.bump f n i j).nextPid = d.nextPid := rfl
@[simp] theorem Dev.bump_stg (d : Dev) (f : Fld) (n i j : Nat) : (d.bump f n i j).stg = d.stg := rfl
@[simp] theorem Dev.bump_overflow (d : Dev) (f : Fld) (n i j : Nat) : (d.bump f n i j).overflow = d.overflow := rfl
@[simp] theorem Dev.bump_stgLate (d : Dev) (f : Fld) (n i j : Nat) : (d.bump f n i j).stgLate = d.stgLate := rfl
@[simp] theorem Dev.bump_old (d : Dev) (f : Fld) (n i j : Nat) : (d.bump f n i j).old = d.old := rfl
@[simp] theorem Dev.bump_turn (d : Dev) (f : Fld) (n i j : Nat) : (d.bump f n i j).turn = d.turn := rfl
@[simp] theorem Dev.bump_fwd (d : Dev) (f : Fld) (n i j : Nat) : (d.bump f n i j).fwd = d.fwd := rfl
@[simp] theorem Dev.bump_fwdPrev (d : Dev) (f : Fld) (n i j : Nat) : (d.bump f n i j).fwdPrev = d.fwdPrev := rfl
@[simp] theorem Dev.bump_l2 (d : Dev) (f : Fld) (n i j : Nat) : (d.bump f n i j).l2 = d.l2 := rfl
@[simp] theorem Dev.bump_nat (d : Dev) (f : Fld) (n i j : Nat) : (d.bump f n i j).nat = d.nat := rfl
@[simp] theorem Dev.bump_acl (d : Dev) (f : Fld) (n i j : Nat) : (d.bump f n i j).acl = d.acl := rfl
@[simp] theorem Dev.bump_shw (d : Dev) (f : Fld) (n i j : Nat) : (d.bump f n i j).shw = d.shw := rfl
@[simp] theorem Dev.bump_mtr (d : Dev) (f : Fld) (n i j : Nat) : (d.bump f n i j).mtr = d.mtr := rfl
@[simp] theorem Dev.bump_bsn (d : Dev) (f : Fld) (n i j : Nat) : (d.bump f n i j).bsn = d.bsn := rfl
@[simp] theorem Dev.bump_eg (d : Dev) (f : Fld) (n i j : Nat) : (d.bump f n i j).eg = d.eg := rfl
@[simp] theorem Dev.bump_expand (d : Dev) (f : Fld) (n i j : Nat) : (d.bump f n i j).expand = d.expand := rfl
@[simp] theorem Dev.bump_madeGen (d : Dev) (f : Fld) (n i j : Nat) : (d.bump f n i j).madeGen = d.madeGen := rfl
@[simp] theorem Dev.bump_dma (d : Dev) (f : Fld) (n i j : Nat) : (d.bump f n i j).dma = d.dma := rfl
@[simp] theorem Dev.bump_cpm (d : Dev) (f : Fld) (n i j : Nat) : (d.bump f n i j).cpm = d.cpm := rfl
@[simp] theorem Dev.bump_fsc (d : Dev) (f : Fld) (n i j : Nat) : (d.bump f n i j).fsc = d.fsc := rfl
@[simp] theorem Dev.bump_threads (d : Dev) (f : Fld) (n i j : Nat) : (d.bump f n i j).threads = d.threads := rfl
@[simp] theorem Dev.bump_ucs (d : Dev) (f : Fld) (n i j : Nat) : (d.bump f n i j).ucs = d.ucs := rfl
@[simp] theorem Dev.bump_load (d : Dev) (f : Fld) (n i j : Nat) : (d.bump f n i j).load = d.load := rfl
@[simp] theorem Dev.bump_tim (d : Dev) (f : Fld) (n i j : Nat) : (d.bump f n i j).tim = d.tim := rfl
@[simp] theorem Dev.bump_sdl (d : Dev) (f : Fld) (n i j : Nat) : (d.bump f n i j).sdl = d.sdl := rfl
@[simp] theorem Dev.bump_mram (d : Dev) (f : Fld) (n i j : Nat) : (d.bump f n i j).mram = d.mram := rfl
@[simp] theorem Dev.bump_sec (d : Dev) (f : Fld) (n i j : Nat) : (d.bump f n i j).sec = d.sec := rfl
@[simp] theorem Dev.bump_hbc (d : Dev) (f : Fld) (n i j : Nat) : (d.bump f n i j).hbc = d.hbc := rfl
@[simp] theorem Dev.bump_boot (d : Dev) (f : Fld) (n i j : Nat) : (d.bump f n i j).boot = d.boot := rfl
@[simp] theorem Dev.bump_mon (d : Dev) (f : Fld) (n i j : Nat) : (d.bump f n i j).mon = d.mon := rfl
@[simp] theorem Dev.bump_tmp (d : Dev) (f : Fld) (n i j : Nat) : (d.bump f n i j).tmp = d.tmp := rfl
@[simp] theorem Dev.bump_doe (d : Dev) (f : Fld) (n i j : Nat) : (d.bump f n i j).doe = d.doe := rfl
@[simp] theorem Dev.bump_out (d : Dev) (f : Fld) (n i j : Nat) : (d.bump f n i j).out = d.out := rfl
@[simp] theorem Dev.bump_free (d : Dev) (f : Fld) (n i j : Nat) : (d.bump f n i j).free = d.free := rfl

/-! ### `Dev.bumpSat` -/

@[simp] theorem Dev.bumpSat_act (d : Dev) (f : Fld) (n i j : Nat) : (d.bumpSat f n i j).act = d.act := rfl
@[simp] theorem Dev.bumpSat_prev (d : Dev) (f : Fld) (n i j : Nat) : (d.bumpSat f n i j).prev = d.prev := rfl
@[simp] theorem Dev.bumpSat_cyc (d : Dev) (f : Fld) (n i j : Nat) : (d.bumpSat f n i j).cyc = d.cyc := rfl
@[simp] theorem Dev.bumpSat_dt (d : Dev) (f : Fld) (n i j : Nat) : (d.bumpSat f n i j).dt = d.dt := rfl
@[simp] theorem Dev.bumpSat_fab (d : Dev) (f : Fld) (n i j : Nat) : (d.bumpSat f n i j).fab = d.fab := rfl
@[simp] theorem Dev.bumpSat_evq (d : Dev) (f : Fld) (n i j : Nat) : (d.bumpSat f n i j).evq = d.evq := rfl
@[simp] theorem Dev.bumpSat_err (d : Dev) (f : Fld) (n i j : Nat) : (d.bumpSat f n i j).err = d.err := rfl
@[simp] theorem Dev.bumpSat_glb (d : Dev) (f : Fld) (n i j : Nat) : (d.bumpSat f n i j).glb = d.glb := rfl
@[simp] theorem Dev.bumpSat_pmc (d : Dev) (f : Fld) (n i j : Nat) : (d.bumpSat f n i j).pmc = d.pmc := rfl
@[simp] theorem Dev.bumpSat_pllAt (d : Dev) (f : Fld) (n i j : Nat) : (d.bumpSat f n i j).pllAt = d.pllAt := rfl
@[simp] theorem Dev.bumpSat_ruus (d : Dev) (f : Fld) (n i j : Nat) : (d.bumpSat f n i j).ruus = d.ruus := rfl
@[simp] theorem Dev.bumpSat_ftb (d : Dev) (f : Fld) (n i j : Nat) : (d.bumpSat f n i j).ftb = d.ftb := rfl
@[simp] theorem Dev.bumpSat_tpl (d : Dev) (f : Fld) (n i j : Nat) : (d.bumpSat f n i j).tpl = d.tpl := rfl
@[simp] theorem Dev.bumpSat_tplPrev (d : Dev) (f : Fld) (n i j : Nat) : (d.bumpSat f n i j).tplPrev = d.tplPrev := rfl
@[simp] theorem Dev.bumpSat_results (d : Dev) (f : Fld) (n i j : Nat) : (d.bumpSat f n i j).results = d.results := rfl
@[simp] theorem Dev.bumpSat_pkts (d : Dev) (f : Fld) (n i j : Nat) : (d.bumpSat f n i j).pkts = d.pkts := rfl
@[simp] theorem Dev.bumpSat_nextPid (d : Dev) (f : Fld) (n i j : Nat) : (d.bumpSat f n i j).nextPid = d.nextPid := rfl
@[simp] theorem Dev.bumpSat_stg (d : Dev) (f : Fld) (n i j : Nat) : (d.bumpSat f n i j).stg = d.stg := rfl
@[simp] theorem Dev.bumpSat_overflow (d : Dev) (f : Fld) (n i j : Nat) : (d.bumpSat f n i j).overflow = d.overflow := rfl
@[simp] theorem Dev.bumpSat_stgLate (d : Dev) (f : Fld) (n i j : Nat) : (d.bumpSat f n i j).stgLate = d.stgLate := rfl
@[simp] theorem Dev.bumpSat_old (d : Dev) (f : Fld) (n i j : Nat) : (d.bumpSat f n i j).old = d.old := rfl
@[simp] theorem Dev.bumpSat_turn (d : Dev) (f : Fld) (n i j : Nat) : (d.bumpSat f n i j).turn = d.turn := rfl
@[simp] theorem Dev.bumpSat_fwd (d : Dev) (f : Fld) (n i j : Nat) : (d.bumpSat f n i j).fwd = d.fwd := rfl
@[simp] theorem Dev.bumpSat_fwdPrev (d : Dev) (f : Fld) (n i j : Nat) : (d.bumpSat f n i j).fwdPrev = d.fwdPrev := rfl
@[simp] theorem Dev.bumpSat_l2 (d : Dev) (f : Fld) (n i j : Nat) : (d.bumpSat f n i j).l2 = d.l2 := rfl
@[simp] theorem Dev.bumpSat_nat (d : Dev) (f : Fld) (n i j : Nat) : (d.bumpSat f n i j).nat = d.nat := rfl
@[simp] theorem Dev.bumpSat_acl (d : Dev) (f : Fld) (n i j : Nat) : (d.bumpSat f n i j).acl = d.acl := rfl
@[simp] theorem Dev.bumpSat_shw (d : Dev) (f : Fld) (n i j : Nat) : (d.bumpSat f n i j).shw = d.shw := rfl
@[simp] theorem Dev.bumpSat_mtr (d : Dev) (f : Fld) (n i j : Nat) : (d.bumpSat f n i j).mtr = d.mtr := rfl
@[simp] theorem Dev.bumpSat_bsn (d : Dev) (f : Fld) (n i j : Nat) : (d.bumpSat f n i j).bsn = d.bsn := rfl
@[simp] theorem Dev.bumpSat_eg (d : Dev) (f : Fld) (n i j : Nat) : (d.bumpSat f n i j).eg = d.eg := rfl
@[simp] theorem Dev.bumpSat_expand (d : Dev) (f : Fld) (n i j : Nat) : (d.bumpSat f n i j).expand = d.expand := rfl
@[simp] theorem Dev.bumpSat_madeGen (d : Dev) (f : Fld) (n i j : Nat) : (d.bumpSat f n i j).madeGen = d.madeGen := rfl
@[simp] theorem Dev.bumpSat_dma (d : Dev) (f : Fld) (n i j : Nat) : (d.bumpSat f n i j).dma = d.dma := rfl
@[simp] theorem Dev.bumpSat_cpm (d : Dev) (f : Fld) (n i j : Nat) : (d.bumpSat f n i j).cpm = d.cpm := rfl
@[simp] theorem Dev.bumpSat_fsc (d : Dev) (f : Fld) (n i j : Nat) : (d.bumpSat f n i j).fsc = d.fsc := rfl
@[simp] theorem Dev.bumpSat_threads (d : Dev) (f : Fld) (n i j : Nat) : (d.bumpSat f n i j).threads = d.threads := rfl
@[simp] theorem Dev.bumpSat_ucs (d : Dev) (f : Fld) (n i j : Nat) : (d.bumpSat f n i j).ucs = d.ucs := rfl
@[simp] theorem Dev.bumpSat_load (d : Dev) (f : Fld) (n i j : Nat) : (d.bumpSat f n i j).load = d.load := rfl
@[simp] theorem Dev.bumpSat_tim (d : Dev) (f : Fld) (n i j : Nat) : (d.bumpSat f n i j).tim = d.tim := rfl
@[simp] theorem Dev.bumpSat_sdl (d : Dev) (f : Fld) (n i j : Nat) : (d.bumpSat f n i j).sdl = d.sdl := rfl
@[simp] theorem Dev.bumpSat_mram (d : Dev) (f : Fld) (n i j : Nat) : (d.bumpSat f n i j).mram = d.mram := rfl
@[simp] theorem Dev.bumpSat_sec (d : Dev) (f : Fld) (n i j : Nat) : (d.bumpSat f n i j).sec = d.sec := rfl
@[simp] theorem Dev.bumpSat_hbc (d : Dev) (f : Fld) (n i j : Nat) : (d.bumpSat f n i j).hbc = d.hbc := rfl
@[simp] theorem Dev.bumpSat_boot (d : Dev) (f : Fld) (n i j : Nat) : (d.bumpSat f n i j).boot = d.boot := rfl
@[simp] theorem Dev.bumpSat_mon (d : Dev) (f : Fld) (n i j : Nat) : (d.bumpSat f n i j).mon = d.mon := rfl
@[simp] theorem Dev.bumpSat_tmp (d : Dev) (f : Fld) (n i j : Nat) : (d.bumpSat f n i j).tmp = d.tmp := rfl
@[simp] theorem Dev.bumpSat_doe (d : Dev) (f : Fld) (n i j : Nat) : (d.bumpSat f n i j).doe = d.doe := rfl
@[simp] theorem Dev.bumpSat_out (d : Dev) (f : Fld) (n i j : Nat) : (d.bumpSat f n i j).out = d.out := rfl
@[simp] theorem Dev.bumpSat_free (d : Dev) (f : Fld) (n i j : Nat) : (d.bumpSat f n i j).free = d.free := rfl

/-! ### `Dev.emit` -/

@[simp] theorem Dev.emit_regs (d : Dev) (o : Out) : (d.emit o).regs = d.regs := rfl
@[simp] theorem Dev.emit_act (d : Dev) (o : Out) : (d.emit o).act = d.act := rfl
@[simp] theorem Dev.emit_prev (d : Dev) (o : Out) : (d.emit o).prev = d.prev := rfl
@[simp] theorem Dev.emit_cyc (d : Dev) (o : Out) : (d.emit o).cyc = d.cyc := rfl
@[simp] theorem Dev.emit_dt (d : Dev) (o : Out) : (d.emit o).dt = d.dt := rfl
@[simp] theorem Dev.emit_fab (d : Dev) (o : Out) : (d.emit o).fab = d.fab := rfl
@[simp] theorem Dev.emit_evq (d : Dev) (o : Out) : (d.emit o).evq = d.evq := rfl
@[simp] theorem Dev.emit_err (d : Dev) (o : Out) : (d.emit o).err = d.err := rfl
@[simp] theorem Dev.emit_glb (d : Dev) (o : Out) : (d.emit o).glb = d.glb := rfl
@[simp] theorem Dev.emit_pmc (d : Dev) (o : Out) : (d.emit o).pmc = d.pmc := rfl
@[simp] theorem Dev.emit_pllAt (d : Dev) (o : Out) : (d.emit o).pllAt = d.pllAt := rfl
@[simp] theorem Dev.emit_ruus (d : Dev) (o : Out) : (d.emit o).ruus = d.ruus := rfl
@[simp] theorem Dev.emit_ftb (d : Dev) (o : Out) : (d.emit o).ftb = d.ftb := rfl
@[simp] theorem Dev.emit_tpl (d : Dev) (o : Out) : (d.emit o).tpl = d.tpl := rfl
@[simp] theorem Dev.emit_tplPrev (d : Dev) (o : Out) : (d.emit o).tplPrev = d.tplPrev := rfl
@[simp] theorem Dev.emit_results (d : Dev) (o : Out) : (d.emit o).results = d.results := rfl
@[simp] theorem Dev.emit_pkts (d : Dev) (o : Out) : (d.emit o).pkts = d.pkts := rfl
@[simp] theorem Dev.emit_nextPid (d : Dev) (o : Out) : (d.emit o).nextPid = d.nextPid := rfl
@[simp] theorem Dev.emit_stg (d : Dev) (o : Out) : (d.emit o).stg = d.stg := rfl
@[simp] theorem Dev.emit_overflow (d : Dev) (o : Out) : (d.emit o).overflow = d.overflow := rfl
@[simp] theorem Dev.emit_stgLate (d : Dev) (o : Out) : (d.emit o).stgLate = d.stgLate := rfl
@[simp] theorem Dev.emit_old (d : Dev) (o : Out) : (d.emit o).old = d.old := rfl
@[simp] theorem Dev.emit_turn (d : Dev) (o : Out) : (d.emit o).turn = d.turn := rfl
@[simp] theorem Dev.emit_fwd (d : Dev) (o : Out) : (d.emit o).fwd = d.fwd := rfl
@[simp] theorem Dev.emit_fwdPrev (d : Dev) (o : Out) : (d.emit o).fwdPrev = d.fwdPrev := rfl
@[simp] theorem Dev.emit_l2 (d : Dev) (o : Out) : (d.emit o).l2 = d.l2 := rfl
@[simp] theorem Dev.emit_nat (d : Dev) (o : Out) : (d.emit o).nat = d.nat := rfl
@[simp] theorem Dev.emit_acl (d : Dev) (o : Out) : (d.emit o).acl = d.acl := rfl
@[simp] theorem Dev.emit_shw (d : Dev) (o : Out) : (d.emit o).shw = d.shw := rfl
@[simp] theorem Dev.emit_mtr (d : Dev) (o : Out) : (d.emit o).mtr = d.mtr := rfl
@[simp] theorem Dev.emit_bsn (d : Dev) (o : Out) : (d.emit o).bsn = d.bsn := rfl
@[simp] theorem Dev.emit_eg (d : Dev) (o : Out) : (d.emit o).eg = d.eg := rfl
@[simp] theorem Dev.emit_expand (d : Dev) (o : Out) : (d.emit o).expand = d.expand := rfl
@[simp] theorem Dev.emit_madeGen (d : Dev) (o : Out) : (d.emit o).madeGen = d.madeGen := rfl
@[simp] theorem Dev.emit_dma (d : Dev) (o : Out) : (d.emit o).dma = d.dma := rfl
@[simp] theorem Dev.emit_cpm (d : Dev) (o : Out) : (d.emit o).cpm = d.cpm := rfl
@[simp] theorem Dev.emit_fsc (d : Dev) (o : Out) : (d.emit o).fsc = d.fsc := rfl
@[simp] theorem Dev.emit_threads (d : Dev) (o : Out) : (d.emit o).threads = d.threads := rfl
@[simp] theorem Dev.emit_ucs (d : Dev) (o : Out) : (d.emit o).ucs = d.ucs := rfl
@[simp] theorem Dev.emit_load (d : Dev) (o : Out) : (d.emit o).load = d.load := rfl
@[simp] theorem Dev.emit_tim (d : Dev) (o : Out) : (d.emit o).tim = d.tim := rfl
@[simp] theorem Dev.emit_sdl (d : Dev) (o : Out) : (d.emit o).sdl = d.sdl := rfl
@[simp] theorem Dev.emit_mram (d : Dev) (o : Out) : (d.emit o).mram = d.mram := rfl
@[simp] theorem Dev.emit_sec (d : Dev) (o : Out) : (d.emit o).sec = d.sec := rfl
@[simp] theorem Dev.emit_hbc (d : Dev) (o : Out) : (d.emit o).hbc = d.hbc := rfl
@[simp] theorem Dev.emit_boot (d : Dev) (o : Out) : (d.emit o).boot = d.boot := rfl
@[simp] theorem Dev.emit_mon (d : Dev) (o : Out) : (d.emit o).mon = d.mon := rfl
@[simp] theorem Dev.emit_tmp (d : Dev) (o : Out) : (d.emit o).tmp = d.tmp := rfl
@[simp] theorem Dev.emit_doe (d : Dev) (o : Out) : (d.emit o).doe = d.doe := rfl
@[simp] theorem Dev.emit_free (d : Dev) (o : Out) : (d.emit o).free = d.free := rfl

/-! ### `Dev.setCtr` -/

@[simp] theorem Dev.setCtr_regs (d : Dev) (p k : Nat) (c : Ctr) : (d.setCtr p k c).regs = d.regs := rfl
@[simp] theorem Dev.setCtr_act (d : Dev) (p k : Nat) (c : Ctr) : (d.setCtr p k c).act = d.act := rfl
@[simp] theorem Dev.setCtr_prev (d : Dev) (p k : Nat) (c : Ctr) : (d.setCtr p k c).prev = d.prev := rfl
@[simp] theorem Dev.setCtr_cyc (d : Dev) (p k : Nat) (c : Ctr) : (d.setCtr p k c).cyc = d.cyc := rfl
@[simp] theorem Dev.setCtr_dt (d : Dev) (p k : Nat) (c : Ctr) : (d.setCtr p k c).dt = d.dt := rfl
@[simp] theorem Dev.setCtr_evq (d : Dev) (p k : Nat) (c : Ctr) : (d.setCtr p k c).evq = d.evq := rfl
@[simp] theorem Dev.setCtr_err (d : Dev) (p k : Nat) (c : Ctr) : (d.setCtr p k c).err = d.err := rfl
@[simp] theorem Dev.setCtr_glb (d : Dev) (p k : Nat) (c : Ctr) : (d.setCtr p k c).glb = d.glb := rfl
@[simp] theorem Dev.setCtr_pmc (d : Dev) (p k : Nat) (c : Ctr) : (d.setCtr p k c).pmc = d.pmc := rfl
@[simp] theorem Dev.setCtr_pllAt (d : Dev) (p k : Nat) (c : Ctr) : (d.setCtr p k c).pllAt = d.pllAt := rfl
@[simp] theorem Dev.setCtr_ruus (d : Dev) (p k : Nat) (c : Ctr) : (d.setCtr p k c).ruus = d.ruus := rfl
@[simp] theorem Dev.setCtr_ftb (d : Dev) (p k : Nat) (c : Ctr) : (d.setCtr p k c).ftb = d.ftb := rfl
@[simp] theorem Dev.setCtr_tpl (d : Dev) (p k : Nat) (c : Ctr) : (d.setCtr p k c).tpl = d.tpl := rfl
@[simp] theorem Dev.setCtr_tplPrev (d : Dev) (p k : Nat) (c : Ctr) : (d.setCtr p k c).tplPrev = d.tplPrev := rfl
@[simp] theorem Dev.setCtr_results (d : Dev) (p k : Nat) (c : Ctr) : (d.setCtr p k c).results = d.results := rfl
@[simp] theorem Dev.setCtr_pkts (d : Dev) (p k : Nat) (c : Ctr) : (d.setCtr p k c).pkts = d.pkts := rfl
@[simp] theorem Dev.setCtr_nextPid (d : Dev) (p k : Nat) (c : Ctr) : (d.setCtr p k c).nextPid = d.nextPid := rfl
@[simp] theorem Dev.setCtr_stg (d : Dev) (p k : Nat) (c : Ctr) : (d.setCtr p k c).stg = d.stg := rfl
@[simp] theorem Dev.setCtr_overflow (d : Dev) (p k : Nat) (c : Ctr) : (d.setCtr p k c).overflow = d.overflow := rfl
@[simp] theorem Dev.setCtr_stgLate (d : Dev) (p k : Nat) (c : Ctr) : (d.setCtr p k c).stgLate = d.stgLate := rfl
@[simp] theorem Dev.setCtr_old (d : Dev) (p k : Nat) (c : Ctr) : (d.setCtr p k c).old = d.old := rfl
@[simp] theorem Dev.setCtr_turn (d : Dev) (p k : Nat) (c : Ctr) : (d.setCtr p k c).turn = d.turn := rfl
@[simp] theorem Dev.setCtr_fwd (d : Dev) (p k : Nat) (c : Ctr) : (d.setCtr p k c).fwd = d.fwd := rfl
@[simp] theorem Dev.setCtr_fwdPrev (d : Dev) (p k : Nat) (c : Ctr) : (d.setCtr p k c).fwdPrev = d.fwdPrev := rfl
@[simp] theorem Dev.setCtr_l2 (d : Dev) (p k : Nat) (c : Ctr) : (d.setCtr p k c).l2 = d.l2 := rfl
@[simp] theorem Dev.setCtr_nat (d : Dev) (p k : Nat) (c : Ctr) : (d.setCtr p k c).nat = d.nat := rfl
@[simp] theorem Dev.setCtr_acl (d : Dev) (p k : Nat) (c : Ctr) : (d.setCtr p k c).acl = d.acl := rfl
@[simp] theorem Dev.setCtr_shw (d : Dev) (p k : Nat) (c : Ctr) : (d.setCtr p k c).shw = d.shw := rfl
@[simp] theorem Dev.setCtr_mtr (d : Dev) (p k : Nat) (c : Ctr) : (d.setCtr p k c).mtr = d.mtr := rfl
@[simp] theorem Dev.setCtr_bsn (d : Dev) (p k : Nat) (c : Ctr) : (d.setCtr p k c).bsn = d.bsn := rfl
@[simp] theorem Dev.setCtr_eg (d : Dev) (p k : Nat) (c : Ctr) : (d.setCtr p k c).eg = d.eg := rfl
@[simp] theorem Dev.setCtr_expand (d : Dev) (p k : Nat) (c : Ctr) : (d.setCtr p k c).expand = d.expand := rfl
@[simp] theorem Dev.setCtr_madeGen (d : Dev) (p k : Nat) (c : Ctr) : (d.setCtr p k c).madeGen = d.madeGen := rfl
@[simp] theorem Dev.setCtr_dma (d : Dev) (p k : Nat) (c : Ctr) : (d.setCtr p k c).dma = d.dma := rfl
@[simp] theorem Dev.setCtr_cpm (d : Dev) (p k : Nat) (c : Ctr) : (d.setCtr p k c).cpm = d.cpm := rfl
@[simp] theorem Dev.setCtr_fsc (d : Dev) (p k : Nat) (c : Ctr) : (d.setCtr p k c).fsc = d.fsc := rfl
@[simp] theorem Dev.setCtr_threads (d : Dev) (p k : Nat) (c : Ctr) : (d.setCtr p k c).threads = d.threads := rfl
@[simp] theorem Dev.setCtr_ucs (d : Dev) (p k : Nat) (c : Ctr) : (d.setCtr p k c).ucs = d.ucs := rfl
@[simp] theorem Dev.setCtr_load (d : Dev) (p k : Nat) (c : Ctr) : (d.setCtr p k c).load = d.load := rfl
@[simp] theorem Dev.setCtr_tim (d : Dev) (p k : Nat) (c : Ctr) : (d.setCtr p k c).tim = d.tim := rfl
@[simp] theorem Dev.setCtr_sdl (d : Dev) (p k : Nat) (c : Ctr) : (d.setCtr p k c).sdl = d.sdl := rfl
@[simp] theorem Dev.setCtr_mram (d : Dev) (p k : Nat) (c : Ctr) : (d.setCtr p k c).mram = d.mram := rfl
@[simp] theorem Dev.setCtr_sec (d : Dev) (p k : Nat) (c : Ctr) : (d.setCtr p k c).sec = d.sec := rfl
@[simp] theorem Dev.setCtr_hbc (d : Dev) (p k : Nat) (c : Ctr) : (d.setCtr p k c).hbc = d.hbc := rfl
@[simp] theorem Dev.setCtr_boot (d : Dev) (p k : Nat) (c : Ctr) : (d.setCtr p k c).boot = d.boot := rfl
@[simp] theorem Dev.setCtr_mon (d : Dev) (p k : Nat) (c : Ctr) : (d.setCtr p k c).mon = d.mon := rfl
@[simp] theorem Dev.setCtr_tmp (d : Dev) (p k : Nat) (c : Ctr) : (d.setCtr p k c).tmp = d.tmp := rfl
@[simp] theorem Dev.setCtr_doe (d : Dev) (p k : Nat) (c : Ctr) : (d.setCtr p k c).doe = d.doe := rfl
@[simp] theorem Dev.setCtr_out (d : Dev) (p k : Nat) (c : Ctr) : (d.setCtr p k c).out = d.out := rfl
@[simp] theorem Dev.setCtr_free (d : Dev) (p k : Nat) (c : Ctr) : (d.setCtr p k c).free = d.free := rfl

/-! ### `Dev.setFn` -/

@[simp] theorem Dev.setFn_regs (d : Dev) (f : Nat) (x : Fn) : (d.setFn f x).regs = d.regs := rfl
@[simp] theorem Dev.setFn_act (d : Dev) (f : Nat) (x : Fn) : (d.setFn f x).act = d.act := rfl
@[simp] theorem Dev.setFn_prev (d : Dev) (f : Nat) (x : Fn) : (d.setFn f x).prev = d.prev := rfl
@[simp] theorem Dev.setFn_cyc (d : Dev) (f : Nat) (x : Fn) : (d.setFn f x).cyc = d.cyc := rfl
@[simp] theorem Dev.setFn_dt (d : Dev) (f : Nat) (x : Fn) : (d.setFn f x).dt = d.dt := rfl
@[simp] theorem Dev.setFn_evq (d : Dev) (f : Nat) (x : Fn) : (d.setFn f x).evq = d.evq := rfl
@[simp] theorem Dev.setFn_err (d : Dev) (f : Nat) (x : Fn) : (d.setFn f x).err = d.err := rfl
@[simp] theorem Dev.setFn_glb (d : Dev) (f : Nat) (x : Fn) : (d.setFn f x).glb = d.glb := rfl
@[simp] theorem Dev.setFn_pmc (d : Dev) (f : Nat) (x : Fn) : (d.setFn f x).pmc = d.pmc := rfl
@[simp] theorem Dev.setFn_pllAt (d : Dev) (f : Nat) (x : Fn) : (d.setFn f x).pllAt = d.pllAt := rfl
@[simp] theorem Dev.setFn_ruus (d : Dev) (f : Nat) (x : Fn) : (d.setFn f x).ruus = d.ruus := rfl
@[simp] theorem Dev.setFn_ftb (d : Dev) (f : Nat) (x : Fn) : (d.setFn f x).ftb = d.ftb := rfl
@[simp] theorem Dev.setFn_tpl (d : Dev) (f : Nat) (x : Fn) : (d.setFn f x).tpl = d.tpl := rfl
@[simp] theorem Dev.setFn_tplPrev (d : Dev) (f : Nat) (x : Fn) : (d.setFn f x).tplPrev = d.tplPrev := rfl
@[simp] theorem Dev.setFn_results (d : Dev) (f : Nat) (x : Fn) : (d.setFn f x).results = d.results := rfl
@[simp] theorem Dev.setFn_pkts (d : Dev) (f : Nat) (x : Fn) : (d.setFn f x).pkts = d.pkts := rfl
@[simp] theorem Dev.setFn_nextPid (d : Dev) (f : Nat) (x : Fn) : (d.setFn f x).nextPid = d.nextPid := rfl
@[simp] theorem Dev.setFn_stg (d : Dev) (f : Nat) (x : Fn) : (d.setFn f x).stg = d.stg := rfl
@[simp] theorem Dev.setFn_overflow (d : Dev) (f : Nat) (x : Fn) : (d.setFn f x).overflow = d.overflow := rfl
@[simp] theorem Dev.setFn_stgLate (d : Dev) (f : Nat) (x : Fn) : (d.setFn f x).stgLate = d.stgLate := rfl
@[simp] theorem Dev.setFn_old (d : Dev) (f : Nat) (x : Fn) : (d.setFn f x).old = d.old := rfl
@[simp] theorem Dev.setFn_turn (d : Dev) (f : Nat) (x : Fn) : (d.setFn f x).turn = d.turn := rfl
@[simp] theorem Dev.setFn_fwd (d : Dev) (f : Nat) (x : Fn) : (d.setFn f x).fwd = d.fwd := rfl
@[simp] theorem Dev.setFn_fwdPrev (d : Dev) (f : Nat) (x : Fn) : (d.setFn f x).fwdPrev = d.fwdPrev := rfl
@[simp] theorem Dev.setFn_l2 (d : Dev) (f : Nat) (x : Fn) : (d.setFn f x).l2 = d.l2 := rfl
@[simp] theorem Dev.setFn_nat (d : Dev) (f : Nat) (x : Fn) : (d.setFn f x).nat = d.nat := rfl
@[simp] theorem Dev.setFn_acl (d : Dev) (f : Nat) (x : Fn) : (d.setFn f x).acl = d.acl := rfl
@[simp] theorem Dev.setFn_shw (d : Dev) (f : Nat) (x : Fn) : (d.setFn f x).shw = d.shw := rfl
@[simp] theorem Dev.setFn_mtr (d : Dev) (f : Nat) (x : Fn) : (d.setFn f x).mtr = d.mtr := rfl
@[simp] theorem Dev.setFn_bsn (d : Dev) (f : Nat) (x : Fn) : (d.setFn f x).bsn = d.bsn := rfl
@[simp] theorem Dev.setFn_eg (d : Dev) (f : Nat) (x : Fn) : (d.setFn f x).eg = d.eg := rfl
@[simp] theorem Dev.setFn_expand (d : Dev) (f : Nat) (x : Fn) : (d.setFn f x).expand = d.expand := rfl
@[simp] theorem Dev.setFn_madeGen (d : Dev) (f : Nat) (x : Fn) : (d.setFn f x).madeGen = d.madeGen := rfl
@[simp] theorem Dev.setFn_dma (d : Dev) (f : Nat) (x : Fn) : (d.setFn f x).dma = d.dma := rfl
@[simp] theorem Dev.setFn_cpm (d : Dev) (f : Nat) (x : Fn) : (d.setFn f x).cpm = d.cpm := rfl
@[simp] theorem Dev.setFn_fsc (d : Dev) (f : Nat) (x : Fn) : (d.setFn f x).fsc = d.fsc := rfl
@[simp] theorem Dev.setFn_threads (d : Dev) (f : Nat) (x : Fn) : (d.setFn f x).threads = d.threads := rfl
@[simp] theorem Dev.setFn_ucs (d : Dev) (f : Nat) (x : Fn) : (d.setFn f x).ucs = d.ucs := rfl
@[simp] theorem Dev.setFn_load (d : Dev) (f : Nat) (x : Fn) : (d.setFn f x).load = d.load := rfl
@[simp] theorem Dev.setFn_tim (d : Dev) (f : Nat) (x : Fn) : (d.setFn f x).tim = d.tim := rfl
@[simp] theorem Dev.setFn_sdl (d : Dev) (f : Nat) (x : Fn) : (d.setFn f x).sdl = d.sdl := rfl
@[simp] theorem Dev.setFn_mram (d : Dev) (f : Nat) (x : Fn) : (d.setFn f x).mram = d.mram := rfl
@[simp] theorem Dev.setFn_sec (d : Dev) (f : Nat) (x : Fn) : (d.setFn f x).sec = d.sec := rfl
@[simp] theorem Dev.setFn_hbc (d : Dev) (f : Nat) (x : Fn) : (d.setFn f x).hbc = d.hbc := rfl
@[simp] theorem Dev.setFn_boot (d : Dev) (f : Nat) (x : Fn) : (d.setFn f x).boot = d.boot := rfl
@[simp] theorem Dev.setFn_mon (d : Dev) (f : Nat) (x : Fn) : (d.setFn f x).mon = d.mon := rfl
@[simp] theorem Dev.setFn_tmp (d : Dev) (f : Nat) (x : Fn) : (d.setFn f x).tmp = d.tmp := rfl
@[simp] theorem Dev.setFn_doe (d : Dev) (f : Nat) (x : Fn) : (d.setFn f x).doe = d.doe := rfl
@[simp] theorem Dev.setFn_out (d : Dev) (f : Nat) (x : Fn) : (d.setFn f x).out = d.out := rfl
@[simp] theorem Dev.setFn_free (d : Dev) (f : Nat) (x : Fn) : (d.setFn f x).free = d.free := rfl

/-! ### `Dev.setVec` -/

@[simp] theorem Dev.setVec_regs (d : Dev) (f v : Nat) (x : MsixVec) : (d.setVec f v x).regs = d.regs := rfl
@[simp] theorem Dev.setVec_act (d : Dev) (f v : Nat) (x : MsixVec) : (d.setVec f v x).act = d.act := rfl
@[simp] theorem Dev.setVec_prev (d : Dev) (f v : Nat) (x : MsixVec) : (d.setVec f v x).prev = d.prev := rfl
@[simp] theorem Dev.setVec_cyc (d : Dev) (f v : Nat) (x : MsixVec) : (d.setVec f v x).cyc = d.cyc := rfl
@[simp] theorem Dev.setVec_dt (d : Dev) (f v : Nat) (x : MsixVec) : (d.setVec f v x).dt = d.dt := rfl
@[simp] theorem Dev.setVec_evq (d : Dev) (f v : Nat) (x : MsixVec) : (d.setVec f v x).evq = d.evq := rfl
@[simp] theorem Dev.setVec_err (d : Dev) (f v : Nat) (x : MsixVec) : (d.setVec f v x).err = d.err := rfl
@[simp] theorem Dev.setVec_glb (d : Dev) (f v : Nat) (x : MsixVec) : (d.setVec f v x).glb = d.glb := rfl
@[simp] theorem Dev.setVec_pmc (d : Dev) (f v : Nat) (x : MsixVec) : (d.setVec f v x).pmc = d.pmc := rfl
@[simp] theorem Dev.setVec_pllAt (d : Dev) (f v : Nat) (x : MsixVec) : (d.setVec f v x).pllAt = d.pllAt := rfl
@[simp] theorem Dev.setVec_ruus (d : Dev) (f v : Nat) (x : MsixVec) : (d.setVec f v x).ruus = d.ruus := rfl
@[simp] theorem Dev.setVec_ftb (d : Dev) (f v : Nat) (x : MsixVec) : (d.setVec f v x).ftb = d.ftb := rfl
@[simp] theorem Dev.setVec_tpl (d : Dev) (f v : Nat) (x : MsixVec) : (d.setVec f v x).tpl = d.tpl := rfl
@[simp] theorem Dev.setVec_tplPrev (d : Dev) (f v : Nat) (x : MsixVec) : (d.setVec f v x).tplPrev = d.tplPrev := rfl
@[simp] theorem Dev.setVec_results (d : Dev) (f v : Nat) (x : MsixVec) : (d.setVec f v x).results = d.results := rfl
@[simp] theorem Dev.setVec_pkts (d : Dev) (f v : Nat) (x : MsixVec) : (d.setVec f v x).pkts = d.pkts := rfl
@[simp] theorem Dev.setVec_nextPid (d : Dev) (f v : Nat) (x : MsixVec) : (d.setVec f v x).nextPid = d.nextPid := rfl
@[simp] theorem Dev.setVec_stg (d : Dev) (f v : Nat) (x : MsixVec) : (d.setVec f v x).stg = d.stg := rfl
@[simp] theorem Dev.setVec_overflow (d : Dev) (f v : Nat) (x : MsixVec) : (d.setVec f v x).overflow = d.overflow := rfl
@[simp] theorem Dev.setVec_stgLate (d : Dev) (f v : Nat) (x : MsixVec) : (d.setVec f v x).stgLate = d.stgLate := rfl
@[simp] theorem Dev.setVec_old (d : Dev) (f v : Nat) (x : MsixVec) : (d.setVec f v x).old = d.old := rfl
@[simp] theorem Dev.setVec_turn (d : Dev) (f v : Nat) (x : MsixVec) : (d.setVec f v x).turn = d.turn := rfl
@[simp] theorem Dev.setVec_fwd (d : Dev) (f v : Nat) (x : MsixVec) : (d.setVec f v x).fwd = d.fwd := rfl
@[simp] theorem Dev.setVec_fwdPrev (d : Dev) (f v : Nat) (x : MsixVec) : (d.setVec f v x).fwdPrev = d.fwdPrev := rfl
@[simp] theorem Dev.setVec_l2 (d : Dev) (f v : Nat) (x : MsixVec) : (d.setVec f v x).l2 = d.l2 := rfl
@[simp] theorem Dev.setVec_nat (d : Dev) (f v : Nat) (x : MsixVec) : (d.setVec f v x).nat = d.nat := rfl
@[simp] theorem Dev.setVec_acl (d : Dev) (f v : Nat) (x : MsixVec) : (d.setVec f v x).acl = d.acl := rfl
@[simp] theorem Dev.setVec_shw (d : Dev) (f v : Nat) (x : MsixVec) : (d.setVec f v x).shw = d.shw := rfl
@[simp] theorem Dev.setVec_mtr (d : Dev) (f v : Nat) (x : MsixVec) : (d.setVec f v x).mtr = d.mtr := rfl
@[simp] theorem Dev.setVec_bsn (d : Dev) (f v : Nat) (x : MsixVec) : (d.setVec f v x).bsn = d.bsn := rfl
@[simp] theorem Dev.setVec_eg (d : Dev) (f v : Nat) (x : MsixVec) : (d.setVec f v x).eg = d.eg := rfl
@[simp] theorem Dev.setVec_expand (d : Dev) (f v : Nat) (x : MsixVec) : (d.setVec f v x).expand = d.expand := rfl
@[simp] theorem Dev.setVec_madeGen (d : Dev) (f v : Nat) (x : MsixVec) : (d.setVec f v x).madeGen = d.madeGen := rfl
@[simp] theorem Dev.setVec_dma (d : Dev) (f v : Nat) (x : MsixVec) : (d.setVec f v x).dma = d.dma := rfl
@[simp] theorem Dev.setVec_cpm (d : Dev) (f v : Nat) (x : MsixVec) : (d.setVec f v x).cpm = d.cpm := rfl
@[simp] theorem Dev.setVec_fsc (d : Dev) (f v : Nat) (x : MsixVec) : (d.setVec f v x).fsc = d.fsc := rfl
@[simp] theorem Dev.setVec_threads (d : Dev) (f v : Nat) (x : MsixVec) : (d.setVec f v x).threads = d.threads := rfl
@[simp] theorem Dev.setVec_ucs (d : Dev) (f v : Nat) (x : MsixVec) : (d.setVec f v x).ucs = d.ucs := rfl
@[simp] theorem Dev.setVec_load (d : Dev) (f v : Nat) (x : MsixVec) : (d.setVec f v x).load = d.load := rfl
@[simp] theorem Dev.setVec_tim (d : Dev) (f v : Nat) (x : MsixVec) : (d.setVec f v x).tim = d.tim := rfl
@[simp] theorem Dev.setVec_sdl (d : Dev) (f v : Nat) (x : MsixVec) : (d.setVec f v x).sdl = d.sdl := rfl
@[simp] theorem Dev.setVec_mram (d : Dev) (f v : Nat) (x : MsixVec) : (d.setVec f v x).mram = d.mram := rfl
@[simp] theorem Dev.setVec_sec (d : Dev) (f v : Nat) (x : MsixVec) : (d.setVec f v x).sec = d.sec := rfl
@[simp] theorem Dev.setVec_hbc (d : Dev) (f v : Nat) (x : MsixVec) : (d.setVec f v x).hbc = d.hbc := rfl
@[simp] theorem Dev.setVec_boot (d : Dev) (f v : Nat) (x : MsixVec) : (d.setVec f v x).boot = d.boot := rfl
@[simp] theorem Dev.setVec_mon (d : Dev) (f v : Nat) (x : MsixVec) : (d.setVec f v x).mon = d.mon := rfl
@[simp] theorem Dev.setVec_tmp (d : Dev) (f v : Nat) (x : MsixVec) : (d.setVec f v x).tmp = d.tmp := rfl
@[simp] theorem Dev.setVec_doe (d : Dev) (f v : Nat) (x : MsixVec) : (d.setVec f v x).doe = d.doe := rfl
@[simp] theorem Dev.setVec_out (d : Dev) (f v : Nat) (x : MsixVec) : (d.setVec f v x).out = d.out := rfl
@[simp] theorem Dev.setVec_free (d : Dev) (f v : Nat) (x : MsixVec) : (d.setVec f v x).free = d.free := rfl

/-! ### `Dev.setQueue` -/

@[simp] theorem Dev.setQueue_regs (d : Dev) (q : Nat) (x : EvQueue) : (d.setQueue q x).regs = d.regs := rfl
@[simp] theorem Dev.setQueue_act (d : Dev) (q : Nat) (x : EvQueue) : (d.setQueue q x).act = d.act := rfl
@[simp] theorem Dev.setQueue_prev (d : Dev) (q : Nat) (x : EvQueue) : (d.setQueue q x).prev = d.prev := rfl
@[simp] theorem Dev.setQueue_cyc (d : Dev) (q : Nat) (x : EvQueue) : (d.setQueue q x).cyc = d.cyc := rfl
@[simp] theorem Dev.setQueue_dt (d : Dev) (q : Nat) (x : EvQueue) : (d.setQueue q x).dt = d.dt := rfl
@[simp] theorem Dev.setQueue_fab (d : Dev) (q : Nat) (x : EvQueue) : (d.setQueue q x).fab = d.fab := rfl
@[simp] theorem Dev.setQueue_err (d : Dev) (q : Nat) (x : EvQueue) : (d.setQueue q x).err = d.err := rfl
@[simp] theorem Dev.setQueue_glb (d : Dev) (q : Nat) (x : EvQueue) : (d.setQueue q x).glb = d.glb := rfl
@[simp] theorem Dev.setQueue_pmc (d : Dev) (q : Nat) (x : EvQueue) : (d.setQueue q x).pmc = d.pmc := rfl
@[simp] theorem Dev.setQueue_pllAt (d : Dev) (q : Nat) (x : EvQueue) : (d.setQueue q x).pllAt = d.pllAt := rfl
@[simp] theorem Dev.setQueue_ruus (d : Dev) (q : Nat) (x : EvQueue) : (d.setQueue q x).ruus = d.ruus := rfl
@[simp] theorem Dev.setQueue_ftb (d : Dev) (q : Nat) (x : EvQueue) : (d.setQueue q x).ftb = d.ftb := rfl
@[simp] theorem Dev.setQueue_tpl (d : Dev) (q : Nat) (x : EvQueue) : (d.setQueue q x).tpl = d.tpl := rfl
@[simp] theorem Dev.setQueue_tplPrev (d : Dev) (q : Nat) (x : EvQueue) : (d.setQueue q x).tplPrev = d.tplPrev := rfl
@[simp] theorem Dev.setQueue_results (d : Dev) (q : Nat) (x : EvQueue) : (d.setQueue q x).results = d.results := rfl
@[simp] theorem Dev.setQueue_pkts (d : Dev) (q : Nat) (x : EvQueue) : (d.setQueue q x).pkts = d.pkts := rfl
@[simp] theorem Dev.setQueue_nextPid (d : Dev) (q : Nat) (x : EvQueue) : (d.setQueue q x).nextPid = d.nextPid := rfl
@[simp] theorem Dev.setQueue_stg (d : Dev) (q : Nat) (x : EvQueue) : (d.setQueue q x).stg = d.stg := rfl
@[simp] theorem Dev.setQueue_overflow (d : Dev) (q : Nat) (x : EvQueue) : (d.setQueue q x).overflow = d.overflow := rfl
@[simp] theorem Dev.setQueue_stgLate (d : Dev) (q : Nat) (x : EvQueue) : (d.setQueue q x).stgLate = d.stgLate := rfl
@[simp] theorem Dev.setQueue_old (d : Dev) (q : Nat) (x : EvQueue) : (d.setQueue q x).old = d.old := rfl
@[simp] theorem Dev.setQueue_turn (d : Dev) (q : Nat) (x : EvQueue) : (d.setQueue q x).turn = d.turn := rfl
@[simp] theorem Dev.setQueue_fwd (d : Dev) (q : Nat) (x : EvQueue) : (d.setQueue q x).fwd = d.fwd := rfl
@[simp] theorem Dev.setQueue_fwdPrev (d : Dev) (q : Nat) (x : EvQueue) : (d.setQueue q x).fwdPrev = d.fwdPrev := rfl
@[simp] theorem Dev.setQueue_l2 (d : Dev) (q : Nat) (x : EvQueue) : (d.setQueue q x).l2 = d.l2 := rfl
@[simp] theorem Dev.setQueue_nat (d : Dev) (q : Nat) (x : EvQueue) : (d.setQueue q x).nat = d.nat := rfl
@[simp] theorem Dev.setQueue_acl (d : Dev) (q : Nat) (x : EvQueue) : (d.setQueue q x).acl = d.acl := rfl
@[simp] theorem Dev.setQueue_shw (d : Dev) (q : Nat) (x : EvQueue) : (d.setQueue q x).shw = d.shw := rfl
@[simp] theorem Dev.setQueue_mtr (d : Dev) (q : Nat) (x : EvQueue) : (d.setQueue q x).mtr = d.mtr := rfl
@[simp] theorem Dev.setQueue_bsn (d : Dev) (q : Nat) (x : EvQueue) : (d.setQueue q x).bsn = d.bsn := rfl
@[simp] theorem Dev.setQueue_eg (d : Dev) (q : Nat) (x : EvQueue) : (d.setQueue q x).eg = d.eg := rfl
@[simp] theorem Dev.setQueue_expand (d : Dev) (q : Nat) (x : EvQueue) : (d.setQueue q x).expand = d.expand := rfl
@[simp] theorem Dev.setQueue_madeGen (d : Dev) (q : Nat) (x : EvQueue) : (d.setQueue q x).madeGen = d.madeGen := rfl
@[simp] theorem Dev.setQueue_dma (d : Dev) (q : Nat) (x : EvQueue) : (d.setQueue q x).dma = d.dma := rfl
@[simp] theorem Dev.setQueue_cpm (d : Dev) (q : Nat) (x : EvQueue) : (d.setQueue q x).cpm = d.cpm := rfl
@[simp] theorem Dev.setQueue_fsc (d : Dev) (q : Nat) (x : EvQueue) : (d.setQueue q x).fsc = d.fsc := rfl
@[simp] theorem Dev.setQueue_threads (d : Dev) (q : Nat) (x : EvQueue) : (d.setQueue q x).threads = d.threads := rfl
@[simp] theorem Dev.setQueue_ucs (d : Dev) (q : Nat) (x : EvQueue) : (d.setQueue q x).ucs = d.ucs := rfl
@[simp] theorem Dev.setQueue_load (d : Dev) (q : Nat) (x : EvQueue) : (d.setQueue q x).load = d.load := rfl
@[simp] theorem Dev.setQueue_tim (d : Dev) (q : Nat) (x : EvQueue) : (d.setQueue q x).tim = d.tim := rfl
@[simp] theorem Dev.setQueue_sdl (d : Dev) (q : Nat) (x : EvQueue) : (d.setQueue q x).sdl = d.sdl := rfl
@[simp] theorem Dev.setQueue_mram (d : Dev) (q : Nat) (x : EvQueue) : (d.setQueue q x).mram = d.mram := rfl
@[simp] theorem Dev.setQueue_sec (d : Dev) (q : Nat) (x : EvQueue) : (d.setQueue q x).sec = d.sec := rfl
@[simp] theorem Dev.setQueue_hbc (d : Dev) (q : Nat) (x : EvQueue) : (d.setQueue q x).hbc = d.hbc := rfl
@[simp] theorem Dev.setQueue_boot (d : Dev) (q : Nat) (x : EvQueue) : (d.setQueue q x).boot = d.boot := rfl
@[simp] theorem Dev.setQueue_mon (d : Dev) (q : Nat) (x : EvQueue) : (d.setQueue q x).mon = d.mon := rfl
@[simp] theorem Dev.setQueue_tmp (d : Dev) (q : Nat) (x : EvQueue) : (d.setQueue q x).tmp = d.tmp := rfl
@[simp] theorem Dev.setQueue_doe (d : Dev) (q : Nat) (x : EvQueue) : (d.setQueue q x).doe = d.doe := rfl
@[simp] theorem Dev.setQueue_out (d : Dev) (q : Nat) (x : EvQueue) : (d.setQueue q x).out = d.out := rfl
@[simp] theorem Dev.setQueue_free (d : Dev) (q : Nat) (x : EvQueue) : (d.setQueue q x).free = d.free := rfl

/-! ### `Dev.setChan` -/

@[simp] theorem Dev.setChan_regs (d : Dev) (c : Nat) (x : DmaChan) : (d.setChan c x).regs = d.regs := rfl
@[simp] theorem Dev.setChan_act (d : Dev) (c : Nat) (x : DmaChan) : (d.setChan c x).act = d.act := rfl
@[simp] theorem Dev.setChan_prev (d : Dev) (c : Nat) (x : DmaChan) : (d.setChan c x).prev = d.prev := rfl
@[simp] theorem Dev.setChan_cyc (d : Dev) (c : Nat) (x : DmaChan) : (d.setChan c x).cyc = d.cyc := rfl
@[simp] theorem Dev.setChan_dt (d : Dev) (c : Nat) (x : DmaChan) : (d.setChan c x).dt = d.dt := rfl
@[simp] theorem Dev.setChan_fab (d : Dev) (c : Nat) (x : DmaChan) : (d.setChan c x).fab = d.fab := rfl
@[simp] theorem Dev.setChan_evq (d : Dev) (c : Nat) (x : DmaChan) : (d.setChan c x).evq = d.evq := rfl
@[simp] theorem Dev.setChan_err (d : Dev) (c : Nat) (x : DmaChan) : (d.setChan c x).err = d.err := rfl
@[simp] theorem Dev.setChan_glb (d : Dev) (c : Nat) (x : DmaChan) : (d.setChan c x).glb = d.glb := rfl
@[simp] theorem Dev.setChan_pmc (d : Dev) (c : Nat) (x : DmaChan) : (d.setChan c x).pmc = d.pmc := rfl
@[simp] theorem Dev.setChan_pllAt (d : Dev) (c : Nat) (x : DmaChan) : (d.setChan c x).pllAt = d.pllAt := rfl
@[simp] theorem Dev.setChan_ruus (d : Dev) (c : Nat) (x : DmaChan) : (d.setChan c x).ruus = d.ruus := rfl
@[simp] theorem Dev.setChan_ftb (d : Dev) (c : Nat) (x : DmaChan) : (d.setChan c x).ftb = d.ftb := rfl
@[simp] theorem Dev.setChan_tpl (d : Dev) (c : Nat) (x : DmaChan) : (d.setChan c x).tpl = d.tpl := rfl
@[simp] theorem Dev.setChan_tplPrev (d : Dev) (c : Nat) (x : DmaChan) : (d.setChan c x).tplPrev = d.tplPrev := rfl
@[simp] theorem Dev.setChan_results (d : Dev) (c : Nat) (x : DmaChan) : (d.setChan c x).results = d.results := rfl
@[simp] theorem Dev.setChan_pkts (d : Dev) (c : Nat) (x : DmaChan) : (d.setChan c x).pkts = d.pkts := rfl
@[simp] theorem Dev.setChan_nextPid (d : Dev) (c : Nat) (x : DmaChan) : (d.setChan c x).nextPid = d.nextPid := rfl
@[simp] theorem Dev.setChan_stg (d : Dev) (c : Nat) (x : DmaChan) : (d.setChan c x).stg = d.stg := rfl
@[simp] theorem Dev.setChan_overflow (d : Dev) (c : Nat) (x : DmaChan) : (d.setChan c x).overflow = d.overflow := rfl
@[simp] theorem Dev.setChan_stgLate (d : Dev) (c : Nat) (x : DmaChan) : (d.setChan c x).stgLate = d.stgLate := rfl
@[simp] theorem Dev.setChan_old (d : Dev) (c : Nat) (x : DmaChan) : (d.setChan c x).old = d.old := rfl
@[simp] theorem Dev.setChan_turn (d : Dev) (c : Nat) (x : DmaChan) : (d.setChan c x).turn = d.turn := rfl
@[simp] theorem Dev.setChan_fwd (d : Dev) (c : Nat) (x : DmaChan) : (d.setChan c x).fwd = d.fwd := rfl
@[simp] theorem Dev.setChan_fwdPrev (d : Dev) (c : Nat) (x : DmaChan) : (d.setChan c x).fwdPrev = d.fwdPrev := rfl
@[simp] theorem Dev.setChan_l2 (d : Dev) (c : Nat) (x : DmaChan) : (d.setChan c x).l2 = d.l2 := rfl
@[simp] theorem Dev.setChan_nat (d : Dev) (c : Nat) (x : DmaChan) : (d.setChan c x).nat = d.nat := rfl
@[simp] theorem Dev.setChan_acl (d : Dev) (c : Nat) (x : DmaChan) : (d.setChan c x).acl = d.acl := rfl
@[simp] theorem Dev.setChan_shw (d : Dev) (c : Nat) (x : DmaChan) : (d.setChan c x).shw = d.shw := rfl
@[simp] theorem Dev.setChan_mtr (d : Dev) (c : Nat) (x : DmaChan) : (d.setChan c x).mtr = d.mtr := rfl
@[simp] theorem Dev.setChan_bsn (d : Dev) (c : Nat) (x : DmaChan) : (d.setChan c x).bsn = d.bsn := rfl
@[simp] theorem Dev.setChan_eg (d : Dev) (c : Nat) (x : DmaChan) : (d.setChan c x).eg = d.eg := rfl
@[simp] theorem Dev.setChan_expand (d : Dev) (c : Nat) (x : DmaChan) : (d.setChan c x).expand = d.expand := rfl
@[simp] theorem Dev.setChan_madeGen (d : Dev) (c : Nat) (x : DmaChan) : (d.setChan c x).madeGen = d.madeGen := rfl
@[simp] theorem Dev.setChan_cpm (d : Dev) (c : Nat) (x : DmaChan) : (d.setChan c x).cpm = d.cpm := rfl
@[simp] theorem Dev.setChan_fsc (d : Dev) (c : Nat) (x : DmaChan) : (d.setChan c x).fsc = d.fsc := rfl
@[simp] theorem Dev.setChan_threads (d : Dev) (c : Nat) (x : DmaChan) : (d.setChan c x).threads = d.threads := rfl
@[simp] theorem Dev.setChan_ucs (d : Dev) (c : Nat) (x : DmaChan) : (d.setChan c x).ucs = d.ucs := rfl
@[simp] theorem Dev.setChan_load (d : Dev) (c : Nat) (x : DmaChan) : (d.setChan c x).load = d.load := rfl
@[simp] theorem Dev.setChan_tim (d : Dev) (c : Nat) (x : DmaChan) : (d.setChan c x).tim = d.tim := rfl
@[simp] theorem Dev.setChan_sdl (d : Dev) (c : Nat) (x : DmaChan) : (d.setChan c x).sdl = d.sdl := rfl
@[simp] theorem Dev.setChan_mram (d : Dev) (c : Nat) (x : DmaChan) : (d.setChan c x).mram = d.mram := rfl
@[simp] theorem Dev.setChan_sec (d : Dev) (c : Nat) (x : DmaChan) : (d.setChan c x).sec = d.sec := rfl
@[simp] theorem Dev.setChan_hbc (d : Dev) (c : Nat) (x : DmaChan) : (d.setChan c x).hbc = d.hbc := rfl
@[simp] theorem Dev.setChan_boot (d : Dev) (c : Nat) (x : DmaChan) : (d.setChan c x).boot = d.boot := rfl
@[simp] theorem Dev.setChan_mon (d : Dev) (c : Nat) (x : DmaChan) : (d.setChan c x).mon = d.mon := rfl
@[simp] theorem Dev.setChan_tmp (d : Dev) (c : Nat) (x : DmaChan) : (d.setChan c x).tmp = d.tmp := rfl
@[simp] theorem Dev.setChan_doe (d : Dev) (c : Nat) (x : DmaChan) : (d.setChan c x).doe = d.doe := rfl
@[simp] theorem Dev.setChan_out (d : Dev) (c : Nat) (x : DmaChan) : (d.setChan c x).out = d.out := rfl
@[simp] theorem Dev.setChan_free (d : Dev) (c : Nat) (x : DmaChan) : (d.setChan c x).free = d.free := rfl

@[simp] theorem Dev.emit_out (d : Dev) (o : Out) : (d.emit o).out = d.out ++ [o] := rfl

/-! ### The chip and the whole state -/

@[simp] theorem Chip.upd_dev (c : Chip) (f : Dev → Dev) : (c.upd f).dev = f c.dev := rfl
@[simp] theorem Chip.upd_hbm (c : Chip) (f : Dev → Dev) : (c.upd f).hbm = c.hbm := rfl
@[simp] theorem State.upd_pending (s : State) (f : Dev → Dev) : (s.upd f).pending = s.pending := rfl
@[simp] theorem State.upd_dev (s : State) (f : Dev → Dev) : (s.upd f).chip.dev = f s.chip.dev := rfl
@[simp] theorem State.upd_hbm (s : State) (f : Dev → Dev) : (s.upd f).chip.hbm = s.chip.hbm := rfl
@[simp] theorem State.updC_pending (s : State) (f : Chip → Chip) : (s.updC f).pending = s.pending := rfl
@[simp] theorem State.updC_chip (s : State) (f : Chip → Chip) : (s.updC f).chip = f s.chip := rfl

/-- A meaning that changes only the device completes: its next state has the queue and HBM as before. -/
theorem nextD_eq (s : State) (f : Dev → Dev) : nextD s f = .next (s.upd f) := rfl
theorem nextC_eq (s : State) (f : Chip → Chip) : nextC s f = .next (s.updC f) := rfl

/-! ### Register fields -/

/-- A field just set reads back, cut to its width. -/
@[simp] theorem Dev.get_set_same (d : Dev) (f : Fld) (v i j : Nat) : (d.set f v i j).get f i j = v % 2 ^ f.w :=
  Tab.get_put_same ..

/-- A set leaves every field of another bit address alone. -/
theorem Dev.get_set_ne (d : Dev) (f g : Fld) (v i j i' j' : Nat) (h : g.key i' j' ≠ f.key i j) :
    (d.set f v i j).get g i' j' = d.get g i' j' :=
  Tab.get_put_ne _ _ _ _ h

/-- The active and previous values of staged fields do not follow a set. -/
@[simp] theorem Dev.cfg_set (d : Dev) (f g : Fld) (v i j i' j' : Nat) : (d.set f v i j).cfg g i' j' = d.cfg g i' j' := rfl

theorem Dev.find_set_ne (d : Dev) (f : Fld) (v i j : Nat) {k : Nat} (h : k ≠ f.key i j) :
    Tab.find (d.set f v i j).regs k = Tab.find d.regs k :=
  Tab.find_put_ne _ _ _ h

/-- A field that counts reads its old value and the amount, cut to its width. -/
theorem Dev.get_bump_same (d : Dev) (f : Fld) (n i j : Nat) : (d.bump f n i j).get f i j = (d.get f i j + n) % 2 ^ f.w :=
  Dev.get_set_same ..

theorem Dev.get_bump_ne (d : Dev) (f g : Fld) (n i j i' j' : Nat) (h : g.key i' j' ≠ f.key i j) :
    (d.bump f n i j).get g i' j' = d.get g i' j' :=
  Dev.get_set_ne _ _ _ _ _ _ _ _ h

end Sys2Proof.Machine
end

