-- ==== Sys2Proof/Laws/Ops.lean ====
section
/-! SUPPORT. Laws of the shared operations: counting, status bits, interrupts and requests touch only register fields, counter banks,
MSI-X tables and the output, and of the register fields only the status words of a page header. -/

namespace Sys2Proof.Machine

/-! ### What counting and interrupts never touch -/

@[simp] theorem Dev.beside_set (d : Dev) (f : Fld) (v i j : Nat) : (d.set f v i j).beside = d.beside := rfl
@[simp] theorem Dev.beside_bump (d : Dev) (f : Fld) (n i j : Nat) : (d.bump f n i j).beside = d.beside := rfl
@[simp] theorem Dev.beside_emit (d : Dev) (o : Out) : (d.emit o).beside = d.beside := rfl
@[simp] theorem Dev.beside_setCtr (d : Dev) (p k : Nat) (c : Ctr) : (d.setCtr p k c).beside = d.beside := rfl
@[simp] theorem Dev.beside_setVec (d : Dev) (f v : Nat) (x : MsixVec) : (d.setVec f v x).beside = d.beside := rfl

/-- The keys of the status words of a page: IRQ_STATUS and IRQ_FIRST. -/
def irqKeys (b : Blk) (i : Nat) : List Nat :=
  [(HDR.IRQ_STATUS b).key i 0, (HDR.IRQ_FIRST.Bit b).key i 0, (HDR.IRQ_FIRST.Forced b).key i 0, (HDR.IRQ_FIRST.Valid b).key i 0]

/-- The keys that status bits of an instance may change: its own and HIF's. -/
def eventKeys (b : Blk) (i : Nat) : List Nat := irqKeys b i ++ irqKeys .hif 0

/-! ### Counters -/

theorem Dev.ctrStep_beside (d : Dev) (b : Blk) (i code n : Nat) (level : Bool) (k : Nat) :
    (d.ctrStep b i code n level k).1.beside = d.beside := by
  unfold Dev.ctrStep
  split
  · rfl
  · dsimp only
    split <;> rfl

@[simp] theorem Dev.ctrStep_regs (d : Dev) (b : Blk) (i code n : Nat) (level : Bool) (k : Nat) :
    (d.ctrStep b i code n level k).1.regs = d.regs := by
  unfold Dev.ctrStep
  split
  · rfl
  · dsimp only
    split <;> rfl

@[simp] theorem Dev.ctrStep_out (d : Dev) (b : Blk) (i code n : Nat) (level : Bool) (k : Nat) :
    (d.ctrStep b i code n level k).1.out = d.out := by
  unfold Dev.ctrStep
  split
  · rfl
  · dsimp only
    split <;> rfl

/-- A property that every step of a fold keeps, the fold keeps. -/
theorem foldl_keeps {α β γ : Type} (f : α → β → α) (g : α → γ) (hf : ∀ a x, g (f a x) = g a) (l : List β) (a : α) :
    g (l.foldl f a) = g a := by
  induction l generalizing a with
  | nil => rfl
  | cons x l ih => rw [List.foldl_cons, ih, hf]

@[simp] theorem Dev.ctrAdd_beside (d : Dev) (b : Blk) (i code n : Nat) (level : Bool) : (d.ctrAdd b i code n level).1.beside = d.beside := by
  unfold Dev.ctrAdd
  generalize List.range 16 = l
  refine foldl_keeps _ (fun p : Dev × Bool => p.1.beside) ?_ l (d, false)
  exact fun p k => Dev.ctrStep_beside p.1 b i code n level k

@[simp] theorem Dev.ctrAdd_regs (d : Dev) (b : Blk) (i code n : Nat) (level : Bool) : (d.ctrAdd b i code n level).1.regs = d.regs := by
  unfold Dev.ctrAdd
  generalize List.range 16 = l
  refine foldl_keeps _ (fun p : Dev × Bool => p.1.regs) ?_ l (d, false)
  exact fun p k => Dev.ctrStep_regs p.1 b i code n level k

@[simp] theorem Dev.ctrAdd_out (d : Dev) (b : Blk) (i code n : Nat) (level : Bool) : (d.ctrAdd b i code n level).1.out = d.out := by
  unfold Dev.ctrAdd
  generalize List.range 16 = l
  refine foldl_keeps _ (fun p : Dev × Bool => p.1.out) ?_ l (d, false)
  exact fun p k => Dev.ctrStep_out p.1 b i code n level k

/-! ### Status bits and messages -/

@[simp] theorem Dev.orStatus_beside (d : Dev) (b : Blk) (i m : Nat) (forced : Bool) : (d.orStatus b i m forced).beside = d.beside := by
  unfold Dev.orStatus
  dsimp only
  split <;> rfl

theorem Dev.orStatus_find (d : Dev) (b : Blk) (i m : Nat) (forced : Bool) {k : Nat} (h : k ∉ irqKeys b i) :
    Tab.find (d.orStatus b i m forced).regs k = Tab.find d.regs k := by
  simp only [irqKeys, List.mem_cons, List.not_mem_nil, or_false, not_or] at h
  obtain ⟨h0, h1, h2, h3⟩ := h
  unfold Dev.orStatus
  dsimp only
  split
  · rw [Dev.find_set_ne _ _ _ _ _ h0]
  · rw [Dev.find_set_ne _ _ _ _ _ h3, Dev.find_set_ne _ _ _ _ _ h2, Dev.find_set_ne _ _ _ _ _ h1, Dev.find_set_ne _ _ _ _ _ h0]

@[simp] theorem Dev.sendMsix_beside (k : Nat) (d : Dev) (f v : Nat) : (Dev.sendMsix k d f v).beside = d.beside := by
  induction k generalizing d f v with
  | zero => rfl
  | succ k ih =>
    simp only [Dev.sendMsix]
    split
    · rfl
    · split
      · split
        · rw [ih, Dev.orStatus_beside, Dev.ctrAdd_beside]; rfl
        · rw [Dev.orStatus_beside, Dev.ctrAdd_beside]; rfl
      · rw [Dev.ctrAdd_beside]; rfl

theorem Dev.sendMsix_find (k : Nat) (d : Dev) (f v : Nat) {x : Nat} (h : x ∉ irqKeys .hif 0) :
    Tab.find (Dev.sendMsix k d f v).regs x = Tab.find d.regs x := by
  induction k generalizing d f v with
  | zero => rfl
  | succ k ih =>
    simp only [Dev.sendMsix]
    split
    · rfl
    · split
      · split
        · rw [ih, Dev.orStatus_find _ _ _ _ _ h, Dev.ctrAdd_regs]; rfl
        · rw [Dev.orStatus_find _ _ _ _ _ h, Dev.ctrAdd_regs]; rfl
      · rw [Dev.ctrAdd_regs]; rfl

@[simp] theorem Dev.signal_beside (d : Dev) (b : Blk) (i : Nat) : (d.signal b i).beside = d.beside := by
  simp only [Dev.signal]
  split
  · exact Dev.sendMsix_beside ..
  · rfl

theorem Dev.signal_find (d : Dev) (b : Blk) (i : Nat) {x : Nat} (h : x ∉ irqKeys .hif 0) :
    Tab.find (d.signal b i).regs x = Tab.find d.regs x := by
  simp only [Dev.signal]
  split
  · exact Dev.sendMsix_find _ _ _ _ h
  · rfl

@[simp] theorem Dev.raiseIrq_beside (d : Dev) (b : Blk) (i m : Nat) (forced : Bool) : (d.raiseIrq b i m forced).beside = d.beside := by
  simp only [Dev.raiseIrq]
  split
  · rw [Dev.signal_beside, Dev.orStatus_beside]
  · rw [Dev.orStatus_beside]

theorem Dev.raiseIrq_find (d : Dev) (b : Blk) (i m : Nat) (forced : Bool) {x : Nat} (h : x ∉ eventKeys b i) :
    Tab.find (d.raiseIrq b i m forced).regs x = Tab.find d.regs x := by
  simp only [eventKeys, List.mem_append, not_or] at h
  simp only [Dev.raiseIrq]
  split
  · rw [Dev.signal_find _ _ _ h.2, Dev.orStatus_find _ _ _ _ _ h.1]
  · rw [Dev.orStatus_find _ _ _ _ _ h.1]

@[simp] theorem Dev.event_beside (d : Dev) (b : Blk) (i e : Nat) : (d.event b i e).beside = d.beside := Dev.raiseIrq_beside ..

theorem Dev.event_find (d : Dev) (b : Blk) (i e : Nat) {x : Nat} (h : x ∉ eventKeys b i) :
    Tab.find (d.event b i e).regs x = Tab.find d.regs x := Dev.raiseIrq_find _ _ _ _ _ h

@[simp] theorem Dev.count_beside (d : Dev) (b : Blk) (i code n : Nat) : (d.count b i code n).beside = d.beside := by
  simp only [Dev.count]
  split
  · rw [Dev.raiseIrq_beside, Dev.ctrAdd_beside]
  · rw [Dev.ctrAdd_beside]

/-- Counting changes no register field but the status words of the page that counts and of HIF. -/
theorem Dev.count_find (d : Dev) (b : Blk) (i code n : Nat) {x : Nat} (h : x ∉ eventKeys b i) :
    Tab.find (d.count b i code n).regs x = Tab.find d.regs x := by
  simp only [Dev.count]
  split
  · rw [Dev.raiseIrq_find _ _ _ _ _ h, Dev.ctrAdd_regs]
  · rw [Dev.ctrAdd_regs]

@[simp] theorem Dev.request_beside (d : Dev) (f : Nat) : (d.request f).beside = d.beside := by
  simp only [Dev.request]
  split
  · rfl
  · exact Dev.count_beside ..

/-- A request is counted in HIF's bank and changes no register field but HIF's status words. -/
theorem Dev.request_find (d : Dev) (f : Nat) {x : Nat} (h : x ∉ irqKeys .hif 0) :
    Tab.find (d.request f).regs x = Tab.find d.regs x := by
  simp only [Dev.request]
  split
  · rfl
  · exact Dev.count_find _ _ _ _ _ (by simp only [eventKeys, List.mem_append, or_self]; exact h)

/-! ### Fields read through counting and events -/

theorem Dev.get_eq_find (d : Dev) (f : Fld) (i j : Nat) : d.get f i j = (Tab.find d.regs (f.key i j)).getD (f.reset j) :=
  Tab.get_eq_find ..

theorem Dev.get_of_find {d e : Dev} {f : Fld} {i j : Nat} (h : Tab.find d.regs (f.key i j) = Tab.find e.regs (f.key i j)) :
    d.get f i j = e.get f i j := by
  rw [Dev.get_eq_find, Dev.get_eq_find, h]

theorem Dev.count_get (d : Dev) (b : Blk) (i code n : Nat) (g : Fld) (i' j' : Nat) (h : g.key i' j' ∉ eventKeys b i) :
    (d.count b i code n).get g i' j' = d.get g i' j' := Dev.get_of_find (Dev.count_find _ _ _ _ _ h)

theorem Dev.event_get (d : Dev) (b : Blk) (i e : Nat) (g : Fld) (i' j' : Nat) (h : g.key i' j' ∉ eventKeys b i) :
    (d.event b i e).get g i' j' = d.get g i' j' := Dev.get_of_find (Dev.event_find _ _ _ _ h)

theorem Dev.raiseIrq_get (d : Dev) (b : Blk) (i m : Nat) (forced : Bool) (g : Fld) (i' j' : Nat) (h : g.key i' j' ∉ eventKeys b i) :
    (d.raiseIrq b i m forced).get g i' j' = d.get g i' j' := Dev.get_of_find (Dev.raiseIrq_find _ _ _ _ _ h)

theorem Dev.request_get (d : Dev) (f : Nat) (g : Fld) (i' j' : Nat) (h : g.key i' j' ∉ irqKeys .hif 0) :
    (d.request f).get g i' j' = d.get g i' j' := Dev.get_of_find (Dev.request_find _ _ h)

/-! ### Parts of devices that agree beside registers, counters, MSI-X tables and output -/

theorem Dev.of_beside_act {d e : Dev} (h : d.beside = e.beside) : d.act = e.act := by
  have := congrArg Dev.act h; exact this
theorem Dev.of_beside_prev {d e : Dev} (h : d.beside = e.beside) : d.prev = e.prev := by
  have := congrArg Dev.prev h; exact this
theorem Dev.of_beside_cyc {d e : Dev} (h : d.beside = e.beside) : d.cyc = e.cyc := by
  have := congrArg Dev.cyc h; exact this
theorem Dev.of_beside_dt {d e : Dev} (h : d.beside = e.beside) : d.dt = e.dt := by
  have := congrArg Dev.dt h; exact this
theorem Dev.of_beside_evq {d e : Dev} (h : d.beside = e.beside) : d.evq = e.evq := by
  have := congrArg Dev.evq h; exact this
theorem Dev.of_beside_err {d e : Dev} (h : d.beside = e.beside) : d.err = e.err := by
  have := congrArg Dev.err h; exact this
theorem Dev.of_beside_glb {d e : Dev} (h : d.beside = e.beside) : d.glb = e.glb := by
  have := congrArg Dev.glb h; exact this
theorem Dev.of_beside_pmc {d e : Dev} (h : d.beside = e.beside) : d.pmc = e.pmc := by
  have := congrArg Dev.pmc h; exact this
theorem Dev.of_beside_pllAt {d e : Dev} (h : d.beside = e.beside) : d.pllAt = e.pllAt := by
  have := congrArg Dev.pllAt h; exact this
theorem Dev.of_beside_ruus {d e : Dev} (h : d.beside = e.beside) : d.ruus = e.ruus := by
  have := congrArg Dev.ruus h; exact this
theorem Dev.of_beside_ftb {d e : Dev} (h : d.beside = e.beside) : d.ftb = e.ftb := by
  have := congrArg Dev.ftb h; exact this
theorem Dev.of_beside_tpl {d e : Dev} (h : d.beside = e.beside) : d.tpl = e.tpl := by
  have := congrArg Dev.tpl h; exact this
theorem Dev.of_beside_tplPrev {d e : Dev} (h : d.beside = e.beside) : d.tplPrev = e.tplPrev := by
  have := congrArg Dev.tplPrev h; exact this
theorem Dev.of_beside_results {d e : Dev} (h : d.beside = e.beside) : d.results = e.results := by
  have := congrArg Dev.results h; exact this
theorem Dev.of_beside_pkts {d e : Dev} (h : d.beside = e.beside) : d.pkts = e.pkts := by
  have := congrArg Dev.pkts h; exact this
theorem Dev.of_beside_nextPid {d e : Dev} (h : d.beside = e.beside) : d.nextPid = e.nextPid := by
  have := congrArg Dev.nextPid h; exact this
theorem Dev.of_beside_stg {d e : Dev} (h : d.beside = e.beside) : d.stg = e.stg := by
  have := congrArg Dev.stg h; exact this
theorem Dev.of_beside_overflow {d e : Dev} (h : d.beside = e.beside) : d.overflow = e.overflow := by
  have := congrArg Dev.overflow h; exact this
theorem Dev.of_beside_fwd {d e : Dev} (h : d.beside = e.beside) : d.fwd = e.fwd := by
  have := congrArg Dev.fwd h; exact this
theorem Dev.of_beside_fwdPrev {d e : Dev} (h : d.beside = e.beside) : d.fwdPrev = e.fwdPrev := by
  have := congrArg Dev.fwdPrev h; exact this
theorem Dev.of_beside_l2 {d e : Dev} (h : d.beside = e.beside) : d.l2 = e.l2 := by
  have := congrArg Dev.l2 h; exact this
theorem Dev.of_beside_nat {d e : Dev} (h : d.beside = e.beside) : d.nat = e.nat := by
  have := congrArg Dev.nat h; exact this
theorem Dev.of_beside_acl {d e : Dev} (h : d.beside = e.beside) : d.acl = e.acl := by
  have := congrArg Dev.acl h; exact this
theorem Dev.of_beside_shw {d e : Dev} (h : d.beside = e.beside) : d.shw = e.shw := by
  have := congrArg Dev.shw h; exact this
theorem Dev.of_beside_mtr {d e : Dev} (h : d.beside = e.beside) : d.mtr = e.mtr := by
  have := congrArg Dev.mtr h; exact this
theorem Dev.of_beside_bsn {d e : Dev} (h : d.beside = e.beside) : d.bsn = e.bsn := by
  have := congrArg Dev.bsn h; exact this
theorem Dev.of_beside_eg {d e : Dev} (h : d.beside = e.beside) : d.eg = e.eg := by
  have := congrArg Dev.eg h; exact this
theorem Dev.of_beside_expand {d e : Dev} (h : d.beside = e.beside) : d.expand = e.expand := by
  have := congrArg Dev.expand h; exact this
theorem Dev.of_beside_madeGen {d e : Dev} (h : d.beside = e.beside) : d.madeGen = e.madeGen := by
  have := congrArg Dev.madeGen h; exact this
theorem Dev.of_beside_dma {d e : Dev} (h : d.beside = e.beside) : d.dma = e.dma := by
  have := congrArg Dev.dma h; exact this
theorem Dev.of_beside_cpm {d e : Dev} (h : d.beside = e.beside) : d.cpm = e.cpm := by
  have := congrArg Dev.cpm h; exact this
theorem Dev.of_beside_fsc {d e : Dev} (h : d.beside = e.beside) : d.fsc = e.fsc := by
  have := congrArg Dev.fsc h; exact this
theorem Dev.of_beside_threads {d e : Dev} (h : d.beside = e.beside) : d.threads = e.threads := by
  have := congrArg Dev.threads h; exact this
theorem Dev.of_beside_ucs {d e : Dev} (h : d.beside = e.beside) : d.ucs = e.ucs := by
  have := congrArg Dev.ucs h; exact this
theorem Dev.of_beside_load {d e : Dev} (h : d.beside = e.beside) : d.load = e.load := by
  have := congrArg Dev.load h; exact this
theorem Dev.of_beside_tim {d e : Dev} (h : d.beside = e.beside) : d.tim = e.tim := by
  have := congrArg Dev.tim h; exact this
theorem Dev.of_beside_sdl {d e : Dev} (h : d.beside = e.beside) : d.sdl = e.sdl := by
  have := congrArg Dev.sdl h; exact this
theorem Dev.of_beside_mram {d e : Dev} (h : d.beside = e.beside) : d.mram = e.mram := by
  have := congrArg Dev.mram h; exact this
theorem Dev.of_beside_sec {d e : Dev} (h : d.beside = e.beside) : d.sec = e.sec := by
  have := congrArg Dev.sec h; exact this
theorem Dev.of_beside_hbc {d e : Dev} (h : d.beside = e.beside) : d.hbc = e.hbc := by
  have := congrArg Dev.hbc h; exact this
theorem Dev.of_beside_boot {d e : Dev} (h : d.beside = e.beside) : d.boot = e.boot := by
  have := congrArg Dev.boot h; exact this
theorem Dev.of_beside_mon {d e : Dev} (h : d.beside = e.beside) : d.mon = e.mon := by
  have := congrArg Dev.mon h; exact this
theorem Dev.of_beside_tmp {d e : Dev} (h : d.beside = e.beside) : d.tmp = e.tmp := by
  have := congrArg Dev.tmp h; exact this
theorem Dev.of_beside_doe {d e : Dev} (h : d.beside = e.beside) : d.doe = e.doe := by
  have := congrArg Dev.doe h; exact this
theorem Dev.of_beside_free {d e : Dev} (h : d.beside = e.beside) : d.free = e.free := by
  have := congrArg Dev.free h; exact this
theorem Dev.of_beside_fab_latchHi {d e : Dev} (h : d.beside = e.beside) : d.fab.latchHi = e.fab.latchHi := by
  have := congrArg (fun x : Dev => x.fab.latchHi) h; exact this
theorem Dev.of_beside_fab_latchLo {d e : Dev} (h : d.beside = e.beside) : d.fab.latchLo = e.fab.latchLo := by
  have := congrArg (fun x : Dev => x.fab.latchLo) h; exact this
theorem Dev.of_beside_fab_hold {d e : Dev} (h : d.beside = e.beside) : d.fab.hold = e.fab.hold := by
  have := congrArg (fun x : Dev => x.fab.hold) h; exact this
theorem Dev.of_beside_fab_routes {d e : Dev} (h : d.beside = e.beside) : d.fab.routes = e.fab.routes := by
  have := congrArg (fun x : Dev => x.fab.routes) h; exact this
theorem Dev.of_beside_fab_fns {d e : Dev} (h : d.beside = e.beside) : d.fab.fns = e.fab.fns := by
  have := congrArg (fun x : Dev => x.fab.fns) h; exact this
theorem Dev.of_beside_fab_numVfs {d e : Dev} (h : d.beside = e.beside) : d.fab.numVfs = e.fab.numVfs := by
  have := congrArg (fun x : Dev => x.fab.numVfs) h; exact this
theorem Dev.of_beside_fab_vfEnable {d e : Dev} (h : d.beside = e.beside) : d.fab.vfEnable = e.fab.vfEnable := by
  have := congrArg (fun x : Dev => x.fab.vfEnable) h; exact this
theorem Dev.of_beside_fab_vfMse {d e : Dev} (h : d.beside = e.beside) : d.fab.vfMse = e.fab.vfMse := by
  have := congrArg (fun x : Dev => x.fab.vfMse) h; exact this
theorem Dev.of_beside_fab_vfChange {d e : Dev} (h : d.beside = e.beside) : d.fab.vfChange = e.fab.vfChange := by
  have := congrArg (fun x : Dev => x.fab.vfChange) h; exact this
theorem Dev.of_beside_fab_vfWait {d e : Dev} (h : d.beside = e.beside) : d.fab.vfWait = e.fab.vfWait := by
  have := congrArg (fun x : Dev => x.fab.vfWait) h; exact this
theorem Dev.of_beside_fab_released {d e : Dev} (h : d.beside = e.beside) : d.fab.released = e.fab.released := by
  have := congrArg (fun x : Dev => x.fab.released) h; exact this
theorem Dev.of_beside_fab_inReset {d e : Dev} (h : d.beside = e.beside) : d.fab.inReset = e.fab.inReset := by
  have := congrArg (fun x : Dev => x.fab.inReset) h; exact this

/-! ### `Dev.count` leaves every other part -/

@[simp] theorem Dev.count_act (d : Dev) (b : Blk) (i code n : Nat) : (d.count b i code n).act = d.act := Dev.of_beside_act (Dev.count_beside d b i code n)
@[simp] theorem Dev.count_prev (d : Dev) (b : Blk) (i code n : Nat) : (d.count b i code n).prev = d.prev := Dev.of_beside_prev (Dev.count_beside d b i code n)
@[simp] theorem Dev.count_cyc (d : Dev) (b : Blk) (i code n : Nat) : (d.count b i code n).cyc = d.cyc := Dev.of_beside_cyc (Dev.count_beside d b i code n)
@[simp] theorem Dev.count_dt (d : Dev) (b : Blk) (i code n : Nat) : (d.count b i code n).dt = d.dt := Dev.of_beside_dt (Dev.count_beside d b i code n)
@[simp] theorem Dev.count_evq (d : Dev) (b : Blk) (i code n : Nat) : (d.count b i code n).evq = d.evq := Dev.of_beside_evq (Dev.count_beside d b i code n)
@[simp] theorem Dev.count_err (d : Dev) (b : Blk) (i code n : Nat) : (d.count b i code n).err = d.err := Dev.of_beside_err (Dev.count_beside d b i code n)
@[simp] theorem Dev.count_glb (d : Dev) (b : Blk) (i code n : Nat) : (d.count b i code n).glb = d.glb := Dev.of_beside_glb (Dev.count_beside d b i code n)
@[simp] theorem Dev.count_pmc (d : Dev) (b : Blk) (i code n : Nat) : (d.count b i code n).pmc = d.pmc := Dev.of_beside_pmc (Dev.count_beside d b i code n)
@[simp] theorem Dev.count_pllAt (d : Dev) (b : Blk) (i code n : Nat) : (d.count b i code n).pllAt = d.pllAt := Dev.of_beside_pllAt (Dev.count_beside d b i code n)
@[simp] theorem Dev.count_ruus (d : Dev) (b : Blk) (i code n : Nat) : (d.count b i code n).ruus = d.ruus := Dev.of_beside_ruus (Dev.count_beside d b i code n)
@[simp] theorem Dev.count_ftb (d : Dev) (b : Blk) (i code n : Nat) : (d.count b i code n).ftb = d.ftb := Dev.of_beside_ftb (Dev.count_beside d b i code n)
@[simp] theorem Dev.count_tpl (d : Dev) (b : Blk) (i code n : Nat) : (d.count b i code n).tpl = d.tpl := Dev.of_beside_tpl (Dev.count_beside d b i code n)
@[simp] theorem Dev.count_tplPrev (d : Dev) (b : Blk) (i code n : Nat) : (d.count b i code n).tplPrev = d.tplPrev := Dev.of_beside_tplPrev (Dev.count_beside d b i code n)
@[simp] theorem Dev.count_results (d : Dev) (b : Blk) (i code n : Nat) : (d.count b i code n).results = d.results := Dev.of_beside_results (Dev.count_beside d b i code n)
@[simp] theorem Dev.count_pkts (d : Dev) (b : Blk) (i code n : Nat) : (d.count b i code n).pkts = d.pkts := Dev.of_beside_pkts (Dev.count_beside d b i code n)
@[simp] theorem Dev.count_nextPid (d : Dev) (b : Blk) (i code n : Nat) : (d.count b i code n).nextPid = d.nextPid := Dev.of_beside_nextPid (Dev.count_beside d b i code n)
@[simp] theorem Dev.count_stg (d : Dev) (b : Blk) (i code n : Nat) : (d.count b i code n).stg = d.stg := Dev.of_beside_stg (Dev.count_beside d b i code n)
@[simp] theorem Dev.count_overflow (d : Dev) (b : Blk) (i code n : Nat) : (d.count b i code n).overflow = d.overflow := Dev.of_beside_overflow (Dev.count_beside d b i code n)
@[simp] theorem Dev.count_fwd (d : Dev) (b : Blk) (i code n : Nat) : (d.count b i code n).fwd = d.fwd := Dev.of_beside_fwd (Dev.count_beside d b i code n)
@[simp] theorem Dev.count_fwdPrev (d : Dev) (b : Blk) (i code n : Nat) : (d.count b i code n).fwdPrev = d.fwdPrev := Dev.of_beside_fwdPrev (Dev.count_beside d b i code n)
@[simp] theorem Dev.count_l2 (d : Dev) (b : Blk) (i code n : Nat) : (d.count b i code n).l2 = d.l2 := Dev.of_beside_l2 (Dev.count_beside d b i code n)
@[simp] theorem Dev.count_nat (d : Dev) (b : Blk) (i code n : Nat) : (d.count b i code n).nat = d.nat := Dev.of_beside_nat (Dev.count_beside d b i code n)
@[simp] theorem Dev.count_acl (d : Dev) (b : Blk) (i code n : Nat) : (d.count b i code n).acl = d.acl := Dev.of_beside_acl (Dev.count_beside d b i code n)
@[simp] theorem Dev.count_shw (d : Dev) (b : Blk) (i code n : Nat) : (d.count b i code n).shw = d.shw := Dev.of_beside_shw (Dev.count_beside d b i code n)
@[simp] theorem Dev.count_mtr (d : Dev) (b : Blk) (i code n : Nat) : (d.count b i code n).mtr = d.mtr := Dev.of_beside_mtr (Dev.count_beside d b i code n)
@[simp] theorem Dev.count_bsn (d : Dev) (b : Blk) (i code n : Nat) : (d.count b i code n).bsn = d.bsn := Dev.of_beside_bsn (Dev.count_beside d b i code n)
@[simp] theorem Dev.count_eg (d : Dev) (b : Blk) (i code n : Nat) : (d.count b i code n).eg = d.eg := Dev.of_beside_eg (Dev.count_beside d b i code n)
@[simp] theorem Dev.count_expand (d : Dev) (b : Blk) (i code n : Nat) : (d.count b i code n).expand = d.expand := Dev.of_beside_expand (Dev.count_beside d b i code n)
@[simp] theorem Dev.count_madeGen (d : Dev) (b : Blk) (i code n : Nat) : (d.count b i code n).madeGen = d.madeGen := Dev.of_beside_madeGen (Dev.count_beside d b i code n)
@[simp] theorem Dev.count_dma (d : Dev) (b : Blk) (i code n : Nat) : (d.count b i code n).dma = d.dma := Dev.of_beside_dma (Dev.count_beside d b i code n)
@[simp] theorem Dev.count_cpm (d : Dev) (b : Blk) (i code n : Nat) : (d.count b i code n).cpm = d.cpm := Dev.of_beside_cpm (Dev.count_beside d b i code n)
@[simp] theorem Dev.count_fsc (d : Dev) (b : Blk) (i code n : Nat) : (d.count b i code n).fsc = d.fsc := Dev.of_beside_fsc (Dev.count_beside d b i code n)
@[simp] theorem Dev.count_threads (d : Dev) (b : Blk) (i code n : Nat) : (d.count b i code n).threads = d.threads := Dev.of_beside_threads (Dev.count_beside d b i code n)
@[simp] theorem Dev.count_ucs (d : Dev) (b : Blk) (i code n : Nat) : (d.count b i code n).ucs = d.ucs := Dev.of_beside_ucs (Dev.count_beside d b i code n)
@[simp] theorem Dev.count_load (d : Dev) (b : Blk) (i code n : Nat) : (d.count b i code n).load = d.load := Dev.of_beside_load (Dev.count_beside d b i code n)
@[simp] theorem Dev.count_tim (d : Dev) (b : Blk) (i code n : Nat) : (d.count b i code n).tim = d.tim := Dev.of_beside_tim (Dev.count_beside d b i code n)
@[simp] theorem Dev.count_sdl (d : Dev) (b : Blk) (i code n : Nat) : (d.count b i code n).sdl = d.sdl := Dev.of_beside_sdl (Dev.count_beside d b i code n)
@[simp] theorem Dev.count_mram (d : Dev) (b : Blk) (i code n : Nat) : (d.count b i code n).mram = d.mram := Dev.of_beside_mram (Dev.count_beside d b i code n)
@[simp] theorem Dev.count_sec (d : Dev) (b : Blk) (i code n : Nat) : (d.count b i code n).sec = d.sec := Dev.of_beside_sec (Dev.count_beside d b i code n)
@[simp] theorem Dev.count_hbc (d : Dev) (b : Blk) (i code n : Nat) : (d.count b i code n).hbc = d.hbc := Dev.of_beside_hbc (Dev.count_beside d b i code n)
@[simp] theorem Dev.count_boot (d : Dev) (b : Blk) (i code n : Nat) : (d.count b i code n).boot = d.boot := Dev.of_beside_boot (Dev.count_beside d b i code n)
@[simp] theorem Dev.count_mon (d : Dev) (b : Blk) (i code n : Nat) : (d.count b i code n).mon = d.mon := Dev.of_beside_mon (Dev.count_beside d b i code n)
@[simp] theorem Dev.count_tmp (d : Dev) (b : Blk) (i code n : Nat) : (d.count b i code n).tmp = d.tmp := Dev.of_beside_tmp (Dev.count_beside d b i code n)
@[simp] theorem Dev.count_doe (d : Dev) (b : Blk) (i code n : Nat) : (d.count b i code n).doe = d.doe := Dev.of_beside_doe (Dev.count_beside d b i code n)
@[simp] theorem Dev.count_free (d : Dev) (b : Blk) (i code n : Nat) : (d.count b i code n).free = d.free := Dev.of_beside_free (Dev.count_beside d b i code n)
@[simp] theorem Dev.count_fab_latchHi (d : Dev) (b : Blk) (i code n : Nat) : (d.count b i code n).fab.latchHi = d.fab.latchHi := Dev.of_beside_fab_latchHi (Dev.count_beside d b i code n)
@[simp] theorem Dev.count_fab_latchLo (d : Dev) (b : Blk) (i code n : Nat) : (d.count b i code n).fab.latchLo = d.fab.latchLo := Dev.of_beside_fab_latchLo (Dev.count_beside d b i code n)
@[simp] theorem Dev.count_fab_hold (d : Dev) (b : Blk) (i code n : Nat) : (d.count b i code n).fab.hold = d.fab.hold := Dev.of_beside_fab_hold (Dev.count_beside d b i code n)
@[simp] theorem Dev.count_fab_routes (d : Dev) (b : Blk) (i code n : Nat) : (d.count b i code n).fab.routes = d.fab.routes := Dev.of_beside_fab_routes (Dev.count_beside d b i code n)
@[simp] theorem Dev.count_fab_fns (d : Dev) (b : Blk) (i code n : Nat) : (d.count b i code n).fab.fns = d.fab.fns := Dev.of_beside_fab_fns (Dev.count_beside d b i code n)
@[simp] theorem Dev.count_fab_numVfs (d : Dev) (b : Blk) (i code n : Nat) : (d.count b i code n).fab.numVfs = d.fab.numVfs := Dev.of_beside_fab_numVfs (Dev.count_beside d b i code n)
@[simp] theorem Dev.count_fab_vfEnable (d : Dev) (b : Blk) (i code n : Nat) : (d.count b i code n).fab.vfEnable = d.fab.vfEnable := Dev.of_beside_fab_vfEnable (Dev.count_beside d b i code n)
@[simp] theorem Dev.count_fab_vfMse (d : Dev) (b : Blk) (i code n : Nat) : (d.count b i code n).fab.vfMse = d.fab.vfMse := Dev.of_beside_fab_vfMse (Dev.count_beside d b i code n)
@[simp] theorem Dev.count_fab_vfChange (d : Dev) (b : Blk) (i code n : Nat) : (d.count b i code n).fab.vfChange = d.fab.vfChange := Dev.of_beside_fab_vfChange (Dev.count_beside d b i code n)
@[simp] theorem Dev.count_fab_vfWait (d : Dev) (b : Blk) (i code n : Nat) : (d.count b i code n).fab.vfWait = d.fab.vfWait := Dev.of_beside_fab_vfWait (Dev.count_beside d b i code n)
@[simp] theorem Dev.count_fab_released (d : Dev) (b : Blk) (i code n : Nat) : (d.count b i code n).fab.released = d.fab.released := Dev.of_beside_fab_released (Dev.count_beside d b i code n)
@[simp] theorem Dev.count_fab_inReset (d : Dev) (b : Blk) (i code n : Nat) : (d.count b i code n).fab.inReset = d.fab.inReset := Dev.of_beside_fab_inReset (Dev.count_beside d b i code n)

/-! ### `Dev.event` leaves every other part -/

@[simp] theorem Dev.event_act (d : Dev) (b : Blk) (i e : Nat) : (d.event b i e).act = d.act := Dev.of_beside_act (Dev.event_beside d b i e)
@[simp] theorem Dev.event_prev (d : Dev) (b : Blk) (i e : Nat) : (d.event b i e).prev = d.prev := Dev.of_beside_prev (Dev.event_beside d b i e)
@[simp] theorem Dev.event_cyc (d : Dev) (b : Blk) (i e : Nat) : (d.event b i e).cyc = d.cyc := Dev.of_beside_cyc (Dev.event_beside d b i e)
@[simp] theorem Dev.event_dt (d : Dev) (b : Blk) (i e : Nat) : (d.event b i e).dt = d.dt := Dev.of_beside_dt (Dev.event_beside d b i e)
@[simp] theorem Dev.event_evq (d : Dev) (b : Blk) (i e : Nat) : (d.event b i e).evq = d.evq := Dev.of_beside_evq (Dev.event_beside d b i e)
@[simp] theorem Dev.event_err (d : Dev) (b : Blk) (i e : Nat) : (d.event b i e).err = d.err := Dev.of_beside_err (Dev.event_beside d b i e)
@[simp] theorem Dev.event_glb (d : Dev) (b : Blk) (i e : Nat) : (d.event b i e).glb = d.glb := Dev.of_beside_glb (Dev.event_beside d b i e)
@[simp] theorem Dev.event_pmc (d : Dev) (b : Blk) (i e : Nat) : (d.event b i e).pmc = d.pmc := Dev.of_beside_pmc (Dev.event_beside d b i e)
@[simp] theorem Dev.event_pllAt (d : Dev) (b : Blk) (i e : Nat) : (d.event b i e).pllAt = d.pllAt := Dev.of_beside_pllAt (Dev.event_beside d b i e)
@[simp] theorem Dev.event_ruus (d : Dev) (b : Blk) (i e : Nat) : (d.event b i e).ruus = d.ruus := Dev.of_beside_ruus (Dev.event_beside d b i e)
@[simp] theorem Dev.event_ftb (d : Dev) (b : Blk) (i e : Nat) : (d.event b i e).ftb = d.ftb := Dev.of_beside_ftb (Dev.event_beside d b i e)
@[simp] theorem Dev.event_tpl (d : Dev) (b : Blk) (i e : Nat) : (d.event b i e).tpl = d.tpl := Dev.of_beside_tpl (Dev.event_beside d b i e)
@[simp] theorem Dev.event_tplPrev (d : Dev) (b : Blk) (i e : Nat) : (d.event b i e).tplPrev = d.tplPrev := Dev.of_beside_tplPrev (Dev.event_beside d b i e)
@[simp] theorem Dev.event_results (d : Dev) (b : Blk) (i e : Nat) : (d.event b i e).results = d.results := Dev.of_beside_results (Dev.event_beside d b i e)
@[simp] theorem Dev.event_pkts (d : Dev) (b : Blk) (i e : Nat) : (d.event b i e).pkts = d.pkts := Dev.of_beside_pkts (Dev.event_beside d b i e)
@[simp] theorem Dev.event_nextPid (d : Dev) (b : Blk) (i e : Nat) : (d.event b i e).nextPid = d.nextPid := Dev.of_beside_nextPid (Dev.event_beside d b i e)
@[simp] theorem Dev.event_stg (d : Dev) (b : Blk) (i e : Nat) : (d.event b i e).stg = d.stg := Dev.of_beside_stg (Dev.event_beside d b i e)
@[simp] theorem Dev.event_overflow (d : Dev) (b : Blk) (i e : Nat) : (d.event b i e).overflow = d.overflow := Dev.of_beside_overflow (Dev.event_beside d b i e)
@[simp] theorem Dev.event_fwd (d : Dev) (b : Blk) (i e : Nat) : (d.event b i e).fwd = d.fwd := Dev.of_beside_fwd (Dev.event_beside d b i e)
@[simp] theorem Dev.event_fwdPrev (d : Dev) (b : Blk) (i e : Nat) : (d.event b i e).fwdPrev = d.fwdPrev := Dev.of_beside_fwdPrev (Dev.event_beside d b i e)
@[simp] theorem Dev.event_l2 (d : Dev) (b : Blk) (i e : Nat) : (d.event b i e).l2 = d.l2 := Dev.of_beside_l2 (Dev.event_beside d b i e)
@[simp] theorem Dev.event_nat (d : Dev) (b : Blk) (i e : Nat) : (d.event b i e).nat = d.nat := Dev.of_beside_nat (Dev.event_beside d b i e)
@[simp] theorem Dev.event_acl (d : Dev) (b : Blk) (i e : Nat) : (d.event b i e).acl = d.acl := Dev.of_beside_acl (Dev.event_beside d b i e)
@[simp] theorem Dev.event_shw (d : Dev) (b : Blk) (i e : Nat) : (d.event b i e).shw = d.shw := Dev.of_beside_shw (Dev.event_beside d b i e)
@[simp] theorem Dev.event_mtr (d : Dev) (b : Blk) (i e : Nat) : (d.event b i e).mtr = d.mtr := Dev.of_beside_mtr (Dev.event_beside d b i e)
@[simp] theorem Dev.event_bsn (d : Dev) (b : Blk) (i e : Nat) : (d.event b i e).bsn = d.bsn := Dev.of_beside_bsn (Dev.event_beside d b i e)
@[simp] theorem Dev.event_eg (d : Dev) (b : Blk) (i e : Nat) : (d.event b i e).eg = d.eg := Dev.of_beside_eg (Dev.event_beside d b i e)
@[simp] theorem Dev.event_expand (d : Dev) (b : Blk) (i e : Nat) : (d.event b i e).expand = d.expand := Dev.of_beside_expand (Dev.event_beside d b i e)
@[simp] theorem Dev.event_madeGen (d : Dev) (b : Blk) (i e : Nat) : (d.event b i e).madeGen = d.madeGen := Dev.of_beside_madeGen (Dev.event_beside d b i e)
@[simp] theorem Dev.event_dma (d : Dev) (b : Blk) (i e : Nat) : (d.event b i e).dma = d.dma := Dev.of_beside_dma (Dev.event_beside d b i e)
@[simp] theorem Dev.event_cpm (d : Dev) (b : Blk) (i e : Nat) : (d.event b i e).cpm = d.cpm := Dev.of_beside_cpm (Dev.event_beside d b i e)
@[simp] theorem Dev.event_fsc (d : Dev) (b : Blk) (i e : Nat) : (d.event b i e).fsc = d.fsc := Dev.of_beside_fsc (Dev.event_beside d b i e)
@[simp] theorem Dev.event_threads (d : Dev) (b : Blk) (i e : Nat) : (d.event b i e).threads = d.threads := Dev.of_beside_threads (Dev.event_beside d b i e)
@[simp] theorem Dev.event_ucs (d : Dev) (b : Blk) (i e : Nat) : (d.event b i e).ucs = d.ucs := Dev.of_beside_ucs (Dev.event_beside d b i e)
@[simp] theorem Dev.event_load (d : Dev) (b : Blk) (i e : Nat) : (d.event b i e).load = d.load := Dev.of_beside_load (Dev.event_beside d b i e)
@[simp] theorem Dev.event_tim (d : Dev) (b : Blk) (i e : Nat) : (d.event b i e).tim = d.tim := Dev.of_beside_tim (Dev.event_beside d b i e)
@[simp] theorem Dev.event_sdl (d : Dev) (b : Blk) (i e : Nat) : (d.event b i e).sdl = d.sdl := Dev.of_beside_sdl (Dev.event_beside d b i e)
@[simp] theorem Dev.event_mram (d : Dev) (b : Blk) (i e : Nat) : (d.event b i e).mram = d.mram := Dev.of_beside_mram (Dev.event_beside d b i e)
@[simp] theorem Dev.event_sec (d : Dev) (b : Blk) (i e : Nat) : (d.event b i e).sec = d.sec := Dev.of_beside_sec (Dev.event_beside d b i e)
@[simp] theorem Dev.event_hbc (d : Dev) (b : Blk) (i e : Nat) : (d.event b i e).hbc = d.hbc := Dev.of_beside_hbc (Dev.event_beside d b i e)
@[simp] theorem Dev.event_boot (d : Dev) (b : Blk) (i e : Nat) : (d.event b i e).boot = d.boot := Dev.of_beside_boot (Dev.event_beside d b i e)
@[simp] theorem Dev.event_mon (d : Dev) (b : Blk) (i e : Nat) : (d.event b i e).mon = d.mon := Dev.of_beside_mon (Dev.event_beside d b i e)
@[simp] theorem Dev.event_tmp (d : Dev) (b : Blk) (i e : Nat) : (d.event b i e).tmp = d.tmp := Dev.of_beside_tmp (Dev.event_beside d b i e)
@[simp] theorem Dev.event_doe (d : Dev) (b : Blk) (i e : Nat) : (d.event b i e).doe = d.doe := Dev.of_beside_doe (Dev.event_beside d b i e)
@[simp] theorem Dev.event_free (d : Dev) (b : Blk) (i e : Nat) : (d.event b i e).free = d.free := Dev.of_beside_free (Dev.event_beside d b i e)
@[simp] theorem Dev.event_fab_latchHi (d : Dev) (b : Blk) (i e : Nat) : (d.event b i e).fab.latchHi = d.fab.latchHi := Dev.of_beside_fab_latchHi (Dev.event_beside d b i e)
@[simp] theorem Dev.event_fab_latchLo (d : Dev) (b : Blk) (i e : Nat) : (d.event b i e).fab.latchLo = d.fab.latchLo := Dev.of_beside_fab_latchLo (Dev.event_beside d b i e)
@[simp] theorem Dev.event_fab_hold (d : Dev) (b : Blk) (i e : Nat) : (d.event b i e).fab.hold = d.fab.hold := Dev.of_beside_fab_hold (Dev.event_beside d b i e)
@[simp] theorem Dev.event_fab_routes (d : Dev) (b : Blk) (i e : Nat) : (d.event b i e).fab.routes = d.fab.routes := Dev.of_beside_fab_routes (Dev.event_beside d b i e)
@[simp] theorem Dev.event_fab_fns (d : Dev) (b : Blk) (i e : Nat) : (d.event b i e).fab.fns = d.fab.fns := Dev.of_beside_fab_fns (Dev.event_beside d b i e)
@[simp] theorem Dev.event_fab_numVfs (d : Dev) (b : Blk) (i e : Nat) : (d.event b i e).fab.numVfs = d.fab.numVfs := Dev.of_beside_fab_numVfs (Dev.event_beside d b i e)
@[simp] theorem Dev.event_fab_vfEnable (d : Dev) (b : Blk) (i e : Nat) : (d.event b i e).fab.vfEnable = d.fab.vfEnable := Dev.of_beside_fab_vfEnable (Dev.event_beside d b i e)
@[simp] theorem Dev.event_fab_vfMse (d : Dev) (b : Blk) (i e : Nat) : (d.event b i e).fab.vfMse = d.fab.vfMse := Dev.of_beside_fab_vfMse (Dev.event_beside d b i e)
@[simp] theorem Dev.event_fab_vfChange (d : Dev) (b : Blk) (i e : Nat) : (d.event b i e).fab.vfChange = d.fab.vfChange := Dev.of_beside_fab_vfChange (Dev.event_beside d b i e)
@[simp] theorem Dev.event_fab_vfWait (d : Dev) (b : Blk) (i e : Nat) : (d.event b i e).fab.vfWait = d.fab.vfWait := Dev.of_beside_fab_vfWait (Dev.event_beside d b i e)
@[simp] theorem Dev.event_fab_released (d : Dev) (b : Blk) (i e : Nat) : (d.event b i e).fab.released = d.fab.released := Dev.of_beside_fab_released (Dev.event_beside d b i e)
@[simp] theorem Dev.event_fab_inReset (d : Dev) (b : Blk) (i e : Nat) : (d.event b i e).fab.inReset = d.fab.inReset := Dev.of_beside_fab_inReset (Dev.event_beside d b i e)

/-! ### `Dev.raiseIrq` leaves every other part -/

@[simp] theorem Dev.raiseIrq_act (d : Dev) (b : Blk) (i m : Nat) (forced : Bool) : (d.raiseIrq b i m forced).act = d.act := Dev.of_beside_act (Dev.raiseIrq_beside d b i m forced)
@[simp] theorem Dev.raiseIrq_prev (d : Dev) (b : Blk) (i m : Nat) (forced : Bool) : (d.raiseIrq b i m forced).prev = d.prev := Dev.of_beside_prev (Dev.raiseIrq_beside d b i m forced)
@[simp] theorem Dev.raiseIrq_cyc (d : Dev) (b : Blk) (i m : Nat) (forced : Bool) : (d.raiseIrq b i m forced).cyc = d.cyc := Dev.of_beside_cyc (Dev.raiseIrq_beside d b i m forced)
@[simp] theorem Dev.raiseIrq_dt (d : Dev) (b : Blk) (i m : Nat) (forced : Bool) : (d.raiseIrq b i m forced).dt = d.dt := Dev.of_beside_dt (Dev.raiseIrq_beside d b i m forced)
@[simp] theorem Dev.raiseIrq_evq (d : Dev) (b : Blk) (i m : Nat) (forced : Bool) : (d.raiseIrq b i m forced).evq = d.evq := Dev.of_beside_evq (Dev.raiseIrq_beside d b i m forced)
@[simp] theorem Dev.raiseIrq_err (d : Dev) (b : Blk) (i m : Nat) (forced : Bool) : (d.raiseIrq b i m forced).err = d.err := Dev.of_beside_err (Dev.raiseIrq_beside d b i m forced)
@[simp] theorem Dev.raiseIrq_glb (d : Dev) (b : Blk) (i m : Nat) (forced : Bool) : (d.raiseIrq b i m forced).glb = d.glb := Dev.of_beside_glb (Dev.raiseIrq_beside d b i m forced)
@[simp] theorem Dev.raiseIrq_pmc (d : Dev) (b : Blk) (i m : Nat) (forced : Bool) : (d.raiseIrq b i m forced).pmc = d.pmc := Dev.of_beside_pmc (Dev.raiseIrq_beside d b i m forced)
@[simp] theorem Dev.raiseIrq_pllAt (d : Dev) (b : Blk) (i m : Nat) (forced : Bool) : (d.raiseIrq b i m forced).pllAt = d.pllAt := Dev.of_beside_pllAt (Dev.raiseIrq_beside d b i m forced)
@[simp] theorem Dev.raiseIrq_ruus (d : Dev) (b : Blk) (i m : Nat) (forced : Bool) : (d.raiseIrq b i m forced).ruus = d.ruus := Dev.of_beside_ruus (Dev.raiseIrq_beside d b i m forced)
@[simp] theorem Dev.raiseIrq_ftb (d : Dev) (b : Blk) (i m : Nat) (forced : Bool) : (d.raiseIrq b i m forced).ftb = d.ftb := Dev.of_beside_ftb (Dev.raiseIrq_beside d b i m forced)
@[simp] theorem Dev.raiseIrq_tpl (d : Dev) (b : Blk) (i m : Nat) (forced : Bool) : (d.raiseIrq b i m forced).tpl = d.tpl := Dev.of_beside_tpl (Dev.raiseIrq_beside d b i m forced)
@[simp] theorem Dev.raiseIrq_tplPrev (d : Dev) (b : Blk) (i m : Nat) (forced : Bool) : (d.raiseIrq b i m forced).tplPrev = d.tplPrev := Dev.of_beside_tplPrev (Dev.raiseIrq_beside d b i m forced)
@[simp] theorem Dev.raiseIrq_results (d : Dev) (b : Blk) (i m : Nat) (forced : Bool) : (d.raiseIrq b i m forced).results = d.results := Dev.of_beside_results (Dev.raiseIrq_beside d b i m forced)
@[simp] theorem Dev.raiseIrq_pkts (d : Dev) (b : Blk) (i m : Nat) (forced : Bool) : (d.raiseIrq b i m forced).pkts = d.pkts := Dev.of_beside_pkts (Dev.raiseIrq_beside d b i m forced)
@[simp] theorem Dev.raiseIrq_nextPid (d : Dev) (b : Blk) (i m : Nat) (forced : Bool) : (d.raiseIrq b i m forced).nextPid = d.nextPid := Dev.of_beside_nextPid (Dev.raiseIrq_beside d b i m forced)
@[simp] theorem Dev.raiseIrq_stg (d : Dev) (b : Blk) (i m : Nat) (forced : Bool) : (d.raiseIrq b i m forced).stg = d.stg := Dev.of_beside_stg (Dev.raiseIrq_beside d b i m forced)
@[simp] theorem Dev.raiseIrq_overflow (d : Dev) (b : Blk) (i m : Nat) (forced : Bool) : (d.raiseIrq b i m forced).overflow = d.overflow := Dev.of_beside_overflow (Dev.raiseIrq_beside d b i m forced)
@[simp] theorem Dev.raiseIrq_fwd (d : Dev) (b : Blk) (i m : Nat) (forced : Bool) : (d.raiseIrq b i m forced).fwd = d.fwd := Dev.of_beside_fwd (Dev.raiseIrq_beside d b i m forced)
@[simp] theorem Dev.raiseIrq_fwdPrev (d : Dev) (b : Blk) (i m : Nat) (forced : Bool) : (d.raiseIrq b i m forced).fwdPrev = d.fwdPrev := Dev.of_beside_fwdPrev (Dev.raiseIrq_beside d b i m forced)
@[simp] theorem Dev.raiseIrq_l2 (d : Dev) (b : Blk) (i m : Nat) (forced : Bool) : (d.raiseIrq b i m forced).l2 = d.l2 := Dev.of_beside_l2 (Dev.raiseIrq_beside d b i m forced)
@[simp] theorem Dev.raiseIrq_nat (d : Dev) (b : Blk) (i m : Nat) (forced : Bool) : (d.raiseIrq b i m forced).nat = d.nat := Dev.of_beside_nat (Dev.raiseIrq_beside d b i m forced)
@[simp] theorem Dev.raiseIrq_acl (d : Dev) (b : Blk) (i m : Nat) (forced : Bool) : (d.raiseIrq b i m forced).acl = d.acl := Dev.of_beside_acl (Dev.raiseIrq_beside d b i m forced)
@[simp] theorem Dev.raiseIrq_shw (d : Dev) (b : Blk) (i m : Nat) (forced : Bool) : (d.raiseIrq b i m forced).shw = d.shw := Dev.of_beside_shw (Dev.raiseIrq_beside d b i m forced)
@[simp] theorem Dev.raiseIrq_mtr (d : Dev) (b : Blk) (i m : Nat) (forced : Bool) : (d.raiseIrq b i m forced).mtr = d.mtr := Dev.of_beside_mtr (Dev.raiseIrq_beside d b i m forced)
@[simp] theorem Dev.raiseIrq_bsn (d : Dev) (b : Blk) (i m : Nat) (forced : Bool) : (d.raiseIrq b i m forced).bsn = d.bsn := Dev.of_beside_bsn (Dev.raiseIrq_beside d b i m forced)
@[simp] theorem Dev.raiseIrq_eg (d : Dev) (b : Blk) (i m : Nat) (forced : Bool) : (d.raiseIrq b i m forced).eg = d.eg := Dev.of_beside_eg (Dev.raiseIrq_beside d b i m forced)
@[simp] theorem Dev.raiseIrq_expand (d : Dev) (b : Blk) (i m : Nat) (forced : Bool) : (d.raiseIrq b i m forced).expand = d.expand := Dev.of_beside_expand (Dev.raiseIrq_beside d b i m forced)
@[simp] theorem Dev.raiseIrq_madeGen (d : Dev) (b : Blk) (i m : Nat) (forced : Bool) : (d.raiseIrq b i m forced).madeGen = d.madeGen := Dev.of_beside_madeGen (Dev.raiseIrq_beside d b i m forced)
@[simp] theorem Dev.raiseIrq_dma (d : Dev) (b : Blk) (i m : Nat) (forced : Bool) : (d.raiseIrq b i m forced).dma = d.dma := Dev.of_beside_dma (Dev.raiseIrq_beside d b i m forced)
@[simp] theorem Dev.raiseIrq_cpm (d : Dev) (b : Blk) (i m : Nat) (forced : Bool) : (d.raiseIrq b i m forced).cpm = d.cpm := Dev.of_beside_cpm (Dev.raiseIrq_beside d b i m forced)
@[simp] theorem Dev.raiseIrq_fsc (d : Dev) (b : Blk) (i m : Nat) (forced : Bool) : (d.raiseIrq b i m forced).fsc = d.fsc := Dev.of_beside_fsc (Dev.raiseIrq_beside d b i m forced)
@[simp] theorem Dev.raiseIrq_threads (d : Dev) (b : Blk) (i m : Nat) (forced : Bool) : (d.raiseIrq b i m forced).threads = d.threads := Dev.of_beside_threads (Dev.raiseIrq_beside d b i m forced)
@[simp] theorem Dev.raiseIrq_ucs (d : Dev) (b : Blk) (i m : Nat) (forced : Bool) : (d.raiseIrq b i m forced).ucs = d.ucs := Dev.of_beside_ucs (Dev.raiseIrq_beside d b i m forced)
@[simp] theorem Dev.raiseIrq_load (d : Dev) (b : Blk) (i m : Nat) (forced : Bool) : (d.raiseIrq b i m forced).load = d.load := Dev.of_beside_load (Dev.raiseIrq_beside d b i m forced)
@[simp] theorem Dev.raiseIrq_tim (d : Dev) (b : Blk) (i m : Nat) (forced : Bool) : (d.raiseIrq b i m forced).tim = d.tim := Dev.of_beside_tim (Dev.raiseIrq_beside d b i m forced)
@[simp] theorem Dev.raiseIrq_sdl (d : Dev) (b : Blk) (i m : Nat) (forced : Bool) : (d.raiseIrq b i m forced).sdl = d.sdl := Dev.of_beside_sdl (Dev.raiseIrq_beside d b i m forced)
@[simp] theorem Dev.raiseIrq_mram (d : Dev) (b : Blk) (i m : Nat) (forced : Bool) : (d.raiseIrq b i m forced).mram = d.mram := Dev.of_beside_mram (Dev.raiseIrq_beside d b i m forced)
@[simp] theorem Dev.raiseIrq_sec (d : Dev) (b : Blk) (i m : Nat) (forced : Bool) : (d.raiseIrq b i m forced).sec = d.sec := Dev.of_beside_sec (Dev.raiseIrq_beside d b i m forced)
@[simp] theorem Dev.raiseIrq_hbc (d : Dev) (b : Blk) (i m : Nat) (forced : Bool) : (d.raiseIrq b i m forced).hbc = d.hbc := Dev.of_beside_hbc (Dev.raiseIrq_beside d b i m forced)
@[simp] theorem Dev.raiseIrq_boot (d : Dev) (b : Blk) (i m : Nat) (forced : Bool) : (d.raiseIrq b i m forced).boot = d.boot := Dev.of_beside_boot (Dev.raiseIrq_beside d b i m forced)
@[simp] theorem Dev.raiseIrq_mon (d : Dev) (b : Blk) (i m : Nat) (forced : Bool) : (d.raiseIrq b i m forced).mon = d.mon := Dev.of_beside_mon (Dev.raiseIrq_beside d b i m forced)
@[simp] theorem Dev.raiseIrq_tmp (d : Dev) (b : Blk) (i m : Nat) (forced : Bool) : (d.raiseIrq b i m forced).tmp = d.tmp := Dev.of_beside_tmp (Dev.raiseIrq_beside d b i m forced)
@[simp] theorem Dev.raiseIrq_doe (d : Dev) (b : Blk) (i m : Nat) (forced : Bool) : (d.raiseIrq b i m forced).doe = d.doe := Dev.of_beside_doe (Dev.raiseIrq_beside d b i m forced)
@[simp] theorem Dev.raiseIrq_free (d : Dev) (b : Blk) (i m : Nat) (forced : Bool) : (d.raiseIrq b i m forced).free = d.free := Dev.of_beside_free (Dev.raiseIrq_beside d b i m forced)
@[simp] theorem Dev.raiseIrq_fab_latchHi (d : Dev) (b : Blk) (i m : Nat) (forced : Bool) : (d.raiseIrq b i m forced).fab.latchHi = d.fab.latchHi := Dev.of_beside_fab_latchHi (Dev.raiseIrq_beside d b i m forced)
@[simp] theorem Dev.raiseIrq_fab_latchLo (d : Dev) (b : Blk) (i m : Nat) (forced : Bool) : (d.raiseIrq b i m forced).fab.latchLo = d.fab.latchLo := Dev.of_beside_fab_latchLo (Dev.raiseIrq_beside d b i m forced)
@[simp] theorem Dev.raiseIrq_fab_hold (d : Dev) (b : Blk) (i m : Nat) (forced : Bool) : (d.raiseIrq b i m forced).fab.hold = d.fab.hold := Dev.of_beside_fab_hold (Dev.raiseIrq_beside d b i m forced)
@[simp] theorem Dev.raiseIrq_fab_routes (d : Dev) (b : Blk) (i m : Nat) (forced : Bool) : (d.raiseIrq b i m forced).fab.routes = d.fab.routes := Dev.of_beside_fab_routes (Dev.raiseIrq_beside d b i m forced)
@[simp] theorem Dev.raiseIrq_fab_fns (d : Dev) (b : Blk) (i m : Nat) (forced : Bool) : (d.raiseIrq b i m forced).fab.fns = d.fab.fns := Dev.of_beside_fab_fns (Dev.raiseIrq_beside d b i m forced)
@[simp] theorem Dev.raiseIrq_fab_numVfs (d : Dev) (b : Blk) (i m : Nat) (forced : Bool) : (d.raiseIrq b i m forced).fab.numVfs = d.fab.numVfs := Dev.of_beside_fab_numVfs (Dev.raiseIrq_beside d b i m forced)
@[simp] theorem Dev.raiseIrq_fab_vfEnable (d : Dev) (b : Blk) (i m : Nat) (forced : Bool) : (d.raiseIrq b i m forced).fab.vfEnable = d.fab.vfEnable := Dev.of_beside_fab_vfEnable (Dev.raiseIrq_beside d b i m forced)
@[simp] theorem Dev.raiseIrq_fab_vfMse (d : Dev) (b : Blk) (i m : Nat) (forced : Bool) : (d.raiseIrq b i m forced).fab.vfMse = d.fab.vfMse := Dev.of_beside_fab_vfMse (Dev.raiseIrq_beside d b i m forced)
@[simp] theorem Dev.raiseIrq_fab_vfChange (d : Dev) (b : Blk) (i m : Nat) (forced : Bool) : (d.raiseIrq b i m forced).fab.vfChange = d.fab.vfChange := Dev.of_beside_fab_vfChange (Dev.raiseIrq_beside d b i m forced)
@[simp] theorem Dev.raiseIrq_fab_vfWait (d : Dev) (b : Blk) (i m : Nat) (forced : Bool) : (d.raiseIrq b i m forced).fab.vfWait = d.fab.vfWait := Dev.of_beside_fab_vfWait (Dev.raiseIrq_beside d b i m forced)
@[simp] theorem Dev.raiseIrq_fab_released (d : Dev) (b : Blk) (i m : Nat) (forced : Bool) : (d.raiseIrq b i m forced).fab.released = d.fab.released := Dev.of_beside_fab_released (Dev.raiseIrq_beside d b i m forced)
@[simp] theorem Dev.raiseIrq_fab_inReset (d : Dev) (b : Blk) (i m : Nat) (forced : Bool) : (d.raiseIrq b i m forced).fab.inReset = d.fab.inReset := Dev.of_beside_fab_inReset (Dev.raiseIrq_beside d b i m forced)

/-! ### `Dev.request` leaves every other part -/

@[simp] theorem Dev.request_act (d : Dev) (f : Nat) : (d.request f).act = d.act := Dev.of_beside_act (Dev.request_beside d f)
@[simp] theorem Dev.request_prev (d : Dev) (f : Nat) : (d.request f).prev = d.prev := Dev.of_beside_prev (Dev.request_beside d f)
@[simp] theorem Dev.request_cyc (d : Dev) (f : Nat) : (d.request f).cyc = d.cyc := Dev.of_beside_cyc (Dev.request_beside d f)
@[simp] theorem Dev.request_dt (d : Dev) (f : Nat) : (d.request f).dt = d.dt := Dev.of_beside_dt (Dev.request_beside d f)
@[simp] theorem Dev.request_evq (d : Dev) (f : Nat) : (d.request f).evq = d.evq := Dev.of_beside_evq (Dev.request_beside d f)
@[simp] theorem Dev.request_err (d : Dev) (f : Nat) : (d.request f).err = d.err := Dev.of_beside_err (Dev.request_beside d f)
@[simp] theorem Dev.request_glb (d : Dev) (f : Nat) : (d.request f).glb = d.glb := Dev.of_beside_glb (Dev.request_beside d f)
@[simp] theorem Dev.request_pmc (d : Dev) (f : Nat) : (d.request f).pmc = d.pmc := Dev.of_beside_pmc (Dev.request_beside d f)
@[simp] theorem Dev.request_pllAt (d : Dev) (f : Nat) : (d.request f).pllAt = d.pllAt := Dev.of_beside_pllAt (Dev.request_beside d f)
@[simp] theorem Dev.request_ruus (d : Dev) (f : Nat) : (d.request f).ruus = d.ruus := Dev.of_beside_ruus (Dev.request_beside d f)
@[simp] theorem Dev.request_ftb (d : Dev) (f : Nat) : (d.request f).ftb = d.ftb := Dev.of_beside_ftb (Dev.request_beside d f)
@[simp] theorem Dev.request_tpl (d : Dev) (f : Nat) : (d.request f).tpl = d.tpl := Dev.of_beside_tpl (Dev.request_beside d f)
@[simp] theorem Dev.request_tplPrev (d : Dev) (f : Nat) : (d.request f).tplPrev = d.tplPrev := Dev.of_beside_tplPrev (Dev.request_beside d f)
@[simp] theorem Dev.request_results (d : Dev) (f : Nat) : (d.request f).results = d.results := Dev.of_beside_results (Dev.request_beside d f)
@[simp] theorem Dev.request_pkts (d : Dev) (f : Nat) : (d.request f).pkts = d.pkts := Dev.of_beside_pkts (Dev.request_beside d f)
@[simp] theorem Dev.request_nextPid (d : Dev) (f : Nat) : (d.request f).nextPid = d.nextPid := Dev.of_beside_nextPid (Dev.request_beside d f)
@[simp] theorem Dev.request_stg (d : Dev) (f : Nat) : (d.request f).stg = d.stg := Dev.of_beside_stg (Dev.request_beside d f)
@[simp] theorem Dev.request_overflow (d : Dev) (f : Nat) : (d.request f).overflow = d.overflow := Dev.of_beside_overflow (Dev.request_beside d f)
@[simp] theorem Dev.request_fwd (d : Dev) (f : Nat) : (d.request f).fwd = d.fwd := Dev.of_beside_fwd (Dev.request_beside d f)
@[simp] theorem Dev.request_fwdPrev (d : Dev) (f : Nat) : (d.request f).fwdPrev = d.fwdPrev := Dev.of_beside_fwdPrev (Dev.request_beside d f)
@[simp] theorem Dev.request_l2 (d : Dev) (f : Nat) : (d.request f).l2 = d.l2 := Dev.of_beside_l2 (Dev.request_beside d f)
@[simp] theorem Dev.request_nat (d : Dev) (f : Nat) : (d.request f).nat = d.nat := Dev.of_beside_nat (Dev.request_beside d f)
@[simp] theorem Dev.request_acl (d : Dev) (f : Nat) : (d.request f).acl = d.acl := Dev.of_beside_acl (Dev.request_beside d f)
@[simp] theorem Dev.request_shw (d : Dev) (f : Nat) : (d.request f).shw = d.shw := Dev.of_beside_shw (Dev.request_beside d f)
@[simp] theorem Dev.request_mtr (d : Dev) (f : Nat) : (d.request f).mtr = d.mtr := Dev.of_beside_mtr (Dev.request_beside d f)
@[simp] theorem Dev.request_bsn (d : Dev) (f : Nat) : (d.request f).bsn = d.bsn := Dev.of_beside_bsn (Dev.request_beside d f)
@[simp] theorem Dev.request_eg (d : Dev) (f : Nat) : (d.request f).eg = d.eg := Dev.of_beside_eg (Dev.request_beside d f)
@[simp] theorem Dev.request_expand (d : Dev) (f : Nat) : (d.request f).expand = d.expand := Dev.of_beside_expand (Dev.request_beside d f)
@[simp] theorem Dev.request_madeGen (d : Dev) (f : Nat) : (d.request f).madeGen = d.madeGen := Dev.of_beside_madeGen (Dev.request_beside d f)
@[simp] theorem Dev.request_dma (d : Dev) (f : Nat) : (d.request f).dma = d.dma := Dev.of_beside_dma (Dev.request_beside d f)
@[simp] theorem Dev.request_cpm (d : Dev) (f : Nat) : (d.request f).cpm = d.cpm := Dev.of_beside_cpm (Dev.request_beside d f)
@[simp] theorem Dev.request_fsc (d : Dev) (f : Nat) : (d.request f).fsc = d.fsc := Dev.of_beside_fsc (Dev.request_beside d f)
@[simp] theorem Dev.request_threads (d : Dev) (f : Nat) : (d.request f).threads = d.threads := Dev.of_beside_threads (Dev.request_beside d f)
@[simp] theorem Dev.request_ucs (d : Dev) (f : Nat) : (d.request f).ucs = d.ucs := Dev.of_beside_ucs (Dev.request_beside d f)
@[simp] theorem Dev.request_load (d : Dev) (f : Nat) : (d.request f).load = d.load := Dev.of_beside_load (Dev.request_beside d f)
@[simp] theorem Dev.request_tim (d : Dev) (f : Nat) : (d.request f).tim = d.tim := Dev.of_beside_tim (Dev.request_beside d f)
@[simp] theorem Dev.request_sdl (d : Dev) (f : Nat) : (d.request f).sdl = d.sdl := Dev.of_beside_sdl (Dev.request_beside d f)
@[simp] theorem Dev.request_mram (d : Dev) (f : Nat) : (d.request f).mram = d.mram := Dev.of_beside_mram (Dev.request_beside d f)
@[simp] theorem Dev.request_sec (d : Dev) (f : Nat) : (d.request f).sec = d.sec := Dev.of_beside_sec (Dev.request_beside d f)
@[simp] theorem Dev.request_hbc (d : Dev) (f : Nat) : (d.request f).hbc = d.hbc := Dev.of_beside_hbc (Dev.request_beside d f)
@[simp] theorem Dev.request_boot (d : Dev) (f : Nat) : (d.request f).boot = d.boot := Dev.of_beside_boot (Dev.request_beside d f)
@[simp] theorem Dev.request_mon (d : Dev) (f : Nat) : (d.request f).mon = d.mon := Dev.of_beside_mon (Dev.request_beside d f)
@[simp] theorem Dev.request_tmp (d : Dev) (f : Nat) : (d.request f).tmp = d.tmp := Dev.of_beside_tmp (Dev.request_beside d f)
@[simp] theorem Dev.request_doe (d : Dev) (f : Nat) : (d.request f).doe = d.doe := Dev.of_beside_doe (Dev.request_beside d f)
@[simp] theorem Dev.request_free (d : Dev) (f : Nat) : (d.request f).free = d.free := Dev.of_beside_free (Dev.request_beside d f)
@[simp] theorem Dev.request_fab_latchHi (d : Dev) (f : Nat) : (d.request f).fab.latchHi = d.fab.latchHi := Dev.of_beside_fab_latchHi (Dev.request_beside d f)
@[simp] theorem Dev.request_fab_latchLo (d : Dev) (f : Nat) : (d.request f).fab.latchLo = d.fab.latchLo := Dev.of_beside_fab_latchLo (Dev.request_beside d f)
@[simp] theorem Dev.request_fab_hold (d : Dev) (f : Nat) : (d.request f).fab.hold = d.fab.hold := Dev.of_beside_fab_hold (Dev.request_beside d f)
@[simp] theorem Dev.request_fab_routes (d : Dev) (f : Nat) : (d.request f).fab.routes = d.fab.routes := Dev.of_beside_fab_routes (Dev.request_beside d f)
@[simp] theorem Dev.request_fab_fns (d : Dev) (f : Nat) : (d.request f).fab.fns = d.fab.fns := Dev.of_beside_fab_fns (Dev.request_beside d f)
@[simp] theorem Dev.request_fab_numVfs (d : Dev) (f : Nat) : (d.request f).fab.numVfs = d.fab.numVfs := Dev.of_beside_fab_numVfs (Dev.request_beside d f)
@[simp] theorem Dev.request_fab_vfEnable (d : Dev) (f : Nat) : (d.request f).fab.vfEnable = d.fab.vfEnable := Dev.of_beside_fab_vfEnable (Dev.request_beside d f)
@[simp] theorem Dev.request_fab_vfMse (d : Dev) (f : Nat) : (d.request f).fab.vfMse = d.fab.vfMse := Dev.of_beside_fab_vfMse (Dev.request_beside d f)
@[simp] theorem Dev.request_fab_vfChange (d : Dev) (f : Nat) : (d.request f).fab.vfChange = d.fab.vfChange := Dev.of_beside_fab_vfChange (Dev.request_beside d f)
@[simp] theorem Dev.request_fab_vfWait (d : Dev) (f : Nat) : (d.request f).fab.vfWait = d.fab.vfWait := Dev.of_beside_fab_vfWait (Dev.request_beside d f)
@[simp] theorem Dev.request_fab_released (d : Dev) (f : Nat) : (d.request f).fab.released = d.fab.released := Dev.of_beside_fab_released (Dev.request_beside d f)
@[simp] theorem Dev.request_fab_inReset (d : Dev) (f : Nat) : (d.request f).fab.inReset = d.fab.inReset := Dev.of_beside_fab_inReset (Dev.request_beside d f)

/-! ### Who reaches a register -/

@[simp] theorem Dev.request_reachable (d : Dev) (f g : Nat) : (d.request f).reachable g = d.reachable g := by
  simp only [Dev.reachable, Dev.fn, Dev.request_fab_fns, Dev.request_fab_vfEnable, Dev.request_fab_vfMse, Dev.request_fab_numVfs]

@[simp] theorem Dev.request_live (d : Dev) (f : Nat) (b : Blk) (i : Nat) : (d.request f).live b i = d.live b i := by
  simp only [Dev.live, Dev.request_fab_released, Dev.request_fab_inReset]

/-- Let through, a write has its effect on the opened device. -/
theorem Dev.gate_open (d : Dev) (f : Nat) (b : Blk) (i off : Nat) (k : Dev → Dev) (hr : d.reachable f = true) (hl : d.live b i = true)
    (hp : isPf f = true) : d.gate f b i off k = k (d.opened f b i) := by
  simp [Dev.gate, Dev.opened, hr, hl, hp]

theorem Dev.gate_opens (d : Dev) (f : Nat) (b : Blk) (i off : Nat) (k : Dev → Dev) (h : d.opens f b i = true) :
    d.gate f b i off k = k (d.opened f b i) := by
  simp only [Dev.opens, Bool.and_eq_true] at h
  exact Dev.gate_open d f b i off k h.1.1 h.1.2 h.2

/-- A function that has no access gets no effect: Unsupported Request (R396). -/
theorem Dev.gate_unreachable (d : Dev) (f : Nat) (b : Blk) (i off : Nat) (k : Dev → Dev) (hr : d.reachable f = false) :
    d.gate f b i off k = (d.request f).emit (.unsupported f) := by
  simp [Dev.gate, hr]

/-- A VF's write of a PF0-only register is refused (R39, R40). -/
theorem Dev.gate_denied (d : Dev) (f : Nat) (b : Blk) (i off : Nat) (k : Dev → Dev) (hr : d.reachable f = true) (hl : d.live b i = true)
    (hp : isPf f = false) : d.gate f b i off k = (d.request f).deny f false (b.base i + off) := by
  simp [Dev.gate, hr, hl, hp]

@[simp] theorem Dev.opened_beside (d : Dev) (f : Nat) (b : Blk) (i : Nat) : (d.opened f b i).beside = d.beside := by
  rw [Dev.opened, Dev.beside_bump, Dev.request_beside]

theorem Dev.opened_find (d : Dev) (f : Nat) (b : Blk) (i : Nat) {x : Nat} (h : x ∉ irqKeys .hif 0)
    (hs : x ≠ (HDR.FENCE.WriteSeq b).key i 0) : Tab.find (d.opened f b i).regs x = Tab.find d.regs x := by
  rw [Dev.opened, Dev.bump, Dev.find_set_ne _ _ _ _ _ hs, Dev.request_find _ _ h]

/-- A field that is no status word of HIF and not the run's WriteSeq reads as before once the write is let through. -/
theorem Dev.opened_get (d : Dev) (f : Nat) (b : Blk) (i : Nat) (g : Fld) (i' j' : Nat) (h : g.key i' j' ∉ irqKeys .hif 0)
    (hs : g.key i' j' ≠ (HDR.FENCE.WriteSeq b).key i 0) : (d.opened f b i).get g i' j' = d.get g i' j' :=
  Dev.get_of_find (Dev.opened_find d f b i h hs)

/-! ### `Dev.opened` leaves every other part -/

@[simp] theorem Dev.opened_act (d : Dev) (f : Nat) (b : Blk) (i : Nat) : (d.opened f b i).act = d.act := Dev.of_beside_act (Dev.opened_beside d f b i)
@[simp] theorem Dev.opened_prev (d : Dev) (f : Nat) (b : Blk) (i : Nat) : (d.opened f b i).prev = d.prev := Dev.of_beside_prev (Dev.opened_beside d f b i)
@[simp] theorem Dev.opened_cyc (d : Dev) (f : Nat) (b : Blk) (i : Nat) : (d.opened f b i).cyc = d.cyc := Dev.of_beside_cyc (Dev.opened_beside d f b i)
@[simp] theorem Dev.opened_dt (d : Dev) (f : Nat) (b : Blk) (i : Nat) : (d.opened f b i).dt = d.dt := Dev.of_beside_dt (Dev.opened_beside d f b i)
@[simp] theorem Dev.opened_evq (d : Dev) (f : Nat) (b : Blk) (i : Nat) : (d.opened f b i).evq = d.evq := Dev.of_beside_evq (Dev.opened_beside d f b i)
@[simp] theorem Dev.opened_err (d : Dev) (f : Nat) (b : Blk) (i : Nat) : (d.opened f b i).err = d.err := Dev.of_beside_err (Dev.opened_beside d f b i)
@[simp] theorem Dev.opened_glb (d : Dev) (f : Nat) (b : Blk) (i : Nat) : (d.opened f b i).glb = d.glb := Dev.of_beside_glb (Dev.opened_beside d f b i)
@[simp] theorem Dev.opened_pmc (d : Dev) (f : Nat) (b : Blk) (i : Nat) : (d.opened f b i).pmc = d.pmc := Dev.of_beside_pmc (Dev.opened_beside d f b i)
@[simp] theorem Dev.opened_pllAt (d : Dev) (f : Nat) (b : Blk) (i : Nat) : (d.opened f b i).pllAt = d.pllAt := Dev.of_beside_pllAt (Dev.opened_beside d f b i)
@[simp] theorem Dev.opened_ruus (d : Dev) (f : Nat) (b : Blk) (i : Nat) : (d.opened f b i).ruus = d.ruus := Dev.of_beside_ruus (Dev.opened_beside d f b i)
@[simp] theorem Dev.opened_ftb (d : Dev) (f : Nat) (b : Blk) (i : Nat) : (d.opened f b i).ftb = d.ftb := Dev.of_beside_ftb (Dev.opened_beside d f b i)
@[simp] theorem Dev.opened_tpl (d : Dev) (f : Nat) (b : Blk) (i : Nat) : (d.opened f b i).tpl = d.tpl := Dev.of_beside_tpl (Dev.opened_beside d f b i)
@[simp] theorem Dev.opened_tplPrev (d : Dev) (f : Nat) (b : Blk) (i : Nat) : (d.opened f b i).tplPrev = d.tplPrev := Dev.of_beside_tplPrev (Dev.opened_beside d f b i)
@[simp] theorem Dev.opened_results (d : Dev) (f : Nat) (b : Blk) (i : Nat) : (d.opened f b i).results = d.results := Dev.of_beside_results (Dev.opened_beside d f b i)
@[simp] theorem Dev.opened_pkts (d : Dev) (f : Nat) (b : Blk) (i : Nat) : (d.opened f b i).pkts = d.pkts := Dev.of_beside_pkts (Dev.opened_beside d f b i)
@[simp] theorem Dev.opened_nextPid (d : Dev) (f : Nat) (b : Blk) (i : Nat) : (d.opened f b i).nextPid = d.nextPid := Dev.of_beside_nextPid (Dev.opened_beside d f b i)
@[simp] theorem Dev.opened_stg (d : Dev) (f : Nat) (b : Blk) (i : Nat) : (d.opened f b i).stg = d.stg := Dev.of_beside_stg (Dev.opened_beside d f b i)
@[simp] theorem Dev.opened_overflow (d : Dev) (f : Nat) (b : Blk) (i : Nat) : (d.opened f b i).overflow = d.overflow := Dev.of_beside_overflow (Dev.opened_beside d f b i)
@[simp] theorem Dev.opened_fwd (d : Dev) (f : Nat) (b : Blk) (i : Nat) : (d.opened f b i).fwd = d.fwd := Dev.of_beside_fwd (Dev.opened_beside d f b i)
@[simp] theorem Dev.opened_fwdPrev (d : Dev) (f : Nat) (b : Blk) (i : Nat) : (d.opened f b i).fwdPrev = d.fwdPrev := Dev.of_beside_fwdPrev (Dev.opened_beside d f b i)
@[simp] theorem Dev.opened_l2 (d : Dev) (f : Nat) (b : Blk) (i : Nat) : (d.opened f b i).l2 = d.l2 := Dev.of_beside_l2 (Dev.opened_beside d f b i)
@[simp] theorem Dev.opened_nat (d : Dev) (f : Nat) (b : Blk) (i : Nat) : (d.opened f b i).nat = d.nat := Dev.of_beside_nat (Dev.opened_beside d f b i)
@[simp] theorem Dev.opened_acl (d : Dev) (f : Nat) (b : Blk) (i : Nat) : (d.opened f b i).acl = d.acl := Dev.of_beside_acl (Dev.opened_beside d f b i)
@[simp] theorem Dev.opened_shw (d : Dev) (f : Nat) (b : Blk) (i : Nat) : (d.opened f b i).shw = d.shw := Dev.of_beside_shw (Dev.opened_beside d f b i)
@[simp] theorem Dev.opened_mtr (d : Dev) (f : Nat) (b : Blk) (i : Nat) : (d.opened f b i).mtr = d.mtr := Dev.of_beside_mtr (Dev.opened_beside d f b i)
@[simp] theorem Dev.opened_bsn (d : Dev) (f : Nat) (b : Blk) (i : Nat) : (d.opened f b i).bsn = d.bsn := Dev.of_beside_bsn (Dev.opened_beside d f b i)
@[simp] theorem Dev.opened_eg (d : Dev) (f : Nat) (b : Blk) (i : Nat) : (d.opened f b i).eg = d.eg := Dev.of_beside_eg (Dev.opened_beside d f b i)
@[simp] theorem Dev.opened_expand (d : Dev) (f : Nat) (b : Blk) (i : Nat) : (d.opened f b i).expand = d.expand := Dev.of_beside_expand (Dev.opened_beside d f b i)
@[simp] theorem Dev.opened_madeGen (d : Dev) (f : Nat) (b : Blk) (i : Nat) : (d.opened f b i).madeGen = d.madeGen := Dev.of_beside_madeGen (Dev.opened_beside d f b i)
@[simp] theorem Dev.opened_dma (d : Dev) (f : Nat) (b : Blk) (i : Nat) : (d.opened f b i).dma = d.dma := Dev.of_beside_dma (Dev.opened_beside d f b i)
@[simp] theorem Dev.opened_cpm (d : Dev) (f : Nat) (b : Blk) (i : Nat) : (d.opened f b i).cpm = d.cpm := Dev.of_beside_cpm (Dev.opened_beside d f b i)
@[simp] theorem Dev.opened_fsc (d : Dev) (f : Nat) (b : Blk) (i : Nat) : (d.opened f b i).fsc = d.fsc := Dev.of_beside_fsc (Dev.opened_beside d f b i)
@[simp] theorem Dev.opened_threads (d : Dev) (f : Nat) (b : Blk) (i : Nat) : (d.opened f b i).threads = d.threads := Dev.of_beside_threads (Dev.opened_beside d f b i)
@[simp] theorem Dev.opened_ucs (d : Dev) (f : Nat) (b : Blk) (i : Nat) : (d.opened f b i).ucs = d.ucs := Dev.of_beside_ucs (Dev.opened_beside d f b i)
@[simp] theorem Dev.opened_load (d : Dev) (f : Nat) (b : Blk) (i : Nat) : (d.opened f b i).load = d.load := Dev.of_beside_load (Dev.opened_beside d f b i)
@[simp] theorem Dev.opened_tim (d : Dev) (f : Nat) (b : Blk) (i : Nat) : (d.opened f b i).tim = d.tim := Dev.of_beside_tim (Dev.opened_beside d f b i)
@[simp] theorem Dev.opened_sdl (d : Dev) (f : Nat) (b : Blk) (i : Nat) : (d.opened f b i).sdl = d.sdl := Dev.of_beside_sdl (Dev.opened_beside d f b i)
@[simp] theorem Dev.opened_mram (d : Dev) (f : Nat) (b : Blk) (i : Nat) : (d.opened f b i).mram = d.mram := Dev.of_beside_mram (Dev.opened_beside d f b i)
@[simp] theorem Dev.opened_sec (d : Dev) (f : Nat) (b : Blk) (i : Nat) : (d.opened f b i).sec = d.sec := Dev.of_beside_sec (Dev.opened_beside d f b i)
@[simp] theorem Dev.opened_hbc (d : Dev) (f : Nat) (b : Blk) (i : Nat) : (d.opened f b i).hbc = d.hbc := Dev.of_beside_hbc (Dev.opened_beside d f b i)
@[simp] theorem Dev.opened_boot (d : Dev) (f : Nat) (b : Blk) (i : Nat) : (d.opened f b i).boot = d.boot := Dev.of_beside_boot (Dev.opened_beside d f b i)
@[simp] theorem Dev.opened_mon (d : Dev) (f : Nat) (b : Blk) (i : Nat) : (d.opened f b i).mon = d.mon := Dev.of_beside_mon (Dev.opened_beside d f b i)
@[simp] theorem Dev.opened_tmp (d : Dev) (f : Nat) (b : Blk) (i : Nat) : (d.opened f b i).tmp = d.tmp := Dev.of_beside_tmp (Dev.opened_beside d f b i)
@[simp] theorem Dev.opened_doe (d : Dev) (f : Nat) (b : Blk) (i : Nat) : (d.opened f b i).doe = d.doe := Dev.of_beside_doe (Dev.opened_beside d f b i)
@[simp] theorem Dev.opened_free (d : Dev) (f : Nat) (b : Blk) (i : Nat) : (d.opened f b i).free = d.free := Dev.of_beside_free (Dev.opened_beside d f b i)
@[simp] theorem Dev.opened_fab_latchHi (d : Dev) (f : Nat) (b : Blk) (i : Nat) : (d.opened f b i).fab.latchHi = d.fab.latchHi := Dev.of_beside_fab_latchHi (Dev.opened_beside d f b i)
@[simp] theorem Dev.opened_fab_latchLo (d : Dev) (f : Nat) (b : Blk) (i : Nat) : (d.opened f b i).fab.latchLo = d.fab.latchLo := Dev.of_beside_fab_latchLo (Dev.opened_beside d f b i)
@[simp] theorem Dev.opened_fab_hold (d : Dev) (f : Nat) (b : Blk) (i : Nat) : (d.opened f b i).fab.hold = d.fab.hold := Dev.of_beside_fab_hold (Dev.opened_beside d f b i)
@[simp] theorem Dev.opened_fab_routes (d : Dev) (f : Nat) (b : Blk) (i : Nat) : (d.opened f b i).fab.routes = d.fab.routes := Dev.of_beside_fab_routes (Dev.opened_beside d f b i)
@[simp] theorem Dev.opened_fab_fns (d : Dev) (f : Nat) (b : Blk) (i : Nat) : (d.opened f b i).fab.fns = d.fab.fns := Dev.of_beside_fab_fns (Dev.opened_beside d f b i)
@[simp] theorem Dev.opened_fab_numVfs (d : Dev) (f : Nat) (b : Blk) (i : Nat) : (d.opened f b i).fab.numVfs = d.fab.numVfs := Dev.of_beside_fab_numVfs (Dev.opened_beside d f b i)
@[simp] theorem Dev.opened_fab_vfEnable (d : Dev) (f : Nat) (b : Blk) (i : Nat) : (d.opened f b i).fab.vfEnable = d.fab.vfEnable := Dev.of_beside_fab_vfEnable (Dev.opened_beside d f b i)
@[simp] theorem Dev.opened_fab_vfMse (d : Dev) (f : Nat) (b : Blk) (i : Nat) : (d.opened f b i).fab.vfMse = d.fab.vfMse := Dev.of_beside_fab_vfMse (Dev.opened_beside d f b i)
@[simp] theorem Dev.opened_fab_vfChange (d : Dev) (f : Nat) (b : Blk) (i : Nat) : (d.opened f b i).fab.vfChange = d.fab.vfChange := Dev.of_beside_fab_vfChange (Dev.opened_beside d f b i)
@[simp] theorem Dev.opened_fab_vfWait (d : Dev) (f : Nat) (b : Blk) (i : Nat) : (d.opened f b i).fab.vfWait = d.fab.vfWait := Dev.of_beside_fab_vfWait (Dev.opened_beside d f b i)
@[simp] theorem Dev.opened_fab_released (d : Dev) (f : Nat) (b : Blk) (i : Nat) : (d.opened f b i).fab.released = d.fab.released := Dev.of_beside_fab_released (Dev.opened_beside d f b i)
@[simp] theorem Dev.opened_fab_inReset (d : Dev) (f : Nat) (b : Blk) (i : Nat) : (d.opened f b i).fab.inReset = d.fab.inReset := Dev.of_beside_fab_inReset (Dev.opened_beside d f b i)

/-! ### Block registers -/

/-- A bit address of a page outside its header: the byte offset within the page is 0x200 or more (R34). -/
def bodyKey (k : Nat) : Prop := 4096 ≤ k % 32768

theorem Blk.base_mod (b : Blk) (i : Nat) : b.base i % 4096 = 0 := by
  cases b <;> simp only [Blk.base, blkRow] <;> omega

/-- Fields of a run's first page from offset 0x200 on are outside the header. -/
theorem Fld.bodyKey (f : Fld) (i j : Nat) (h : 512 ≤ f.off) (hj : f.off + f.step * j < 4092) (hl : f.lo < 32) :
    Machine.bodyKey (f.key i j) := by
  have := Blk.base_mod f.blk i
  simp only [Machine.bodyKey, Fld.key]
  generalize f.step * j = m at *
  generalize f.blk.base i = n at *
  omega

theorem irqKeys_header {b : Blk} {i k : Nat} (h : k ∈ irqKeys b i) : ¬ bodyKey k := by
  have := Blk.base_mod b i
  simp only [irqKeys, Fld.key, HDR.IRQ_STATUS, HDR.IRQ_FIRST.Bit, HDR.IRQ_FIRST.Forced, HDR.IRQ_FIRST.Valid, List.mem_cons,
    List.not_mem_nil, or_false] at h
  simp only [bodyKey]
  generalize b.base i = n at *
  omega

theorem bodyKey.not_irq {k : Nat} (h : bodyKey k) (b : Blk) (i : Nat) : k ∉ irqKeys b i := fun hk => irqKeys_header hk h

theorem bodyKey.not_event {k : Nat} (h : bodyKey k) (b : Blk) (i : Nat) : k ∉ eventKeys b i := by
  simp only [eventKeys, List.mem_append, not_or]
  exact ⟨h.not_irq _ _, h.not_irq _ _⟩

theorem bodyKey.not_writeSeq {k : Nat} (h : bodyKey k) (b : Blk) (i : Nat) : k ≠ (HDR.FENCE.WriteSeq b).key i 0 := by
  rintro rfl
  have := Blk.base_mod b i
  simp only [bodyKey, Fld.key, HDR.FENCE.WriteSeq] at h
  generalize b.base i = n at *
  omega

theorem Dev.count_body (d : Dev) (b : Blk) (i code n : Nat) {g : Fld} {i' j' : Nat} (h : bodyKey (g.key i' j')) :
    (d.count b i code n).get g i' j' = d.get g i' j' := Dev.count_get _ _ _ _ _ _ _ _ (h.not_event _ _)
theorem Dev.event_body (d : Dev) (b : Blk) (i e : Nat) {g : Fld} {i' j' : Nat} (h : bodyKey (g.key i' j')) :
    (d.event b i e).get g i' j' = d.get g i' j' := Dev.event_get _ _ _ _ _ _ _ (h.not_event _ _)
theorem Dev.raiseIrq_body (d : Dev) (b : Blk) (i m : Nat) (forced : Bool) {g : Fld} {i' j' : Nat} (h : bodyKey (g.key i' j')) :
    (d.raiseIrq b i m forced).get g i' j' = d.get g i' j' := Dev.raiseIrq_get _ _ _ _ _ _ _ _ (h.not_event _ _)
theorem Dev.request_body (d : Dev) (f : Nat) {g : Fld} {i' j' : Nat} (h : bodyKey (g.key i' j')) :
    (d.request f).get g i' j' = d.get g i' j' := Dev.request_get _ _ _ _ _ (h.not_irq _ _)

/-- Every block register reads as before once a write is let through. -/
theorem Dev.opened_body (d : Dev) (f : Nat) (b : Blk) (i : Nat) {g : Fld} {i' j' : Nat} (h : bodyKey (g.key i' j')) :
    (d.opened f b i).get g i' j' = d.get g i' j' := Dev.opened_get _ _ _ _ _ _ _ (h.not_irq _ _) (h.not_writeSeq _ _)

end Sys2Proof.Machine
end

