-- ==== Sys2Proof/Laws/Event.lean ====
section
/-! SUPPORT. Laws of the passing of time and of event-queue posts: the parts they touch, and the queues and register fields they
leave alone. -/

namespace Sys2Proof.Machine

/-! ### The passing of time -/

@[simp] theorem Dev.cycleCount_beside (d : Dev) (n : Nat) (b : Blk) (i k : Nat) : (d.cycleCount n b i k).beside = d.beside := by
  simp only [Dev.cycleCount]
  split
  · rfl
  · split
    · rw [Dev.raiseIrq_beside, Dev.ctrStep_beside]
    · rw [Dev.ctrStep_beside]

@[simp] theorem Dev.cycles_beside (d : Dev) (n : Nat) : (d.cycles n).beside = d.beside := by
  unfold Dev.cycles
  generalize List.filterMap _ _ = l
  exact foldl_keeps _ Dev.beside (fun a x => Dev.cycleCount_beside a n x.1 x.2.1 x.2.2) l d

@[simp] theorem Dev.later_untimed (d : Dev) (n : Nat) : (d.later n).untimed = d.untimed := by
  have h := Dev.cycles_beside d n
  simp only [Dev.later, Dev.untimed]
  have h1 : (d.cycles n).pmc = d.pmc := Dev.of_beside_pmc h
  have h2 := congrArg (fun x : Dev => { x with cyc := 0, dt := 0, pmc := { x.pmc with tickTime := 0 } }) h
  exact h2

@[simp] theorem Dev.later_act (d : Dev) (n : Nat) : (d.later n).act = d.act := by
  have := congrArg Dev.act (Dev.later_untimed d n); exact this
@[simp] theorem Dev.later_prev (d : Dev) (n : Nat) : (d.later n).prev = d.prev := by
  have := congrArg Dev.prev (Dev.later_untimed d n); exact this
@[simp] theorem Dev.later_evq (d : Dev) (n : Nat) : (d.later n).evq = d.evq := by
  have := congrArg Dev.evq (Dev.later_untimed d n); exact this
@[simp] theorem Dev.later_err (d : Dev) (n : Nat) : (d.later n).err = d.err := by
  have := congrArg Dev.err (Dev.later_untimed d n); exact this
@[simp] theorem Dev.later_glb (d : Dev) (n : Nat) : (d.later n).glb = d.glb := by
  have := congrArg Dev.glb (Dev.later_untimed d n); exact this
@[simp] theorem Dev.later_pllAt (d : Dev) (n : Nat) : (d.later n).pllAt = d.pllAt := by
  have := congrArg Dev.pllAt (Dev.later_untimed d n); exact this
@[simp] theorem Dev.later_ruus (d : Dev) (n : Nat) : (d.later n).ruus = d.ruus := by
  have := congrArg Dev.ruus (Dev.later_untimed d n); exact this
@[simp] theorem Dev.later_ftb (d : Dev) (n : Nat) : (d.later n).ftb = d.ftb := by
  have := congrArg Dev.ftb (Dev.later_untimed d n); exact this
@[simp] theorem Dev.later_tpl (d : Dev) (n : Nat) : (d.later n).tpl = d.tpl := by
  have := congrArg Dev.tpl (Dev.later_untimed d n); exact this
@[simp] theorem Dev.later_tplPrev (d : Dev) (n : Nat) : (d.later n).tplPrev = d.tplPrev := by
  have := congrArg Dev.tplPrev (Dev.later_untimed d n); exact this
@[simp] theorem Dev.later_results (d : Dev) (n : Nat) : (d.later n).results = d.results := by
  have := congrArg Dev.results (Dev.later_untimed d n); exact this
@[simp] theorem Dev.later_pkts (d : Dev) (n : Nat) : (d.later n).pkts = d.pkts := by
  have := congrArg Dev.pkts (Dev.later_untimed d n); exact this
@[simp] theorem Dev.later_nextPid (d : Dev) (n : Nat) : (d.later n).nextPid = d.nextPid := by
  have := congrArg Dev.nextPid (Dev.later_untimed d n); exact this
@[simp] theorem Dev.later_stg (d : Dev) (n : Nat) : (d.later n).stg = d.stg := by
  have := congrArg Dev.stg (Dev.later_untimed d n); exact this
@[simp] theorem Dev.later_overflow (d : Dev) (n : Nat) : (d.later n).overflow = d.overflow := by
  have := congrArg Dev.overflow (Dev.later_untimed d n); exact this
@[simp] theorem Dev.later_fwd (d : Dev) (n : Nat) : (d.later n).fwd = d.fwd := by
  have := congrArg Dev.fwd (Dev.later_untimed d n); exact this
@[simp] theorem Dev.later_fwdPrev (d : Dev) (n : Nat) : (d.later n).fwdPrev = d.fwdPrev := by
  have := congrArg Dev.fwdPrev (Dev.later_untimed d n); exact this
@[simp] theorem Dev.later_l2 (d : Dev) (n : Nat) : (d.later n).l2 = d.l2 := by
  have := congrArg Dev.l2 (Dev.later_untimed d n); exact this
@[simp] theorem Dev.later_nat (d : Dev) (n : Nat) : (d.later n).nat = d.nat := by
  have := congrArg Dev.nat (Dev.later_untimed d n); exact this
@[simp] theorem Dev.later_acl (d : Dev) (n : Nat) : (d.later n).acl = d.acl := by
  have := congrArg Dev.acl (Dev.later_untimed d n); exact this
@[simp] theorem Dev.later_shw (d : Dev) (n : Nat) : (d.later n).shw = d.shw := by
  have := congrArg Dev.shw (Dev.later_untimed d n); exact this
@[simp] theorem Dev.later_mtr (d : Dev) (n : Nat) : (d.later n).mtr = d.mtr := by
  have := congrArg Dev.mtr (Dev.later_untimed d n); exact this
@[simp] theorem Dev.later_bsn (d : Dev) (n : Nat) : (d.later n).bsn = d.bsn := by
  have := congrArg Dev.bsn (Dev.later_untimed d n); exact this
@[simp] theorem Dev.later_eg (d : Dev) (n : Nat) : (d.later n).eg = d.eg := by
  have := congrArg Dev.eg (Dev.later_untimed d n); exact this
@[simp] theorem Dev.later_expand (d : Dev) (n : Nat) : (d.later n).expand = d.expand := by
  have := congrArg Dev.expand (Dev.later_untimed d n); exact this
@[simp] theorem Dev.later_madeGen (d : Dev) (n : Nat) : (d.later n).madeGen = d.madeGen := by
  have := congrArg Dev.madeGen (Dev.later_untimed d n); exact this
@[simp] theorem Dev.later_dma (d : Dev) (n : Nat) : (d.later n).dma = d.dma := by
  have := congrArg Dev.dma (Dev.later_untimed d n); exact this
@[simp] theorem Dev.later_cpm (d : Dev) (n : Nat) : (d.later n).cpm = d.cpm := by
  have := congrArg Dev.cpm (Dev.later_untimed d n); exact this
@[simp] theorem Dev.later_fsc (d : Dev) (n : Nat) : (d.later n).fsc = d.fsc := by
  have := congrArg Dev.fsc (Dev.later_untimed d n); exact this
@[simp] theorem Dev.later_threads (d : Dev) (n : Nat) : (d.later n).threads = d.threads := by
  have := congrArg Dev.threads (Dev.later_untimed d n); exact this
@[simp] theorem Dev.later_ucs (d : Dev) (n : Nat) : (d.later n).ucs = d.ucs := by
  have := congrArg Dev.ucs (Dev.later_untimed d n); exact this
@[simp] theorem Dev.later_load (d : Dev) (n : Nat) : (d.later n).load = d.load := by
  have := congrArg Dev.load (Dev.later_untimed d n); exact this
@[simp] theorem Dev.later_tim (d : Dev) (n : Nat) : (d.later n).tim = d.tim := by
  have := congrArg Dev.tim (Dev.later_untimed d n); exact this
@[simp] theorem Dev.later_sdl (d : Dev) (n : Nat) : (d.later n).sdl = d.sdl := by
  have := congrArg Dev.sdl (Dev.later_untimed d n); exact this
@[simp] theorem Dev.later_mram (d : Dev) (n : Nat) : (d.later n).mram = d.mram := by
  have := congrArg Dev.mram (Dev.later_untimed d n); exact this
@[simp] theorem Dev.later_sec (d : Dev) (n : Nat) : (d.later n).sec = d.sec := by
  have := congrArg Dev.sec (Dev.later_untimed d n); exact this
@[simp] theorem Dev.later_hbc (d : Dev) (n : Nat) : (d.later n).hbc = d.hbc := by
  have := congrArg Dev.hbc (Dev.later_untimed d n); exact this
@[simp] theorem Dev.later_boot (d : Dev) (n : Nat) : (d.later n).boot = d.boot := by
  have := congrArg Dev.boot (Dev.later_untimed d n); exact this
@[simp] theorem Dev.later_mon (d : Dev) (n : Nat) : (d.later n).mon = d.mon := by
  have := congrArg Dev.mon (Dev.later_untimed d n); exact this
@[simp] theorem Dev.later_tmp (d : Dev) (n : Nat) : (d.later n).tmp = d.tmp := by
  have := congrArg Dev.tmp (Dev.later_untimed d n); exact this
@[simp] theorem Dev.later_doe (d : Dev) (n : Nat) : (d.later n).doe = d.doe := by
  have := congrArg Dev.doe (Dev.later_untimed d n); exact this
@[simp] theorem Dev.later_free (d : Dev) (n : Nat) : (d.later n).free = d.free := by
  have := congrArg Dev.free (Dev.later_untimed d n); exact this
@[simp] theorem Dev.later_fab_latchHi (d : Dev) (n : Nat) : (d.later n).fab.latchHi = d.fab.latchHi := by
  have := congrArg (fun x : Dev => x.fab.latchHi) (Dev.later_untimed d n); exact this
@[simp] theorem Dev.later_fab_latchLo (d : Dev) (n : Nat) : (d.later n).fab.latchLo = d.fab.latchLo := by
  have := congrArg (fun x : Dev => x.fab.latchLo) (Dev.later_untimed d n); exact this
@[simp] theorem Dev.later_fab_hold (d : Dev) (n : Nat) : (d.later n).fab.hold = d.fab.hold := by
  have := congrArg (fun x : Dev => x.fab.hold) (Dev.later_untimed d n); exact this
@[simp] theorem Dev.later_fab_routes (d : Dev) (n : Nat) : (d.later n).fab.routes = d.fab.routes := by
  have := congrArg (fun x : Dev => x.fab.routes) (Dev.later_untimed d n); exact this
@[simp] theorem Dev.later_fab_fns (d : Dev) (n : Nat) : (d.later n).fab.fns = d.fab.fns := by
  have := congrArg (fun x : Dev => x.fab.fns) (Dev.later_untimed d n); exact this
@[simp] theorem Dev.later_fab_numVfs (d : Dev) (n : Nat) : (d.later n).fab.numVfs = d.fab.numVfs := by
  have := congrArg (fun x : Dev => x.fab.numVfs) (Dev.later_untimed d n); exact this
@[simp] theorem Dev.later_fab_vfEnable (d : Dev) (n : Nat) : (d.later n).fab.vfEnable = d.fab.vfEnable := by
  have := congrArg (fun x : Dev => x.fab.vfEnable) (Dev.later_untimed d n); exact this
@[simp] theorem Dev.later_fab_vfMse (d : Dev) (n : Nat) : (d.later n).fab.vfMse = d.fab.vfMse := by
  have := congrArg (fun x : Dev => x.fab.vfMse) (Dev.later_untimed d n); exact this
@[simp] theorem Dev.later_fab_vfChange (d : Dev) (n : Nat) : (d.later n).fab.vfChange = d.fab.vfChange := by
  have := congrArg (fun x : Dev => x.fab.vfChange) (Dev.later_untimed d n); exact this
@[simp] theorem Dev.later_fab_vfWait (d : Dev) (n : Nat) : (d.later n).fab.vfWait = d.fab.vfWait := by
  have := congrArg (fun x : Dev => x.fab.vfWait) (Dev.later_untimed d n); exact this
@[simp] theorem Dev.later_fab_released (d : Dev) (n : Nat) : (d.later n).fab.released = d.fab.released := by
  have := congrArg (fun x : Dev => x.fab.released) (Dev.later_untimed d n); exact this
@[simp] theorem Dev.later_fab_inReset (d : Dev) (n : Nat) : (d.later n).fab.inReset = d.fab.inReset := by
  have := congrArg (fun x : Dev => x.fab.inReset) (Dev.later_untimed d n); exact this

@[simp] theorem Dev.cycles_cyc (d : Dev) (n : Nat) : (d.cycles n).cyc = d.cyc := Dev.of_beside_cyc (Dev.cycles_beside d n)
@[simp] theorem Dev.cycles_dt (d : Dev) (n : Nat) : (d.cycles n).dt = d.dt := Dev.of_beside_dt (Dev.cycles_beside d n)
@[simp] theorem Dev.cycles_pllAt (d : Dev) (n : Nat) : (d.cycles n).pllAt = d.pllAt := Dev.of_beside_pllAt (Dev.cycles_beside d n)

@[simp] theorem Dev.later_cyc (d : Dev) (n : Nat) : (d.later n).cyc = d.cyc + n := by
  simp only [Dev.later, Dev.cycles_cyc]

theorem Dev.cycleCount_find (d : Dev) (n : Nat) (b : Blk) (i k : Nat) {x : Nat} (h : bodyKey x) :
    Tab.find (d.cycleCount n b i k).regs x = Tab.find d.regs x := by
  simp only [Dev.cycleCount]
  split
  · rfl
  · split
    · rw [Dev.raiseIrq_find _ _ _ _ _ (h.not_event _ _), Dev.ctrStep_regs]
    · rw [Dev.ctrStep_regs]

theorem Dev.cycles_find (d : Dev) (n : Nat) {x : Nat} (h : bodyKey x) : Tab.find (d.cycles n).regs x = Tab.find d.regs x := by
  unfold Dev.cycles
  generalize List.filterMap _ _ = l
  exact foldl_keeps _ (fun a : Dev => Tab.find a.regs x) (fun a y => Dev.cycleCount_find a n y.1 y.2.1 y.2.2 h) l d

/-- Time passing changes no block register. -/
theorem Dev.later_find (d : Dev) (n : Nat) {x : Nat} (h : bodyKey x) : Tab.find (d.later n).regs x = Tab.find d.regs x :=
  Dev.cycles_find d n h

theorem Dev.later_body (d : Dev) (n : Nat) {g : Fld} {i j : Nat} (h : bodyKey (g.key i j)) : (d.later n).get g i j = d.get g i j :=
  Dev.get_of_find (Dev.later_find d n h)

/-! ### Posts -/

theorem Dev.unposted_of_beside {d e : Dev} (h : d.beside = e.beside) : d.unposted = e.unposted := by
  simp only [Dev.unposted, h]

@[simp] theorem Dev.queue_of_evq (d : Dev) (q : Nat) : Tab.get {} d.evq.queues q = d.queue q := rfl

@[simp] theorem Dev.setQueue_queue_same (d : Dev) (q : Nat) (x : EvQueue) : (d.setQueue q x).queue q = x := Tab.get_put_same ..

theorem Dev.setQueue_queue_ne (d : Dev) {q q' : Nat} (x : EvQueue) (h : q' ≠ q) : (d.setQueue q x).queue q' = d.queue q' :=
  Tab.get_put_ne _ _ _ _ h

theorem Dev.queue_eq_of_evq {d e : Dev} (h : d.evq = e.evq) (q : Nat) : d.queue q = e.queue q := by
  simp only [Dev.queue, h]

@[simp] theorem Dev.set_queue (d : Dev) (f : Fld) (v i j q : Nat) : (d.set f v i j).queue q = d.queue q := rfl
@[simp] theorem Dev.bump_queue (d : Dev) (f : Fld) (n i j q : Nat) : (d.bump f n i j).queue q = d.queue q := rfl
@[simp] theorem Dev.emit_queue (d : Dev) (o : Out) (q : Nat) : (d.emit o).queue q = d.queue q := rfl
@[simp] theorem Dev.count_queue (d : Dev) (b : Blk) (i c n q : Nat) : (d.count b i c n).queue q = d.queue q :=
  Dev.queue_eq_of_evq (Dev.count_evq ..) q
@[simp] theorem Dev.event_queue (d : Dev) (b : Blk) (i e q : Nat) : (d.event b i e).queue q = d.queue q :=
  Dev.queue_eq_of_evq (Dev.event_evq ..) q
@[simp] theorem Dev.request_queue (d : Dev) (f q : Nat) : (d.request f).queue q = d.queue q :=
  Dev.queue_eq_of_evq (Dev.request_evq ..) q
@[simp] theorem Dev.opened_queue (d : Dev) (f : Nat) (b : Blk) (i q : Nat) : (d.opened f b i).queue q = d.queue q :=
  Dev.queue_eq_of_evq (Dev.opened_evq ..) q
@[simp] theorem Dev.later_queue (d : Dev) (n q : Nat) : (d.later n).queue q = d.queue q :=
  Dev.queue_eq_of_evq (Dev.later_evq ..) q

@[simp] theorem Dev.refusePost_beside (d : Dev) (q r : Nat) : (d.refusePost q r).beside = d.beside := by
  simp only [Dev.refusePost, Dev.count_beside, Dev.event_beside, Dev.beside_set, Dev.beside_bump]

@[simp] theorem Dev.refusePost_queue (d : Dev) (q r q' : Nat) : (d.refusePost q r).queue q' = d.queue q' :=
  Dev.queue_eq_of_evq (Dev.of_beside_evq (Dev.refusePost_beside ..)) q'

theorem Dev.unposted_setQueue (d : Dev) (q : Nat) (x : EvQueue) : (d.setQueue q x).unposted = d.unposted := rfl

/-- A reservation touches the queues, register fields, counters, messages and nothing else. -/
@[simp] theorem Dev.reserve_unposted (d : Dev) (src : Blk) (inst typ q n : Nat) (owner : Option Nat) :
    (d.reserve src inst typ q n owner).1.unposted = d.unposted := by
  have hr := fun (d : Dev) r => Dev.unposted_of_beside (Dev.refusePost_beside d q r)
  simp only [Dev.reserve]
  repeat' split
  all_goals dsimp only
  all_goals try rw [hr]
  all_goals try rw [Dev.unposted_setQueue]
  all_goals
    apply Dev.unposted_of_beside
    simp only [Dev.count_beside, Dev.event_beside, Dev.beside_bump]

/-- A reservation leaves every other queue alone. -/
theorem Dev.reserve_queue_ne (d : Dev) (src : Blk) (inst typ q n : Nat) (owner : Option Nat) {q' : Nat} (h : q' ≠ q) :
    (d.reserve src inst typ q n owner).1.queue q' = d.queue q' := by
  simp only [Dev.reserve]
  repeat' split
  all_goals dsimp only
  all_goals try rw [Dev.refusePost_queue]
  all_goals rw [Dev.setQueue_queue_ne _ _ h]
  all_goals simp

@[simp] theorem Dev.notify_beside (d : Dev) (q : Nat) : (d.notify q).beside = d.beside := by
  simp only [Dev.notify]
  split
  · exact Dev.event_beside ..
  · rfl

@[simp] theorem Dev.notify_queue (d : Dev) (q q' : Nat) : (d.notify q).queue q' = d.queue q' :=
  Dev.queue_eq_of_evq (Dev.of_beside_evq (Dev.notify_beside ..)) q'

@[simp] theorem Dev.complete_unposted (d : Dev) (q seq : Nat) (payload : List Nat) (void : Bool) :
    (d.complete q seq payload void).unposted = d.unposted := by
  simp only [Dev.complete]
  split
  · rfl
  · rw [Dev.unposted_of_beside (Dev.notify_beside ..), Dev.unposted_of_beside (Dev.count_beside ..),
      Dev.unposted_of_beside (Dev.count_beside ..), Dev.unposted_of_beside (Dev.count_beside ..),
      Dev.unposted_of_beside (Dev.count_beside ..), Dev.unposted_setQueue]

theorem Dev.complete_queue_ne (d : Dev) (q seq : Nat) (payload : List Nat) (void : Bool) {q' : Nat} (h : q' ≠ q) :
    (d.complete q seq payload void).queue q' = d.queue q' := by
  simp only [Dev.complete]
  split
  · rfl
  · simp [Dev.setQueue_queue_ne _ _ h]

/-- A post touches the queues, register fields, counters, messages and nothing else. -/
@[simp] theorem Dev.post_unposted (d : Dev) (src : Blk) (inst typ q : Nat) (items : List Nat) (owner : Option Nat) :
    (d.post src inst typ q items owner).unposted = d.unposted := by
  have h := Dev.reserve_unposted d src inst typ q items.length owner
  simp only [Dev.post]
  split
  · rename_i e; rw [e] at h; exact h
  · rename_i e; rw [e] at h; rw [Dev.complete_unposted]; exact h

theorem Dev.post_queue_ne (d : Dev) (src : Blk) (inst typ q : Nat) (items : List Nat) (owner : Option Nat) {q' : Nat} (hq : q' ≠ q) :
    (d.post src inst typ q items owner).queue q' = d.queue q' := by
  have h := Dev.reserve_queue_ne d src inst typ q items.length owner hq
  simp only [Dev.post]
  split
  · rename_i e; rw [e] at h; exact h
  · rename_i e; rw [e] at h; rw [Dev.complete_queue_ne _ _ _ _ _ hq]; exact h

@[simp] theorem Dev.postSys_unposted (d : Dev) (src : Blk) (inst typ : Nat) (items : List Nat) :
    (d.postSys src inst typ items).unposted = d.unposted := Dev.post_unposted ..

/-- A refusal of the fabric touches register fields, the queues and what a post touches. -/
@[simp] theorem Dev.deny_unposted (d : Dev) (f : Nat) (bar2 : Bool) (off : Nat) : (d.deny f bar2 off).unposted = d.unposted := by
  simp only [Dev.deny, Dev.postSys_unposted]
  exact Dev.unposted_of_beside rfl

theorem Dev.of_unposted_act {d e : Dev} (h : d.unposted = e.unposted) : d.act = e.act := by
  have := congrArg Dev.act h; exact this
theorem Dev.of_unposted_prev {d e : Dev} (h : d.unposted = e.unposted) : d.prev = e.prev := by
  have := congrArg Dev.prev h; exact this
theorem Dev.of_unposted_cyc {d e : Dev} (h : d.unposted = e.unposted) : d.cyc = e.cyc := by
  have := congrArg Dev.cyc h; exact this
theorem Dev.of_unposted_dt {d e : Dev} (h : d.unposted = e.unposted) : d.dt = e.dt := by
  have := congrArg Dev.dt h; exact this
theorem Dev.of_unposted_err {d e : Dev} (h : d.unposted = e.unposted) : d.err = e.err := by
  have := congrArg Dev.err h; exact this
theorem Dev.of_unposted_glb {d e : Dev} (h : d.unposted = e.unposted) : d.glb = e.glb := by
  have := congrArg Dev.glb h; exact this
theorem Dev.of_unposted_pmc {d e : Dev} (h : d.unposted = e.unposted) : d.pmc = e.pmc := by
  have := congrArg Dev.pmc h; exact this
theorem Dev.of_unposted_pllAt {d e : Dev} (h : d.unposted = e.unposted) : d.pllAt = e.pllAt := by
  have := congrArg Dev.pllAt h; exact this
theorem Dev.of_unposted_ruus {d e : Dev} (h : d.unposted = e.unposted) : d.ruus = e.ruus := by
  have := congrArg Dev.ruus h; exact this
theorem Dev.of_unposted_ftb {d e : Dev} (h : d.unposted = e.unposted) : d.ftb = e.ftb := by
  have := congrArg Dev.ftb h; exact this
theorem Dev.of_unposted_tpl {d e : Dev} (h : d.unposted = e.unposted) : d.tpl = e.tpl := by
  have := congrArg Dev.tpl h; exact this
theorem Dev.of_unposted_tplPrev {d e : Dev} (h : d.unposted = e.unposted) : d.tplPrev = e.tplPrev := by
  have := congrArg Dev.tplPrev h; exact this
theorem Dev.of_unposted_results {d e : Dev} (h : d.unposted = e.unposted) : d.results = e.results := by
  have := congrArg Dev.results h; exact this
theorem Dev.of_unposted_pkts {d e : Dev} (h : d.unposted = e.unposted) : d.pkts = e.pkts := by
  have := congrArg Dev.pkts h; exact this
theorem Dev.of_unposted_nextPid {d e : Dev} (h : d.unposted = e.unposted) : d.nextPid = e.nextPid := by
  have := congrArg Dev.nextPid h; exact this
theorem Dev.of_unposted_stg {d e : Dev} (h : d.unposted = e.unposted) : d.stg = e.stg := by
  have := congrArg Dev.stg h; exact this
theorem Dev.of_unposted_overflow {d e : Dev} (h : d.unposted = e.unposted) : d.overflow = e.overflow := by
  have := congrArg Dev.overflow h; exact this
theorem Dev.of_unposted_fwd {d e : Dev} (h : d.unposted = e.unposted) : d.fwd = e.fwd := by
  have := congrArg Dev.fwd h; exact this
theorem Dev.of_unposted_fwdPrev {d e : Dev} (h : d.unposted = e.unposted) : d.fwdPrev = e.fwdPrev := by
  have := congrArg Dev.fwdPrev h; exact this
theorem Dev.of_unposted_l2 {d e : Dev} (h : d.unposted = e.unposted) : d.l2 = e.l2 := by
  have := congrArg Dev.l2 h; exact this
theorem Dev.of_unposted_nat {d e : Dev} (h : d.unposted = e.unposted) : d.nat = e.nat := by
  have := congrArg Dev.nat h; exact this
theorem Dev.of_unposted_acl {d e : Dev} (h : d.unposted = e.unposted) : d.acl = e.acl := by
  have := congrArg Dev.acl h; exact this
theorem Dev.of_unposted_shw {d e : Dev} (h : d.unposted = e.unposted) : d.shw = e.shw := by
  have := congrArg Dev.shw h; exact this
theorem Dev.of_unposted_mtr {d e : Dev} (h : d.unposted = e.unposted) : d.mtr = e.mtr := by
  have := congrArg Dev.mtr h; exact this
theorem Dev.of_unposted_bsn {d e : Dev} (h : d.unposted = e.unposted) : d.bsn = e.bsn := by
  have := congrArg Dev.bsn h; exact this
theorem Dev.of_unposted_eg {d e : Dev} (h : d.unposted = e.unposted) : d.eg = e.eg := by
  have := congrArg Dev.eg h; exact this
theorem Dev.of_unposted_expand {d e : Dev} (h : d.unposted = e.unposted) : d.expand = e.expand := by
  have := congrArg Dev.expand h; exact this
theorem Dev.of_unposted_madeGen {d e : Dev} (h : d.unposted = e.unposted) : d.madeGen = e.madeGen := by
  have := congrArg Dev.madeGen h; exact this
theorem Dev.of_unposted_dma {d e : Dev} (h : d.unposted = e.unposted) : d.dma = e.dma := by
  have := congrArg Dev.dma h; exact this
theorem Dev.of_unposted_cpm {d e : Dev} (h : d.unposted = e.unposted) : d.cpm = e.cpm := by
  have := congrArg Dev.cpm h; exact this
theorem Dev.of_unposted_fsc {d e : Dev} (h : d.unposted = e.unposted) : d.fsc = e.fsc := by
  have := congrArg Dev.fsc h; exact this
theorem Dev.of_unposted_threads {d e : Dev} (h : d.unposted = e.unposted) : d.threads = e.threads := by
  have := congrArg Dev.threads h; exact this
theorem Dev.of_unposted_ucs {d e : Dev} (h : d.unposted = e.unposted) : d.ucs = e.ucs := by
  have := congrArg Dev.ucs h; exact this
theorem Dev.of_unposted_load {d e : Dev} (h : d.unposted = e.unposted) : d.load = e.load := by
  have := congrArg Dev.load h; exact this
theorem Dev.of_unposted_tim {d e : Dev} (h : d.unposted = e.unposted) : d.tim = e.tim := by
  have := congrArg Dev.tim h; exact this
theorem Dev.of_unposted_sdl {d e : Dev} (h : d.unposted = e.unposted) : d.sdl = e.sdl := by
  have := congrArg Dev.sdl h; exact this
theorem Dev.of_unposted_mram {d e : Dev} (h : d.unposted = e.unposted) : d.mram = e.mram := by
  have := congrArg Dev.mram h; exact this
theorem Dev.of_unposted_sec {d e : Dev} (h : d.unposted = e.unposted) : d.sec = e.sec := by
  have := congrArg Dev.sec h; exact this
theorem Dev.of_unposted_hbc {d e : Dev} (h : d.unposted = e.unposted) : d.hbc = e.hbc := by
  have := congrArg Dev.hbc h; exact this
theorem Dev.of_unposted_boot {d e : Dev} (h : d.unposted = e.unposted) : d.boot = e.boot := by
  have := congrArg Dev.boot h; exact this
theorem Dev.of_unposted_mon {d e : Dev} (h : d.unposted = e.unposted) : d.mon = e.mon := by
  have := congrArg Dev.mon h; exact this
theorem Dev.of_unposted_tmp {d e : Dev} (h : d.unposted = e.unposted) : d.tmp = e.tmp := by
  have := congrArg Dev.tmp h; exact this
theorem Dev.of_unposted_doe {d e : Dev} (h : d.unposted = e.unposted) : d.doe = e.doe := by
  have := congrArg Dev.doe h; exact this
theorem Dev.of_unposted_free {d e : Dev} (h : d.unposted = e.unposted) : d.free = e.free := by
  have := congrArg Dev.free h; exact this
theorem Dev.of_unposted_fab_latchHi {d e : Dev} (h : d.unposted = e.unposted) : d.fab.latchHi = e.fab.latchHi := by
  have := congrArg (fun x : Dev => x.fab.latchHi) h; exact this
theorem Dev.of_unposted_fab_latchLo {d e : Dev} (h : d.unposted = e.unposted) : d.fab.latchLo = e.fab.latchLo := by
  have := congrArg (fun x : Dev => x.fab.latchLo) h; exact this
theorem Dev.of_unposted_fab_hold {d e : Dev} (h : d.unposted = e.unposted) : d.fab.hold = e.fab.hold := by
  have := congrArg (fun x : Dev => x.fab.hold) h; exact this
theorem Dev.of_unposted_fab_routes {d e : Dev} (h : d.unposted = e.unposted) : d.fab.routes = e.fab.routes := by
  have := congrArg (fun x : Dev => x.fab.routes) h; exact this
theorem Dev.of_unposted_fab_fns {d e : Dev} (h : d.unposted = e.unposted) : d.fab.fns = e.fab.fns := by
  have := congrArg (fun x : Dev => x.fab.fns) h; exact this
theorem Dev.of_unposted_fab_numVfs {d e : Dev} (h : d.unposted = e.unposted) : d.fab.numVfs = e.fab.numVfs := by
  have := congrArg (fun x : Dev => x.fab.numVfs) h; exact this
theorem Dev.of_unposted_fab_vfEnable {d e : Dev} (h : d.unposted = e.unposted) : d.fab.vfEnable = e.fab.vfEnable := by
  have := congrArg (fun x : Dev => x.fab.vfEnable) h; exact this
theorem Dev.of_unposted_fab_vfMse {d e : Dev} (h : d.unposted = e.unposted) : d.fab.vfMse = e.fab.vfMse := by
  have := congrArg (fun x : Dev => x.fab.vfMse) h; exact this
theorem Dev.of_unposted_fab_vfChange {d e : Dev} (h : d.unposted = e.unposted) : d.fab.vfChange = e.fab.vfChange := by
  have := congrArg (fun x : Dev => x.fab.vfChange) h; exact this
theorem Dev.of_unposted_fab_vfWait {d e : Dev} (h : d.unposted = e.unposted) : d.fab.vfWait = e.fab.vfWait := by
  have := congrArg (fun x : Dev => x.fab.vfWait) h; exact this
theorem Dev.of_unposted_fab_released {d e : Dev} (h : d.unposted = e.unposted) : d.fab.released = e.fab.released := by
  have := congrArg (fun x : Dev => x.fab.released) h; exact this
theorem Dev.of_unposted_fab_inReset {d e : Dev} (h : d.unposted = e.unposted) : d.fab.inReset = e.fab.inReset := by
  have := congrArg (fun x : Dev => x.fab.inReset) h; exact this

@[simp] theorem Dev.post_act (d : Dev) (src : Blk) (inst typ q : Nat) (items : List Nat) (owner : Option Nat) : (d.post src inst typ q items owner).act = d.act := Dev.of_unposted_act (Dev.post_unposted d src inst typ q items owner)
@[simp] theorem Dev.post_prev (d : Dev) (src : Blk) (inst typ q : Nat) (items : List Nat) (owner : Option Nat) : (d.post src inst typ q items owner).prev = d.prev := Dev.of_unposted_prev (Dev.post_unposted d src inst typ q items owner)
@[simp] theorem Dev.post_cyc (d : Dev) (src : Blk) (inst typ q : Nat) (items : List Nat) (owner : Option Nat) : (d.post src inst typ q items owner).cyc = d.cyc := Dev.of_unposted_cyc (Dev.post_unposted d src inst typ q items owner)
@[simp] theorem Dev.post_dt (d : Dev) (src : Blk) (inst typ q : Nat) (items : List Nat) (owner : Option Nat) : (d.post src inst typ q items owner).dt = d.dt := Dev.of_unposted_dt (Dev.post_unposted d src inst typ q items owner)
@[simp] theorem Dev.post_err (d : Dev) (src : Blk) (inst typ q : Nat) (items : List Nat) (owner : Option Nat) : (d.post src inst typ q items owner).err = d.err := Dev.of_unposted_err (Dev.post_unposted d src inst typ q items owner)
@[simp] theorem Dev.post_glb (d : Dev) (src : Blk) (inst typ q : Nat) (items : List Nat) (owner : Option Nat) : (d.post src inst typ q items owner).glb = d.glb := Dev.of_unposted_glb (Dev.post_unposted d src inst typ q items owner)
@[simp] theorem Dev.post_pmc (d : Dev) (src : Blk) (inst typ q : Nat) (items : List Nat) (owner : Option Nat) : (d.post src inst typ q items owner).pmc = d.pmc := Dev.of_unposted_pmc (Dev.post_unposted d src inst typ q items owner)
@[simp] theorem Dev.post_pllAt (d : Dev) (src : Blk) (inst typ q : Nat) (items : List Nat) (owner : Option Nat) : (d.post src inst typ q items owner).pllAt = d.pllAt := Dev.of_unposted_pllAt (Dev.post_unposted d src inst typ q items owner)
@[simp] theorem Dev.post_ruus (d : Dev) (src : Blk) (inst typ q : Nat) (items : List Nat) (owner : Option Nat) : (d.post src inst typ q items owner).ruus = d.ruus := Dev.of_unposted_ruus (Dev.post_unposted d src inst typ q items owner)
@[simp] theorem Dev.post_ftb (d : Dev) (src : Blk) (inst typ q : Nat) (items : List Nat) (owner : Option Nat) : (d.post src inst typ q items owner).ftb = d.ftb := Dev.of_unposted_ftb (Dev.post_unposted d src inst typ q items owner)
@[simp] theorem Dev.post_tpl (d : Dev) (src : Blk) (inst typ q : Nat) (items : List Nat) (owner : Option Nat) : (d.post src inst typ q items owner).tpl = d.tpl := Dev.of_unposted_tpl (Dev.post_unposted d src inst typ q items owner)
@[simp] theorem Dev.post_tplPrev (d : Dev) (src : Blk) (inst typ q : Nat) (items : List Nat) (owner : Option Nat) : (d.post src inst typ q items owner).tplPrev = d.tplPrev := Dev.of_unposted_tplPrev (Dev.post_unposted d src inst typ q items owner)
@[simp] theorem Dev.post_results (d : Dev) (src : Blk) (inst typ q : Nat) (items : List Nat) (owner : Option Nat) : (d.post src inst typ q items owner).results = d.results := Dev.of_unposted_results (Dev.post_unposted d src inst typ q items owner)
@[simp] theorem Dev.post_pkts (d : Dev) (src : Blk) (inst typ q : Nat) (items : List Nat) (owner : Option Nat) : (d.post src inst typ q items owner).pkts = d.pkts := Dev.of_unposted_pkts (Dev.post_unposted d src inst typ q items owner)
@[simp] theorem Dev.post_nextPid (d : Dev) (src : Blk) (inst typ q : Nat) (items : List Nat) (owner : Option Nat) : (d.post src inst typ q items owner).nextPid = d.nextPid := Dev.of_unposted_nextPid (Dev.post_unposted d src inst typ q items owner)
@[simp] theorem Dev.post_stg (d : Dev) (src : Blk) (inst typ q : Nat) (items : List Nat) (owner : Option Nat) : (d.post src inst typ q items owner).stg = d.stg := Dev.of_unposted_stg (Dev.post_unposted d src inst typ q items owner)
@[simp] theorem Dev.post_overflow (d : Dev) (src : Blk) (inst typ q : Nat) (items : List Nat) (owner : Option Nat) : (d.post src inst typ q items owner).overflow = d.overflow := Dev.of_unposted_overflow (Dev.post_unposted d src inst typ q items owner)
@[simp] theorem Dev.post_fwd (d : Dev) (src : Blk) (inst typ q : Nat) (items : List Nat) (owner : Option Nat) : (d.post src inst typ q items owner).fwd = d.fwd := Dev.of_unposted_fwd (Dev.post_unposted d src inst typ q items owner)
@[simp] theorem Dev.post_fwdPrev (d : Dev) (src : Blk) (inst typ q : Nat) (items : List Nat) (owner : Option Nat) : (d.post src inst typ q items owner).fwdPrev = d.fwdPrev := Dev.of_unposted_fwdPrev (Dev.post_unposted d src inst typ q items owner)
@[simp] theorem Dev.post_l2 (d : Dev) (src : Blk) (inst typ q : Nat) (items : List Nat) (owner : Option Nat) : (d.post src inst typ q items owner).l2 = d.l2 := Dev.of_unposted_l2 (Dev.post_unposted d src inst typ q items owner)
@[simp] theorem Dev.post_nat (d : Dev) (src : Blk) (inst typ q : Nat) (items : List Nat) (owner : Option Nat) : (d.post src inst typ q items owner).nat = d.nat := Dev.of_unposted_nat (Dev.post_unposted d src inst typ q items owner)
@[simp] theorem Dev.post_acl (d : Dev) (src : Blk) (inst typ q : Nat) (items : List Nat) (owner : Option Nat) : (d.post src inst typ q items owner).acl = d.acl := Dev.of_unposted_acl (Dev.post_unposted d src inst typ q items owner)
@[simp] theorem Dev.post_shw (d : Dev) (src : Blk) (inst typ q : Nat) (items : List Nat) (owner : Option Nat) : (d.post src inst typ q items owner).shw = d.shw := Dev.of_unposted_shw (Dev.post_unposted d src inst typ q items owner)
@[simp] theorem Dev.post_mtr (d : Dev) (src : Blk) (inst typ q : Nat) (items : List Nat) (owner : Option Nat) : (d.post src inst typ q items owner).mtr = d.mtr := Dev.of_unposted_mtr (Dev.post_unposted d src inst typ q items owner)
@[simp] theorem Dev.post_bsn (d : Dev) (src : Blk) (inst typ q : Nat) (items : List Nat) (owner : Option Nat) : (d.post src inst typ q items owner).bsn = d.bsn := Dev.of_unposted_bsn (Dev.post_unposted d src inst typ q items owner)
@[simp] theorem Dev.post_eg (d : Dev) (src : Blk) (inst typ q : Nat) (items : List Nat) (owner : Option Nat) : (d.post src inst typ q items owner).eg = d.eg := Dev.of_unposted_eg (Dev.post_unposted d src inst typ q items owner)
@[simp] theorem Dev.post_expand (d : Dev) (src : Blk) (inst typ q : Nat) (items : List Nat) (owner : Option Nat) : (d.post src inst typ q items owner).expand = d.expand := Dev.of_unposted_expand (Dev.post_unposted d src inst typ q items owner)
@[simp] theorem Dev.post_madeGen (d : Dev) (src : Blk) (inst typ q : Nat) (items : List Nat) (owner : Option Nat) : (d.post src inst typ q items owner).madeGen = d.madeGen := Dev.of_unposted_madeGen (Dev.post_unposted d src inst typ q items owner)
@[simp] theorem Dev.post_dma (d : Dev) (src : Blk) (inst typ q : Nat) (items : List Nat) (owner : Option Nat) : (d.post src inst typ q items owner).dma = d.dma := Dev.of_unposted_dma (Dev.post_unposted d src inst typ q items owner)
@[simp] theorem Dev.post_cpm (d : Dev) (src : Blk) (inst typ q : Nat) (items : List Nat) (owner : Option Nat) : (d.post src inst typ q items owner).cpm = d.cpm := Dev.of_unposted_cpm (Dev.post_unposted d src inst typ q items owner)
@[simp] theorem Dev.post_fsc (d : Dev) (src : Blk) (inst typ q : Nat) (items : List Nat) (owner : Option Nat) : (d.post src inst typ q items owner).fsc = d.fsc := Dev.of_unposted_fsc (Dev.post_unposted d src inst typ q items owner)
@[simp] theorem Dev.post_threads (d : Dev) (src : Blk) (inst typ q : Nat) (items : List Nat) (owner : Option Nat) : (d.post src inst typ q items owner).threads = d.threads := Dev.of_unposted_threads (Dev.post_unposted d src inst typ q items owner)
@[simp] theorem Dev.post_ucs (d : Dev) (src : Blk) (inst typ q : Nat) (items : List Nat) (owner : Option Nat) : (d.post src inst typ q items owner).ucs = d.ucs := Dev.of_unposted_ucs (Dev.post_unposted d src inst typ q items owner)
@[simp] theorem Dev.post_load (d : Dev) (src : Blk) (inst typ q : Nat) (items : List Nat) (owner : Option Nat) : (d.post src inst typ q items owner).load = d.load := Dev.of_unposted_load (Dev.post_unposted d src inst typ q items owner)
@[simp] theorem Dev.post_tim (d : Dev) (src : Blk) (inst typ q : Nat) (items : List Nat) (owner : Option Nat) : (d.post src inst typ q items owner).tim = d.tim := Dev.of_unposted_tim (Dev.post_unposted d src inst typ q items owner)
@[simp] theorem Dev.post_sdl (d : Dev) (src : Blk) (inst typ q : Nat) (items : List Nat) (owner : Option Nat) : (d.post src inst typ q items owner).sdl = d.sdl := Dev.of_unposted_sdl (Dev.post_unposted d src inst typ q items owner)
@[simp] theorem Dev.post_mram (d : Dev) (src : Blk) (inst typ q : Nat) (items : List Nat) (owner : Option Nat) : (d.post src inst typ q items owner).mram = d.mram := Dev.of_unposted_mram (Dev.post_unposted d src inst typ q items owner)
@[simp] theorem Dev.post_sec (d : Dev) (src : Blk) (inst typ q : Nat) (items : List Nat) (owner : Option Nat) : (d.post src inst typ q items owner).sec = d.sec := Dev.of_unposted_sec (Dev.post_unposted d src inst typ q items owner)
@[simp] theorem Dev.post_hbc (d : Dev) (src : Blk) (inst typ q : Nat) (items : List Nat) (owner : Option Nat) : (d.post src inst typ q items owner).hbc = d.hbc := Dev.of_unposted_hbc (Dev.post_unposted d src inst typ q items owner)
@[simp] theorem Dev.post_boot (d : Dev) (src : Blk) (inst typ q : Nat) (items : List Nat) (owner : Option Nat) : (d.post src inst typ q items owner).boot = d.boot := Dev.of_unposted_boot (Dev.post_unposted d src inst typ q items owner)
@[simp] theorem Dev.post_mon (d : Dev) (src : Blk) (inst typ q : Nat) (items : List Nat) (owner : Option Nat) : (d.post src inst typ q items owner).mon = d.mon := Dev.of_unposted_mon (Dev.post_unposted d src inst typ q items owner)
@[simp] theorem Dev.post_tmp (d : Dev) (src : Blk) (inst typ q : Nat) (items : List Nat) (owner : Option Nat) : (d.post src inst typ q items owner).tmp = d.tmp := Dev.of_unposted_tmp (Dev.post_unposted d src inst typ q items owner)
@[simp] theorem Dev.post_doe (d : Dev) (src : Blk) (inst typ q : Nat) (items : List Nat) (owner : Option Nat) : (d.post src inst typ q items owner).doe = d.doe := Dev.of_unposted_doe (Dev.post_unposted d src inst typ q items owner)
@[simp] theorem Dev.post_free (d : Dev) (src : Blk) (inst typ q : Nat) (items : List Nat) (owner : Option Nat) : (d.post src inst typ q items owner).free = d.free := Dev.of_unposted_free (Dev.post_unposted d src inst typ q items owner)
@[simp] theorem Dev.post_fab_latchHi (d : Dev) (src : Blk) (inst typ q : Nat) (items : List Nat) (owner : Option Nat) : (d.post src inst typ q items owner).fab.latchHi = d.fab.latchHi := Dev.of_unposted_fab_latchHi (Dev.post_unposted d src inst typ q items owner)
@[simp] theorem Dev.post_fab_latchLo (d : Dev) (src : Blk) (inst typ q : Nat) (items : List Nat) (owner : Option Nat) : (d.post src inst typ q items owner).fab.latchLo = d.fab.latchLo := Dev.of_unposted_fab_latchLo (Dev.post_unposted d src inst typ q items owner)
@[simp] theorem Dev.post_fab_hold (d : Dev) (src : Blk) (inst typ q : Nat) (items : List Nat) (owner : Option Nat) : (d.post src inst typ q items owner).fab.hold = d.fab.hold := Dev.of_unposted_fab_hold (Dev.post_unposted d src inst typ q items owner)
@[simp] theorem Dev.post_fab_routes (d : Dev) (src : Blk) (inst typ q : Nat) (items : List Nat) (owner : Option Nat) : (d.post src inst typ q items owner).fab.routes = d.fab.routes := Dev.of_unposted_fab_routes (Dev.post_unposted d src inst typ q items owner)
@[simp] theorem Dev.post_fab_fns (d : Dev) (src : Blk) (inst typ q : Nat) (items : List Nat) (owner : Option Nat) : (d.post src inst typ q items owner).fab.fns = d.fab.fns := Dev.of_unposted_fab_fns (Dev.post_unposted d src inst typ q items owner)
@[simp] theorem Dev.post_fab_numVfs (d : Dev) (src : Blk) (inst typ q : Nat) (items : List Nat) (owner : Option Nat) : (d.post src inst typ q items owner).fab.numVfs = d.fab.numVfs := Dev.of_unposted_fab_numVfs (Dev.post_unposted d src inst typ q items owner)
@[simp] theorem Dev.post_fab_vfEnable (d : Dev) (src : Blk) (inst typ q : Nat) (items : List Nat) (owner : Option Nat) : (d.post src inst typ q items owner).fab.vfEnable = d.fab.vfEnable := Dev.of_unposted_fab_vfEnable (Dev.post_unposted d src inst typ q items owner)
@[simp] theorem Dev.post_fab_vfMse (d : Dev) (src : Blk) (inst typ q : Nat) (items : List Nat) (owner : Option Nat) : (d.post src inst typ q items owner).fab.vfMse = d.fab.vfMse := Dev.of_unposted_fab_vfMse (Dev.post_unposted d src inst typ q items owner)
@[simp] theorem Dev.post_fab_vfChange (d : Dev) (src : Blk) (inst typ q : Nat) (items : List Nat) (owner : Option Nat) : (d.post src inst typ q items owner).fab.vfChange = d.fab.vfChange := Dev.of_unposted_fab_vfChange (Dev.post_unposted d src inst typ q items owner)
@[simp] theorem Dev.post_fab_vfWait (d : Dev) (src : Blk) (inst typ q : Nat) (items : List Nat) (owner : Option Nat) : (d.post src inst typ q items owner).fab.vfWait = d.fab.vfWait := Dev.of_unposted_fab_vfWait (Dev.post_unposted d src inst typ q items owner)
@[simp] theorem Dev.post_fab_released (d : Dev) (src : Blk) (inst typ q : Nat) (items : List Nat) (owner : Option Nat) : (d.post src inst typ q items owner).fab.released = d.fab.released := Dev.of_unposted_fab_released (Dev.post_unposted d src inst typ q items owner)
@[simp] theorem Dev.post_fab_inReset (d : Dev) (src : Blk) (inst typ q : Nat) (items : List Nat) (owner : Option Nat) : (d.post src inst typ q items owner).fab.inReset = d.fab.inReset := Dev.of_unposted_fab_inReset (Dev.post_unposted d src inst typ q items owner)

@[simp] theorem Dev.postSys_act (d : Dev) (src : Blk) (inst typ : Nat) (items : List Nat) : (d.postSys src inst typ items).act = d.act := Dev.of_unposted_act (Dev.postSys_unposted d src inst typ items)
@[simp] theorem Dev.postSys_prev (d : Dev) (src : Blk) (inst typ : Nat) (items : List Nat) : (d.postSys src inst typ items).prev = d.prev := Dev.of_unposted_prev (Dev.postSys_unposted d src inst typ items)
@[simp] theorem Dev.postSys_cyc (d : Dev) (src : Blk) (inst typ : Nat) (items : List Nat) : (d.postSys src inst typ items).cyc = d.cyc := Dev.of_unposted_cyc (Dev.postSys_unposted d src inst typ items)
@[simp] theorem Dev.postSys_dt (d : Dev) (src : Blk) (inst typ : Nat) (items : List Nat) : (d.postSys src inst typ items).dt = d.dt := Dev.of_unposted_dt (Dev.postSys_unposted d src inst typ items)
@[simp] theorem Dev.postSys_err (d : Dev) (src : Blk) (inst typ : Nat) (items : List Nat) : (d.postSys src inst typ items).err = d.err := Dev.of_unposted_err (Dev.postSys_unposted d src inst typ items)
@[simp] theorem Dev.postSys_glb (d : Dev) (src : Blk) (inst typ : Nat) (items : List Nat) : (d.postSys src inst typ items).glb = d.glb := Dev.of_unposted_glb (Dev.postSys_unposted d src inst typ items)
@[simp] theorem Dev.postSys_pmc (d : Dev) (src : Blk) (inst typ : Nat) (items : List Nat) : (d.postSys src inst typ items).pmc = d.pmc := Dev.of_unposted_pmc (Dev.postSys_unposted d src inst typ items)
@[simp] theorem Dev.postSys_pllAt (d : Dev) (src : Blk) (inst typ : Nat) (items : List Nat) : (d.postSys src inst typ items).pllAt = d.pllAt := Dev.of_unposted_pllAt (Dev.postSys_unposted d src inst typ items)
@[simp] theorem Dev.postSys_ruus (d : Dev) (src : Blk) (inst typ : Nat) (items : List Nat) : (d.postSys src inst typ items).ruus = d.ruus := Dev.of_unposted_ruus (Dev.postSys_unposted d src inst typ items)
@[simp] theorem Dev.postSys_ftb (d : Dev) (src : Blk) (inst typ : Nat) (items : List Nat) : (d.postSys src inst typ items).ftb = d.ftb := Dev.of_unposted_ftb (Dev.postSys_unposted d src inst typ items)
@[simp] theorem Dev.postSys_tpl (d : Dev) (src : Blk) (inst typ : Nat) (items : List Nat) : (d.postSys src inst typ items).tpl = d.tpl := Dev.of_unposted_tpl (Dev.postSys_unposted d src inst typ items)
@[simp] theorem Dev.postSys_tplPrev (d : Dev) (src : Blk) (inst typ : Nat) (items : List Nat) : (d.postSys src inst typ items).tplPrev = d.tplPrev := Dev.of_unposted_tplPrev (Dev.postSys_unposted d src inst typ items)
@[simp] theorem Dev.postSys_results (d : Dev) (src : Blk) (inst typ : Nat) (items : List Nat) : (d.postSys src inst typ items).results = d.results := Dev.of_unposted_results (Dev.postSys_unposted d src inst typ items)
@[simp] theorem Dev.postSys_pkts (d : Dev) (src : Blk) (inst typ : Nat) (items : List Nat) : (d.postSys src inst typ items).pkts = d.pkts := Dev.of_unposted_pkts (Dev.postSys_unposted d src inst typ items)
@[simp] theorem Dev.postSys_nextPid (d : Dev) (src : Blk) (inst typ : Nat) (items : List Nat) : (d.postSys src inst typ items).nextPid = d.nextPid := Dev.of_unposted_nextPid (Dev.postSys_unposted d src inst typ items)
@[simp] theorem Dev.postSys_stg (d : Dev) (src : Blk) (inst typ : Nat) (items : List Nat) : (d.postSys src inst typ items).stg = d.stg := Dev.of_unposted_stg (Dev.postSys_unposted d src inst typ items)
@[simp] theorem Dev.postSys_overflow (d : Dev) (src : Blk) (inst typ : Nat) (items : List Nat) : (d.postSys src inst typ items).overflow = d.overflow := Dev.of_unposted_overflow (Dev.postSys_unposted d src inst typ items)
@[simp] theorem Dev.postSys_fwd (d : Dev) (src : Blk) (inst typ : Nat) (items : List Nat) : (d.postSys src inst typ items).fwd = d.fwd := Dev.of_unposted_fwd (Dev.postSys_unposted d src inst typ items)
@[simp] theorem Dev.postSys_fwdPrev (d : Dev) (src : Blk) (inst typ : Nat) (items : List Nat) : (d.postSys src inst typ items).fwdPrev = d.fwdPrev := Dev.of_unposted_fwdPrev (Dev.postSys_unposted d src inst typ items)
@[simp] theorem Dev.postSys_l2 (d : Dev) (src : Blk) (inst typ : Nat) (items : List Nat) : (d.postSys src inst typ items).l2 = d.l2 := Dev.of_unposted_l2 (Dev.postSys_unposted d src inst typ items)
@[simp] theorem Dev.postSys_nat (d : Dev) (src : Blk) (inst typ : Nat) (items : List Nat) : (d.postSys src inst typ items).nat = d.nat := Dev.of_unposted_nat (Dev.postSys_unposted d src inst typ items)
@[simp] theorem Dev.postSys_acl (d : Dev) (src : Blk) (inst typ : Nat) (items : List Nat) : (d.postSys src inst typ items).acl = d.acl := Dev.of_unposted_acl (Dev.postSys_unposted d src inst typ items)
@[simp] theorem Dev.postSys_shw (d : Dev) (src : Blk) (inst typ : Nat) (items : List Nat) : (d.postSys src inst typ items).shw = d.shw := Dev.of_unposted_shw (Dev.postSys_unposted d src inst typ items)
@[simp] theorem Dev.postSys_mtr (d : Dev) (src : Blk) (inst typ : Nat) (items : List Nat) : (d.postSys src inst typ items).mtr = d.mtr := Dev.of_unposted_mtr (Dev.postSys_unposted d src inst typ items)
@[simp] theorem Dev.postSys_bsn (d : Dev) (src : Blk) (inst typ : Nat) (items : List Nat) : (d.postSys src inst typ items).bsn = d.bsn := Dev.of_unposted_bsn (Dev.postSys_unposted d src inst typ items)
@[simp] theorem Dev.postSys_eg (d : Dev) (src : Blk) (inst typ : Nat) (items : List Nat) : (d.postSys src inst typ items).eg = d.eg := Dev.of_unposted_eg (Dev.postSys_unposted d src inst typ items)
@[simp] theorem Dev.postSys_expand (d : Dev) (src : Blk) (inst typ : Nat) (items : List Nat) : (d.postSys src inst typ items).expand = d.expand := Dev.of_unposted_expand (Dev.postSys_unposted d src inst typ items)
@[simp] theorem Dev.postSys_madeGen (d : Dev) (src : Blk) (inst typ : Nat) (items : List Nat) : (d.postSys src inst typ items).madeGen = d.madeGen := Dev.of_unposted_madeGen (Dev.postSys_unposted d src inst typ items)
@[simp] theorem Dev.postSys_dma (d : Dev) (src : Blk) (inst typ : Nat) (items : List Nat) : (d.postSys src inst typ items).dma = d.dma := Dev.of_unposted_dma (Dev.postSys_unposted d src inst typ items)
@[simp] theorem Dev.postSys_cpm (d : Dev) (src : Blk) (inst typ : Nat) (items : List Nat) : (d.postSys src inst typ items).cpm = d.cpm := Dev.of_unposted_cpm (Dev.postSys_unposted d src inst typ items)
@[simp] theorem Dev.postSys_fsc (d : Dev) (src : Blk) (inst typ : Nat) (items : List Nat) : (d.postSys src inst typ items).fsc = d.fsc := Dev.of_unposted_fsc (Dev.postSys_unposted d src inst typ items)
@[simp] theorem Dev.postSys_threads (d : Dev) (src : Blk) (inst typ : Nat) (items : List Nat) : (d.postSys src inst typ items).threads = d.threads := Dev.of_unposted_threads (Dev.postSys_unposted d src inst typ items)
@[simp] theorem Dev.postSys_ucs (d : Dev) (src : Blk) (inst typ : Nat) (items : List Nat) : (d.postSys src inst typ items).ucs = d.ucs := Dev.of_unposted_ucs (Dev.postSys_unposted d src inst typ items)
@[simp] theorem Dev.postSys_load (d : Dev) (src : Blk) (inst typ : Nat) (items : List Nat) : (d.postSys src inst typ items).load = d.load := Dev.of_unposted_load (Dev.postSys_unposted d src inst typ items)
@[simp] theorem Dev.postSys_tim (d : Dev) (src : Blk) (inst typ : Nat) (items : List Nat) : (d.postSys src inst typ items).tim = d.tim := Dev.of_unposted_tim (Dev.postSys_unposted d src inst typ items)
@[simp] theorem Dev.postSys_sdl (d : Dev) (src : Blk) (inst typ : Nat) (items : List Nat) : (d.postSys src inst typ items).sdl = d.sdl := Dev.of_unposted_sdl (Dev.postSys_unposted d src inst typ items)
@[simp] theorem Dev.postSys_mram (d : Dev) (src : Blk) (inst typ : Nat) (items : List Nat) : (d.postSys src inst typ items).mram = d.mram := Dev.of_unposted_mram (Dev.postSys_unposted d src inst typ items)
@[simp] theorem Dev.postSys_sec (d : Dev) (src : Blk) (inst typ : Nat) (items : List Nat) : (d.postSys src inst typ items).sec = d.sec := Dev.of_unposted_sec (Dev.postSys_unposted d src inst typ items)
@[simp] theorem Dev.postSys_hbc (d : Dev) (src : Blk) (inst typ : Nat) (items : List Nat) : (d.postSys src inst typ items).hbc = d.hbc := Dev.of_unposted_hbc (Dev.postSys_unposted d src inst typ items)
@[simp] theorem Dev.postSys_boot (d : Dev) (src : Blk) (inst typ : Nat) (items : List Nat) : (d.postSys src inst typ items).boot = d.boot := Dev.of_unposted_boot (Dev.postSys_unposted d src inst typ items)
@[simp] theorem Dev.postSys_mon (d : Dev) (src : Blk) (inst typ : Nat) (items : List Nat) : (d.postSys src inst typ items).mon = d.mon := Dev.of_unposted_mon (Dev.postSys_unposted d src inst typ items)
@[simp] theorem Dev.postSys_tmp (d : Dev) (src : Blk) (inst typ : Nat) (items : List Nat) : (d.postSys src inst typ items).tmp = d.tmp := Dev.of_unposted_tmp (Dev.postSys_unposted d src inst typ items)
@[simp] theorem Dev.postSys_doe (d : Dev) (src : Blk) (inst typ : Nat) (items : List Nat) : (d.postSys src inst typ items).doe = d.doe := Dev.of_unposted_doe (Dev.postSys_unposted d src inst typ items)
@[simp] theorem Dev.postSys_free (d : Dev) (src : Blk) (inst typ : Nat) (items : List Nat) : (d.postSys src inst typ items).free = d.free := Dev.of_unposted_free (Dev.postSys_unposted d src inst typ items)
@[simp] theorem Dev.postSys_fab_latchHi (d : Dev) (src : Blk) (inst typ : Nat) (items : List Nat) : (d.postSys src inst typ items).fab.latchHi = d.fab.latchHi := Dev.of_unposted_fab_latchHi (Dev.postSys_unposted d src inst typ items)
@[simp] theorem Dev.postSys_fab_latchLo (d : Dev) (src : Blk) (inst typ : Nat) (items : List Nat) : (d.postSys src inst typ items).fab.latchLo = d.fab.latchLo := Dev.of_unposted_fab_latchLo (Dev.postSys_unposted d src inst typ items)
@[simp] theorem Dev.postSys_fab_hold (d : Dev) (src : Blk) (inst typ : Nat) (items : List Nat) : (d.postSys src inst typ items).fab.hold = d.fab.hold := Dev.of_unposted_fab_hold (Dev.postSys_unposted d src inst typ items)
@[simp] theorem Dev.postSys_fab_routes (d : Dev) (src : Blk) (inst typ : Nat) (items : List Nat) : (d.postSys src inst typ items).fab.routes = d.fab.routes := Dev.of_unposted_fab_routes (Dev.postSys_unposted d src inst typ items)
@[simp] theorem Dev.postSys_fab_fns (d : Dev) (src : Blk) (inst typ : Nat) (items : List Nat) : (d.postSys src inst typ items).fab.fns = d.fab.fns := Dev.of_unposted_fab_fns (Dev.postSys_unposted d src inst typ items)
@[simp] theorem Dev.postSys_fab_numVfs (d : Dev) (src : Blk) (inst typ : Nat) (items : List Nat) : (d.postSys src inst typ items).fab.numVfs = d.fab.numVfs := Dev.of_unposted_fab_numVfs (Dev.postSys_unposted d src inst typ items)
@[simp] theorem Dev.postSys_fab_vfEnable (d : Dev) (src : Blk) (inst typ : Nat) (items : List Nat) : (d.postSys src inst typ items).fab.vfEnable = d.fab.vfEnable := Dev.of_unposted_fab_vfEnable (Dev.postSys_unposted d src inst typ items)
@[simp] theorem Dev.postSys_fab_vfMse (d : Dev) (src : Blk) (inst typ : Nat) (items : List Nat) : (d.postSys src inst typ items).fab.vfMse = d.fab.vfMse := Dev.of_unposted_fab_vfMse (Dev.postSys_unposted d src inst typ items)
@[simp] theorem Dev.postSys_fab_vfChange (d : Dev) (src : Blk) (inst typ : Nat) (items : List Nat) : (d.postSys src inst typ items).fab.vfChange = d.fab.vfChange := Dev.of_unposted_fab_vfChange (Dev.postSys_unposted d src inst typ items)
@[simp] theorem Dev.postSys_fab_vfWait (d : Dev) (src : Blk) (inst typ : Nat) (items : List Nat) : (d.postSys src inst typ items).fab.vfWait = d.fab.vfWait := Dev.of_unposted_fab_vfWait (Dev.postSys_unposted d src inst typ items)
@[simp] theorem Dev.postSys_fab_released (d : Dev) (src : Blk) (inst typ : Nat) (items : List Nat) : (d.postSys src inst typ items).fab.released = d.fab.released := Dev.of_unposted_fab_released (Dev.postSys_unposted d src inst typ items)
@[simp] theorem Dev.postSys_fab_inReset (d : Dev) (src : Blk) (inst typ : Nat) (items : List Nat) : (d.postSys src inst typ items).fab.inReset = d.fab.inReset := Dev.of_unposted_fab_inReset (Dev.postSys_unposted d src inst typ items)

@[simp] theorem Dev.deny_act (d : Dev) (f : Nat) (bar2 : Bool) (off : Nat) : (d.deny f bar2 off).act = d.act := Dev.of_unposted_act (Dev.deny_unposted d f bar2 off)
@[simp] theorem Dev.deny_prev (d : Dev) (f : Nat) (bar2 : Bool) (off : Nat) : (d.deny f bar2 off).prev = d.prev := Dev.of_unposted_prev (Dev.deny_unposted d f bar2 off)
@[simp] theorem Dev.deny_cyc (d : Dev) (f : Nat) (bar2 : Bool) (off : Nat) : (d.deny f bar2 off).cyc = d.cyc := Dev.of_unposted_cyc (Dev.deny_unposted d f bar2 off)
@[simp] theorem Dev.deny_dt (d : Dev) (f : Nat) (bar2 : Bool) (off : Nat) : (d.deny f bar2 off).dt = d.dt := Dev.of_unposted_dt (Dev.deny_unposted d f bar2 off)
@[simp] theorem Dev.deny_err (d : Dev) (f : Nat) (bar2 : Bool) (off : Nat) : (d.deny f bar2 off).err = d.err := Dev.of_unposted_err (Dev.deny_unposted d f bar2 off)
@[simp] theorem Dev.deny_glb (d : Dev) (f : Nat) (bar2 : Bool) (off : Nat) : (d.deny f bar2 off).glb = d.glb := Dev.of_unposted_glb (Dev.deny_unposted d f bar2 off)
@[simp] theorem Dev.deny_pmc (d : Dev) (f : Nat) (bar2 : Bool) (off : Nat) : (d.deny f bar2 off).pmc = d.pmc := Dev.of_unposted_pmc (Dev.deny_unposted d f bar2 off)
@[simp] theorem Dev.deny_pllAt (d : Dev) (f : Nat) (bar2 : Bool) (off : Nat) : (d.deny f bar2 off).pllAt = d.pllAt := Dev.of_unposted_pllAt (Dev.deny_unposted d f bar2 off)
@[simp] theorem Dev.deny_ruus (d : Dev) (f : Nat) (bar2 : Bool) (off : Nat) : (d.deny f bar2 off).ruus = d.ruus := Dev.of_unposted_ruus (Dev.deny_unposted d f bar2 off)
@[simp] theorem Dev.deny_ftb (d : Dev) (f : Nat) (bar2 : Bool) (off : Nat) : (d.deny f bar2 off).ftb = d.ftb := Dev.of_unposted_ftb (Dev.deny_unposted d f bar2 off)
@[simp] theorem Dev.deny_tpl (d : Dev) (f : Nat) (bar2 : Bool) (off : Nat) : (d.deny f bar2 off).tpl = d.tpl := Dev.of_unposted_tpl (Dev.deny_unposted d f bar2 off)
@[simp] theorem Dev.deny_tplPrev (d : Dev) (f : Nat) (bar2 : Bool) (off : Nat) : (d.deny f bar2 off).tplPrev = d.tplPrev := Dev.of_unposted_tplPrev (Dev.deny_unposted d f bar2 off)
@[simp] theorem Dev.deny_results (d : Dev) (f : Nat) (bar2 : Bool) (off : Nat) : (d.deny f bar2 off).results = d.results := Dev.of_unposted_results (Dev.deny_unposted d f bar2 off)
@[simp] theorem Dev.deny_pkts (d : Dev) (f : Nat) (bar2 : Bool) (off : Nat) : (d.deny f bar2 off).pkts = d.pkts := Dev.of_unposted_pkts (Dev.deny_unposted d f bar2 off)
@[simp] theorem Dev.deny_nextPid (d : Dev) (f : Nat) (bar2 : Bool) (off : Nat) : (d.deny f bar2 off).nextPid = d.nextPid := Dev.of_unposted_nextPid (Dev.deny_unposted d f bar2 off)
@[simp] theorem Dev.deny_stg (d : Dev) (f : Nat) (bar2 : Bool) (off : Nat) : (d.deny f bar2 off).stg = d.stg := Dev.of_unposted_stg (Dev.deny_unposted d f bar2 off)
@[simp] theorem Dev.deny_overflow (d : Dev) (f : Nat) (bar2 : Bool) (off : Nat) : (d.deny f bar2 off).overflow = d.overflow := Dev.of_unposted_overflow (Dev.deny_unposted d f bar2 off)
@[simp] theorem Dev.deny_fwd (d : Dev) (f : Nat) (bar2 : Bool) (off : Nat) : (d.deny f bar2 off).fwd = d.fwd := Dev.of_unposted_fwd (Dev.deny_unposted d f bar2 off)
@[simp] theorem Dev.deny_fwdPrev (d : Dev) (f : Nat) (bar2 : Bool) (off : Nat) : (d.deny f bar2 off).fwdPrev = d.fwdPrev := Dev.of_unposted_fwdPrev (Dev.deny_unposted d f bar2 off)
@[simp] theorem Dev.deny_l2 (d : Dev) (f : Nat) (bar2 : Bool) (off : Nat) : (d.deny f bar2 off).l2 = d.l2 := Dev.of_unposted_l2 (Dev.deny_unposted d f bar2 off)
@[simp] theorem Dev.deny_nat (d : Dev) (f : Nat) (bar2 : Bool) (off : Nat) : (d.deny f bar2 off).nat = d.nat := Dev.of_unposted_nat (Dev.deny_unposted d f bar2 off)
@[simp] theorem Dev.deny_acl (d : Dev) (f : Nat) (bar2 : Bool) (off : Nat) : (d.deny f bar2 off).acl = d.acl := Dev.of_unposted_acl (Dev.deny_unposted d f bar2 off)
@[simp] theorem Dev.deny_shw (d : Dev) (f : Nat) (bar2 : Bool) (off : Nat) : (d.deny f bar2 off).shw = d.shw := Dev.of_unposted_shw (Dev.deny_unposted d f bar2 off)
@[simp] theorem Dev.deny_mtr (d : Dev) (f : Nat) (bar2 : Bool) (off : Nat) : (d.deny f bar2 off).mtr = d.mtr := Dev.of_unposted_mtr (Dev.deny_unposted d f bar2 off)
@[simp] theorem Dev.deny_bsn (d : Dev) (f : Nat) (bar2 : Bool) (off : Nat) : (d.deny f bar2 off).bsn = d.bsn := Dev.of_unposted_bsn (Dev.deny_unposted d f bar2 off)
@[simp] theorem Dev.deny_eg (d : Dev) (f : Nat) (bar2 : Bool) (off : Nat) : (d.deny f bar2 off).eg = d.eg := Dev.of_unposted_eg (Dev.deny_unposted d f bar2 off)
@[simp] theorem Dev.deny_expand (d : Dev) (f : Nat) (bar2 : Bool) (off : Nat) : (d.deny f bar2 off).expand = d.expand := Dev.of_unposted_expand (Dev.deny_unposted d f bar2 off)
@[simp] theorem Dev.deny_madeGen (d : Dev) (f : Nat) (bar2 : Bool) (off : Nat) : (d.deny f bar2 off).madeGen = d.madeGen := Dev.of_unposted_madeGen (Dev.deny_unposted d f bar2 off)
@[simp] theorem Dev.deny_dma (d : Dev) (f : Nat) (bar2 : Bool) (off : Nat) : (d.deny f bar2 off).dma = d.dma := Dev.of_unposted_dma (Dev.deny_unposted d f bar2 off)
@[simp] theorem Dev.deny_cpm (d : Dev) (f : Nat) (bar2 : Bool) (off : Nat) : (d.deny f bar2 off).cpm = d.cpm := Dev.of_unposted_cpm (Dev.deny_unposted d f bar2 off)
@[simp] theorem Dev.deny_fsc (d : Dev) (f : Nat) (bar2 : Bool) (off : Nat) : (d.deny f bar2 off).fsc = d.fsc := Dev.of_unposted_fsc (Dev.deny_unposted d f bar2 off)
@[simp] theorem Dev.deny_threads (d : Dev) (f : Nat) (bar2 : Bool) (off : Nat) : (d.deny f bar2 off).threads = d.threads := Dev.of_unposted_threads (Dev.deny_unposted d f bar2 off)
@[simp] theorem Dev.deny_ucs (d : Dev) (f : Nat) (bar2 : Bool) (off : Nat) : (d.deny f bar2 off).ucs = d.ucs := Dev.of_unposted_ucs (Dev.deny_unposted d f bar2 off)
@[simp] theorem Dev.deny_load (d : Dev) (f : Nat) (bar2 : Bool) (off : Nat) : (d.deny f bar2 off).load = d.load := Dev.of_unposted_load (Dev.deny_unposted d f bar2 off)
@[simp] theorem Dev.deny_tim (d : Dev) (f : Nat) (bar2 : Bool) (off : Nat) : (d.deny f bar2 off).tim = d.tim := Dev.of_unposted_tim (Dev.deny_unposted d f bar2 off)
@[simp] theorem Dev.deny_sdl (d : Dev) (f : Nat) (bar2 : Bool) (off : Nat) : (d.deny f bar2 off).sdl = d.sdl := Dev.of_unposted_sdl (Dev.deny_unposted d f bar2 off)
@[simp] theorem Dev.deny_mram (d : Dev) (f : Nat) (bar2 : Bool) (off : Nat) : (d.deny f bar2 off).mram = d.mram := Dev.of_unposted_mram (Dev.deny_unposted d f bar2 off)
@[simp] theorem Dev.deny_sec (d : Dev) (f : Nat) (bar2 : Bool) (off : Nat) : (d.deny f bar2 off).sec = d.sec := Dev.of_unposted_sec (Dev.deny_unposted d f bar2 off)
@[simp] theorem Dev.deny_hbc (d : Dev) (f : Nat) (bar2 : Bool) (off : Nat) : (d.deny f bar2 off).hbc = d.hbc := Dev.of_unposted_hbc (Dev.deny_unposted d f bar2 off)
@[simp] theorem Dev.deny_boot (d : Dev) (f : Nat) (bar2 : Bool) (off : Nat) : (d.deny f bar2 off).boot = d.boot := Dev.of_unposted_boot (Dev.deny_unposted d f bar2 off)
@[simp] theorem Dev.deny_mon (d : Dev) (f : Nat) (bar2 : Bool) (off : Nat) : (d.deny f bar2 off).mon = d.mon := Dev.of_unposted_mon (Dev.deny_unposted d f bar2 off)
@[simp] theorem Dev.deny_tmp (d : Dev) (f : Nat) (bar2 : Bool) (off : Nat) : (d.deny f bar2 off).tmp = d.tmp := Dev.of_unposted_tmp (Dev.deny_unposted d f bar2 off)
@[simp] theorem Dev.deny_doe (d : Dev) (f : Nat) (bar2 : Bool) (off : Nat) : (d.deny f bar2 off).doe = d.doe := Dev.of_unposted_doe (Dev.deny_unposted d f bar2 off)
@[simp] theorem Dev.deny_free (d : Dev) (f : Nat) (bar2 : Bool) (off : Nat) : (d.deny f bar2 off).free = d.free := Dev.of_unposted_free (Dev.deny_unposted d f bar2 off)
@[simp] theorem Dev.deny_fab_latchHi (d : Dev) (f : Nat) (bar2 : Bool) (off : Nat) : (d.deny f bar2 off).fab.latchHi = d.fab.latchHi := Dev.of_unposted_fab_latchHi (Dev.deny_unposted d f bar2 off)
@[simp] theorem Dev.deny_fab_latchLo (d : Dev) (f : Nat) (bar2 : Bool) (off : Nat) : (d.deny f bar2 off).fab.latchLo = d.fab.latchLo := Dev.of_unposted_fab_latchLo (Dev.deny_unposted d f bar2 off)
@[simp] theorem Dev.deny_fab_hold (d : Dev) (f : Nat) (bar2 : Bool) (off : Nat) : (d.deny f bar2 off).fab.hold = d.fab.hold := Dev.of_unposted_fab_hold (Dev.deny_unposted d f bar2 off)
@[simp] theorem Dev.deny_fab_routes (d : Dev) (f : Nat) (bar2 : Bool) (off : Nat) : (d.deny f bar2 off).fab.routes = d.fab.routes := Dev.of_unposted_fab_routes (Dev.deny_unposted d f bar2 off)
@[simp] theorem Dev.deny_fab_fns (d : Dev) (f : Nat) (bar2 : Bool) (off : Nat) : (d.deny f bar2 off).fab.fns = d.fab.fns := Dev.of_unposted_fab_fns (Dev.deny_unposted d f bar2 off)
@[simp] theorem Dev.deny_fab_numVfs (d : Dev) (f : Nat) (bar2 : Bool) (off : Nat) : (d.deny f bar2 off).fab.numVfs = d.fab.numVfs := Dev.of_unposted_fab_numVfs (Dev.deny_unposted d f bar2 off)
@[simp] theorem Dev.deny_fab_vfEnable (d : Dev) (f : Nat) (bar2 : Bool) (off : Nat) : (d.deny f bar2 off).fab.vfEnable = d.fab.vfEnable := Dev.of_unposted_fab_vfEnable (Dev.deny_unposted d f bar2 off)
@[simp] theorem Dev.deny_fab_vfMse (d : Dev) (f : Nat) (bar2 : Bool) (off : Nat) : (d.deny f bar2 off).fab.vfMse = d.fab.vfMse := Dev.of_unposted_fab_vfMse (Dev.deny_unposted d f bar2 off)
@[simp] theorem Dev.deny_fab_vfChange (d : Dev) (f : Nat) (bar2 : Bool) (off : Nat) : (d.deny f bar2 off).fab.vfChange = d.fab.vfChange := Dev.of_unposted_fab_vfChange (Dev.deny_unposted d f bar2 off)
@[simp] theorem Dev.deny_fab_vfWait (d : Dev) (f : Nat) (bar2 : Bool) (off : Nat) : (d.deny f bar2 off).fab.vfWait = d.fab.vfWait := Dev.of_unposted_fab_vfWait (Dev.deny_unposted d f bar2 off)
@[simp] theorem Dev.deny_fab_released (d : Dev) (f : Nat) (bar2 : Bool) (off : Nat) : (d.deny f bar2 off).fab.released = d.fab.released := Dev.of_unposted_fab_released (Dev.deny_unposted d f bar2 off)
@[simp] theorem Dev.deny_fab_inReset (d : Dev) (f : Nat) (bar2 : Bool) (off : Nat) : (d.deny f bar2 off).fab.inReset = d.fab.inReset := Dev.of_unposted_fab_inReset (Dev.deny_unposted d f bar2 off)

end Sys2Proof.Machine
end

