-- ==== Sys2Proof/Laws/Part.lean ====
section
/-! SUPPORT. Laws of the updates that a block makes to its own part of the state: what each leaves of every other part, and that the
part written reads back. -/

namespace Sys2Proof.Machine

/-! ### `Dev.setRuu` -/

@[simp] theorem Dev.setRuu_regs (d : Dev) (r : Nat) (x : Ruu) : (d.setRuu r x).regs = d.regs := rfl
@[simp] theorem Dev.setRuu_act (d : Dev) (r : Nat) (x : Ruu) : (d.setRuu r x).act = d.act := rfl
@[simp] theorem Dev.setRuu_prev (d : Dev) (r : Nat) (x : Ruu) : (d.setRuu r x).prev = d.prev := rfl
@[simp] theorem Dev.setRuu_cyc (d : Dev) (r : Nat) (x : Ruu) : (d.setRuu r x).cyc = d.cyc := rfl
@[simp] theorem Dev.setRuu_dt (d : Dev) (r : Nat) (x : Ruu) : (d.setRuu r x).dt = d.dt := rfl
@[simp] theorem Dev.setRuu_fab (d : Dev) (r : Nat) (x : Ruu) : (d.setRuu r x).fab = d.fab := rfl
@[simp] theorem Dev.setRuu_evq (d : Dev) (r : Nat) (x : Ruu) : (d.setRuu r x).evq = d.evq := rfl
@[simp] theorem Dev.setRuu_err (d : Dev) (r : Nat) (x : Ruu) : (d.setRuu r x).err = d.err := rfl
@[simp] theorem Dev.setRuu_glb (d : Dev) (r : Nat) (x : Ruu) : (d.setRuu r x).glb = d.glb := rfl
@[simp] theorem Dev.setRuu_pmc (d : Dev) (r : Nat) (x : Ruu) : (d.setRuu r x).pmc = d.pmc := rfl
@[simp] theorem Dev.setRuu_pllAt (d : Dev) (r : Nat) (x : Ruu) : (d.setRuu r x).pllAt = d.pllAt := rfl
@[simp] theorem Dev.setRuu_ftb (d : Dev) (r : Nat) (x : Ruu) : (d.setRuu r x).ftb = d.ftb := rfl
@[simp] theorem Dev.setRuu_tpl (d : Dev) (r : Nat) (x : Ruu) : (d.setRuu r x).tpl = d.tpl := rfl
@[simp] theorem Dev.setRuu_tplPrev (d : Dev) (r : Nat) (x : Ruu) : (d.setRuu r x).tplPrev = d.tplPrev := rfl
@[simp] theorem Dev.setRuu_results (d : Dev) (r : Nat) (x : Ruu) : (d.setRuu r x).results = d.results := rfl
@[simp] theorem Dev.setRuu_pkts (d : Dev) (r : Nat) (x : Ruu) : (d.setRuu r x).pkts = d.pkts := rfl
@[simp] theorem Dev.setRuu_nextPid (d : Dev) (r : Nat) (x : Ruu) : (d.setRuu r x).nextPid = d.nextPid := rfl
@[simp] theorem Dev.setRuu_stg (d : Dev) (r : Nat) (x : Ruu) : (d.setRuu r x).stg = d.stg := rfl
@[simp] theorem Dev.setRuu_overflow (d : Dev) (r : Nat) (x : Ruu) : (d.setRuu r x).overflow = d.overflow := rfl
@[simp] theorem Dev.setRuu_stgLate (d : Dev) (r : Nat) (x : Ruu) : (d.setRuu r x).stgLate = d.stgLate := rfl
@[simp] theorem Dev.setRuu_old (d : Dev) (r : Nat) (x : Ruu) : (d.setRuu r x).old = d.old := rfl
@[simp] theorem Dev.setRuu_turn (d : Dev) (r : Nat) (x : Ruu) : (d.setRuu r x).turn = d.turn := rfl
@[simp] theorem Dev.setRuu_fwd (d : Dev) (r : Nat) (x : Ruu) : (d.setRuu r x).fwd = d.fwd := rfl
@[simp] theorem Dev.setRuu_fwdPrev (d : Dev) (r : Nat) (x : Ruu) : (d.setRuu r x).fwdPrev = d.fwdPrev := rfl
@[simp] theorem Dev.setRuu_l2 (d : Dev) (r : Nat) (x : Ruu) : (d.setRuu r x).l2 = d.l2 := rfl
@[simp] theorem Dev.setRuu_nat (d : Dev) (r : Nat) (x : Ruu) : (d.setRuu r x).nat = d.nat := rfl
@[simp] theorem Dev.setRuu_acl (d : Dev) (r : Nat) (x : Ruu) : (d.setRuu r x).acl = d.acl := rfl
@[simp] theorem Dev.setRuu_shw (d : Dev) (r : Nat) (x : Ruu) : (d.setRuu r x).shw = d.shw := rfl
@[simp] theorem Dev.setRuu_mtr (d : Dev) (r : Nat) (x : Ruu) : (d.setRuu r x).mtr = d.mtr := rfl
@[simp] theorem Dev.setRuu_bsn (d : Dev) (r : Nat) (x : Ruu) : (d.setRuu r x).bsn = d.bsn := rfl
@[simp] theorem Dev.setRuu_eg (d : Dev) (r : Nat) (x : Ruu) : (d.setRuu r x).eg = d.eg := rfl
@[simp] theorem Dev.setRuu_expand (d : Dev) (r : Nat) (x : Ruu) : (d.setRuu r x).expand = d.expand := rfl
@[simp] theorem Dev.setRuu_madeGen (d : Dev) (r : Nat) (x : Ruu) : (d.setRuu r x).madeGen = d.madeGen := rfl
@[simp] theorem Dev.setRuu_dma (d : Dev) (r : Nat) (x : Ruu) : (d.setRuu r x).dma = d.dma := rfl
@[simp] theorem Dev.setRuu_cpm (d : Dev) (r : Nat) (x : Ruu) : (d.setRuu r x).cpm = d.cpm := rfl
@[simp] theorem Dev.setRuu_fsc (d : Dev) (r : Nat) (x : Ruu) : (d.setRuu r x).fsc = d.fsc := rfl
@[simp] theorem Dev.setRuu_threads (d : Dev) (r : Nat) (x : Ruu) : (d.setRuu r x).threads = d.threads := rfl
@[simp] theorem Dev.setRuu_ucs (d : Dev) (r : Nat) (x : Ruu) : (d.setRuu r x).ucs = d.ucs := rfl
@[simp] theorem Dev.setRuu_load (d : Dev) (r : Nat) (x : Ruu) : (d.setRuu r x).load = d.load := rfl
@[simp] theorem Dev.setRuu_tim (d : Dev) (r : Nat) (x : Ruu) : (d.setRuu r x).tim = d.tim := rfl
@[simp] theorem Dev.setRuu_sdl (d : Dev) (r : Nat) (x : Ruu) : (d.setRuu r x).sdl = d.sdl := rfl
@[simp] theorem Dev.setRuu_mram (d : Dev) (r : Nat) (x : Ruu) : (d.setRuu r x).mram = d.mram := rfl
@[simp] theorem Dev.setRuu_sec (d : Dev) (r : Nat) (x : Ruu) : (d.setRuu r x).sec = d.sec := rfl
@[simp] theorem Dev.setRuu_hbc (d : Dev) (r : Nat) (x : Ruu) : (d.setRuu r x).hbc = d.hbc := rfl
@[simp] theorem Dev.setRuu_boot (d : Dev) (r : Nat) (x : Ruu) : (d.setRuu r x).boot = d.boot := rfl
@[simp] theorem Dev.setRuu_mon (d : Dev) (r : Nat) (x : Ruu) : (d.setRuu r x).mon = d.mon := rfl
@[simp] theorem Dev.setRuu_tmp (d : Dev) (r : Nat) (x : Ruu) : (d.setRuu r x).tmp = d.tmp := rfl
@[simp] theorem Dev.setRuu_doe (d : Dev) (r : Nat) (x : Ruu) : (d.setRuu r x).doe = d.doe := rfl
@[simp] theorem Dev.setRuu_out (d : Dev) (r : Nat) (x : Ruu) : (d.setRuu r x).out = d.out := rfl
@[simp] theorem Dev.setRuu_free (d : Dev) (r : Nat) (x : Ruu) : (d.setRuu r x).free = d.free := rfl

@[simp] theorem Dev.setRuu_same (d : Dev) (r : Nat) (x : Ruu) : (d.setRuu r x).ruu r = x := Tab.get_put_same ..
theorem Dev.setRuu_ne (d : Dev) (r : Nat) (x : Ruu) (n : Nat) (h : n ≠ r) : (d.setRuu r x).ruu n = d.ruu n :=
  Tab.get_put_ne _ _ _ _ h

/-! ### `Dev.setHpc` -/

@[simp] theorem Dev.setHpc_regs (d : Dev) (r : Nat) (x : HbmPc) : (d.setHpc r x).regs = d.regs := rfl
@[simp] theorem Dev.setHpc_act (d : Dev) (r : Nat) (x : HbmPc) : (d.setHpc r x).act = d.act := rfl
@[simp] theorem Dev.setHpc_prev (d : Dev) (r : Nat) (x : HbmPc) : (d.setHpc r x).prev = d.prev := rfl
@[simp] theorem Dev.setHpc_cyc (d : Dev) (r : Nat) (x : HbmPc) : (d.setHpc r x).cyc = d.cyc := rfl
@[simp] theorem Dev.setHpc_dt (d : Dev) (r : Nat) (x : HbmPc) : (d.setHpc r x).dt = d.dt := rfl
@[simp] theorem Dev.setHpc_fab (d : Dev) (r : Nat) (x : HbmPc) : (d.setHpc r x).fab = d.fab := rfl
@[simp] theorem Dev.setHpc_evq (d : Dev) (r : Nat) (x : HbmPc) : (d.setHpc r x).evq = d.evq := rfl
@[simp] theorem Dev.setHpc_err (d : Dev) (r : Nat) (x : HbmPc) : (d.setHpc r x).err = d.err := rfl
@[simp] theorem Dev.setHpc_glb (d : Dev) (r : Nat) (x : HbmPc) : (d.setHpc r x).glb = d.glb := rfl
@[simp] theorem Dev.setHpc_pmc (d : Dev) (r : Nat) (x : HbmPc) : (d.setHpc r x).pmc = d.pmc := rfl
@[simp] theorem Dev.setHpc_pllAt (d : Dev) (r : Nat) (x : HbmPc) : (d.setHpc r x).pllAt = d.pllAt := rfl
@[simp] theorem Dev.setHpc_ruus (d : Dev) (r : Nat) (x : HbmPc) : (d.setHpc r x).ruus = d.ruus := rfl
@[simp] theorem Dev.setHpc_ftb (d : Dev) (r : Nat) (x : HbmPc) : (d.setHpc r x).ftb = d.ftb := rfl
@[simp] theorem Dev.setHpc_tpl (d : Dev) (r : Nat) (x : HbmPc) : (d.setHpc r x).tpl = d.tpl := rfl
@[simp] theorem Dev.setHpc_tplPrev (d : Dev) (r : Nat) (x : HbmPc) : (d.setHpc r x).tplPrev = d.tplPrev := rfl
@[simp] theorem Dev.setHpc_results (d : Dev) (r : Nat) (x : HbmPc) : (d.setHpc r x).results = d.results := rfl
@[simp] theorem Dev.setHpc_pkts (d : Dev) (r : Nat) (x : HbmPc) : (d.setHpc r x).pkts = d.pkts := rfl
@[simp] theorem Dev.setHpc_nextPid (d : Dev) (r : Nat) (x : HbmPc) : (d.setHpc r x).nextPid = d.nextPid := rfl
@[simp] theorem Dev.setHpc_stg (d : Dev) (r : Nat) (x : HbmPc) : (d.setHpc r x).stg = d.stg := rfl
@[simp] theorem Dev.setHpc_overflow (d : Dev) (r : Nat) (x : HbmPc) : (d.setHpc r x).overflow = d.overflow := rfl
@[simp] theorem Dev.setHpc_stgLate (d : Dev) (r : Nat) (x : HbmPc) : (d.setHpc r x).stgLate = d.stgLate := rfl
@[simp] theorem Dev.setHpc_old (d : Dev) (r : Nat) (x : HbmPc) : (d.setHpc r x).old = d.old := rfl
@[simp] theorem Dev.setHpc_turn (d : Dev) (r : Nat) (x : HbmPc) : (d.setHpc r x).turn = d.turn := rfl
@[simp] theorem Dev.setHpc_fwd (d : Dev) (r : Nat) (x : HbmPc) : (d.setHpc r x).fwd = d.fwd := rfl
@[simp] theorem Dev.setHpc_fwdPrev (d : Dev) (r : Nat) (x : HbmPc) : (d.setHpc r x).fwdPrev = d.fwdPrev := rfl
@[simp] theorem Dev.setHpc_l2 (d : Dev) (r : Nat) (x : HbmPc) : (d.setHpc r x).l2 = d.l2 := rfl
@[simp] theorem Dev.setHpc_nat (d : Dev) (r : Nat) (x : HbmPc) : (d.setHpc r x).nat = d.nat := rfl
@[simp] theorem Dev.setHpc_acl (d : Dev) (r : Nat) (x : HbmPc) : (d.setHpc r x).acl = d.acl := rfl
@[simp] theorem Dev.setHpc_shw (d : Dev) (r : Nat) (x : HbmPc) : (d.setHpc r x).shw = d.shw := rfl
@[simp] theorem Dev.setHpc_mtr (d : Dev) (r : Nat) (x : HbmPc) : (d.setHpc r x).mtr = d.mtr := rfl
@[simp] theorem Dev.setHpc_bsn (d : Dev) (r : Nat) (x : HbmPc) : (d.setHpc r x).bsn = d.bsn := rfl
@[simp] theorem Dev.setHpc_eg (d : Dev) (r : Nat) (x : HbmPc) : (d.setHpc r x).eg = d.eg := rfl
@[simp] theorem Dev.setHpc_expand (d : Dev) (r : Nat) (x : HbmPc) : (d.setHpc r x).expand = d.expand := rfl
@[simp] theorem Dev.setHpc_madeGen (d : Dev) (r : Nat) (x : HbmPc) : (d.setHpc r x).madeGen = d.madeGen := rfl
@[simp] theorem Dev.setHpc_dma (d : Dev) (r : Nat) (x : HbmPc) : (d.setHpc r x).dma = d.dma := rfl
@[simp] theorem Dev.setHpc_cpm (d : Dev) (r : Nat) (x : HbmPc) : (d.setHpc r x).cpm = d.cpm := rfl
@[simp] theorem Dev.setHpc_fsc (d : Dev) (r : Nat) (x : HbmPc) : (d.setHpc r x).fsc = d.fsc := rfl
@[simp] theorem Dev.setHpc_threads (d : Dev) (r : Nat) (x : HbmPc) : (d.setHpc r x).threads = d.threads := rfl
@[simp] theorem Dev.setHpc_ucs (d : Dev) (r : Nat) (x : HbmPc) : (d.setHpc r x).ucs = d.ucs := rfl
@[simp] theorem Dev.setHpc_load (d : Dev) (r : Nat) (x : HbmPc) : (d.setHpc r x).load = d.load := rfl
@[simp] theorem Dev.setHpc_tim (d : Dev) (r : Nat) (x : HbmPc) : (d.setHpc r x).tim = d.tim := rfl
@[simp] theorem Dev.setHpc_sdl (d : Dev) (r : Nat) (x : HbmPc) : (d.setHpc r x).sdl = d.sdl := rfl
@[simp] theorem Dev.setHpc_mram (d : Dev) (r : Nat) (x : HbmPc) : (d.setHpc r x).mram = d.mram := rfl
@[simp] theorem Dev.setHpc_sec (d : Dev) (r : Nat) (x : HbmPc) : (d.setHpc r x).sec = d.sec := rfl
@[simp] theorem Dev.setHpc_boot (d : Dev) (r : Nat) (x : HbmPc) : (d.setHpc r x).boot = d.boot := rfl
@[simp] theorem Dev.setHpc_mon (d : Dev) (r : Nat) (x : HbmPc) : (d.setHpc r x).mon = d.mon := rfl
@[simp] theorem Dev.setHpc_tmp (d : Dev) (r : Nat) (x : HbmPc) : (d.setHpc r x).tmp = d.tmp := rfl
@[simp] theorem Dev.setHpc_doe (d : Dev) (r : Nat) (x : HbmPc) : (d.setHpc r x).doe = d.doe := rfl
@[simp] theorem Dev.setHpc_out (d : Dev) (r : Nat) (x : HbmPc) : (d.setHpc r x).out = d.out := rfl
@[simp] theorem Dev.setHpc_free (d : Dev) (r : Nat) (x : HbmPc) : (d.setHpc r x).free = d.free := rfl

@[simp] theorem Dev.setHpc_same (d : Dev) (r : Nat) (x : HbmPc) : (d.setHpc r x).hpc r = x := Tab.get_put_same ..
theorem Dev.setHpc_ne (d : Dev) (r : Nat) (x : HbmPc) (n : Nat) (h : n ≠ r) : (d.setHpc r x).hpc n = d.hpc n :=
  Tab.get_put_ne _ _ _ _ h

/-! ### `Dev.setStack` -/

@[simp] theorem Dev.setStack_regs (d : Dev) (k : Nat) (x : HbmStack) : (d.setStack k x).regs = d.regs := rfl
@[simp] theorem Dev.setStack_act (d : Dev) (k : Nat) (x : HbmStack) : (d.setStack k x).act = d.act := rfl
@[simp] theorem Dev.setStack_prev (d : Dev) (k : Nat) (x : HbmStack) : (d.setStack k x).prev = d.prev := rfl
@[simp] theorem Dev.setStack_cyc (d : Dev) (k : Nat) (x : HbmStack) : (d.setStack k x).cyc = d.cyc := rfl
@[simp] theorem Dev.setStack_dt (d : Dev) (k : Nat) (x : HbmStack) : (d.setStack k x).dt = d.dt := rfl
@[simp] theorem Dev.setStack_fab (d : Dev) (k : Nat) (x : HbmStack) : (d.setStack k x).fab = d.fab := rfl
@[simp] theorem Dev.setStack_evq (d : Dev) (k : Nat) (x : HbmStack) : (d.setStack k x).evq = d.evq := rfl
@[simp] theorem Dev.setStack_err (d : Dev) (k : Nat) (x : HbmStack) : (d.setStack k x).err = d.err := rfl
@[simp] theorem Dev.setStack_glb (d : Dev) (k : Nat) (x : HbmStack) : (d.setStack k x).glb = d.glb := rfl
@[simp] theorem Dev.setStack_pmc (d : Dev) (k : Nat) (x : HbmStack) : (d.setStack k x).pmc = d.pmc := rfl
@[simp] theorem Dev.setStack_pllAt (d : Dev) (k : Nat) (x : HbmStack) : (d.setStack k x).pllAt = d.pllAt := rfl
@[simp] theorem Dev.setStack_ruus (d : Dev) (k : Nat) (x : HbmStack) : (d.setStack k x).ruus = d.ruus := rfl
@[simp] theorem Dev.setStack_ftb (d : Dev) (k : Nat) (x : HbmStack) : (d.setStack k x).ftb = d.ftb := rfl
@[simp] theorem Dev.setStack_tpl (d : Dev) (k : Nat) (x : HbmStack) : (d.setStack k x).tpl = d.tpl := rfl
@[simp] theorem Dev.setStack_tplPrev (d : Dev) (k : Nat) (x : HbmStack) : (d.setStack k x).tplPrev = d.tplPrev := rfl
@[simp] theorem Dev.setStack_results (d : Dev) (k : Nat) (x : HbmStack) : (d.setStack k x).results = d.results := rfl
@[simp] theorem Dev.setStack_pkts (d : Dev) (k : Nat) (x : HbmStack) : (d.setStack k x).pkts = d.pkts := rfl
@[simp] theorem Dev.setStack_nextPid (d : Dev) (k : Nat) (x : HbmStack) : (d.setStack k x).nextPid = d.nextPid := rfl
@[simp] theorem Dev.setStack_stg (d : Dev) (k : Nat) (x : HbmStack) : (d.setStack k x).stg = d.stg := rfl
@[simp] theorem Dev.setStack_overflow (d : Dev) (k : Nat) (x : HbmStack) : (d.setStack k x).overflow = d.overflow := rfl
@[simp] theorem Dev.setStack_stgLate (d : Dev) (k : Nat) (x : HbmStack) : (d.setStack k x).stgLate = d.stgLate := rfl
@[simp] theorem Dev.setStack_old (d : Dev) (k : Nat) (x : HbmStack) : (d.setStack k x).old = d.old := rfl
@[simp] theorem Dev.setStack_turn (d : Dev) (k : Nat) (x : HbmStack) : (d.setStack k x).turn = d.turn := rfl
@[simp] theorem Dev.setStack_fwd (d : Dev) (k : Nat) (x : HbmStack) : (d.setStack k x).fwd = d.fwd := rfl
@[simp] theorem Dev.setStack_fwdPrev (d : Dev) (k : Nat) (x : HbmStack) : (d.setStack k x).fwdPrev = d.fwdPrev := rfl
@[simp] theorem Dev.setStack_l2 (d : Dev) (k : Nat) (x : HbmStack) : (d.setStack k x).l2 = d.l2 := rfl
@[simp] theorem Dev.setStack_nat (d : Dev) (k : Nat) (x : HbmStack) : (d.setStack k x).nat = d.nat := rfl
@[simp] theorem Dev.setStack_acl (d : Dev) (k : Nat) (x : HbmStack) : (d.setStack k x).acl = d.acl := rfl
@[simp] theorem Dev.setStack_shw (d : Dev) (k : Nat) (x : HbmStack) : (d.setStack k x).shw = d.shw := rfl
@[simp] theorem Dev.setStack_mtr (d : Dev) (k : Nat) (x : HbmStack) : (d.setStack k x).mtr = d.mtr := rfl
@[simp] theorem Dev.setStack_bsn (d : Dev) (k : Nat) (x : HbmStack) : (d.setStack k x).bsn = d.bsn := rfl
@[simp] theorem Dev.setStack_eg (d : Dev) (k : Nat) (x : HbmStack) : (d.setStack k x).eg = d.eg := rfl
@[simp] theorem Dev.setStack_expand (d : Dev) (k : Nat) (x : HbmStack) : (d.setStack k x).expand = d.expand := rfl
@[simp] theorem Dev.setStack_madeGen (d : Dev) (k : Nat) (x : HbmStack) : (d.setStack k x).madeGen = d.madeGen := rfl
@[simp] theorem Dev.setStack_dma (d : Dev) (k : Nat) (x : HbmStack) : (d.setStack k x).dma = d.dma := rfl
@[simp] theorem Dev.setStack_cpm (d : Dev) (k : Nat) (x : HbmStack) : (d.setStack k x).cpm = d.cpm := rfl
@[simp] theorem Dev.setStack_fsc (d : Dev) (k : Nat) (x : HbmStack) : (d.setStack k x).fsc = d.fsc := rfl
@[simp] theorem Dev.setStack_threads (d : Dev) (k : Nat) (x : HbmStack) : (d.setStack k x).threads = d.threads := rfl
@[simp] theorem Dev.setStack_ucs (d : Dev) (k : Nat) (x : HbmStack) : (d.setStack k x).ucs = d.ucs := rfl
@[simp] theorem Dev.setStack_load (d : Dev) (k : Nat) (x : HbmStack) : (d.setStack k x).load = d.load := rfl
@[simp] theorem Dev.setStack_tim (d : Dev) (k : Nat) (x : HbmStack) : (d.setStack k x).tim = d.tim := rfl
@[simp] theorem Dev.setStack_sdl (d : Dev) (k : Nat) (x : HbmStack) : (d.setStack k x).sdl = d.sdl := rfl
@[simp] theorem Dev.setStack_mram (d : Dev) (k : Nat) (x : HbmStack) : (d.setStack k x).mram = d.mram := rfl
@[simp] theorem Dev.setStack_sec (d : Dev) (k : Nat) (x : HbmStack) : (d.setStack k x).sec = d.sec := rfl
@[simp] theorem Dev.setStack_boot (d : Dev) (k : Nat) (x : HbmStack) : (d.setStack k x).boot = d.boot := rfl
@[simp] theorem Dev.setStack_mon (d : Dev) (k : Nat) (x : HbmStack) : (d.setStack k x).mon = d.mon := rfl
@[simp] theorem Dev.setStack_tmp (d : Dev) (k : Nat) (x : HbmStack) : (d.setStack k x).tmp = d.tmp := rfl
@[simp] theorem Dev.setStack_doe (d : Dev) (k : Nat) (x : HbmStack) : (d.setStack k x).doe = d.doe := rfl
@[simp] theorem Dev.setStack_out (d : Dev) (k : Nat) (x : HbmStack) : (d.setStack k x).out = d.out := rfl
@[simp] theorem Dev.setStack_free (d : Dev) (k : Nat) (x : HbmStack) : (d.setStack k x).free = d.free := rfl

@[simp] theorem Dev.setStack_same (d : Dev) (k : Nat) (x : HbmStack) : (d.setStack k x).stack k = x := Tab.get_put_same ..
theorem Dev.setStack_ne (d : Dev) (k : Nat) (x : HbmStack) (n : Nat) (h : n ≠ k) : (d.setStack k x).stack n = d.stack n :=
  Tab.get_put_ne _ _ _ _ h

/-! ### `Dev.setBuf` -/

@[simp] theorem Dev.setBuf_regs (d : Dev) (k : Nat) (x : CistBuf) : (d.setBuf k x).regs = d.regs := rfl
@[simp] theorem Dev.setBuf_act (d : Dev) (k : Nat) (x : CistBuf) : (d.setBuf k x).act = d.act := rfl
@[simp] theorem Dev.setBuf_prev (d : Dev) (k : Nat) (x : CistBuf) : (d.setBuf k x).prev = d.prev := rfl
@[simp] theorem Dev.setBuf_cyc (d : Dev) (k : Nat) (x : CistBuf) : (d.setBuf k x).cyc = d.cyc := rfl
@[simp] theorem Dev.setBuf_dt (d : Dev) (k : Nat) (x : CistBuf) : (d.setBuf k x).dt = d.dt := rfl
@[simp] theorem Dev.setBuf_fab (d : Dev) (k : Nat) (x : CistBuf) : (d.setBuf k x).fab = d.fab := rfl
@[simp] theorem Dev.setBuf_evq (d : Dev) (k : Nat) (x : CistBuf) : (d.setBuf k x).evq = d.evq := rfl
@[simp] theorem Dev.setBuf_err (d : Dev) (k : Nat) (x : CistBuf) : (d.setBuf k x).err = d.err := rfl
@[simp] theorem Dev.setBuf_glb (d : Dev) (k : Nat) (x : CistBuf) : (d.setBuf k x).glb = d.glb := rfl
@[simp] theorem Dev.setBuf_pmc (d : Dev) (k : Nat) (x : CistBuf) : (d.setBuf k x).pmc = d.pmc := rfl
@[simp] theorem Dev.setBuf_pllAt (d : Dev) (k : Nat) (x : CistBuf) : (d.setBuf k x).pllAt = d.pllAt := rfl
@[simp] theorem Dev.setBuf_ruus (d : Dev) (k : Nat) (x : CistBuf) : (d.setBuf k x).ruus = d.ruus := rfl
@[simp] theorem Dev.setBuf_ftb (d : Dev) (k : Nat) (x : CistBuf) : (d.setBuf k x).ftb = d.ftb := rfl
@[simp] theorem Dev.setBuf_tpl (d : Dev) (k : Nat) (x : CistBuf) : (d.setBuf k x).tpl = d.tpl := rfl
@[simp] theorem Dev.setBuf_tplPrev (d : Dev) (k : Nat) (x : CistBuf) : (d.setBuf k x).tplPrev = d.tplPrev := rfl
@[simp] theorem Dev.setBuf_results (d : Dev) (k : Nat) (x : CistBuf) : (d.setBuf k x).results = d.results := rfl
@[simp] theorem Dev.setBuf_pkts (d : Dev) (k : Nat) (x : CistBuf) : (d.setBuf k x).pkts = d.pkts := rfl
@[simp] theorem Dev.setBuf_nextPid (d : Dev) (k : Nat) (x : CistBuf) : (d.setBuf k x).nextPid = d.nextPid := rfl
@[simp] theorem Dev.setBuf_stg (d : Dev) (k : Nat) (x : CistBuf) : (d.setBuf k x).stg = d.stg := rfl
@[simp] theorem Dev.setBuf_overflow (d : Dev) (k : Nat) (x : CistBuf) : (d.setBuf k x).overflow = d.overflow := rfl
@[simp] theorem Dev.setBuf_stgLate (d : Dev) (k : Nat) (x : CistBuf) : (d.setBuf k x).stgLate = d.stgLate := rfl
@[simp] theorem Dev.setBuf_old (d : Dev) (k : Nat) (x : CistBuf) : (d.setBuf k x).old = d.old := rfl
@[simp] theorem Dev.setBuf_turn (d : Dev) (k : Nat) (x : CistBuf) : (d.setBuf k x).turn = d.turn := rfl
@[simp] theorem Dev.setBuf_fwd (d : Dev) (k : Nat) (x : CistBuf) : (d.setBuf k x).fwd = d.fwd := rfl
@[simp] theorem Dev.setBuf_fwdPrev (d : Dev) (k : Nat) (x : CistBuf) : (d.setBuf k x).fwdPrev = d.fwdPrev := rfl
@[simp] theorem Dev.setBuf_l2 (d : Dev) (k : Nat) (x : CistBuf) : (d.setBuf k x).l2 = d.l2 := rfl
@[simp] theorem Dev.setBuf_nat (d : Dev) (k : Nat) (x : CistBuf) : (d.setBuf k x).nat = d.nat := rfl
@[simp] theorem Dev.setBuf_acl (d : Dev) (k : Nat) (x : CistBuf) : (d.setBuf k x).acl = d.acl := rfl
@[simp] theorem Dev.setBuf_shw (d : Dev) (k : Nat) (x : CistBuf) : (d.setBuf k x).shw = d.shw := rfl
@[simp] theorem Dev.setBuf_mtr (d : Dev) (k : Nat) (x : CistBuf) : (d.setBuf k x).mtr = d.mtr := rfl
@[simp] theorem Dev.setBuf_bsn (d : Dev) (k : Nat) (x : CistBuf) : (d.setBuf k x).bsn = d.bsn := rfl
@[simp] theorem Dev.setBuf_eg (d : Dev) (k : Nat) (x : CistBuf) : (d.setBuf k x).eg = d.eg := rfl
@[simp] theorem Dev.setBuf_expand (d : Dev) (k : Nat) (x : CistBuf) : (d.setBuf k x).expand = d.expand := rfl
@[simp] theorem Dev.setBuf_madeGen (d : Dev) (k : Nat) (x : CistBuf) : (d.setBuf k x).madeGen = d.madeGen := rfl
@[simp] theorem Dev.setBuf_dma (d : Dev) (k : Nat) (x : CistBuf) : (d.setBuf k x).dma = d.dma := rfl
@[simp] theorem Dev.setBuf_fsc (d : Dev) (k : Nat) (x : CistBuf) : (d.setBuf k x).fsc = d.fsc := rfl
@[simp] theorem Dev.setBuf_threads (d : Dev) (k : Nat) (x : CistBuf) : (d.setBuf k x).threads = d.threads := rfl
@[simp] theorem Dev.setBuf_ucs (d : Dev) (k : Nat) (x : CistBuf) : (d.setBuf k x).ucs = d.ucs := rfl
@[simp] theorem Dev.setBuf_load (d : Dev) (k : Nat) (x : CistBuf) : (d.setBuf k x).load = d.load := rfl
@[simp] theorem Dev.setBuf_tim (d : Dev) (k : Nat) (x : CistBuf) : (d.setBuf k x).tim = d.tim := rfl
@[simp] theorem Dev.setBuf_sdl (d : Dev) (k : Nat) (x : CistBuf) : (d.setBuf k x).sdl = d.sdl := rfl
@[simp] theorem Dev.setBuf_mram (d : Dev) (k : Nat) (x : CistBuf) : (d.setBuf k x).mram = d.mram := rfl
@[simp] theorem Dev.setBuf_sec (d : Dev) (k : Nat) (x : CistBuf) : (d.setBuf k x).sec = d.sec := rfl
@[simp] theorem Dev.setBuf_hbc (d : Dev) (k : Nat) (x : CistBuf) : (d.setBuf k x).hbc = d.hbc := rfl
@[simp] theorem Dev.setBuf_boot (d : Dev) (k : Nat) (x : CistBuf) : (d.setBuf k x).boot = d.boot := rfl
@[simp] theorem Dev.setBuf_mon (d : Dev) (k : Nat) (x : CistBuf) : (d.setBuf k x).mon = d.mon := rfl
@[simp] theorem Dev.setBuf_tmp (d : Dev) (k : Nat) (x : CistBuf) : (d.setBuf k x).tmp = d.tmp := rfl
@[simp] theorem Dev.setBuf_doe (d : Dev) (k : Nat) (x : CistBuf) : (d.setBuf k x).doe = d.doe := rfl
@[simp] theorem Dev.setBuf_out (d : Dev) (k : Nat) (x : CistBuf) : (d.setBuf k x).out = d.out := rfl
@[simp] theorem Dev.setBuf_free (d : Dev) (k : Nat) (x : CistBuf) : (d.setBuf k x).free = d.free := rfl

@[simp] theorem Dev.setBuf_same (d : Dev) (k : Nat) (x : CistBuf) : (d.setBuf k x).buf k = x := Tab.get_put_same ..
theorem Dev.setBuf_ne (d : Dev) (k : Nat) (x : CistBuf) (n : Nat) (h : n ≠ k) : (d.setBuf k x).buf n = d.buf n :=
  Tab.get_put_ne _ _ _ _ h

/-! ### `Dev.setGrp` -/

@[simp] theorem Dev.setGrp_regs (d : Dev) (g : Nat) (x : GrpState) : (d.setGrp g x).regs = d.regs := rfl
@[simp] theorem Dev.setGrp_act (d : Dev) (g : Nat) (x : GrpState) : (d.setGrp g x).act = d.act := rfl
@[simp] theorem Dev.setGrp_prev (d : Dev) (g : Nat) (x : GrpState) : (d.setGrp g x).prev = d.prev := rfl
@[simp] theorem Dev.setGrp_cyc (d : Dev) (g : Nat) (x : GrpState) : (d.setGrp g x).cyc = d.cyc := rfl
@[simp] theorem Dev.setGrp_dt (d : Dev) (g : Nat) (x : GrpState) : (d.setGrp g x).dt = d.dt := rfl
@[simp] theorem Dev.setGrp_fab (d : Dev) (g : Nat) (x : GrpState) : (d.setGrp g x).fab = d.fab := rfl
@[simp] theorem Dev.setGrp_evq (d : Dev) (g : Nat) (x : GrpState) : (d.setGrp g x).evq = d.evq := rfl
@[simp] theorem Dev.setGrp_err (d : Dev) (g : Nat) (x : GrpState) : (d.setGrp g x).err = d.err := rfl
@[simp] theorem Dev.setGrp_glb (d : Dev) (g : Nat) (x : GrpState) : (d.setGrp g x).glb = d.glb := rfl
@[simp] theorem Dev.setGrp_pmc (d : Dev) (g : Nat) (x : GrpState) : (d.setGrp g x).pmc = d.pmc := rfl
@[simp] theorem Dev.setGrp_pllAt (d : Dev) (g : Nat) (x : GrpState) : (d.setGrp g x).pllAt = d.pllAt := rfl
@[simp] theorem Dev.setGrp_ruus (d : Dev) (g : Nat) (x : GrpState) : (d.setGrp g x).ruus = d.ruus := rfl
@[simp] theorem Dev.setGrp_ftb (d : Dev) (g : Nat) (x : GrpState) : (d.setGrp g x).ftb = d.ftb := rfl
@[simp] theorem Dev.setGrp_tpl (d : Dev) (g : Nat) (x : GrpState) : (d.setGrp g x).tpl = d.tpl := rfl
@[simp] theorem Dev.setGrp_tplPrev (d : Dev) (g : Nat) (x : GrpState) : (d.setGrp g x).tplPrev = d.tplPrev := rfl
@[simp] theorem Dev.setGrp_results (d : Dev) (g : Nat) (x : GrpState) : (d.setGrp g x).results = d.results := rfl
@[simp] theorem Dev.setGrp_pkts (d : Dev) (g : Nat) (x : GrpState) : (d.setGrp g x).pkts = d.pkts := rfl
@[simp] theorem Dev.setGrp_nextPid (d : Dev) (g : Nat) (x : GrpState) : (d.setGrp g x).nextPid = d.nextPid := rfl
@[simp] theorem Dev.setGrp_stg (d : Dev) (g : Nat) (x : GrpState) : (d.setGrp g x).stg = d.stg := rfl
@[simp] theorem Dev.setGrp_overflow (d : Dev) (g : Nat) (x : GrpState) : (d.setGrp g x).overflow = d.overflow := rfl
@[simp] theorem Dev.setGrp_stgLate (d : Dev) (g : Nat) (x : GrpState) : (d.setGrp g x).stgLate = d.stgLate := rfl
@[simp] theorem Dev.setGrp_old (d : Dev) (g : Nat) (x : GrpState) : (d.setGrp g x).old = d.old := rfl
@[simp] theorem Dev.setGrp_turn (d : Dev) (g : Nat) (x : GrpState) : (d.setGrp g x).turn = d.turn := rfl
@[simp] theorem Dev.setGrp_fwd (d : Dev) (g : Nat) (x : GrpState) : (d.setGrp g x).fwd = d.fwd := rfl
@[simp] theorem Dev.setGrp_fwdPrev (d : Dev) (g : Nat) (x : GrpState) : (d.setGrp g x).fwdPrev = d.fwdPrev := rfl
@[simp] theorem Dev.setGrp_l2 (d : Dev) (g : Nat) (x : GrpState) : (d.setGrp g x).l2 = d.l2 := rfl
@[simp] theorem Dev.setGrp_nat (d : Dev) (g : Nat) (x : GrpState) : (d.setGrp g x).nat = d.nat := rfl
@[simp] theorem Dev.setGrp_acl (d : Dev) (g : Nat) (x : GrpState) : (d.setGrp g x).acl = d.acl := rfl
@[simp] theorem Dev.setGrp_shw (d : Dev) (g : Nat) (x : GrpState) : (d.setGrp g x).shw = d.shw := rfl
@[simp] theorem Dev.setGrp_mtr (d : Dev) (g : Nat) (x : GrpState) : (d.setGrp g x).mtr = d.mtr := rfl
@[simp] theorem Dev.setGrp_bsn (d : Dev) (g : Nat) (x : GrpState) : (d.setGrp g x).bsn = d.bsn := rfl
@[simp] theorem Dev.setGrp_expand (d : Dev) (g : Nat) (x : GrpState) : (d.setGrp g x).expand = d.expand := rfl
@[simp] theorem Dev.setGrp_madeGen (d : Dev) (g : Nat) (x : GrpState) : (d.setGrp g x).madeGen = d.madeGen := rfl
@[simp] theorem Dev.setGrp_dma (d : Dev) (g : Nat) (x : GrpState) : (d.setGrp g x).dma = d.dma := rfl
@[simp] theorem Dev.setGrp_cpm (d : Dev) (g : Nat) (x : GrpState) : (d.setGrp g x).cpm = d.cpm := rfl
@[simp] theorem Dev.setGrp_fsc (d : Dev) (g : Nat) (x : GrpState) : (d.setGrp g x).fsc = d.fsc := rfl
@[simp] theorem Dev.setGrp_threads (d : Dev) (g : Nat) (x : GrpState) : (d.setGrp g x).threads = d.threads := rfl
@[simp] theorem Dev.setGrp_ucs (d : Dev) (g : Nat) (x : GrpState) : (d.setGrp g x).ucs = d.ucs := rfl
@[simp] theorem Dev.setGrp_load (d : Dev) (g : Nat) (x : GrpState) : (d.setGrp g x).load = d.load := rfl
@[simp] theorem Dev.setGrp_tim (d : Dev) (g : Nat) (x : GrpState) : (d.setGrp g x).tim = d.tim := rfl
@[simp] theorem Dev.setGrp_sdl (d : Dev) (g : Nat) (x : GrpState) : (d.setGrp g x).sdl = d.sdl := rfl
@[simp] theorem Dev.setGrp_mram (d : Dev) (g : Nat) (x : GrpState) : (d.setGrp g x).mram = d.mram := rfl
@[simp] theorem Dev.setGrp_sec (d : Dev) (g : Nat) (x : GrpState) : (d.setGrp g x).sec = d.sec := rfl
@[simp] theorem Dev.setGrp_hbc (d : Dev) (g : Nat) (x : GrpState) : (d.setGrp g x).hbc = d.hbc := rfl
@[simp] theorem Dev.setGrp_boot (d : Dev) (g : Nat) (x : GrpState) : (d.setGrp g x).boot = d.boot := rfl
@[simp] theorem Dev.setGrp_mon (d : Dev) (g : Nat) (x : GrpState) : (d.setGrp g x).mon = d.mon := rfl
@[simp] theorem Dev.setGrp_tmp (d : Dev) (g : Nat) (x : GrpState) : (d.setGrp g x).tmp = d.tmp := rfl
@[simp] theorem Dev.setGrp_doe (d : Dev) (g : Nat) (x : GrpState) : (d.setGrp g x).doe = d.doe := rfl
@[simp] theorem Dev.setGrp_out (d : Dev) (g : Nat) (x : GrpState) : (d.setGrp g x).out = d.out := rfl
@[simp] theorem Dev.setGrp_free (d : Dev) (g : Nat) (x : GrpState) : (d.setGrp g x).free = d.free := rfl

@[simp] theorem Dev.setGrp_same (d : Dev) (g : Nat) (x : GrpState) : (d.setGrp g x).grp g = x := Tab.get_put_same ..
theorem Dev.setGrp_ne (d : Dev) (g : Nat) (x : GrpState) (n : Nat) (h : n ≠ g) : (d.setGrp g x).grp n = d.grp n :=
  Tab.get_put_ne _ _ _ _ h

/-! ### `Dev.setStore` -/

@[simp] theorem Dev.setStore_regs (d : Dev) (c : Nat) (x : UcsSt) : (d.setStore c x).regs = d.regs := rfl
@[simp] theorem Dev.setStore_act (d : Dev) (c : Nat) (x : UcsSt) : (d.setStore c x).act = d.act := rfl
@[simp] theorem Dev.setStore_prev (d : Dev) (c : Nat) (x : UcsSt) : (d.setStore c x).prev = d.prev := rfl
@[simp] theorem Dev.setStore_cyc (d : Dev) (c : Nat) (x : UcsSt) : (d.setStore c x).cyc = d.cyc := rfl
@[simp] theorem Dev.setStore_dt (d : Dev) (c : Nat) (x : UcsSt) : (d.setStore c x).dt = d.dt := rfl
@[simp] theorem Dev.setStore_fab (d : Dev) (c : Nat) (x : UcsSt) : (d.setStore c x).fab = d.fab := rfl
@[simp] theorem Dev.setStore_evq (d : Dev) (c : Nat) (x : UcsSt) : (d.setStore c x).evq = d.evq := rfl
@[simp] theorem Dev.setStore_err (d : Dev) (c : Nat) (x : UcsSt) : (d.setStore c x).err = d.err := rfl
@[simp] theorem Dev.setStore_glb (d : Dev) (c : Nat) (x : UcsSt) : (d.setStore c x).glb = d.glb := rfl
@[simp] theorem Dev.setStore_pmc (d : Dev) (c : Nat) (x : UcsSt) : (d.setStore c x).pmc = d.pmc := rfl
@[simp] theorem Dev.setStore_pllAt (d : Dev) (c : Nat) (x : UcsSt) : (d.setStore c x).pllAt = d.pllAt := rfl
@[simp] theorem Dev.setStore_ruus (d : Dev) (c : Nat) (x : UcsSt) : (d.setStore c x).ruus = d.ruus := rfl
@[simp] theorem Dev.setStore_ftb (d : Dev) (c : Nat) (x : UcsSt) : (d.setStore c x).ftb = d.ftb := rfl
@[simp] theorem Dev.setStore_tpl (d : Dev) (c : Nat) (x : UcsSt) : (d.setStore c x).tpl = d.tpl := rfl
@[simp] theorem Dev.setStore_tplPrev (d : Dev) (c : Nat) (x : UcsSt) : (d.setStore c x).tplPrev = d.tplPrev := rfl
@[simp] theorem Dev.setStore_results (d : Dev) (c : Nat) (x : UcsSt) : (d.setStore c x).results = d.results := rfl
@[simp] theorem Dev.setStore_pkts (d : Dev) (c : Nat) (x : UcsSt) : (d.setStore c x).pkts = d.pkts := rfl
@[simp] theorem Dev.setStore_nextPid (d : Dev) (c : Nat) (x : UcsSt) : (d.setStore c x).nextPid = d.nextPid := rfl
@[simp] theorem Dev.setStore_stg (d : Dev) (c : Nat) (x : UcsSt) : (d.setStore c x).stg = d.stg := rfl
@[simp] theorem Dev.setStore_overflow (d : Dev) (c : Nat) (x : UcsSt) : (d.setStore c x).overflow = d.overflow := rfl
@[simp] theorem Dev.setStore_stgLate (d : Dev) (c : Nat) (x : UcsSt) : (d.setStore c x).stgLate = d.stgLate := rfl
@[simp] theorem Dev.setStore_old (d : Dev) (c : Nat) (x : UcsSt) : (d.setStore c x).old = d.old := rfl
@[simp] theorem Dev.setStore_turn (d : Dev) (c : Nat) (x : UcsSt) : (d.setStore c x).turn = d.turn := rfl
@[simp] theorem Dev.setStore_fwd (d : Dev) (c : Nat) (x : UcsSt) : (d.setStore c x).fwd = d.fwd := rfl
@[simp] theorem Dev.setStore_fwdPrev (d : Dev) (c : Nat) (x : UcsSt) : (d.setStore c x).fwdPrev = d.fwdPrev := rfl
@[simp] theorem Dev.setStore_l2 (d : Dev) (c : Nat) (x : UcsSt) : (d.setStore c x).l2 = d.l2 := rfl
@[simp] theorem Dev.setStore_nat (d : Dev) (c : Nat) (x : UcsSt) : (d.setStore c x).nat = d.nat := rfl
@[simp] theorem Dev.setStore_acl (d : Dev) (c : Nat) (x : UcsSt) : (d.setStore c x).acl = d.acl := rfl
@[simp] theorem Dev.setStore_shw (d : Dev) (c : Nat) (x : UcsSt) : (d.setStore c x).shw = d.shw := rfl
@[simp] theorem Dev.setStore_mtr (d : Dev) (c : Nat) (x : UcsSt) : (d.setStore c x).mtr = d.mtr := rfl
@[simp] theorem Dev.setStore_bsn (d : Dev) (c : Nat) (x : UcsSt) : (d.setStore c x).bsn = d.bsn := rfl
@[simp] theorem Dev.setStore_eg (d : Dev) (c : Nat) (x : UcsSt) : (d.setStore c x).eg = d.eg := rfl
@[simp] theorem Dev.setStore_expand (d : Dev) (c : Nat) (x : UcsSt) : (d.setStore c x).expand = d.expand := rfl
@[simp] theorem Dev.setStore_madeGen (d : Dev) (c : Nat) (x : UcsSt) : (d.setStore c x).madeGen = d.madeGen := rfl
@[simp] theorem Dev.setStore_dma (d : Dev) (c : Nat) (x : UcsSt) : (d.setStore c x).dma = d.dma := rfl
@[simp] theorem Dev.setStore_cpm (d : Dev) (c : Nat) (x : UcsSt) : (d.setStore c x).cpm = d.cpm := rfl
@[simp] theorem Dev.setStore_fsc (d : Dev) (c : Nat) (x : UcsSt) : (d.setStore c x).fsc = d.fsc := rfl
@[simp] theorem Dev.setStore_threads (d : Dev) (c : Nat) (x : UcsSt) : (d.setStore c x).threads = d.threads := rfl
@[simp] theorem Dev.setStore_load (d : Dev) (c : Nat) (x : UcsSt) : (d.setStore c x).load = d.load := rfl
@[simp] theorem Dev.setStore_tim (d : Dev) (c : Nat) (x : UcsSt) : (d.setStore c x).tim = d.tim := rfl
@[simp] theorem Dev.setStore_sdl (d : Dev) (c : Nat) (x : UcsSt) : (d.setStore c x).sdl = d.sdl := rfl
@[simp] theorem Dev.setStore_mram (d : Dev) (c : Nat) (x : UcsSt) : (d.setStore c x).mram = d.mram := rfl
@[simp] theorem Dev.setStore_sec (d : Dev) (c : Nat) (x : UcsSt) : (d.setStore c x).sec = d.sec := rfl
@[simp] theorem Dev.setStore_hbc (d : Dev) (c : Nat) (x : UcsSt) : (d.setStore c x).hbc = d.hbc := rfl
@[simp] theorem Dev.setStore_boot (d : Dev) (c : Nat) (x : UcsSt) : (d.setStore c x).boot = d.boot := rfl
@[simp] theorem Dev.setStore_mon (d : Dev) (c : Nat) (x : UcsSt) : (d.setStore c x).mon = d.mon := rfl
@[simp] theorem Dev.setStore_tmp (d : Dev) (c : Nat) (x : UcsSt) : (d.setStore c x).tmp = d.tmp := rfl
@[simp] theorem Dev.setStore_doe (d : Dev) (c : Nat) (x : UcsSt) : (d.setStore c x).doe = d.doe := rfl
@[simp] theorem Dev.setStore_out (d : Dev) (c : Nat) (x : UcsSt) : (d.setStore c x).out = d.out := rfl
@[simp] theorem Dev.setStore_free (d : Dev) (c : Nat) (x : UcsSt) : (d.setStore c x).free = d.free := rfl

@[simp] theorem Dev.setStore_same (d : Dev) (c : Nat) (x : UcsSt) : (d.setStore c x).store c = x := Tab.get_put_same ..
theorem Dev.setStore_ne (d : Dev) (c : Nat) (x : UcsSt) (n : Nat) (h : n ≠ c) : (d.setStore c x).store n = d.store n :=
  Tab.get_put_ne _ _ _ _ h

/-! ### `Dev.setPkt` -/

@[simp] theorem Dev.setPkt_regs (d : Dev) (pid : Nat) (p : Pkt) : (d.setPkt pid p).regs = d.regs := rfl
@[simp] theorem Dev.setPkt_act (d : Dev) (pid : Nat) (p : Pkt) : (d.setPkt pid p).act = d.act := rfl
@[simp] theorem Dev.setPkt_prev (d : Dev) (pid : Nat) (p : Pkt) : (d.setPkt pid p).prev = d.prev := rfl
@[simp] theorem Dev.setPkt_cyc (d : Dev) (pid : Nat) (p : Pkt) : (d.setPkt pid p).cyc = d.cyc := rfl
@[simp] theorem Dev.setPkt_dt (d : Dev) (pid : Nat) (p : Pkt) : (d.setPkt pid p).dt = d.dt := rfl
@[simp] theorem Dev.setPkt_fab (d : Dev) (pid : Nat) (p : Pkt) : (d.setPkt pid p).fab = d.fab := rfl
@[simp] theorem Dev.setPkt_evq (d : Dev) (pid : Nat) (p : Pkt) : (d.setPkt pid p).evq = d.evq := rfl
@[simp] theorem Dev.setPkt_err (d : Dev) (pid : Nat) (p : Pkt) : (d.setPkt pid p).err = d.err := rfl
@[simp] theorem Dev.setPkt_glb (d : Dev) (pid : Nat) (p : Pkt) : (d.setPkt pid p).glb = d.glb := rfl
@[simp] theorem Dev.setPkt_pmc (d : Dev) (pid : Nat) (p : Pkt) : (d.setPkt pid p).pmc = d.pmc := rfl
@[simp] theorem Dev.setPkt_pllAt (d : Dev) (pid : Nat) (p : Pkt) : (d.setPkt pid p).pllAt = d.pllAt := rfl
@[simp] theorem Dev.setPkt_ruus (d : Dev) (pid : Nat) (p : Pkt) : (d.setPkt pid p).ruus = d.ruus := rfl
@[simp] theorem Dev.setPkt_ftb (d : Dev) (pid : Nat) (p : Pkt) : (d.setPkt pid p).ftb = d.ftb := rfl
@[simp] theorem Dev.setPkt_tpl (d : Dev) (pid : Nat) (p : Pkt) : (d.setPkt pid p).tpl = d.tpl := rfl
@[simp] theorem Dev.setPkt_tplPrev (d : Dev) (pid : Nat) (p : Pkt) : (d.setPkt pid p).tplPrev = d.tplPrev := rfl
@[simp] theorem Dev.setPkt_results (d : Dev) (pid : Nat) (p : Pkt) : (d.setPkt pid p).results = d.results := rfl
@[simp] theorem Dev.setPkt_nextPid (d : Dev) (pid : Nat) (p : Pkt) : (d.setPkt pid p).nextPid = d.nextPid := rfl
@[simp] theorem Dev.setPkt_stg (d : Dev) (pid : Nat) (p : Pkt) : (d.setPkt pid p).stg = d.stg := rfl
@[simp] theorem Dev.setPkt_overflow (d : Dev) (pid : Nat) (p : Pkt) : (d.setPkt pid p).overflow = d.overflow := rfl
@[simp] theorem Dev.setPkt_stgLate (d : Dev) (pid : Nat) (p : Pkt) : (d.setPkt pid p).stgLate = d.stgLate := rfl
@[simp] theorem Dev.setPkt_old (d : Dev) (pid : Nat) (p : Pkt) : (d.setPkt pid p).old = d.old := rfl
@[simp] theorem Dev.setPkt_turn (d : Dev) (pid : Nat) (p : Pkt) : (d.setPkt pid p).turn = d.turn := rfl
@[simp] theorem Dev.setPkt_fwd (d : Dev) (pid : Nat) (p : Pkt) : (d.setPkt pid p).fwd = d.fwd := rfl
@[simp] theorem Dev.setPkt_fwdPrev (d : Dev) (pid : Nat) (p : Pkt) : (d.setPkt pid p).fwdPrev = d.fwdPrev := rfl
@[simp] theorem Dev.setPkt_l2 (d : Dev) (pid : Nat) (p : Pkt) : (d.setPkt pid p).l2 = d.l2 := rfl
@[simp] theorem Dev.setPkt_nat (d : Dev) (pid : Nat) (p : Pkt) : (d.setPkt pid p).nat = d.nat := rfl
@[simp] theorem Dev.setPkt_acl (d : Dev) (pid : Nat) (p : Pkt) : (d.setPkt pid p).acl = d.acl := rfl
@[simp] theorem Dev.setPkt_shw (d : Dev) (pid : Nat) (p : Pkt) : (d.setPkt pid p).shw = d.shw := rfl
@[simp] theorem Dev.setPkt_mtr (d : Dev) (pid : Nat) (p : Pkt) : (d.setPkt pid p).mtr = d.mtr := rfl
@[simp] theorem Dev.setPkt_bsn (d : Dev) (pid : Nat) (p : Pkt) : (d.setPkt pid p).bsn = d.bsn := rfl
@[simp] theorem Dev.setPkt_eg (d : Dev) (pid : Nat) (p : Pkt) : (d.setPkt pid p).eg = d.eg := rfl
@[simp] theorem Dev.setPkt_expand (d : Dev) (pid : Nat) (p : Pkt) : (d.setPkt pid p).expand = d.expand := rfl
@[simp] theorem Dev.setPkt_madeGen (d : Dev) (pid : Nat) (p : Pkt) : (d.setPkt pid p).madeGen = d.madeGen := rfl
@[simp] theorem Dev.setPkt_dma (d : Dev) (pid : Nat) (p : Pkt) : (d.setPkt pid p).dma = d.dma := rfl
@[simp] theorem Dev.setPkt_cpm (d : Dev) (pid : Nat) (p : Pkt) : (d.setPkt pid p).cpm = d.cpm := rfl
@[simp] theorem Dev.setPkt_fsc (d : Dev) (pid : Nat) (p : Pkt) : (d.setPkt pid p).fsc = d.fsc := rfl
@[simp] theorem Dev.setPkt_threads (d : Dev) (pid : Nat) (p : Pkt) : (d.setPkt pid p).threads = d.threads := rfl
@[simp] theorem Dev.setPkt_ucs (d : Dev) (pid : Nat) (p : Pkt) : (d.setPkt pid p).ucs = d.ucs := rfl
@[simp] theorem Dev.setPkt_load (d : Dev) (pid : Nat) (p : Pkt) : (d.setPkt pid p).load = d.load := rfl
@[simp] theorem Dev.setPkt_tim (d : Dev) (pid : Nat) (p : Pkt) : (d.setPkt pid p).tim = d.tim := rfl
@[simp] theorem Dev.setPkt_sdl (d : Dev) (pid : Nat) (p : Pkt) : (d.setPkt pid p).sdl = d.sdl := rfl
@[simp] theorem Dev.setPkt_mram (d : Dev) (pid : Nat) (p : Pkt) : (d.setPkt pid p).mram = d.mram := rfl
@[simp] theorem Dev.setPkt_sec (d : Dev) (pid : Nat) (p : Pkt) : (d.setPkt pid p).sec = d.sec := rfl
@[simp] theorem Dev.setPkt_hbc (d : Dev) (pid : Nat) (p : Pkt) : (d.setPkt pid p).hbc = d.hbc := rfl
@[simp] theorem Dev.setPkt_boot (d : Dev) (pid : Nat) (p : Pkt) : (d.setPkt pid p).boot = d.boot := rfl
@[simp] theorem Dev.setPkt_mon (d : Dev) (pid : Nat) (p : Pkt) : (d.setPkt pid p).mon = d.mon := rfl
@[simp] theorem Dev.setPkt_tmp (d : Dev) (pid : Nat) (p : Pkt) : (d.setPkt pid p).tmp = d.tmp := rfl
@[simp] theorem Dev.setPkt_doe (d : Dev) (pid : Nat) (p : Pkt) : (d.setPkt pid p).doe = d.doe := rfl
@[simp] theorem Dev.setPkt_out (d : Dev) (pid : Nat) (p : Pkt) : (d.setPkt pid p).out = d.out := rfl
@[simp] theorem Dev.setPkt_free (d : Dev) (pid : Nat) (p : Pkt) : (d.setPkt pid p).free = d.free := rfl

/-! ### `Dev.setEq` -/

@[simp] theorem Dev.setEq_regs (d : Dev) (port q : Nat) (x : EgQueue) : (d.setEq port q x).regs = d.regs := rfl
@[simp] theorem Dev.setEq_act (d : Dev) (port q : Nat) (x : EgQueue) : (d.setEq port q x).act = d.act := rfl
@[simp] theorem Dev.setEq_prev (d : Dev) (port q : Nat) (x : EgQueue) : (d.setEq port q x).prev = d.prev := rfl
@[simp] theorem Dev.setEq_cyc (d : Dev) (port q : Nat) (x : EgQueue) : (d.setEq port q x).cyc = d.cyc := rfl
@[simp] theorem Dev.setEq_dt (d : Dev) (port q : Nat) (x : EgQueue) : (d.setEq port q x).dt = d.dt := rfl
@[simp] theorem Dev.setEq_fab (d : Dev) (port q : Nat) (x : EgQueue) : (d.setEq port q x).fab = d.fab := rfl
@[simp] theorem Dev.setEq_evq (d : Dev) (port q : Nat) (x : EgQueue) : (d.setEq port q x).evq = d.evq := rfl
@[simp] theorem Dev.setEq_err (d : Dev) (port q : Nat) (x : EgQueue) : (d.setEq port q x).err = d.err := rfl
@[simp] theorem Dev.setEq_glb (d : Dev) (port q : Nat) (x : EgQueue) : (d.setEq port q x).glb = d.glb := rfl
@[simp] theorem Dev.setEq_pmc (d : Dev) (port q : Nat) (x : EgQueue) : (d.setEq port q x).pmc = d.pmc := rfl
@[simp] theorem Dev.setEq_pllAt (d : Dev) (port q : Nat) (x : EgQueue) : (d.setEq port q x).pllAt = d.pllAt := rfl
@[simp] theorem Dev.setEq_ruus (d : Dev) (port q : Nat) (x : EgQueue) : (d.setEq port q x).ruus = d.ruus := rfl
@[simp] theorem Dev.setEq_ftb (d : Dev) (port q : Nat) (x : EgQueue) : (d.setEq port q x).ftb = d.ftb := rfl
@[simp] theorem Dev.setEq_tpl (d : Dev) (port q : Nat) (x : EgQueue) : (d.setEq port q x).tpl = d.tpl := rfl
@[simp] theorem Dev.setEq_tplPrev (d : Dev) (port q : Nat) (x : EgQueue) : (d.setEq port q x).tplPrev = d.tplPrev := rfl
@[simp] theorem Dev.setEq_results (d : Dev) (port q : Nat) (x : EgQueue) : (d.setEq port q x).results = d.results := rfl
@[simp] theorem Dev.setEq_pkts (d : Dev) (port q : Nat) (x : EgQueue) : (d.setEq port q x).pkts = d.pkts := rfl
@[simp] theorem Dev.setEq_nextPid (d : Dev) (port q : Nat) (x : EgQueue) : (d.setEq port q x).nextPid = d.nextPid := rfl
@[simp] theorem Dev.setEq_stg (d : Dev) (port q : Nat) (x : EgQueue) : (d.setEq port q x).stg = d.stg := rfl
@[simp] theorem Dev.setEq_overflow (d : Dev) (port q : Nat) (x : EgQueue) : (d.setEq port q x).overflow = d.overflow := rfl
@[simp] theorem Dev.setEq_stgLate (d : Dev) (port q : Nat) (x : EgQueue) : (d.setEq port q x).stgLate = d.stgLate := rfl
@[simp] theorem Dev.setEq_old (d : Dev) (port q : Nat) (x : EgQueue) : (d.setEq port q x).old = d.old := rfl
@[simp] theorem Dev.setEq_turn (d : Dev) (port q : Nat) (x : EgQueue) : (d.setEq port q x).turn = d.turn := rfl
@[simp] theorem Dev.setEq_fwd (d : Dev) (port q : Nat) (x : EgQueue) : (d.setEq port q x).fwd = d.fwd := rfl
@[simp] theorem Dev.setEq_fwdPrev (d : Dev) (port q : Nat) (x : EgQueue) : (d.setEq port q x).fwdPrev = d.fwdPrev := rfl
@[simp] theorem Dev.setEq_l2 (d : Dev) (port q : Nat) (x : EgQueue) : (d.setEq port q x).l2 = d.l2 := rfl
@[simp] theorem Dev.setEq_nat (d : Dev) (port q : Nat) (x : EgQueue) : (d.setEq port q x).nat = d.nat := rfl
@[simp] theorem Dev.setEq_acl (d : Dev) (port q : Nat) (x : EgQueue) : (d.setEq port q x).acl = d.acl := rfl
@[simp] theorem Dev.setEq_shw (d : Dev) (port q : Nat) (x : EgQueue) : (d.setEq port q x).shw = d.shw := rfl
@[simp] theorem Dev.setEq_mtr (d : Dev) (port q : Nat) (x : EgQueue) : (d.setEq port q x).mtr = d.mtr := rfl
@[simp] theorem Dev.setEq_bsn (d : Dev) (port q : Nat) (x : EgQueue) : (d.setEq port q x).bsn = d.bsn := rfl
@[simp] theorem Dev.setEq_expand (d : Dev) (port q : Nat) (x : EgQueue) : (d.setEq port q x).expand = d.expand := rfl
@[simp] theorem Dev.setEq_madeGen (d : Dev) (port q : Nat) (x : EgQueue) : (d.setEq port q x).madeGen = d.madeGen := rfl
@[simp] theorem Dev.setEq_dma (d : Dev) (port q : Nat) (x : EgQueue) : (d.setEq port q x).dma = d.dma := rfl
@[simp] theorem Dev.setEq_cpm (d : Dev) (port q : Nat) (x : EgQueue) : (d.setEq port q x).cpm = d.cpm := rfl
@[simp] theorem Dev.setEq_fsc (d : Dev) (port q : Nat) (x : EgQueue) : (d.setEq port q x).fsc = d.fsc := rfl
@[simp] theorem Dev.setEq_threads (d : Dev) (port q : Nat) (x : EgQueue) : (d.setEq port q x).threads = d.threads := rfl
@[simp] theorem Dev.setEq_ucs (d : Dev) (port q : Nat) (x : EgQueue) : (d.setEq port q x).ucs = d.ucs := rfl
@[simp] theorem Dev.setEq_load (d : Dev) (port q : Nat) (x : EgQueue) : (d.setEq port q x).load = d.load := rfl
@[simp] theorem Dev.setEq_tim (d : Dev) (port q : Nat) (x : EgQueue) : (d.setEq port q x).tim = d.tim := rfl
@[simp] theorem Dev.setEq_sdl (d : Dev) (port q : Nat) (x : EgQueue) : (d.setEq port q x).sdl = d.sdl := rfl
@[simp] theorem Dev.setEq_mram (d : Dev) (port q : Nat) (x : EgQueue) : (d.setEq port q x).mram = d.mram := rfl
@[simp] theorem Dev.setEq_sec (d : Dev) (port q : Nat) (x : EgQueue) : (d.setEq port q x).sec = d.sec := rfl
@[simp] theorem Dev.setEq_hbc (d : Dev) (port q : Nat) (x : EgQueue) : (d.setEq port q x).hbc = d.hbc := rfl
@[simp] theorem Dev.setEq_boot (d : Dev) (port q : Nat) (x : EgQueue) : (d.setEq port q x).boot = d.boot := rfl
@[simp] theorem Dev.setEq_mon (d : Dev) (port q : Nat) (x : EgQueue) : (d.setEq port q x).mon = d.mon := rfl
@[simp] theorem Dev.setEq_tmp (d : Dev) (port q : Nat) (x : EgQueue) : (d.setEq port q x).tmp = d.tmp := rfl
@[simp] theorem Dev.setEq_doe (d : Dev) (port q : Nat) (x : EgQueue) : (d.setEq port q x).doe = d.doe := rfl
@[simp] theorem Dev.setEq_out (d : Dev) (port q : Nat) (x : EgQueue) : (d.setEq port q x).out = d.out := rfl
@[simp] theorem Dev.setEq_free (d : Dev) (port q : Nat) (x : EgQueue) : (d.setEq port q x).free = d.free := rfl

/-! ### `Dev.setBank` -/

@[simp] theorem Dev.setBank_regs (d : Dev) (n : Nat) (b : AclBank) : (d.setBank n b).regs = d.regs := rfl
@[simp] theorem Dev.setBank_act (d : Dev) (n : Nat) (b : AclBank) : (d.setBank n b).act = d.act := rfl
@[simp] theorem Dev.setBank_prev (d : Dev) (n : Nat) (b : AclBank) : (d.setBank n b).prev = d.prev := rfl
@[simp] theorem Dev.setBank_cyc (d : Dev) (n : Nat) (b : AclBank) : (d.setBank n b).cyc = d.cyc := rfl
@[simp] theorem Dev.setBank_dt (d : Dev) (n : Nat) (b : AclBank) : (d.setBank n b).dt = d.dt := rfl
@[simp] theorem Dev.setBank_fab (d : Dev) (n : Nat) (b : AclBank) : (d.setBank n b).fab = d.fab := rfl
@[simp] theorem Dev.setBank_evq (d : Dev) (n : Nat) (b : AclBank) : (d.setBank n b).evq = d.evq := rfl
@[simp] theorem Dev.setBank_err (d : Dev) (n : Nat) (b : AclBank) : (d.setBank n b).err = d.err := rfl
@[simp] theorem Dev.setBank_glb (d : Dev) (n : Nat) (b : AclBank) : (d.setBank n b).glb = d.glb := rfl
@[simp] theorem Dev.setBank_pmc (d : Dev) (n : Nat) (b : AclBank) : (d.setBank n b).pmc = d.pmc := rfl
@[simp] theorem Dev.setBank_pllAt (d : Dev) (n : Nat) (b : AclBank) : (d.setBank n b).pllAt = d.pllAt := rfl
@[simp] theorem Dev.setBank_ruus (d : Dev) (n : Nat) (b : AclBank) : (d.setBank n b).ruus = d.ruus := rfl
@[simp] theorem Dev.setBank_ftb (d : Dev) (n : Nat) (b : AclBank) : (d.setBank n b).ftb = d.ftb := rfl
@[simp] theorem Dev.setBank_tpl (d : Dev) (n : Nat) (b : AclBank) : (d.setBank n b).tpl = d.tpl := rfl
@[simp] theorem Dev.setBank_tplPrev (d : Dev) (n : Nat) (b : AclBank) : (d.setBank n b).tplPrev = d.tplPrev := rfl
@[simp] theorem Dev.setBank_results (d : Dev) (n : Nat) (b : AclBank) : (d.setBank n b).results = d.results := rfl
@[simp] theorem Dev.setBank_pkts (d : Dev) (n : Nat) (b : AclBank) : (d.setBank n b).pkts = d.pkts := rfl
@[simp] theorem Dev.setBank_nextPid (d : Dev) (n : Nat) (b : AclBank) : (d.setBank n b).nextPid = d.nextPid := rfl
@[simp] theorem Dev.setBank_stg (d : Dev) (n : Nat) (b : AclBank) : (d.setBank n b).stg = d.stg := rfl
@[simp] theorem Dev.setBank_overflow (d : Dev) (n : Nat) (b : AclBank) : (d.setBank n b).overflow = d.overflow := rfl
@[simp] theorem Dev.setBank_stgLate (d : Dev) (n : Nat) (b : AclBank) : (d.setBank n b).stgLate = d.stgLate := rfl
@[simp] theorem Dev.setBank_old (d : Dev) (n : Nat) (b : AclBank) : (d.setBank n b).old = d.old := rfl
@[simp] theorem Dev.setBank_turn (d : Dev) (n : Nat) (b : AclBank) : (d.setBank n b).turn = d.turn := rfl
@[simp] theorem Dev.setBank_fwd (d : Dev) (n : Nat) (b : AclBank) : (d.setBank n b).fwd = d.fwd := rfl
@[simp] theorem Dev.setBank_fwdPrev (d : Dev) (n : Nat) (b : AclBank) : (d.setBank n b).fwdPrev = d.fwdPrev := rfl
@[simp] theorem Dev.setBank_l2 (d : Dev) (n : Nat) (b : AclBank) : (d.setBank n b).l2 = d.l2 := rfl
@[simp] theorem Dev.setBank_nat (d : Dev) (n : Nat) (b : AclBank) : (d.setBank n b).nat = d.nat := rfl
@[simp] theorem Dev.setBank_shw (d : Dev) (n : Nat) (b : AclBank) : (d.setBank n b).shw = d.shw := rfl
@[simp] theorem Dev.setBank_mtr (d : Dev) (n : Nat) (b : AclBank) : (d.setBank n b).mtr = d.mtr := rfl
@[simp] theorem Dev.setBank_bsn (d : Dev) (n : Nat) (b : AclBank) : (d.setBank n b).bsn = d.bsn := rfl
@[simp] theorem Dev.setBank_eg (d : Dev) (n : Nat) (b : AclBank) : (d.setBank n b).eg = d.eg := rfl
@[simp] theorem Dev.setBank_expand (d : Dev) (n : Nat) (b : AclBank) : (d.setBank n b).expand = d.expand := rfl
@[simp] theorem Dev.setBank_madeGen (d : Dev) (n : Nat) (b : AclBank) : (d.setBank n b).madeGen = d.madeGen := rfl
@[simp] theorem Dev.setBank_dma (d : Dev) (n : Nat) (b : AclBank) : (d.setBank n b).dma = d.dma := rfl
@[simp] theorem Dev.setBank_cpm (d : Dev) (n : Nat) (b : AclBank) : (d.setBank n b).cpm = d.cpm := rfl
@[simp] theorem Dev.setBank_fsc (d : Dev) (n : Nat) (b : AclBank) : (d.setBank n b).fsc = d.fsc := rfl
@[simp] theorem Dev.setBank_threads (d : Dev) (n : Nat) (b : AclBank) : (d.setBank n b).threads = d.threads := rfl
@[simp] theorem Dev.setBank_ucs (d : Dev) (n : Nat) (b : AclBank) : (d.setBank n b).ucs = d.ucs := rfl
@[simp] theorem Dev.setBank_load (d : Dev) (n : Nat) (b : AclBank) : (d.setBank n b).load = d.load := rfl
@[simp] theorem Dev.setBank_tim (d : Dev) (n : Nat) (b : AclBank) : (d.setBank n b).tim = d.tim := rfl
@[simp] theorem Dev.setBank_sdl (d : Dev) (n : Nat) (b : AclBank) : (d.setBank n b).sdl = d.sdl := rfl
@[simp] theorem Dev.setBank_mram (d : Dev) (n : Nat) (b : AclBank) : (d.setBank n b).mram = d.mram := rfl
@[simp] theorem Dev.setBank_sec (d : Dev) (n : Nat) (b : AclBank) : (d.setBank n b).sec = d.sec := rfl
@[simp] theorem Dev.setBank_hbc (d : Dev) (n : Nat) (b : AclBank) : (d.setBank n b).hbc = d.hbc := rfl
@[simp] theorem Dev.setBank_boot (d : Dev) (n : Nat) (b : AclBank) : (d.setBank n b).boot = d.boot := rfl
@[simp] theorem Dev.setBank_mon (d : Dev) (n : Nat) (b : AclBank) : (d.setBank n b).mon = d.mon := rfl
@[simp] theorem Dev.setBank_tmp (d : Dev) (n : Nat) (b : AclBank) : (d.setBank n b).tmp = d.tmp := rfl
@[simp] theorem Dev.setBank_doe (d : Dev) (n : Nat) (b : AclBank) : (d.setBank n b).doe = d.doe := rfl
@[simp] theorem Dev.setBank_out (d : Dev) (n : Nat) (b : AclBank) : (d.setBank n b).out = d.out := rfl
@[simp] theorem Dev.setBank_free (d : Dev) (n : Nat) (b : AclBank) : (d.setBank n b).free = d.free := rfl

/-! ### Ports, Rills and streams, whose updates also show in status registers -/

theorem Dev.raise_eg (d : Dev) (f : Fld) (v i j : Nat) : (d.raise f v i j).eg = d.eg := by unfold Dev.raise; split <;> rfl

@[simp] theorem Dev.setPort_same (d : Dev) (k : Nat) (x : PortSt) : (d.setPort k x).port k = x := by
  unfold Dev.setPort; split <;> exact Tab.get_put_same ..
theorem Dev.setPort_ne (d : Dev) (k : Nat) (x : PortSt) (n : Nat) (h : n ≠ k) : (d.setPort k x).port n = d.port n := by
  unfold Dev.setPort; split <;> exact Tab.get_put_ne _ _ _ _ h

@[simp] theorem Dev.setRill_same (d : Dev) (e : Nat) (x : RillSt) : (d.setRill e x).rillOf e = x := by
  simp only [Dev.setRill, Dev.rillOf, Dev.raise_eg]; exact Tab.get_put_same ..
theorem Dev.setRill_ne (d : Dev) (e : Nat) (x : RillSt) (n : Nat) (h : n ≠ e) : (d.setRill e x).rillOf n = d.rillOf n := by
  simp only [Dev.setRill, Dev.rillOf, Dev.raise_eg]; exact Tab.get_put_ne _ _ _ _ h

@[simp] theorem Dev.setStream_same (d : Dev) (k : Nat) (x : Stream) : (d.setStream k x).stream k = x := Tab.get_put_same ..
theorem Dev.setStream_ne (d : Dev) (k : Nat) (x : Stream) (n : Nat) (h : n ≠ k) : (d.setStream k x).stream n = d.stream n :=
  Tab.get_put_ne _ _ _ _ h

/-- What an access that a detector protects can do: with its injection not armed, nothing; armed, it sets Fired, in once mode clears Arm,
and finds what the pattern makes of the word (R57). -/
theorem Dev.inject_cases (d : Dev) (b : Blk) (i det : Nat) : (d.injects b i det = false ∧ d.inject b i det = (d, 0)) ∨
    (d.injects b i det = true ∧ d.inject b i det = (d.injected b i, patternFinds b det (d.get (HDR.ERR_INJ_DATA.Pattern b) i))) := by
  cases h : d.injects b i det <;> simp [Dev.inject, h]

end Sys2Proof.Machine
end

