-- ==== Sys2Proof/Laws/Step.lean ====
section
/-! SUPPORT. Laws of the step and of completion. -/

namespace Sys2Proof.Machine

/-- A command whose meaning changes only the device completes with what the meaning makes of the device. -/
theorem gives_of_nextD {c : Instr} {s : State} {f : Dev → Dev} {P : Chip → Prop} (h : exec c s = nextD s f) (hP : P (s.chip.upd f)) :
    Gives c s P := ⟨s.upd f, h, rfl, hP⟩

/-- The same for a meaning that may change HBM. -/
theorem gives_of_nextC {c : Instr} {s : State} {f : Chip → Chip} {P : Chip → Prop} (h : exec c s = nextC s f) (hP : P (f s.chip)) :
    Gives c s P := ⟨s.updC f, h, rfl, hP⟩

end Sys2Proof.Machine
end

