-- ==== Sys2Proof/Machine/Latency.lean ====
section
/-! DEFINITION. The latency budget (12): the latency of a copy (R339), the constants of ports and memory (R342, R343, R345), and the
bound that the device gives a copy (R340, R341, R344 to R351). Times are in picoseconds; no step
reads them. -/

namespace Sys2Proof.Machine

/-- The latency of a copy: its egress stamp minus its packet's ingress stamp, as device time (R339). -/
def latency (egress ingress : Nat) : Int := (egress : Int) - ingress

/-- The constants `d_in` and `d_out` of a port with its lanes and the Gb/s of one lane, in ns (R343). -/
def portTimes : Nat × Nat → Option (Nat × Nat)
  | (8, 200) => some (58, 28)
  | (4, 200) => some (62, 30)
  | (8, 100) => some (66, 30)
  | (2, 200) => some (68, 32)
  | (4, 100) => some (72, 32)
  | (1, 200) => some (80, 34)
  | (2, 100) | (4, 50) => some (84, 34)
  | (1, 100) | (2, 50) => some (98, 38)
  | (4, 25) => some (42, 26)
  | (1, 50) => some (150, 46)
  | (1, 25) => some (60, 34)
  | (1, 10) => some (110, 60)
  | _ => none

/-- T_base in ns of an HBM rate, nominal or derated (R345). -/
def memBase (rate : Nat) (derated : Bool) : Nat :=
  match rate with
  | 0 => if derated then 56 else 48
  | 1 => if derated then 66 else 56
  | _ => if derated then 82 else 70

/-! ### The conditions (R340) -/

/-- What a bound is told of the traffic and of what befalls it (R340): the length of the shortest frame, the most class A requests that a
home RUU receives in 1 µs, the most second passes of a slice in 1 s, and whether a detector reports an uncorrectable error on the
packet's path or a reset reaches it. -/
structure LatencyTraffic where
  shortest : Nat := 64
  classA   : Nat := 0
  seconds  : Nat := 0
  error    : Bool := false
  reset    : Bool := false
  deriving DecidableEq, Repr

/-- The highest case temperature of the stacks (R334). -/
def Dev.hottest (d : Dev) : Int := ((List.range 6).map fun k => sint 8 (d.get HBC.TEMP_STAT.Case k)).foldl max (-128)

/-- The shortest frame with which an HBM rate sustains the worst case at a case temperature (R334, R335). -/
def rateFrame (rate : Nat) (t : Int) : Nat :=
  match rate with
  | 0 => if 95 < t then 80 else 64
  | 1 => if 95 < t then 103 else if 85 < t then 85 else 74
  | _ => if 95 < t then 145 else if 85 < t then 120 else 106

/-- The shortest frame in Move, for a MinRate of at most 100; none above 95 °C (R137). -/
def moveFrame (minRate : Nat) (t : Int) : Option Nat :=
  if 100 < minRate ∨ 95 < t then none else some (if 85 < t then 118 else 104)

/-- Whether the caps and the RUU Target of a stack are at their Set-to values, and its table order is one of R334 (R337, R340). -/
def Dev.tested (d : Dev) (stack : Nat) : Bool :=
  ([4, 4, 6, 1, 1].zipIdx 1).all (fun x => d.get HBC.PORT_CFG.Cap stack x.2 == x.1) && d.get HBC.PORT_CFG.Target stack 0 == 12 &&
    d.get HBC.MAP_CFG.TableOrder stack % 2 == 0

/-- Whether the conditions hold under which the manual gives a bound (R340). -/
def Dev.bounded (d : Dev) (x : LatencyTraffic) : Bool :=
  (List.range 6).all d.tested && decide (rateFrame (d.get HBC.FREQ_STAT.Current) d.hottest ≤ x.shortest) &&
    (d.phase != 4 || (moveFrame (d.get FTB.MIG_CFG.MinRate) d.hottest).any fun n => decide (n ≤ x.shortest)) &&
    decide (x.classA ≤ 1000) && decide (x.seconds < 10 ^ 6) && !x.error && !x.reset

/-! ### Memory (R342, R344, R345) -/

/-- The time of `n` bytes at `r` Gb/s. -/
def wireTime (n r : Nat) : Nat := 8000 * n / r

/-- `t_hbm` at a stack: the age at which a request through port 0 is served at urgency 3 and its return (R318, R345). -/
def Dev.hbmTime (d : Dev) (stack : Nat) : Nat :=
  1000 * (memBase (d.get HBC.FREQ_STAT.Current) (d.flag HBC.TEMP_STAT.Derate stack) + 16 * d.get HBC.PORT_CFG.Target stack 0 + 160)

/-- `t_hbm` of reads that are issued together, in their several stacks (R345). -/
def Dev.hbmTimes (d : Dev) (ks : List Nat) : Nat := (ks.map d.hbmTime).foldl max 0

/-- `w_ref`, `w_q`, and the path to a home RUU, through it, and back (R342, R344). -/
def refreshTime : Nat := 350000
def queueTime : Nat := 51200
def pathTime : Nat × Nat × Nat := (12800, 10400, 12800)

/-- Whether a request in service still waits for HBM. -/
def Dev.awaits (d : Dev) (r : Nat) (s : Service) : Bool := !(d.missing r s.req).isEmpty || s.mem.any fun m => m.state != .returned

/-- `h` of R345 for a request at its Tag cycle: a slot that it reads is not in the partition of its home RUU, or an earlier request of its
row is in service and still waits for HBM. -/
def Dev.readsHbm (d : Dev) (r : Nat) (q : ReqKind) : Bool :=
  !(d.missing r q).isEmpty || (d.ruu r).service.any fun s => s.row.any (d.reqRow r q).contains && d.awaits r s

/-- The stacks that a request reads from; those of every stack where the request is not known. -/
def Dev.stacksOf (d : Dev) : Option (Nat × ReqKind) → List Nat
  | none => List.range 6
  | some (r, q) => (d.reqRow r q).map fun l => l.channel / 64

/-- `w_slow` of a punted packet at level `l` of FSC and in a cluster (R347); no bound where the level's Expire is 0. -/
def Dev.slowTime (d : Dev) (l cluster : Nat) : Option Nat :=
  if d.get FSC.LVL_TIME.Expire 0 l = 0 then none
  else some (16000 * d.get FSC.LVL_TIME.Expire 0 l + 25600 + 38400 * d.get FEN.CFG.RunLimit cluster + 19200)

/-- `w_nat` of a NAT64 inbound packet whose annex entry lies in a stack (R342). -/
def Dev.natTime (d : Dev) (stack : Nat) : Nat := pathTime.1 + d.hbmTime stack + refreshTime + pathTime.2.2

/-! ### Ordering, shaping and the port (R346, R348 to R351) -/

/-- `w_rill` at an egress slice (R346): 0 without an order domain; 0 for the packets of a domain that enter through one port, none of them
punted; else at most the gap timeout. -/
def Dev.rillTime (d : Dev) (slice : Nat) (domain onePort : Bool) : Nat :=
  if !domain ∨ onePort then 0 else 16000 * d.get RSQ.CFG.GapTimeout slice

/-- The cycle from which a head that was evaluated in cycle `cyc` is eligible (R285). -/
def eligibleFrom (cyc e : Nat) : Nat := cyc + ceilDiv ((e + 2 ^ 64 - cyc * 2 ^ 24 % 2 ^ 64) % 2 ^ 64) (2 ^ 24)

/-- The cycle from which the last of a group's copies is eligible, by their charges: each becomes head when the one before it is eligible
(R288 to R290). -/
def groupEnds (g : GrpCfg) (x : GrpState) (cyc : Nat) : List Nat → Nat
  | [] => cyc
  | c :: rest => groupEnds g (evalHead g x cyc c).2 (eligibleFrom cyc (evalHead g x cyc c).1) rest

/-- The lateness of the wheel in ps with `n` entries due in a tick (R286, R349). -/
def wheelLate (n : Nat) : Nat := 4000 + if n ≤ 40 then 0 else 800 * ceilDiv (n - 40) 8

/-- `w_shape` of a copy enqueued now, with `n` entries of the slice due in its tick: 0 where it is eligible at once; else its E less the time
of its enqueue, and the lateness (R349). -/
def Dev.shapeTime (d : Dev) (c : Copy) (n : Nat) : Nat :=
  match c.group with
  | none => 0
  | some k =>
    let g := d.gcfg k
    let x := d.grp k
    let now := d.sincePll
    if g.mode = 0 then 0
    else
      let charges := x.list.map (·.grpCharge g) ++ [c.grpCharge g]
      let ends := match x.eval with
        | some e => groupEnds g x (eligibleFrom x.headAt e) charges.tail
        | none => groupEnds g x (if x.list.isEmpty then now else x.headAt) charges
      if x.list.isEmpty ∧ ends ≤ now then 0 else 800 * (ends - now) + wheelLate n

/-- The most a copy waits at its port when its queue holds nothing ahead of it, at the highest backlogged level (R350): the longest frame
that another queue can be sending. -/
def Dev.portWait (d : Dev) (port longest : Nat) : Nat := wireTime (longest + 20) (d.speed port)

/-- The charges of the copies that a port takes before copy `ord`, in the order of R292; `none` where one of them is of a higher level, or
the copy is never taken. The fuel is how many copies are ready. -/
def Dev.chargesAhead (port : Nat) (c : Copy) : Nat → Dev → Option Nat
  | 0, _ => none
  | n + 1, d => do
    let q ← d.nextQueue port
    let (x, d) ← d.takeCopy port q
    if x.ord = c.ord then some 0
    else if c.level < x.level then none
    else (Dev.chargesAhead port c n d).map (x.charge + ·)

/-- `w_port` of a copy that joins its ready list now (R350): the longest frame that another queue can be sending, and the copies ahead at
its level. No bound behind a higher level, a pause, or a port that is not Up with its link. -/
def Dev.portTime (d : Dev) (c : Copy) (longest : Nat) : Option Nat :=
  if (d.port c.port).state ≠ 2 ∨ !(d.port c.port).link then none
  else
    let d := d.ready c
    let n := ((List.range 16).map fun q => (d.eq c.port q).ready.length).foldl (· + ·) 0
    (Dev.chargesAhead c.port c n d).map fun b => d.portWait c.port longest + wireTime b (d.speed c.port)

/-- What a hold for an HBM frequency change adds for a packet that it meets (R351): `w_freq`, and the time in which its egress port, loaded
to `u.1 / u.2` of its speed, sends the arrivals of the hold; no bound at full load. -/
def holdTime (u : Nat × Nat) : Option Nat :=
  if u.2 ≤ u.1 then none else some (20000000 + ceilDiv (20000000 * u.1) (u.2 - u.1))

/-! ### The formula (R341) -/

/-- One pass of a packet from `d_parse` to its port (R340, R341): its request at its home RUU at the Tag cycle, where it is known (R345);
whether its frame learns; the stack of the NAT64 annex entry that it needs; the FSC level and the cluster where it is punted; whether it
has an order domain, and one that R346 exempts; the copy at its egress port with the entries due in its wheel tick, where it is known,
and the longest frame of another queue. -/
structure LatencyPass where
  req     : Option (Nat × ReqKind) := none
  learns  : Bool := false
  annex   : Option Nat := none
  slow    : Option (Nat × Nat) := none
  domain  : Bool := false
  onePort : Bool := false
  copy    : Option (Copy × Nat) := none
  longest : Option Nat := none
  deriving DecidableEq, Repr

/-- A copy for which a bound is asked: its ports and frame length through the FCS, whether it cuts through (R75), its pass, the passes
before it where it has been recirculated, the traffic, and the load of its egress port where an HBM frequency change meets it (R351). -/
structure LatencyCase where
  inPort  : Nat
  outPort : Nat
  len     : Nat
  cut     : Bool := false
  pass    : LatencyPass := {}
  before  : List LatencyPass := []
  traffic : LatencyTraffic := {}
  change  : Option (Nat × Nat) := none
  deriving DecidableEq, Repr

/-- The time at which a pass has enqueued its copy at `port`, from `tKey`; the frame is whole at `tWhole`. -/
def Dev.enqueueTime (d : Dev) (x : LatencyPass) (port tKey tWhole : Nat) (cut : Bool) : Option Nat := do
  let exempt := x.domain && x.onePort
  let h := exempt || (match x.req with
    | none => true
    | some (r, q) => d.readsHbm r q)
  let read := if h then d.hbmTimes (d.stacksOf x.req) + refreshTime else 0
  let learn := if x.learns || exempt then 64000 else 0
  let tAct := tKey + max (pathTime.1 + queueTime + pathTime.2.1 + read + pathTime.2.2) learn
  let wSlow ← match x.slow with
    | none => some 0
    | some (l, cluster) => d.slowTime l cluster
  let wNat := (x.annex.map d.natTime).getD 0
  let tRel := tAct + 12800 + wNat + wSlow + d.rillTime (portSlice port) x.domain x.onePort + 3200
  pure ((if cut && x.slow.isNone then tRel else max tRel tWhole) + 6400)

/-- The waits of a pass behind its enqueue: `w_shape` and, at an Ethernet port, `w_port` (R349, R350). -/
def Dev.queueWait (d : Dev) (x : LatencyPass) (port : Nat) : Option Nat :=
  match x.copy with
  | none => some (((x.longest.map (d.portWait port ·))).getD 0)
  | some (c, n) => (if port < 128 then d.portTime c (x.longest.getD 0) else some 0).map (d.shapeTime c n + ·)

/-- The bound of R341; `none` where the manual gives none: outside the conditions of R340, a port mode outside R343, a level of FSC without
expiry (R347), a wait of R350 without bound, or a port at full load after a hold (R351). A packet of a host port counts from its acceptance,
a copy to one until it is enqueued, and each recirculation adds a pass from `d_parse` on (R340; DEDUCED, log entry 123). -/
def Dev.latencyBound (d : Dev) (x : LatencyCase) : Option Nat := do
  if !d.bounded x.traffic then none
  let host (p : Nat) := p = 128 ∨ p = 129
  let din ← if host x.inPort then some 0 else (portTimes (d.portMode x.inPort)).map (1000 * ·.1)
  let dout ← if host x.outPort then some 0 else (portTimes (d.portMode x.outPort)).map (1000 * ·.2)
  let bytes := fun n => if host x.inPort then 0 else wireTime n (d.speed x.inPort)
  let tWhole := din + bytes x.len
  let parsed := din + bytes (min x.len 260) + 25600
  let gate := d.cfg PRS.PORT_CFG.FcsGate (x.inPort / 16) (x.inPort % 16) ≠ 0 ∧ x.inPort < 128
  let tKey := if gate then max parsed tWhole else parsed
  let again : Option (Nat × Nat) → LatencyPass → Option (Nat × Nat) := fun t y => do
    let (tKey, tWhole) ← t
    let e ← d.enqueueTime y 130 tKey tWhole false
    pure (e + 25600, 0)
  let (tKey, tWhole) ← x.before.foldl again (some (tKey, tWhole))
  let e ← d.enqueueTime x.pass x.outPort tKey tWhole (x.cut && x.before.isEmpty)
  let hold ← match x.change with
    | none => some 0
    | some u => holdTime u
  if host x.outPort then pure (e + hold)
  else
    let w ← d.queueWait x.pass x.outPort
    pure (e + w + dout + hold)

/-- Whether a punted packet of an order domain is released before its number is skipped (R348), at an egress slice; `annex` is the stack
of the annex entry of a NAT64 inbound packet in the domain. -/
def Dev.slowInOrder (d : Dev) (l cluster slice : Nat) (req : Option (Nat × ReqKind)) (annex : Option Nat) : Bool :=
  match d.slowTime l cluster with
  | none => false
  | some w => decide (w + (annex.map d.natTime).getD 0 + queueTime + d.hbmTimes (d.stacksOf req) + refreshTime <
      16000 * d.get RSQ.CFG.GapTimeout slice)

end Sys2Proof.Machine
end

