-- ==== Sys2Proof/Machine/Package.lean ====
section
/-! DEFINITION. The electrical, thermal and mechanical figures of chapter 20 as data, with the budgets and bounds that it computes from
them (R533 to R549). No step reads them but the rail windows: they bind the board. -/

namespace Sys2Proof.Machine

/-! ### Balls (R533, R549) -/

/-- The ball groups of R533 with the number of balls of each. -/
def ballGroups : List (String × Nat) :=
  [("SER_RX", 256), ("SER_TX", 256), ("PCIE_RX", 16), ("PCIE_TX", 16), ("PCIE_REFCLK", 2), ("PERST#", 1), ("SYS_REFCLK", 2),
   ("TEN_MHZ_IN, PPS_IN, PPS_OUT", 3), ("SYNCE_OUT", 4), ("MON", 2), ("SPI", 6), ("SMB", 3), ("GPIO", 16), ("JTAG", 5), ("BOOT_RCV", 1),
   ("PWR_OK", 1), ("THERMTRIP#", 1), ("TDIODE", 2), ("SENSE", 6), ("supply", 2320), ("VSS", 3701), ("reserved", 104)]

/-- Rows and columns of the ball array (R533, R547). -/
def ballRows : Nat := 82

/-- The group table covers the fully populated array. -/
def ballsCovered : Bool := (ballGroups.map (·.2)).foldl (· + ·) 0 == ballRows * ballRows

/-! ### Rails (R534 to R537) -/

/-- A supply rail: nominal voltage in mV, tolerance in percent, balls, maximum current in units of 0.1 A, and the step of R535 at which
it powers up. -/
structure Rail where
  name : String
  nominal : Nat
  tol : Nat
  balls : Nat
  amps : Nat
  up : Nat
  deriving DecidableEq, Repr

/-- The rails by the index of R534, which is also that of TMP.VMON (R545). -/
def supplyRails : List Rail :=
  [⟨"VDD_IO18", 1800, 5, 16, 11, 1⟩, ⟨"VPP_HBM", 1800, 5, 24, 56, 1⟩, ⟨"VDD_HBM", 1050, 3, 360, 1140, 2⟩,
   ⟨"VDD_CORE", 750, 3, 1200, 5900, 3⟩, ⟨"VDD_SER", 750, 2, 320, 1730, 3⟩, ⟨"VDD_PLL", 750, 2, 16, 27, 3⟩,
   ⟨"VDD_PCIE", 750, 3, 24, 53, 3⟩, ⟨"VDDQ_HBM", 750, 3, 200, 670, 4⟩, ⟨"VDDH_SER", 1200, 3, 160, 500, 4⟩]

/-- A rail's window in whole mV, rounded inward (R534, R537; log entry 63). -/
def Rail.window (r : Rail) : Nat × Nat := ((r.nominal * (100 - r.tol) + 99) / 100, r.nominal * (100 + r.tol) / 100)

/-- No ball carries more than 0.6 A (R534). -/
def Rail.ballOk (r : Rail) : Bool := decide (r.amps ≤ 6 * r.balls)

/-- Whether a voltage in mV is 90 % of nominal, at which the next step of the power-up order may begin (R535). -/
def Rail.reached (r : Rail) (mv : Nat) : Bool := decide (9 * r.nominal ≤ 10 * mv)

/-- Whether step `k` of R535 may begin with rails at these voltages: steps 2 to 4 switch rails on, step 5 raises PWR_OK once every rail
has been within tolerance for 1 ms. -/
def powerStepMay (k : Nat) (mv : List Nat) : Bool :=
  ((supplyRails.zip mv).filter fun x => decide (x.1.up < k)).all fun x =>
    if k = 5 then decide (x.1.window.1 ≤ x.2) && decide (x.2 ≤ x.1.window.2) else x.1.reached x.2

/-- R536: while rails fall, VPP_HBM stays at or above VDD_HBM − 0.3 V until VDD_HBM is below 0.3 V. -/
def powerDownOk (vpp vdd : Nat) : Bool := decide (vdd < 300) || decide (vdd ≤ vpp + 300)

/-! ### Levels and references (R538 to R540) -/

/-- 1.8 V LVCMOS levels in mV: VIH minimum, VIL maximum, VOH minimum, VOL maximum, open-drain VOL maximum (R540). -/
def vihMin : Nat := 1170
def vilMax : Nat := 630
def vohMin : Nat := 1350
def volMax : Nat := 450
def odVolMax : Nat := 400

/-- What an input reads at a voltage in mV; between the thresholds R540 gives no level. -/
def inputLevel (mv : Nat) : Option Bool := if vihMin ≤ mv then some true else if mv ≤ vilMax then some false else none

/-- The reference inputs: frequency in kHz and accuracy in ppm (R538). -/
def sysRefclk : Nat × Nat := (156250, 50)
def pcieRefclk : Nat × Nat := (100000, 300)

/-! ### Power and heat (R541 to R545) -/

/-- The configurations of R541 with a maximum of their own, in watts. -/
inductive PowerCase where
  | worst
  | typical
  | idle
  deriving DecidableEq, Repr

def PowerCase.max : PowerCase → Nat
  | .worst => 820
  | .typical => 700
  | .idle => 230

/-- Milliwatts that a lane saves at a slower rate, or powered down (R541). -/
inductive LanePower where
  | r212
  | r106
  | r53
  | r25
  | off
  deriving DecidableEq, Repr

def LanePower.saves : LanePower → Nat
  | .r212 => 0
  | .r106 => 450
  | .r53 => 750
  | .r25 => 1050
  | .off => 1450

/-- Watts that the HBM rate code saves (R541). -/
def hbmSaves : Nat → Nat
  | 1 => 30
  | 2 => 55
  | _ => 0

/-- The maximum power in milliwatts of a configuration with these lanes and HBM rate (R541). -/
def powerMax (c : PowerCase) (lanes : List LanePower) (hbmRate : Nat) : Nat :=
  1000 * c.max - (lanes.map LanePower.saves).foldl (· + ·) 0 - 1000 * hbmSaves hbmRate

/-- Upper bounds in units of 0.001 °C: the junction from the lid centre and the total power, a stack's case from the lid and its own power,
in watts (R545). -/
def junctionBound (lid watts : Int) : Int := lid + 25 * watts
def caseBound (lid watts : Int) : Int := lid + 100 * watts

/-- The operating ranges of R542 in °C: the junction and a stack's case. -/
def junctionOk (c : Int) : Bool := decide (-40 ≤ c) && decide (c ≤ 125)
def caseOk (c : Int) : Bool := decide (-40 ≤ c) && decide (c ≤ 105)

/-! ### Ratings and package (R546 to R548) -/

/-- Absolute maximum ratings in mV by rail index; the minimum is −300 mV (R546). -/
def railMax : List Nat := [2100, 2100, 1250, 900, 900, 900, 900, 900, 1400]

/-- Whether rail voltages keep to R546. -/
def ratingsOk (mv : List Int) : Bool := (railMax.zip mv).all fun x => decide (-300 ≤ x.2) && decide (x.2 ≤ x.1)

/-- Lengths of R547 in µm: body, ball pitch, outer ball centres, edge distance, lid, seated height. -/
def bodySize : Nat := 85000
def ballPitch : Nat := 1000
def ballSpan : Nat := 81000
def ballEdge : Nat := 2000
def lidSize : Nat := 78000
def seatedHeight : Nat := 4600

/-- Forces on the lid in newtons: static and in shock (R548). -/
def lidStatic : Nat := 900
def lidShock : Nat := 1200

end Sys2Proof.Machine
end

