-- ==== Sys2Proof/Machine/Verify.lean ====
section
/-! DEFINITION. The procedure by which a third party verifies what Sundial delivered (R388): certificates, anchors, and the seals and
entries of one stream. No step reads it. -/

namespace Sys2Proof.Machine

/-- Bytes `i` to `j` of a string, as a little-endian number. -/
def fieldLE (b : List Byte) (i n : Nat) : Nat := ofLE (sliceB b i n)

/-- A LEDGER_CERT under the identity key (R383, R388). -/
def certOk (identity cert : List Byte) : Bool :=
  cert.length == 304 && cert.take 4 == [0x4B, 0x58, 0x4C, 0x4B] && fieldLE cert 4 2 == 1 &&
    verifySig identity (cert.take 208) (cert.drop 208)

/-- The public key of a key serial among certificates. -/
def certKey (certs : List (List Byte)) (serial : Nat) : Option (List Byte) :=
  (certs.find? fun c => fieldLE c 8 4 == serial).map fun c => sliceB c 48 97

/-- The anchors in order: each signed, and naming the one before it (R382, R388); `prev` is the anchor before the first. -/
def anchorsOk (certs : List (List Byte)) : Option (List Byte) → List (List Byte) → Bool
  | _, [] => true
  | prev, a :: rest =>
    let signed := match certKey certs (fieldLE a 36 4) with
      | some k => verifySig k (a.take 144) (a.drop 144)
      | none => false
    let named := match prev with
      | some p => sliceB a 96 48 == sha384 p
      | none => true
    a.length == 240 && signed && named && anchorsOk certs (some a) rest

/-- What the check of a stream's seals carries on: the key that must sign the next seal, the last seal, and the hash of its chain. -/
structure VerifyState where
  key  : Option Nat := none
  prev : List Byte := []
  h    : List Byte := []
  deriving DecidableEq, Repr

/-- The entries of a seal, from Index `n` on: the chain hash after them and the losses their gap entries stand for; `none` where one fails
its check. -/
def entriesFrom : Nat → List Byte → Nat → List (List Byte) → Option (List Byte × Nat)
  | _, h, lost, [] => some (h, lost)
  | n, h, lost, e :: rest =>
    if e.length = 64 ∧ fieldLE e 8 8 = n ∧ e.drop 62 = [0, 0] then
      entriesFrom (n + 1) (sha384 (h ++ e.take 63)) (lost + if fieldLE e 23 1 % 4 = 1 then fieldLE e 28 8 else 0) rest
    else none

/-- A start seal against the anchors known and the last seal before it. -/
def startOk (anchors : List (List Byte)) (v : VerifyState) (s : List Byte) : Bool :=
  let p := sliceB s 128 48
  let named := (anchors.any fun a => fieldLE a 16 8 == fieldLE s 176 8 && p == sha384 a) || (!v.prev.isEmpty && p == sha384 v.prev) ||
    (fieldLE s 176 16 == 0 && p == List.replicate 48 0)
  fieldLE s 16 8 == 0 && fieldLE s 56 8 == 0 && fieldLE s 48 8 == 0 && named &&
    sliceB s 80 48 == sha384 (p ++ sliceB s 8 8 ++ sliceB s 6 1 ++ sliceB s 76 4)

/-- A later seal against the one before it, with its entries. -/
def nextOk (v : VerifyState) (s : List Byte) (entries : List (List Byte)) : Bool :=
  fieldLE s 16 8 == fieldLE v.prev 16 8 + 1 && sliceB s 128 48 == sha384 v.prev &&
    fieldLE s 48 8 == fieldLE v.prev 48 8 + fieldLE v.prev 56 8 && entries.length == fieldLE s 56 8 &&
    match entriesFrom (fieldLE s 48 8) v.h 0 entries with
    | some (h, lost) => sliceB s 80 48 == h && fieldLE s 64 8 == lost
    | none => false

/-- One seal, with its entries: the state for the next, or `none` where a check fails. -/
def sealStep (certs anchors : List (List Byte)) (v : VerifyState) (s : List Byte) (entries : List (List Byte)) : Option VerifyState :=
  let serial := fieldLE s 72 4
  let signed := match certKey certs serial with
    | some k => verifySig k (s.take 192) (s.drop 192)
    | none => false
  let kind := fieldLE s 7 1
  let ok := s.length == 288 && s.take 4 == [0x4B, 0x58, 0x53, 0x4C] && fieldLE s 4 2 == 1 && (v.key.getD serial == serial) && signed &&
    (if kind = 1 then startOk anchors v s && entries.isEmpty else nextOk v s entries)
  if ok then some { key := some (if kind = 2 then fieldLE s 176 4 else serial), prev := s, h := sliceB s 80 48 } else none

/-- The seals of a stream in the order of {BootCounter, Run, SealIndex}, each with its entries. -/
def sealsOk (certs anchors : List (List Byte)) : VerifyState → List (List Byte × List (List Byte)) → Bool
  | _, [] => true
  | v, (s, es) :: rest => match sealStep certs anchors v s es with
    | some v => sealsOk certs anchors v rest
    | none => false

/-- The ledger of one stream passes every check (R388), given the identity key that its certificate chain proves. -/
def ledgerOk (identity : List Byte) (certs anchors : List (List Byte)) (seals : List (List Byte × List (List Byte))) : Bool :=
  certs.all (certOk identity) && anchorsOk certs none anchors && sealsOk certs anchors {} seals

/-- The full seconds of an entry: the SecondsHi of its seal above its Stamp's seconds, one turn less where those exceed the seal's
(R388). -/
def entrySeconds (sl e : List Byte) : Int :=
  let lo := fieldLE e 4 4
  ((fieldLE sl 40 2 * 2 ^ 32 + lo : Nat) : Int) - if fieldLE sl 36 4 < lo then 2 ^ 32 else 0

end Sys2Proof.Machine
end

