-- ==== Sys2Proof/WellFormed.lean ====
section
/-! DEFINITION. Which commands are well formed: every operand lies in the range that the place it stands for has (functions to 128, page
indices, instances, clusters and threads, banks, slices, ports, pseudo-channels, queues, channels, streams, and data of the register's
width). The meanings are total: they say what an operand outside its range does, so `step` does not ask for this. -/

namespace Sys2Proof

/-- Whether a command's operands lie in their ranges. -/
def Instr.wf (i : Instr) : Bool :=
  match i with
  | .registerWrite fn bar _ data _ => decide (fn < 129) && decide (bar < 6) && decide (data.length ≤ 4096)
  | .fenceRead fn page => decide (fn < 129) && decide (page < 16384)
  | .blockReset fn page => decide (fn < 129) && decide (page < 16384)
  | .quiesceReq fn page _ => decide (fn < 129) && decide (page < 16384)
  | .quiesced page => decide (page < 16384)
  | .irqStatusWrite fn page data => decide (fn < 129) && decide (page < 16384) && decide (data < 4294967296)
  | .irqEnableWrite fn page data => decide (fn < 129) && decide (page < 16384) && decide (data < 4294967296)
  | .irqForceWrite fn page data => decide (fn < 129) && decide (page < 16384) && decide (data < 4294967296)
  | .msixUnmask fn vector => decide (fn < 129) && decide (vector < 2048)
  | .errInjArm fn page det _ => decide (fn < 129) && decide (page < 16384) && decide (det < 32)
  | .ownerWrite fn page owner => decide (fn < 129) && decide (page < 16384) && decide (owner < 128)
  | .routeDataWrite fn data => decide (fn < 129) && decide (data < 4294967296)
  | .counterLowRead fn page k _ => decide (fn < 129) && decide (page < 16384) && decide (k < 16)
  | .counterValueWrite fn page k data => decide (fn < 129) && decide (page < 16384) && decide (k < 16) && decide (data < 18446744073709551616)
  | .commitGo fn => decide (fn < 129)
  | .commitArm fn => decide (fn < 129)
  | .commitCancel fn => decide (fn < 129)
  | .commitDiscard fn => decide (fn < 129)
  | .commitCtlMultiBit fn => decide (fn < 129)
  | .commitAct => true
  | .generationRetire => true
  | .ingressAccept port lane _ frame => decide (port < 138) && decide (lane < 256) && decide (14 ≤ frame.length)
  | .cellArrival _ => true
  | .frameEnd _ fcs => decide (fcs < 4294967296)
  | .ruuRequestEnter ruu => decide (ruu < 384)
  | .ruuService ruu => decide (ruu < 384)
  | .ruuServiceResume ruu _ => decide (ruu < 384)
  | .memoryRequest home target => decide (home < 384) && decide (target < 384)
  | .memoryRequestDone home target => decide (home < 384) && decide (target < 384)
  | .wayTimeout ruu => decide (ruu < 384)
  | .pinUpdate ruu => decide (ruu < 384)
  | .youngExpire ruu => decide (ruu < 384)
  | .rccModeWrite fn ruu mode => decide (fn < 129) && decide (ruu < 384) && decide (mode < 8)
  | .rccFlush fn ruu => decide (fn < 129) && decide (ruu < 384)
  | .rccFlushDone ruu => decide (ruu < 384)
  | .tplCmdWrite fn ruu => decide (fn < 129) && decide (ruu < 384)
  | .tplCmdRead fn ruu => decide (fn < 129) && decide (ruu < 384)
  | .tplCmdReadStaged fn ruu => decide (fn < 129) && decide (ruu < 384)
  | .mpfCmdWrite fn ruu => decide (fn < 129) && decide (ruu < 384)
  | .mpfCmdRead fn ruu => decide (fn < 129) && decide (ruu < 384)
  | .mpfCmdReadStaged fn ruu => decide (fn < 129) && decide (ruu < 384)
  | .poisonClear fn ruu => decide (fn < 129) && decide (ruu < 384)
  | .actionMerge _ => true
  | .nat64AnnexRead _ _ => true
  | .secondPass _ bank => decide (bank < 16)
  | .aclRepair bank => decide (bank < 16)
  | .aclScrub bank => decide (bank < 16)
  | .learnRequest => true
  | .l2AgerVisit _ => true
  | .rillArrival _ slice => decide (slice < 8)
  | .gapTimeout slice => decide (slice < 8)
  | .numberVoid => true
  | .copyEnqueue _ port => decide (port < 138)
  | .headEvaluation grp => decide (grp < 262144)
  | .wheelTick slice => decide (slice < 8)
  | .wheelReplace slice => decide (slice < 8)
  | .shaperIdleVisit grp => decide (grp < 262144)
  | .portSelect port lane => decide (port < 138) && decide (lane < 256)
  | .copyTxEnd port => decide (port < 138)
  | .pauseReceive port _ enables times => decide (port < 128) && decide (enables < 256) && decide (times.length = 8)
  | .pauseExpire port => decide (port < 138)
  | .portCtlWrite fn mac port data => decide (fn < 129) && decide (mac < 16) && decide (port < 8) && decide (data < 4294967296)
  | .linkDown port => decide (port < 138)
  | .linkUp port => decide (port < 138)
  | .downholdExpire port => decide (port < 138)
  | .duskFlushDone port => decide (port < 138)
  | .mcgCmdWrite fn => decide (fn < 129)
  | .mcgCmdRead fn => decide (fn < 129)
  | .admCmdWrite fn => decide (fn < 129)
  | .admCmdRead fn => decide (fn < 129)
  | .ftbInsert fn => decide (fn < 129)
  | .ftbReplace fn => decide (fn < 129)
  | .ftbLookup fn => decide (fn < 129)
  | .ftbDelete fn => decide (fn < 129)
  | .ftbReadloc fn => decide (fn < 129)
  | .ftbDeleteloc fn => decide (fn < 129)
  | .ftbReadannex fn _ => decide (fn < 129)
  | .ftbSetgeom fn => decide (fn < 129)
  | .ftbResize fn => decide (fn < 129)
  | .ftbRekey fn => decide (fn < 129)
  | .ftbCmdDone => true
  | .clearDone => true
  | .resizeclearDone => true
  | .migrationStep ruu => decide (ruu < 384)
  | .moveDone => true
  | .sweepStep ruu => decide (ruu < 384)
  | .stockRefill ruu => decide (ruu < 384)
  | .stockReturn ruu => decide (ruu < 384)
  | .rebirthExpire ruu => decide (ruu < 384)
  | .recordClockTick => true
  | .meterClockTick => true
  | .rclkRead fn => decide (fn < 129)
  | .exportStart fn => decide (fn < 129)
  | .exportStop fn => decide (fn < 129)
  | .exportRead ruu => decide (ruu < 384)
  | .fscEntryArrive _ => true
  | .fscDispatch => true
  | .entryExpire level => decide (level < 8)
  | .hostCmdSubmit => true
  | .microwordIssue cluster thread => decide (cluster < 16) && decide (thread < 256)
  | .recRead cluster thread => decide (cluster < 16) && decide (thread < 256)
  | .recOps cluster thread => decide (cluster < 16) && decide (thread < 256)
  | .recWrite cluster thread => decide (cluster < 16) && decide (thread < 256)
  | .recInsert cluster thread => decide (cluster < 16) && decide (thread < 256)
  | .recDelete cluster thread => decide (cluster < 16) && decide (thread < 256)
  | .routineLookup cluster thread => decide (cluster < 16) && decide (thread < 256)
  | .genRead cluster thread => decide (cluster < 16) && decide (thread < 256)
  | .genWrite cluster thread => decide (cluster < 16) && decide (thread < 256)
  | .eventPostReq cluster thread => decide (cluster < 16) && decide (thread < 256)
  | .forward cluster thread => decide (cluster < 16) && decide (thread < 256)
  | .drop cluster thread => decide (cluster < 16) && decide (thread < 256)
  | .reply cluster thread => decide (cluster < 16) && decide (thread < 256)
  | .fenceReq cluster thread => decide (cluster < 16) && decide (thread < 256)
  | .resultArrive _ => true
  | .seal cluster thread => decide (cluster < 16) && decide (thread < 256)
  | .sealAdmitted cluster thread => decide (cluster < 16) && decide (thread < 256)
  | .runlimitExpire cluster thread => decide (cluster < 16) && decide (thread < 256)
  | .kill fn cluster thread => decide (fn < 129) && decide (cluster < 16) && decide (thread < 256)
  | .ucsLoad fn _ _ => decide (fn < 129)
  | .ucsClone fn => decide (fn < 129)
  | .ucsEnrol fn _ _ => decide (fn < 129)
  | .loadDone _ => true
  | .swap fn cluster => decide (fn < 129) && decide (cluster < 16)
  | .swapDrainDone cluster => decide (cluster < 16)
  | .trialRollback cluster => decide (cluster < 16)
  | .trialExpire cluster => decide (cluster < 16)
  | .confirm fn cluster _ => decide (fn < 129) && decide (cluster < 16)
  | .ucsPoisonClr fn cluster => decide (fn < 129) && decide (cluster < 16)
  | .ucsRead fn cluster => decide (fn < 129) && decide (cluster < 16)
  | .ucsScrub cluster outcome => decide (cluster < 16) && decide (outcome < 3)
  | .routeAdd fn => decide (fn < 129)
  | .routeDelete fn => decide (fn < 129)
  | .routeRead fn => decide (fn < 129)
  | .nhWrite fn => decide (fn < 129)
  | .nhRead fn => decide (fn < 129)
  | .smacWrite fn k data => decide (fn < 129) && decide (k < 64) && decide (data < 18446744073709551616)
  | .l2Add fn => decide (fn < 129)
  | .l2Delete fn => decide (fn < 129)
  | .l2Read fn => decide (fn < 129)
  | .vlanWrite fn => decide (fn < 129)
  | .vlanRead fn => decide (fn < 129)
  | .grpWrite fn => decide (fn < 129)
  | .grpRead fn => decide (fn < 129)
  | .rebuild fn => decide (fn < 129)
  | .rebuildDone => true
  | .slotWrite fn => decide (fn < 129)
  | .slotRead fn => decide (fn < 129)
  | .natAddrWrite fn => decide (fn < 129)
  | .natAddrRead fn => decide (fn < 129)
  | .natPfxWrite fn => decide (fn < 129)
  | .natPfxRead fn => decide (fn < 129)
  | .natMapWrite fn => decide (fn < 129)
  | .natMapRead fn => decide (fn < 129)
  | .natMapWriteback => true
  | .shwStart fn => decide (fn < 129)
  | .shwStop fn => decide (fn < 129)
  | .shwDump fn => decide (fn < 129)
  | .shadowCheck entry _ => decide (entry.length = 64)
  | .aclEntWrite fn bank => decide (fn < 129) && decide (bank < 16)
  | .aclEntDelete fn bank => decide (fn < 129) && decide (bank < 16)
  | .aclEntRead fn bank _ => decide (fn < 129) && decide (bank < 16)
  | .aclEntDeferred bank => decide (bank < 16)
  | .egsQcmdStage fn slice => decide (fn < 129) && decide (slice < 8)
  | .egsQcmdLoad fn slice => decide (fn < 129) && decide (slice < 8)
  | .egsGrpStage fn slice => decide (fn < 129) && decide (slice < 8)
  | .egsGrpLoad fn slice => decide (fn < 129) && decide (slice < 8)
  | .egsGrpState fn slice => decide (fn < 129) && decide (slice < 8)
  | .mtrStage fn => decide (fn < 129)
  | .mtrLoad fn => decide (fn < 129)
  | .mtrStateLoad fn _ => decide (fn < 129)
  | .mtrRefill => true
  | .hbmCommandIssue pc => decide (pc < 384)
  | .hbmReadReturn pc outcome => decide (pc < 384) && decide (outcome < 3)
  | .hbmWriteAccept pc port addr mask data => decide (pc < 384) && decide (port < 7) && decide (addr < 402653184) && decide (mask < 18446744073709551616) && decide (data.length ≤ 64) && decide (addr % 64 = 0)
  | .commandRetry pc _ => decide (pc < 384)
  | .readReturnTimeout pc => decide (pc < 384)
  | .capWindowEnd stack => decide (stack < 6)
  | .refreshWindow pc _ => decide (pc < 384)
  | .hbmTempRead stack _ => decide (stack < 6)
  | .hbmScrub stack outcome => decide (stack < 6) && decide (outcome < 3)
  | .freqChange fn data => decide (fn < 129) && decide (data < 4294967296)
  | .freqHoldEnd => true
  | .mapCfgWrite fn inst data => decide (fn < 129) && decide (inst < 6) && decide (data < 4294967296)
  | .timeSet fn _ => decide (fn < 129)
  | .timeStep fn => decide (fn < 129)
  | .incrWrite fn _ data => decide (fn < 129) && decide (data < 18446744073709551616)
  | .timeRead fn => decide (fn < 129)
  | .ppsOutPulse => true
  | .ppsInEdge _ => true
  | .tenMhzMeasure => true
  | .calMeasurement lane _ _ => decide (lane < 128)
  | .streamEnable fn stream data => decide (fn < 129) && decide (stream < 16) && decide (data < 4294967296)
  | .streamDisable fn stream data => decide (fn < 129) && decide (stream < 16) && decide (data < 4294967296)
  | .ledgerChain stream => decide (stream < 16)
  | .epochClose stream => decide (stream < 16)
  | .sealSigned stream => decide (stream < 16)
  | .gapEntry stream => decide (stream < 16)
  | .stagingDeliver stream => decide (stream < 16)
  | .anchorPeriodic => true
  | .anchorNow fn => decide (fn < 129)
  | .rotationGo fn => decide (fn < 129)
  | .rotationKeyReady => true
  | .rotationDone => true
  | .pcieLinkReset => true
  | .pcieLinkUp _ _ => true
  | .vfEnableSet n => decide (n < 128)
  | .vfEnableClear => true
  | .vfChangeDone => true
  | .powerStateChange fn _ => decide (fn < 129)
  | .flr fn => decide (fn < 129)
  | .flrDone fn => decide (fn < 129)
  | .toPfDoorbell fn window data => decide (fn < 129) && decide (window < 8192) && decide (data < 4294967296)
  | .fromPfDoorbell fn window data => decide (fn < 129) && decide (window < 8192) && decide (data < 4294967296)
  | .mbxPendWrite fn j data => decide (fn < 129) && decide (j < 4) && decide (data < 4294967296)
  | .getVersion => true
  | .getCapabilities _ _ _ _ => true
  | .negotiateAlgorithms _ _ => true
  | .getDigests => true
  | .getCertificate _ _ _ => true
  | .challenge _ _ nonce => decide (nonce.length = 32)
  | .getMeasurements _ _ nonce _ => decide (nonce.length = 32)
  | .spdmUnsupported _ => true
  | .doeAbort => true
  | .bindWrite fn chan data => decide (fn < 129) && decide (chan < 256) && decide (data < 4294967296)
  | .stgCfgWrite fn data => decide (fn < 129) && decide (data < 4294967296)
  | .dmaDoorbell fn window chan add => decide (fn < 129) && decide (window < 8192) && decide (chan < 256) && decide (add < 4294967296)
  | .dmaRunSet fn chan => decide (fn < 129) && decide (chan < 256)
  | .dmaRunClear fn chan => decide (fn < 129) && decide (chan < 256)
  | .dmaStopped chan => decide (chan < 256)
  | .dmaResume fn chan _ => decide (fn < 129) && decide (chan < 256)
  | .dmaHeadWrite fn chan addr => decide (fn < 129) && decide (chan < 256) && decide (addr < 18446744073709551616)
  | .descriptorFetch chan => decide (chan < 256)
  | .burstStart chan => decide (chan < 256)
  | .flushusExpire chan => decide (chan < 256)
  | .burstEnd chan => decide (chan < 256)
  | .pcieCompletion chan _ status _ _ => decide (chan < 256) && decide (status < 8)
  | .completionTimeout chan _ => decide (chan < 256)
  | .descriptorComplete chan => decide (chan < 256)
  | .flushReadDone chan => decide (chan < 256)
  | .txFrameEnter port => decide (port < 130)
  | .submitRetry chan => decide (chan < 256)
  | .cisternAllocate _ _ => true
  | .cisternFree _ handle => decide (handle < 16777216)
  | .cisternAddref _ handle => decide (handle < 16777216)
  | .cisternHandoff _ handle _ _ => decide (handle < 16777216)
  | .freeCmd fn handle => decide (fn < 129) && decide (handle < 16777216)
  | .reclaim fn owner => decide (fn < 129) && decide (owner < 256)
  | .deliverSend core f handle _ => decide (core < 4) && decide (f < 128) && decide (handle < 16777216)
  | .eventPost page typ queue items => decide (page < 16384) && decide (typ < 256) && decide (queue < 512) && decide (items < 256)
  | .postComplete queue seq _ => decide (queue < 512) && decide (seq < 65536)
  | .staleVoid queue => decide (queue < 512)
  | .notifyTimeout queue => decide (queue < 512)
  | .item0Read fn queue len => decide (fn < 129) && decide (queue < 512) && decide (len < 65)
  | .evqDoorbell fn window queue seq => decide (fn < 129) && decide (window < 8192) && decide (queue < 512) && decide (seq < 4294967296)
  | .nextRead fn queue => decide (fn < 129) && decide (queue < 512)
  | .dropRemainder fn queue => decide (fn < 129) && decide (queue < 512)
  | .qmemWrite fn queue data => decide (fn < 129) && decide (queue < 512) && decide (data < 4294967296)
  | .queueEnableWrite fn queue data => decide (fn < 129) && decide (queue < 512) && decide (data < 4294967296)
  | .evqScrub queue _ word outcome => decide (queue < 512) && decide (word < 512) && decide (outcome < 3)
  | .grantWrite fn => decide (fn < 129)
  | .grantRead fn => decide (fn < 129)
  | .snapGo fn => decide (fn < 129)
  | .snapArm fn => decide (fn < 129)
  | .snapCancel fn => decide (fn < 129)
  | .snapAct => true
  | .snapPeriodCheck => true
  | .gatherDone _ => true
  | .snapDeliver => true
  | .bwWindowEnd => true
  | .bwCfgWrite fn data => decide (fn < 129) && decide (data < 4294967296)
  | .bwRxBytesRead fn len => decide (fn < 129) && decide (len < 9)
  | .ipxMessageClose => true
  | .ipxFlushExpire => true
  | .ipxSendTemplates fn => decide (fn < 129)
  | .ipxEnableWrite fn data => decide (fn < 129) && decide (data < 4294967296)
  | .detectorReport page det _ _ _ _ => decide (page < 16384) && decide (det < 32)
  | .critRecordWrite => true
  | .dprGo fn data _ => decide (fn < 129) && decide (data < 4294967296)
  | .dprSelfRefresh => true
  | .dprDone => true
  | .dprHoldRelease fn => decide (fn < 129)
  | .thermalRelease => true
  | .thermtrip => true
  | .dieSensorRead _ _ => true
  | .vmonSample _ => true
  | .perst _ => true
  | .resetRelease _ => true
  | .dawnStageEnd _ _ _ _ _ _ _ => true
  | .flashRead fn => decide (fn < 129)
  | .flashProgram fn => decide (fn < 129)
  | .flashErase fn => decide (fn < 129)
  | .flashDone _ => true
  | .floorRaise fn => decide (fn < 129)
  | .storeGo fn slot _ _ => decide (fn < 129) && decide (slot < 8)
  | .storeDone _ => true
  | .pcfgCommit fn => decide (fn < 129)
  | .pcfgReload fn => decide (fn < 129)
  | .dbgSubmit fn => decide (fn < 129)
  | .monHelp => true
  | .monVer => true
  | .monId => true
  | .monDawn => true
  | .monTemp => true
  | .monPort => true
  | .monLog => true
  | .monCert => true
  | .monMram => true
  | .monLogin => true
  | .monLogout => true
  | .monUnlock => true
  | .monRd => true
  | .monWr _ => true
  | .monFence => true
  | .monBaud => true
  | .monFloor => true
  | .monResetDp => true
  | .monResetChip => true
  | .monCoreHalt => true
  | .monCoreResume => true
  | .monCoreRd => true
  | .monHbmRead => true
  | .monIdleTimeout => true
  | .registerRead fn bar _ len => decide (fn < 129) && decide (bar < 6) && decide (len < 4097)
  | .blockResetEnd page => decide (page < 16384)
  | .portReconfiguration _ mac _ => decide (mac < 16)
  | .routeExpansionDone => true
  | .admRecountDone => true
  | .fscLevelRecountDone => true
  | .poolRebuildDone pool => decide (pool < 4)
  | .cpmCommandDone => true
  | .pcfgCommitDone _ => true
  | .trngTestsPass => true
  | .ppsOutFall => true
  | .doeDiscovery _ => true
  | .busMasterEnableWrite fn _ _ _ _ _ => decide (fn < 129)
  | .monUnknownCommand => true
  | .monInputCharacter ch => decide (ch < 256)

/-- A well-formed command. -/
abbrev Instr.WellFormed (i : Instr) : Prop := i.wf = true

end Sys2Proof
end

