-- ==== Sys2Proof/Tests/Slice0.lean ====
section
/-! SUPPORT. Tests: well-formedness refuses an ill-formed command for each of its checks; values that the manual or a published standard
gives; and, for every obligation with hypotheses, states and operands that meet them. -/

namespace Sys2Proof.Machine.Tests
open Sys2Proof Sys2Proof.Machine

set_option Elab.async false

/-! ### Well-formedness -/

/-- One ill-formed command for each check. -/
theorem test_wf_refuses : ([
   .registerWrite 129 0 0 [] none, .registerWrite 0 6 0 [] none, .registerWrite 0 0 0 (List.replicate 4097 0) none,
   .fenceRead 0 16384, .irqStatusWrite 0 0 4294967296, .msixUnmask 0 2048, .errInjArm 0 0 32 false, .ownerWrite 0 0 128,
   .counterLowRead 0 0 16 false, .counterValueWrite 0 0 0 18446744073709551616, .ingressAccept 138 0 0 (List.replicate 14 0),
   .ingressAccept 0 256 0 (List.replicate 14 0), .ingressAccept 0 0 0 (List.replicate 13 0), .frameEnd 0 4294967296, .ruuRequestEnter 384,
   .memoryRequest 384 0, .memoryRequest 0 384, .rccModeWrite 0 0 8, .secondPass 0 16, .rillArrival 0 8, .headEvaluation 262144,
   .pauseReceive 128 false 0 (List.replicate 8 0), .pauseReceive 0 false 256 (List.replicate 8 0),
   .pauseReceive 0 false 0 (List.replicate 9 0), .portCtlWrite 0 16 0 0, .portCtlWrite 0 0 8 0, .entryExpire 8, .microwordIssue 16 0,
   .microwordIssue 0 256, .ucsScrub 0 3, .smacWrite 0 64 0, .shadowCheck (List.replicate 65 0) false, .hbmCommandIssue 384,
   .hbmWriteAccept 0 7 0 0 []] ++ [
   .hbmWriteAccept 0 0 402653184 0 [], .hbmWriteAccept 0 0 0 18446744073709551616 [], .hbmWriteAccept 0 0 0 0 (List.replicate 65 0),
   .hbmWriteAccept 0 0 8 0 [], .capWindowEnd 6, .mapCfgWrite 0 6 0, .calMeasurement 128 false 0, .streamEnable 0 16 0,
   .vfEnableSet 128, .toPfDoorbell 0 8192 0, .mbxPendWrite 0 4 0, .challenge 0 0 (List.replicate 33 0), .bindWrite 0 256 0,
   .dmaDoorbell 0 0 0 4294967296, .dmaHeadWrite 0 0 18446744073709551616, .pcieCompletion 0 0 8 false [], .txFrameEnter 130,
   .cisternFree 0 16777216, .reclaim 0 256, .deliverSend 4 0 0 [], .deliverSend 0 128 0 [], .eventPost 0 256 0 0,
   .eventPost 0 0 512 0, .eventPost 0 0 0 256, .postComplete 0 65536 [], .item0Read 0 0 65, .evqDoorbell 0 0 0 4294967296,
   .evqScrub 0 0 512 0, .bwRxBytesRead 0 9, .storeGo 0 8 [] false, .registerRead 0 0 0 4097, .poolRebuildDone 4,
   .monInputCharacter 256] : List Instr).all (fun i => !i.wf) = true := by decide +kernel

/-- The same operands within their ranges. -/
theorem test_wf_accepts : ([.registerWrite 128 0 67108860 (List.replicate 64 0) none, .fenceRead 127 16383, .ingressAccept 137 255 0
    (List.replicate 14 0), .hbmWriteAccept 383 6 402653120 0 [], .microwordIssue 15 255, .monInputCharacter 255] : List Instr).all
      (·.wf) = true := by decide +kernel

/-! ### States for the tests -/

/-- A device with every block released and PF0 reachable: Memory Space and Bus Master Enable set. -/
def b0 : Dev :=
  { Dev.reset with fab := { Dev.reset.fab with released := blkTable.map (·.blk), fns := [(0, { mse := true, bme := true })] } }

/-- A state of a device, no command waiting. -/
def st (d : Dev) (h : Mem := []) : State := ⟨[], ⟨h, d⟩⟩

/-- The device with an active value of a staged field. -/
def on (d : Dev) (f : Fld) (v : Nat) (i j : Nat := 0) : Dev := { d with act := Tab.put (f.reset j) d.act (f.key i j) v }

/-- The request inputs of a template on an image. -/
def op (img : Nat) : OpState :=
  { img := img, action := 0, prio := 0, inserted := false, hasPkt := true, len := 64, stamp := 0, tcpFlags := 0, dei := false, rclk := 0,
    mclk := 0, lastSeen := 0, tables := {} }

/-- A learned entry for MAC address 0 in VLAN 0, in the first slot that the hash gives. -/
def l2Dev : Dev :=
  { b0 with
    l2 := { reqs := [7], ents := [(4 * (Config.l2Hash 0 0 0 0 % 262144) + 0, ⟨0, 0, 0, false, false, true, true, 0⟩)] },
    pkts := [(7, {})] }

theorem l2Found : l2Dev.l2Find (macNum ({} : Pkt).parsed.smac) ({} : Pkt).vlan =
    some (4 * (Config.l2Hash 0 0 0 0 % 262144) + 0, ⟨0, 0, 0, false, false, true, true, 0⟩) := by
  have h : macNum ({} : Pkt).parsed.smac = 0 ∧ ({} : Pkt).vlan = 0 := by decide
  rw [h.1, h.2]
  unfold Dev.l2Find
  rw [show l2Dev.l2Slots 0 0 = (4 * (Config.l2Hash 0 0 0 0 % 262144) + 0) :: (l2Dev.l2Slots 0 0).tail from rfl]
  simp [l2Dev, Tab.find]

/-- The home RUU of the key of twelve zero words. -/
def kh : Nat := homeRuu (cmacWhole b0.ftb.digestKey 3 (sliceB b0.cmdKey 0 48))

/-- Queue 15 of port 127 is paused until cycle 9, and no other. -/
def pauseDev : Dev := { b0 with eg := { b0.eg with queues := [(127 * 16 + 15, { pauseTo := some 9 })] } }

theorem pauseLeast : ∀ r v, r < 16 → (pauseDev.eq 127 r).pauseTo = some v → 9 ≤ v := by
  intro r v hr h
  have : ∀ r : Fin 16, (pauseDev.eq 127 r).pauseTo = none ∨ (pauseDev.eq 127 r).pauseTo = some 9 := by decide
  rcases this ⟨r, hr⟩ with h' | h' <;> simp_all

/-- Channel 255 runs on an endpoint, with the state given. -/
def dch (ep : Nat) (x : DmaChan) : Dev :=
  let d : Dev := { b0 with dma := { b0.dma with chans := [(255, x)] } }
  let d := ((d.set (HDR.CTL.Enable .dma) 1).set (HDR.CTL.Enable .dch) 1 255).set DMA.BIND.Endpoint ep 0 255
  (d.set DCH.STAT.State 1 255).set DCH.BURST.Bytes 64 255

/-- A read outstanding, and a descriptor. -/
def rdOf (w : DmaWhy) : DmaRead := ⟨w, 64, 64, 32, 0, false⟩
def dscOf (flush whole sent : Bool) : DmaDesc :=
  { id := 0, addr := 0, host := 0, len := 64, flush := flush, notify := false, sop := true, eop := true, aux := 0, whole := whole,
    flushSent := sent }

/-- A Data descriptor as the host posts it (R419): host address 64, length 48. -/
def tData : List Byte := toLE 8 64 ++ toLE 8 0 ++ toLE 4 48 ++ toLE 4 0 ++ toLE 8 0

/-- Thread 255 of cluster 15 runs a packet's routine at address 5, with these first bytes in its scratch memory. -/
def th (pre : List Byte) : Thread :=
  { run := 3, work := .pkt 4, level := 0, bank := 0, pc := 5, scratch := pre ++ List.replicate (512 - pre.length) 0 }

/-- The device with that thread, its next word, and its packet. -/
def thDev (w : Nat) (x : Thread) : Dev :=
  { b0 with threads := [(15 * 256 + 255, x)], ucs := [(15, { a := { words := [(5, w)] } })], pkts := [(4, {})] }

/-- A host command whose message is in buffer 0. -/
def cmdBuf : CistBuf := { held := true, gen := 1, refs := 1, owner := 7, holder := 132, data := [9, 0, 5, 0] }

/-- A routine in cluster 15 for opcode 9 that every function may run. -/
def cmdDev : Dev :=
  { b0 with cpm := { b0.cpm with bufs := [(0, cmdBuf)] }, ucs := [(15, { a := { disp := [(9, 2 ^ 15 + 2 ^ 16)] } })],
            fsc := { b0.fsc with inbox := [2 ^ 18] } }

/-- The thread of a host command's routine. -/
def cmdTh : Thread := { th [] with work := .cmd ⟨0, 0, 0, 0, 0, 0, [], false⟩ }

/-- The thread with a seal in progress. -/
def sealTh (j : Journal) (sent : Bool) : Thread := { th [] with sealing := some ⟨if sent then [] else [(0, j)], false, sent⟩ }

/-- Stack 5 serves requests; its last pseudo-channel has this state. -/
def hb (p : HbmPc) : Dev := { b0 with hbc := { b0.hbc with pcs := [(383, p)] } } |>.set (HDR.CTL.Enable .hbc) 1 5

/-- A read request of client port 0 for burst 5, its column command issued or not. -/
def hreq (col : Bool) : HbmReq := { port := 0, write := false, t := 5, col := col }

/-- Stream 15 in this state, and device time at one second. -/
def sdlDev (x : Stream) : Dev :=
  { b0 with sdl := { b0.sdl with streams := [(15, x)] }, dt := secUnits }

/-- An entry of stream 15, and a gap. -/
def lent (late : Bool) : LedEnt := ⟨5, 127, late, List.replicate 64 0, 0⟩
def lgap : LedGap := ⟨1, 5, 5, false, true, 0, 0⟩

/-- A seal that waits to be signed with the key of serial 3. -/
def sealReq : SealReq := ⟨1, 0, 0, 0, 0, 0, 0, 0, 0, 3, 0, [], [], 0⟩

/-- The host's links are up. -/
def bu : Dev := { b0 with boot := { b0.boot with hostUp := true } }

/-- An SPDM exchange past ALGORITHMS, with an attestation key. -/
def sp : Dev := { bu with doe := { phase := 3 }, mram := { bu.mram with attest := some 7 } }

theorem slot0_pos (d : Dev) : 0 < d.slot0.length := by simp [Dev.slot0] <;> omega

/-- The monitor runs at a level, and the line `l` has ended. -/
def mn (level : Nat) (l : List Byte) : Dev :=
  ({ b0 with mon := { b0.mon with ready := some l } }.set BOOT.STAT.Stage 8).set MON.STAT.Level level

theorem takes {d : Dev} {cmd : MonCmd} (l : List Byte) (h1 : d.monRuns = true) (h2 : d.mon.ask = 0) (h3 : d.mon.dp = none)
    (h4 : d.mon.ready = some l) (h5 : parseLine l = .ok cmd) (h6 : cmd.level ≤ d.get MON.STAT.Level)
    (h7 : d.flag MON.CTL.HostLock = false) : d.monTakes cmd :=
  ⟨h1, h2, h3, ⟨l, h4, h5⟩, h6, fun _ => h7⟩

theorem spells {l : List Byte} {c : MonCmd} (h : (match parseLine l with
    | .ok x => decide (x = c)
    | _ => false) = true) : parseLine l = .ok c := by
  split at h <;> simp_all

theorem opened {d : Dev} {fn a : Nat} {b : Blk} {i off : Nat} (h : locate a = some (b, i, off) ∧ 0x200 ≤ off ∧ known b off = true ∧
    d.live b i = true ∧ d.reachable fn = true ∧ a % 4 = 0 ∧ a + 4 ≤ 2 ^ 26) : d.wordOpen fn a b i off := h

theorem plain {d : Dev} {b : Blk} {i off v : Nat} {host : Option (List Byte)} (h : (flowRow d b i off v host).isNone ∧
    (systemRow d b i off v host).isNone ∧ (d.writeRefused b i off v).isNone ∧ ¬(b = .lpm ∧ 0x300 ≤ off ∧ off < 0x500)) :
    d.plainWord b i off v host := h

/-- Four VFs are in force, VF 3 with Memory Space Enable; one with neither. -/
def vf3 : Dev := { b0 with fab := { b0.fab with numVfs := 4, vfEnable := true, vfMse := true, fns := [(3, { mse := true })] } }

/-- A record whose PassHash is that of the password `pw` with a salt of zeros. -/
def pwRec : List Byte := List.replicate 32 0 ++ sha384 (List.replicate 16 0 ++ str "pw") ++ List.replicate 176 0

/-- The monitor at level 1 or 2 asks for something (1 and 2 a password, 3 a confirmation), and the line `l` has ended. -/
def asks (k : Nat) (l : List Byte) (r : List Byte) : Dev :=
  let d := mn 1 l
  { d with mon := { d.mon with ask := k }, boot := { d.boot with pcfg := r } }

/-- PF0 has its DOE interrupt enabled, on an MSI-X vector that is not masked. -/
def doeDev : Dev :=
  { bu with doe := { intOn := true }, fab := { bu.fab with msix := [(0 * 2048 + Config.doeVector.toNat, { mask := false })] } }

theorem doeDev_vec : doeDev.vec 0 Config.doeVector.toNat = { mask := false } := by simp [Dev.vec, doeDev, Tab.get]

/-! ### Values that the manual gives -/

/-- R32: IRQ_STATUS of RUU300 is at 0x0052_C010, page index 1,324. -/
theorem test_page_index : locate 0x0052C010 = some (.ruu, 300, 0x10) ∧ Blk.ruu.page 300 = 1324 := by decide +kernel

/-- The words of the worked templates 10, 11, 30 and 31 and the headers of 20, 21 and 22 are accepted. -/
theorem test_worked_templates :
    [0x502D1, 0x502C3, 0x1007D3, 0x610000000005, 0x601060000020, 0x602C3, 0x702C3].all (tplWordValid 0) = true ∧
    [1, 0x50008, 0x20623, 0x70403, 7, 0x1A9, 0x105A4, 0x1629].all (tplWordValid 1) = true := by decide +kernel

/-- Meter profile 7 of the worked per-flow meter. -/
def wMeter : TplTable := { profiles := [(7, 8192 + 16384 * 2 ^ 32 + 3000 * 2 ^ 64 + 6000 * 2 ^ 88)] }

/-- A record of that meter with these tokens at meter time 1,000, and a packet of 1,000 bytes 2,048 ticks later. -/
def wState (c p : Nat) : OpState :=
  { op (7 * 2 ^ 352 + 1000 * 2 ^ 368 + c * 2 ^ 400 + p * 2 ^ 424) with len := 1000, mclk := 3048, tables := wMeter }

/-- The bucket trace of the worked example, packet by packet: tokens after one packet; the next one's colour and its tokens after. -/
theorem test_bucket_trace : ([(2000, 5000, 0, 1256, 4512), (1256, 4512, 0, 512, 4024), (512, 4024, 1, 768, 3536), (768, 3536, 0, 24, 3048), (24, 3048, 1, 280, 2560), (280, 2560, 1, 536, 2072), (536, 2072, 1, 792, 1584), (792, 1584, 0, 48, 1096), (48, 1096, 1, 304, 608), (304, 608, 1, 560, 120), (560, 120, 2, 816, 632), (816, 632, 0, 72, 144), (72, 144, 2, 328, 656)] : List (Nat × Nat × Nat × Nat × Nat)).all (fun (c, p, col, c', p') =>
      let s := opMeter (wState c p)
      s.colour == col && recTokensC s.img == c' && recTokensP s.img == p') = true := by decide +kernel

/-- Packet 12 of that example: red for the first time, the punt with priority 5 overrides the drop; packet 14: the drop stands. -/
theorem test_first_red : ([0x1A9, 0x105A4, 0x1629].foldl (runOp false) { op 0 with colour := 2 }).action = 2 ∧
    ([0x1A9, 0x105A4, 0x1629].foldl (runOp false) { op 0 with colour := 2 }).prio = 5 ∧
    ([0x1A9, 0x105A4, 0x1629].foldl (runOp false) { op (2 ^ 180) with colour := 2 }).action = 1 := by decide +kernel

/-- The microword at 0x7003 of the worked host-command routine: Next 0x7010 where Z holds, otherwise Alt 0x7004; TEST of GP2. -/
theorem test_microword : let w := 0x02040B0278027010 + 2 ^ 128
    (b0.nextPc 0 { th [] with pc := 0x7003, z := true } w 0 = .ok (0x7010, [])) ∧
    (b0.nextPc 0 { th [] with pc := 0x7003 } w 0 = .ok (0x7004, [])) ∧
    (({ th [] with gp := [0, 0, 6] ++ List.replicate 13 0 }).units w 0).1.z = true := ⟨rfl, rfl, by decide +kernel⟩

/-- The settings of the worked bounds of chapter 12: the lanes of six ports, the tested Targets and caps, RunLimit 160, Expire 150 at
level 3, GapTimeout 625. -/
def latDev : Dev :=
  let d : Dev := { b0 with
    eg := { b0.eg with width := [(0, (1, 200)), (8, (2, 200)), (16, (4, 100)), (44, (2, 200)), (64, (1, 100)), (96, (2, 50))] } }
  let d := (List.range 6).foldl (fun d k =>
    ([4, 4, 6, 1, 1].zipIdx 1).foldl (fun d x => d.set HBC.PORT_CFG.Cap x.1 k x.2) (d.set HBC.PORT_CFG.Target 12 k)) d
  (((on d PRS.PORT_CFG.FcsGate 1).set FSC.LVL_TIME.Expire 150 0 3).set FEN.CFG.RunLimit 160).set RSQ.CFG.GapTimeout 625

/-- The cut-through trading port: 237.76 ns where no slot is read from HBM, 987.76 ns with a read, 30.76 ns more behind frames of 1,518
bytes; no bound above 10^9 class A requests a second. -/
theorem test_latency_cut_through : latDev.latencyBound
      { inPort := 44, outPort := 8, len := 128, cut := true, pass := { req := some (0, .poison ⟨0, 0, 0, 0⟩) } } = some 237760 ∧
    latDev.latencyBound { inPort := 44, outPort := 8, len := 128, cut := true } = some 987760 ∧ latDev.portWait 8 1518 = 30760 ∧
    latDev.latencyBound { inPort := 44, outPort := 8, len := 128, cut := true, traffic := { classA := 1001 } } = none :=
  ⟨by decide +kernel, by decide +kernel, by decide +kernel, by decide +kernel⟩

/-- The worst-case stateful store-and-forward: 1,744.64 ns. -/
theorem test_latency_store_forward : latDev.latencyBound
    { inPort := 0, outPort := 64, len := 64, pass := { learns := true, domain := true, onePort := true, longest := some 9216 } } =
      some 1744640 := by decide +kernel

/-- The slow-path first packet: 9,708.52 ns; R348 holds at the GapTimeout of 625. -/
theorem test_latency_slow_path : latDev.latencyBound
      { inPort := 16, outPort := 96, len := 74, pass := { slow := some (3, 0), longest := some 1518 } } = some 9708520 ∧
    latDev.slowInOrder 3 0 0 none none = true := ⟨by decide +kernel, by decide +kernel⟩

/-- The budget of the trading system of chapter 20: 607.2 W; a lid at 70 °C and 640 W: a junction of at most 86 °C, a stack's case of at
most 73 °C with 30 W in the stack. -/
theorem test_power_budget : powerMax .typical (List.replicate 64 .off ++ List.replicate 64 .r212) 0 = 607200 ∧
    junctionBound 70000 640 = 86000 ∧ caseBound 70000 30 = 73000 := by decide +kernel

/-- The balls of R533 fill the array, and no rail exceeds 0.6 A a ball (R534). -/
theorem test_balls : ballsCovered = true ∧ supplyRails.all Rail.ballOk = true := by decide +kernel

/-! ### Values that published standards give -/

/-- RFC 4493, example 2. -/
theorem test_cmac : cmacWhole 0x2b7e151628aed2a6abf7158809cf4f3c 1 (toBE 16 0x6bc1bee22e409f96e93d7e117393172a) =
    0x070a16b46b4d4144f79bdd9dd04a287c := by decide +kernel

/-- FIPS 180-4, SHA-384 of "abc". -/
theorem test_sha384 : ofBE (sha384 [97, 98, 99]) = 0xcb00753f45a35e8bb5a03d699ac65007272c32ab0eded1631a8b605a43ff5bed8086072ba1e7cc2358baeca134c825a7 := by decide +kernel

/-- The check value of CRC-32. -/
theorem test_crc32 : crc32 [49, 50, 51, 52, 53, 54, 55, 56, 57] = 0xCBF43926 := by decide +kernel

/-! ### What the obligations' hypotheses ask is met -/

/-- What the hypotheses of StepRunsFront ask is met. -/
theorem witness_StepRunsFront :
    ∃ (s : State), s.pending = [] := by
  exact ⟨st b0, by decide +kernel⟩

/-- What the hypotheses of StepKeepsForm ask is met. -/
theorem witness_StepKeepsForm :
    ∃ (s t : State), step s = .next t ∧ s.wf = true := by
  exact ⟨st b0, _, rfl, by decide +kernel⟩

/-- What the hypotheses of ResetState ask is met. -/
theorem witness_ResetState :
    (∃ (f : Fld) (i j : Nat), (f.key i j < 0x7000 * 8 ∨ 0x8000 * 8 ≤ f.key i j)) ∧
    (∃ (k : Nat) (w : Nat × Nat), vmonWindows[k]? = some w) ∧
    (∃ (k : Nat), k < 6) ∧
    (∃ f, f ≠ 128) := by
  exact ⟨⟨HDR.CTL.Enable .glb, 0, 0, by decide +kernel⟩,
   ⟨8, _, rfl⟩,
   ⟨5, by decide +kernel⟩,
   ⟨0, by decide +kernel⟩⟩

/-- What the hypotheses of TurnedAway ask is met. -/
theorem witness_TurnedAway :
    (∃ (s : State) (d : Dev) (c : Instr) (fn i off : Nat) (b : Blk), s.chip.dev = d ∧ gateOf c = some (fn, b, i, off) ∧ d.reachable fn =
      false) ∧
    (∃ (s : State) (d : Dev) (c : Instr) (fn i off : Nat) (b : Blk), s.chip.dev = d ∧ gateOf c = some (fn, b, i, off) ∧ d.reachable fn =
      true ∧ d.live b i = false) ∧
    (∃ (s : State) (d : Dev) (c : Instr) (fn i off : Nat) (b : Blk), s.chip.dev = d ∧ gateOf c = some (fn, b, i, off) ∧ d.reachable fn =
      true ∧ d.live b i = true ∧ isPf fn = false) := by
  exact ⟨⟨st b0, _, .nhWrite 5, _, _, _, _, rfl, rfl, by decide +kernel⟩,
   ⟨st { b0 with fab := { b0.fab with released := [] } }, _, .nhWrite 0, _, _, _, _, rfl, rfl, by decide +kernel⟩,
   ⟨st { b0 with fab := { b0.fab with numVfs := 4, vfEnable := true, vfMse := true, fns := [(3, { mse := true })] } }, _, .tplCmdWrite 3
    383, _, _, _, _, rfl, rfl, by decide +kernel⟩⟩

/-- What the hypotheses of TableFrames ask is met. -/
theorem witness_TableFrames :
    ∃ (s : State) (c : Instr), tableFrame s.chip.dev s.chip.dev c ≠ none := by
  exact ⟨st b0, .nhWrite 0, by decide +kernel⟩

/-- What the hypotheses of SystemFrames ask is met. -/
theorem witness_SystemFrames :
    (∃ (s : State) (c : Instr), systemFrame s.chip.dev s.chip.dev c ≠ none) ∧
    (∃ (s : State) (c : Instr), memoryFrame s.chip.dev s.chip.dev c ≠ none) := by
  exact ⟨⟨st b0, .monHelp, by decide +kernel⟩,
   ⟨st b0, .clearDone, by decide +kernel⟩⟩

/-- What the hypotheses of OperationArithmetic ask is met. -/
theorem witness_OperationArithmetic :
    (∃ (off : Bool) (s t : OpState) (w lo : Nat) (imm : Int), runOp off s w = t ∧ (if bit w 9 = true then 480 else 448) = lo ∧ sint 32
      (bits w 16 32) = imm ∧ condHolds s (bits w 5 3) = true ∧ w % 32 = 2 ∧ bit w 8 = false) ∧
    (∃ (off : Bool) (s t : OpState) (w lo : Nat) (imm : Int), runOp off s w = t ∧ (if bit w 9 = true then 480 else 448) = lo ∧ sint 32
      (bits w 16 32) = imm ∧ condHolds s (bits w 5 3) = true ∧ w % 32 = 2 ∧ bit w 8 = true) ∧
    (∃ (off : Bool) (s t : OpState) (w lo : Nat) (imm : Int) (k : Nat), runOp off s w = t ∧ (if bit w 9 = true then 480 else 448) = lo ∧
      sint 32 (bits w 16 32) = imm ∧ condHolds s (bits w 5 3) = true ∧ w % 32 = 2 ∧ (k < lo ∨ lo + 32 ≤ k)) ∧
    (∃ (off : Bool) (s t : OpState) (w lo : Nat) (imm : Int), runOp off s w = t ∧ (if bit w 9 = true then 480 else 448) = lo ∧ sint 32
      (bits w 16 32) = imm ∧ condHolds s (bits w 5 3) = true ∧ w % 32 = 2) ∧
    (∃ (off : Bool) (s t : OpState) (w lo n : Nat), runOp off s w = t ∧ laneField (bits w 8 3) = (lo, n) ∧ condHolds s (bits w 5 3) =
      true ∧ w % 32 = 5 ∧ bits w 8 3 < 7 ∧ (∀ k, k < n → bit w (16 + k) = true → bit s.img (lo + k) = bit w (32 + k))) ∧
    (∃ (off : Bool) (s t : OpState) (w lo n k : Nat), runOp off s w = t ∧ laneField (bits w 8 3) = (lo, n) ∧ condHolds s (bits w 5 3) =
      true ∧ w % 32 = 5 ∧ bits w 8 3 < 7 ∧ (∀ k, k < n → bit w (16 + k) = true → bit s.img (lo + k) = bit w (32 + k)) ∧ k < n) ∧
    (∃ (off : Bool) (s t : OpState) (w lo n : Nat), runOp off s w = t ∧ laneField (bits w 8 3) = (lo, n) ∧ (∃ k, k < n ∧ bit w (16 + k)
      = true ∧ bit s.img (lo + k) ≠ bit w (32 + k)) ∧ condHolds s (bits w 5 3) = true ∧ w % 32 = 5 ∧ bits w 8 3 < 7) ∧
    (∃ (off : Bool) (s t : OpState) (w lo n k : Nat), runOp off s w = t ∧ laneField (bits w 8 3) = (lo, n) ∧ condHolds s (bits w 5 3) =
      true ∧ w % 32 = 5 ∧ bits w 8 3 < 7 ∧ (k < lo ∨ lo + n ≤ k)) ∧
    (∃ (off : Bool) (s t : OpState) (w lo n : Nat), runOp off s w = t ∧ laneField (bits w 8 3) = (lo, n) ∧ condHolds s (bits w 5 3) =
      true ∧ w % 32 = 5 ∧ bits w 8 3 < 7) := by
  exact ⟨⟨false, op 5, _, 0xFFFF00000002, _, _, rfl, rfl, rfl, by decide +kernel⟩,
   ⟨false, op 5, _, 0xFFFF00000302, _, _, rfl, rfl, rfl, by decide +kernel⟩,
   ⟨false, op 5, _, 0xFFFF00000302, _, _, 512, rfl, rfl, rfl, by decide +kernel⟩,
   ⟨false, op 5, _, 2, _, _, rfl, rfl, rfl, by decide +kernel⟩,
   ⟨false, op 5, _, 5, _, _, rfl, rfl, by decide +kernel⟩,
   ⟨false, op 5, _, 0xFFFF000000FF0505, _, _, 11, rfl, rfl, by decide +kernel⟩,
   ⟨false, op 5, _, 0x1FFFF0005, _, _, rfl, rfl, ⟨0, by decide⟩, by decide +kernel⟩,
   ⟨false, op 5, _, 0x605, _, _, 159, rfl, rfl, by decide +kernel⟩,
   ⟨false, op 5, _, 5, _, _, rfl, rfl, by decide +kernel⟩⟩

/-- What the hypotheses of FreedCell ask is met. -/
theorem witness_FreedCell :
    (∃ (d t : Dev) (p c : Nat), Dev.freeCell p c 1 d = t ∧ p < 138 ∧ c < 16) ∧
    (∃ (d t : Dev) (p c p' c' : Nat), Dev.freeCell p c 1 d = t ∧ p < 138 ∧ c < 16 ∧ c' < 16 ∧ (p' ≠ p ∨ c' ≠ c)) := by
  exact ⟨⟨b0, _, 137, 15, rfl, by decide +kernel⟩,
   ⟨b0, _, 137, 15, 136, 15, rfl, by decide +kernel⟩⟩

/-- What the hypotheses of EvqPosts ask is met. -/
theorem witness_EvqPosts :
    (∃ (s : State) (page queue items i : Nat) (b : Blk), pageBlk page = some (b, i) ∧ s.chip.dev.openPosts (b.page i) < 64 ∧ b ≠ .dch ∧
      1 ≤ items ∧ items ≤ 8 ∧ queue < 512 ∧ s.chip.dev.flag EVP.CFG.Enable queue = true ∧ s.chip.dev.accepts .evp queue = true ∧
      s.chip.dev.accepts .evq = true ∧ (s.chip.dev.queue queue).fill + 1 + items ≤ s.chip.dev.queueSize queue) ∧
    (∃ (s : State) (queue seq : Nat) (p : EvPkt), (s.chip.dev.queue queue).pkts.find? (fun p => p.seq = seq && !p.complete) = some p) ∧
    (∃ (s : State) (queue : Nat) (p : EvPkt), (s.chip.dev.queue queue).pkts.find? (fun p => !p.complete) = some p ∧ s.chip.dev.get
      EVQ.CFG.SysQueue ≠ queue) ∧
    (∃ (s : State) (queue : Nat) (p : EvPkt), (s.chip.dev.queue queue).complete.head? = some p ∧ s.chip.dev.get EVP.CFG.NotifyUs queue ≠
      0) := by
  exact ⟨⟨st (b0.set EVP.CFG.Enable 1 511 |>.set (HDR.CTL.Enable .evp) 1 511 |>.set (HDR.CTL.Enable .evq) 1), 0, 511, 8, _, _, rfl, by decide,
    by decide +kernel⟩,
   ⟨st { b0 with evq := { queues := [(511, { pkts := [{ items := 1, typ := 0, src := 0, seq := 65535, payload := [0] }] })] } }, 511,
    65535, _, rfl⟩,
   ⟨st { b0 with evq := { queues := [(511, { pkts := [{ items := 1, typ := 0, src := 0, seq := 65535, payload := [0] }] })] } }, 511, _,
    rfl, by decide +kernel⟩,
   ⟨st
    ({ b0 with evq := { queues := [(511, { pkts := [{ items := 8, typ := 0, src := 0, seq := 65535, payload := [0], complete := true }] })] } }.set
    EVP.CFG.NotifyUs 1 511), 511, _, rfl, by decide +kernel⟩⟩

/-- What the hypotheses of EvqReads ask is met. -/
theorem witness_EvqReads :
    (∃ (s : State) (fn queue : Nat) (p : EvPkt), (s.chip.dev.queue queue).held.head? = some p ∧ s.chip.dev.opensOwn fn .evp queue = true
      ∧ s.chip.dev.injects .evp queue 0 = false) ∧
    (∃ (s : State) (fn window queue seq k : Nat), ((s.chip.dev.queue queue).held.findIdx? fun p => p.seq == seq % 65536) = some k ∧ fn ≠
      128 ∧ s.chip.dev.reachable fn = true ∧ queue < 512 ∧ (if fn = 0 then window else fn) < 128 ∧ s.chip.dev.get (HDR.OWNER.Function
      .evp) queue = (if fn = 0 then window else fn)) ∧
    (∃ (s : State) (fn queue : Nat), s.chip.dev.opensOwn fn .evp queue = true) ∧
    (∃ (s : State) (fn queue o : Nat), s.chip.dev.get (HDR.OWNER.Function .evp) queue = o ∧ s.chip.dev.opensOwn fn .evp queue = true) := by
  exact ⟨⟨st
    { b0 with evq := { queues := [(511, { pkts := [{ items := 8, typ := 0, src := 0, seq := 65535, payload := [0], complete := true }] })] } },
    0, 511, _, rfl, by decide +kernel⟩,
   ⟨st
    { b0 with evq := { queues := [(511, { pkts := [{ items := 8, typ := 0, src := 0, seq := 65535, payload := [0], complete := true }] })] } },
    0, 0, 511, 131071, _, rfl, by decide +kernel⟩,
   ⟨st b0, 128, 511, by decide +kernel⟩,
   ⟨st b0, 0, 511, _, rfl, by decide +kernel⟩⟩

/-- What the hypotheses of EvqSettings ask is met. -/
theorem witness_EvqSettings :
    (∃ (s : State) (fn queue data : Nat), s.chip.dev.opens fn .evq 0 = true ∧ queue < 512 ∧ bits data 16 4 ≤ 10 ∧ s.chip.dev.flag
      EVP.CFG.Enable queue = false ∧ 64 * bits data 0 13 + 64 * 2 ^ bits data 16 4 ≤ 524288 ∧ s.chip.dev.overlaps queue (64 * bits data
      0 13) (64 * 2 ^ bits data 16 4) = false) ∧
    (∃ (s : State) (fn queue : Nat), s.chip.dev.opensOwn fn .evp queue = true) ∧
    (∃ (s : State) (queue : Nat), s.chip.dev.live .evq = true ∧ queue < 512 ∧ s.chip.dev.injects .evp queue 0 = false) ∧
    (∃ (s : State) (queue idx : Nat) (p : EvPkt), (s.chip.dev.queue queue).pkts[idx]? = some p ∧ s.chip.dev.live .evq = true ∧ queue <
      512 ∧ p.complete = true) := by
  exact ⟨⟨st b0, 0, 511, 0xA1C00, by decide +kernel⟩,
   ⟨st b0, 0, 511, by decide +kernel⟩,
   ⟨st b0, 511, by decide +kernel⟩,
   ⟨st
    { b0 with evq := { queues := [(511, { pkts := [{ items := 8, typ := 0, src := 0, seq := 65535, payload := [0], complete := true }] })] } },
    511, 0, _, rfl, by decide +kernel⟩⟩

/-- What the hypotheses of TemplateRegisters ask is met. -/
theorem witness_TemplateRegisters :
    (∃ (s : State) (fn : Nat), s.chip.dev.opens fn .ruu 0 = true ∧ tplWordValid (s.chip.dev.get RUU.TPL_SEL.Word) (s.chip.dev.get
      RUU.TPL_DATA.Data) = true ∧ s.chip.dev.stgUsed tplBit 0 + 1 ≤ tplCap) ∧
    (∃ (s : State) (fn ruu : Nat), s.chip.dev.opens fn .ruu ruu = true ∧ ruu ≠ 0) ∧
    (∃ (s : State) (fn : Nat), s.chip.dev.opens fn .ruu 0 = true ∧ bits (s.chip.dev.get RUU.MPF_DATA_HI.Hi) 56 8 = 0 ∧ s.chip.dev.get
      RUU.MPF_DATA_LO.Lo < 2 ^ 64 ∧ s.chip.dev.stgUsed tplBit 0 + 2 ≤ tplCap) ∧
    (∃ (s : State) (fn ruu : Nat), s.chip.dev.opens fn .ruu ruu = true) ∧
    (∃ (s : State) (fn : Nat), s.chip.dev.opens fn .ruu 0 = true) := by
  exact ⟨⟨st b0, 0, by decide +kernel⟩,
   ⟨st b0, 128, 383, by decide +kernel⟩,
   ⟨st b0, 0, by decide +kernel⟩,
   ⟨st b0, 0, 383, by decide +kernel⟩,
   ⟨st b0, 0, by decide +kernel⟩⟩

/-- What the hypotheses of RuuQueue ask is met. -/
theorem witness_RuuQueue :
    (∃ (s : State) (r k : Nat) (q : ReqKind), (s.chip.dev.ruu r).nextClass = some k ∧ (s.chip.dev.ruu r).waiting.find? (fun q => q.cls
      == k) = some q ∧ s.chip.dev.pathMoves = true ∧ s.chip.dev.accepts .ruu r = true ∧ (s.chip.dev.ruu r).queue.length < 256) ∧
    (∃ (s : State) (r m : Nat) (q : ReqKind) (rest : List ReqKind) (row : List Loc), (s.chip.dev.ruu r).queue = q :: rest ∧
      s.chip.dev.get RCC.CFG.Mode r = m ∧ (s.chip.upd (·.underMode r m)).rowOf r q = row ∧ s.chip.dev.pathMoves = true ∧ (s.chip.dev.ruu
      r).service.any (conflicts row) = true) ∧
    (∃ (s : State) (r m : Nat) (q : ReqKind) (rest : List ReqKind) (row : List Loc), (s.chip.dev.ruu r).queue = q :: rest ∧
      s.chip.dev.get RCC.CFG.Mode r = m ∧ (s.chip.upd (·.underMode r m)).rowOf r q = row ∧ s.chip.dev.pathMoves = true ∧ (s.chip.dev.ruu
      r).rows < 32 ∧ (s.chip.dev.ruu r).service.any (conflicts row) = false ∧ (s.chip.dev.underMode r m).missing r q ≠ []) ∧
    (∃ (s : State) (home target i : Nat) (v : Service), ((s.chip.dev.ruu home).service.zipIdx.find? fun p => p.1.mem.any fun m =>
      m.state == .sent && m.target == target) = some (v, i) ∧ s.chip.dev.pathMoves = true) ∧
    (∃ (s : State) (home target i : Nat) (v : Service), ((s.chip.dev.ruu home).service.zipIdx.find? fun p => p.1.mem.any fun m =>
      m.state == .performed && m.target == target) = some (v, i) ∧ s.chip.dev.pathMoves = true) ∧
    (∃ (s : State) (r u : Nat), ((s.chip.dev.ruu r).lines.filterMap (·.young)).min? = some u) := by
  exact ⟨⟨st ({ b0 with ruus := [(383, { waiting := [.packet 1] })] }.set (HDR.CTL.Enable .ruu) 1 383), 383, _, _, rfl, rfl, by decide +kernel⟩,
   ⟨st
    { b0 with ruus := [(383, { queue := [.pin ⟨383, 0, 0, 0⟩ 5 0], service := [⟨.migrate 7, [⟨383, 0, 0, 0⟩], 0, [], 1, [], 0, 0, false, []⟩] })] },
    383, _, _, _, _, rfl, rfl, rfl, by decide +kernel⟩,
   ⟨st { b0 with ruus := [(383, { queue := [.sweep 3] })] }, 383, _, _, _, _, rfl, rfl, rfl, by decide +kernel⟩,
   ⟨st { b0 with ruus := [(383, { service := [⟨.migrate 7, [], 0, [⟨5, false, ⟨383, 0, 0, 0⟩, 0, .sent⟩], 0, [], 0, 0, false, []⟩] })] },
    383, 5, _, _, rfl, by decide +kernel⟩,
   ⟨st
    { b0 with ruus := [(383, { service := [⟨.migrate 7, [], 0, [⟨5, false, ⟨383, 0, 0, 0⟩, 0, .performed⟩], 0, [], 0, 0, false, []⟩] })] },
    383, 5, _, _, rfl, by decide +kernel⟩,
   ⟨st { b0 with ruus := [(383, { lines := [⟨0, 0, 0, 0, false, some 9, 0⟩] })] }, 383, _, rfl⟩⟩

/-- What the hypotheses of RuuServes ask is met. -/
theorem witness_RuuServes :
    (∃ (s : State) (r h m : Nat) (l : Loc) (rest : List ReqKind) (x : Line), (s.chip.dev.ruu r).queue = .pin l h m :: rest ∧
      (s.chip.dev.underMode r (s.chip.dev.get RCC.CFG.Mode r)).cached l = some x ∧ recHandle x.image = h ∧ s.chip.dev.pathMoves = true ∧
      (s.chip.dev.ruu r).service = [] ∧ l.ruu = r ∧ recValid x.image = true ∧ bit (recAct x.image) 31 = false) ∧
    (∃ (s : State) (r k : Nat) (v : Service), (s.chip.dev.ruu r).service = [v] ∧ v.req = .migrate k ∧ s.chip.dev.pathMoves = true ∧
      v.behind = false ∧ v.mem.all (·.state == .returned) = true ∧ v.round ≠ 0) ∧
    (∃ (s : State) (r pid : Nat) (v : Service), (s.chip.dev.ruu r).service = [v] ∧ v.req = .packet pid ∧ s.chip.dev.pathMoves = true ∧
      v.behind = false ∧ v.mem.all (·.state == .returned) = true ∧ v.round = 0 ∧ (s.chip.dev.underMode r v.mode).badReads r v.req v.left
      false = [] ∧ ((s.chip.upd (·.underMode r v.mode)).hit (s.chip.dev.pkt pid).digest).1 = none ∧ bits ((s.chip.dev.tplOf
      (s.chip.dev.pkt pid).gen).word (s.chip.dev.cfgOf (s.chip.dev.pkt pid).gen PRS.KP_TPL.TplSel (s.chip.dev.pkt pid).slice
      (s.chip.dev.pkt pid).profile) 0) 4 2 = 3) ∧
    (∃ (s : State) (r pid : Nat) (v : Service), (s.chip.dev.ruu r).service = [v] ∧ v.req = .packet pid ∧ s.chip.dev.pathMoves = true ∧
      v.behind = false ∧ v.mem.any (·.state != .returned) = true) ∧
    (∃ (s : State) (fn r : Nat), s.chip.dev.opens fn .rcc r = true) ∧
    (∃ (s : State) (r : Nat), s.chip.dev.flag RCC.STAT_C.Flushing r = true) ∧
    (∃ (s : State) (fn r : Nat), s.chip.dev.opens fn .ruu r = true ∧ s.chip.dev.flag RUU.POISON_STAT.Busy r = false) := by
  exact ⟨⟨st { b0 with ruus := [(383, { queue := [.pin ⟨383, 0, 0, 0⟩ 5 0], lines := [⟨0, 0, 0, 2 ^ 158 + 5 * 2 ^ 128, false, none, 0⟩] })] },
    383, _, _, _, _, _, rfl, rfl, rfl, by decide +kernel⟩,
   ⟨st { b0 with ruus := [(383, { service := [⟨.migrate 7, [], 0, [], 1, [], 0, 0, false, []⟩] })] }, 383, _, _, rfl, rfl,
    by decide +kernel⟩,
   ⟨st { b0 with ruus := [(383, { service := [⟨.packet 4, [], 0, [], 0, [], 0, 0, false, []⟩] })], tpl := { words := [(0, 48)] } }, 383, _,
    _, rfl, rfl, by decide +kernel⟩,
   ⟨st { b0 with ruus := [(383, { service := [⟨.packet 4, [], 0, [⟨5, false, ⟨383, 0, 0, 0⟩, 0, .sent⟩], 0, [], 0, 0, false, []⟩] })] },
    383, _, _, rfl, rfl, by decide +kernel⟩,
   ⟨st b0, 0, 383, by decide +kernel⟩,
   ⟨st (b0.set RCC.STAT_C.Flushing 1 383), 383, by decide +kernel⟩,
   ⟨st b0, 0, 383, by decide +kernel⟩⟩

/-- What the hypotheses of FlowCommands ask is met. -/
theorem witness_FlowCommands :
    (∃ (s : State) (fn r : Nat) (p : Instr × Nat), homeRuu (cmacWhole s.chip.dev.ftb.digestKey 3 (sliceB s.chip.dev.cmdKey 0 48)) = r ∧
      s.chip.dev.opens fn .ftb 0 = true ∧ s.chip.dev.takesGo = true ∧ (s.chip.dev.ruu r).queue ≠ [] ∧ p ∈ [(Instr.ftbInsert fn, 1),
      (.ftbReplace fn, 2), (.ftbLookup fn, 3), (.ftbDelete fn, 4)]) ∧
    (∃ (s : State) (fn r : Nat) (p : Instr × Nat), s.chip.dev.get FTB.CMD_LOC.Ruu = r ∧ s.chip.dev.opens fn .ftb 0 = true ∧
      s.chip.dev.takesGo = true ∧ r < 384 ∧ (s.chip.dev.ruu r).queue ≠ [] ∧ p ∈ [(Instr.ftbReadloc fn, 5), (.ftbDeleteloc fn, 6)]) ∧
    (∃ (s : State) (fn : Nat), s.chip.dev.opens fn .ftb 0 = true ∧ s.chip.dev.takesGo = true ∧ 2 ≤ s.chip.dev.phase ∧
      s.chip.dev.handleUsed (s.chip.dev.get FTB.CMD_HANDLE.Handle) = true ∧ s.chip.dev.spanBad (annexAddr (s.chip.dev.get
      FTB.CMD_HANDLE.Handle)) 48 = false) ∧
    (∃ (s : State) (fn x n : Nat), s.chip.dev.get FTB.GEOM_CFG.MaxLog2 = x ∧ s.chip.dev.get FTB.GEOM_CFG.TargetLog2 = n ∧
      s.chip.dev.opens fn .ftb 0 = true ∧ s.chip.dev.takesGo = true ∧ s.chip.dev.get FTB.RECORDS.Records = 0 ∧ s.chip.dev.flag
      FTB.EXPORT_STAT.Active = false ∧ (s.chip.dev.phase = 0 ∨ s.chip.dev.phase = 2) ∧ 24 ≤ n ∧ n ≤ x ∧ x ≤ 30) ∧
    (∃ (s : State) (fn : Nat), s.chip.dev.opens fn .ftb 0 = true ∧ s.chip.dev.takesGo = true ∧ s.chip.dev.phase = 2 ∧ s.chip.dev.flag
      FTB.EXPORT_STAT.Active = false ∧ s.chip.dev.get FTB.GEOM_CFG.TargetLog2 ≠ s.chip.dev.get FTB.GEOM_STAT.CapLog2 ∧ 24 ≤
      s.chip.dev.get FTB.GEOM_CFG.TargetLog2 ∧ s.chip.dev.get FTB.GEOM_CFG.TargetLog2 ≤ min (s.chip.dev.get FTB.GEOM_STAT.MaxLog2) 29 ∧
      24 ≤ s.chip.dev.get FTB.GEOM_STAT.CapLog2 ∧ s.chip.dev.get FTB.GEOM_STAT.CapLog2 ≤ min (s.chip.dev.get FTB.GEOM_STAT.MaxLog2) 29 ∧
      s.chip.dev.get FTB.RECORDS.Records ≤ 2 ^ s.chip.dev.get FTB.GEOM_CFG.TargetLog2 ∧ (∀ k, k < 6 → s.chip.dev.caseTemp k ≤ 95)) ∧
    (∃ (s : State) (fn : Nat), s.chip.dev.opens fn .ftb 0 = true ∧ s.chip.dev.takesGo = true ∧ s.chip.dev.get FTB.RECORDS.Records = 0 ∧
      s.chip.dev.phase = 2) ∧
    (∃ (s : State) (fn : Nat) (c : Instr), s.chip.dev.opens fn .ftb 0 = true ∧ s.chip.dev.takesGo = false ∧ c ∈ [Instr.ftbInsert fn,
      .ftbReplace fn, .ftbLookup fn, .ftbDelete fn, .ftbReadloc fn, .ftbDeleteloc fn, .ftbReadannex fn false, .ftbSetgeom fn, .ftbResize
      fn, .ftbRekey fn]) ∧
    (∃ (s : State) (r : Nat), s.chip.dev.ftb.cmdDone = some r) := by
  exact ⟨⟨st ({ b0 with ruus := [(kh, { queue := [.sweep 0] })] }.set (HDR.CTL.Enable .ftb) 1), 0, _, (.ftbInsert 0, 1), rfl, by decide +kernel⟩,
   ⟨st ({ b0 with ruus := [(0, { queue := [.poison ⟨0, 0, 0, 0⟩] })] }.set (HDR.CTL.Enable .ftb) 1), 0, _, (.ftbReadloc 0, 5), rfl,
    by decide +kernel⟩,
   ⟨st ({ b0 with ftb := { b0.ftb with taken := [0] } }.set FTB.GEOM_STAT.Phase 2 |>.set (HDR.CTL.Enable .ftb) 1), 0, by decide +kernel⟩,
   ⟨st (((b0.set FTB.GEOM_CFG.MaxLog2 30).set FTB.GEOM_CFG.TargetLog2 24) |>.set (HDR.CTL.Enable .ftb) 1), 0, _, _, rfl, rfl,
    by decide +kernel⟩,
   ⟨st (((((b0.set FTB.GEOM_STAT.Phase 2).set FTB.GEOM_CFG.TargetLog2 29).set FTB.GEOM_STAT.MaxLog2 30).set FTB.GEOM_STAT.CapLog2 24)
    |>.set (HDR.CTL.Enable .ftb) 1), 0, by decide +kernel⟩,
   ⟨st ((b0.set FTB.GEOM_STAT.Phase 2) |>.set (HDR.CTL.Enable .ftb) 1), 0, by decide +kernel⟩,
   ⟨st (b0.set FTB.CMD_STAT.Busy 1 |>.set (HDR.CTL.Enable .ftb) 1), 0, .ftbRekey 0, by decide +kernel⟩,
   ⟨st { b0 with ftb := { b0.ftb with cmdDone := some 0 } }, _, rfl⟩⟩

/-- What the hypotheses of FlowGeometry ask is met. -/
theorem witness_FlowGeometry :
    (∃ (s : State) (x n lo hi : Nat), s.chip.dev.get FTB.GEOM_STAT.MaxLog2 = x ∧ s.chip.dev.get FTB.GEOM_STAT.CapLog2 = n ∧ setRange x n
      0 = (lo, hi) ∧ s.chip.dev.phase = 1) ∧
    (∃ (s : State) (lo hi : Nat), setRange (s.chip.dev.get FTB.GEOM_STAT.MaxLog2) s.chip.dev.ftb.target (1 - s.chip.dev.get
      FTB.GEOM_STAT.ActiveSet) = (lo, hi) ∧ s.chip.dev.phase = 3) ∧
    (∃ (s : State) (r : Nat), (∀ k, .migrate k ∉ (s.chip.dev.ruu r).waiting ++ (s.chip.dev.ruu r).queue ++ (s.chip.dev.ruu
      r).service.map (·.req)) ∧ s.chip.dev.phase = 4 ∧ s.chip.dev.ftb.stuck = false ∧ r < 384 ∧ (s.chip.dev.ruu r).cursor < slotsOf
      (s.chip.dev.get FTB.GEOM_STAT.CapLog2) r ∧ (s.chip.dev.ruu r).queue ≠ []) ∧
    (∃ (s : State), s.chip.dev.phase = 4 ∧ (∀ r, r < 384 → slotsOf (s.chip.dev.get FTB.GEOM_STAT.CapLog2) r ≤ (s.chip.dev.ruu
      r).cursor)) := by
  exact ⟨⟨st (b0.set FTB.GEOM_STAT.Phase 1), _, _, _, _, rfl, rfl, rfl, by decide +kernel⟩,
   ⟨st (b0.set FTB.GEOM_STAT.Phase 3), _, _, rfl, by decide +kernel⟩,
   ⟨st (({ b0 with ruus := [(383, { queue := [.poison ⟨0, 0, 0, 0⟩] })] }).set FTB.GEOM_STAT.Phase 4 |>.set FTB.GEOM_STAT.CapLog2 24), 383,
    (by intro k h; cases List.mem_singleton.mp (show ReqKind.migrate k ∈ [ReqKind.poison ⟨0, 0, 0, 0⟩] from h)), by decide +kernel⟩,
   ⟨st (b0.set FTB.GEOM_STAT.Phase 4), by decide +kernel⟩⟩

/-- What the hypotheses of FlowUpkeep ask is met. -/
theorem witness_FlowUpkeep :
    (∃ (s : State) (r : Nat), (∀ k, .sweep k ∉ (s.chip.dev.ruu r).waiting ++ (s.chip.dev.ruu r).queue ++ (s.chip.dev.ruu r).service.map
      (·.req)) ∧ r < 384 ∧ 2 ≤ s.chip.dev.phase ∧ s.chip.dev.flag FTB.CTL_FT.SweepEnable = true ∧ r ∉ s.chip.dev.ftb.sweepDone ∧
      (s.chip.dev.ruu r).sweepPos < slotsOf s.chip.dev.newSet.2 r ∧ (s.chip.dev.ruu r).queue ≠ []) ∧
    (∃ (s : State) (r : Nat), (∀ k w, .exportRead k w ∉ (s.chip.dev.ruu r).waiting ++ (s.chip.dev.ruu r).queue ++ (s.chip.dev.ruu
      r).service.map (·.req)) ∧ r < 384 ∧ s.chip.dev.flag FTB.EXPORT_STAT.Active = true ∧ s.chip.dev.streamRoom (s.chip.dev.get
      FTB.EXPORT_CFG.Channel) = true ∧ (s.chip.dev.ruu r).exportPos < slotsOf (s.chip.dev.get FTB.GEOM_STAT.CapLog2) r ∧ (s.chip.dev.ruu
      r).queue ≠ []) ∧
    (∃ (s : State) (r : Nat), r < 384 ∧ 2 ≤ s.chip.dev.phase ∧ (s.chip.dev.ruu r).stock.length ≤ 128 ∧ s.chip.dev.poolFree ≠ 0) ∧
    (∃ (s : State) (r : Nat), 384 < (s.chip.dev.ruu r).stock.length) ∧
    (∃ (s : State) (r dg at0 w : Nat), (s.chip.dev.ruu r).recent.getLast? = some (dg, at0) ∧ nsCyc (1000 * s.chip.dev.get
      FTB.REBIRTH_CFG.Window) = w) ∧
    (∃ (s : State) (c : Nat), s.chip.dev.pllAt = some c ∧ c ≤ s.chip.dev.cyc) ∧
    (∃ (s : State) (fn : Nat), s.chip.dev.opens fn .ftb 0 = true) ∧
    (∃ (s : State) (fn : Nat), s.chip.dev.opens fn .ftb 0 = true ∧ s.chip.dev.flag FTB.EXPORT_STAT.Active = true) := by
  exact ⟨⟨st (({ b0 with ruus := [(383, { queue := [.poison ⟨0, 0, 0, 0⟩] })] }).set FTB.GEOM_STAT.Phase 2 |>.set FTB.GEOM_STAT.CapLog2 24 |>.set
    FTB.CTL_FT.SweepEnable 1), 383, (by intro k h; cases List.mem_singleton.mp (show ReqKind.sweep k ∈ [ReqKind.poison ⟨0, 0, 0, 0⟩]
    from h)), by decide +kernel⟩,
   ⟨st (({ b0 with ruus := [(383, { queue := [.poison ⟨0, 0, 0, 0⟩] })] }).set FTB.EXPORT_STAT.Active 1 |>.set FTB.GEOM_STAT.CapLog2 24
    |>.set DMA.BIND.Endpoint 9 0 0 |>.set DCH.STAT.State 1 |>.set DCH.STAT.Credit 1 |>.set DCH.BURST.Bytes 64), 383,
    (by intro k w h; cases List.mem_singleton.mp (show ReqKind.exportRead k w ∈ [ReqKind.poison ⟨0, 0, 0, 0⟩] from h)),
    by decide +kernel⟩,
   ⟨st ({ b0 with ftb := { b0.ftb with issueCap := 1 } }.set FTB.GEOM_STAT.Phase 2), 383, by decide +kernel⟩,
   ⟨st { b0 with ruus := [(383, { stock := List.range 385 })] }, 383, by decide +kernel⟩,
   ⟨st { b0 with ruus := [(383, { recent := [(5, 6)] })] }, 383, _, _, _, rfl, rfl⟩,
   ⟨st { b0 with pllAt := some 0 }, _, rfl, by decide +kernel⟩,
   ⟨st b0, 0, by decide +kernel⟩,
   ⟨st (b0.set FTB.EXPORT_STAT.Active 1), 0, by decide +kernel⟩⟩

/-- What the hypotheses of LpmCommands ask is met. -/
theorem witness_LpmCommands :
    (∃ (s : State) (d : Dev) (fn : Nat) (k : RouteKey) (w : StgWrite), s.chip.dev = d ∧ d.routeKey = k ∧ w = .route k (some (d.get
      LPM.ROUTE_DATA.Route)) ∧ d.opens fn .lpm 0 = true ∧ k.len ≤ famBits k.v6 ∧ d.stgUsed lpmBit 0 + 1 ≤ lpmCap ∧ d.unitsWith k ≤
      8388608 ∧ (k.v6 = true → 16 < k.len → ((d.staged.apply w).lengthsAt k.pfx).length ≤ 16)) ∧
    (∃ (s : State) (d : Dev) (fn : Nat) (k : RouteKey), s.chip.dev = d ∧ d.routeKey = k ∧ d.opens fn .lpm 0 = true ∧ k.len ≤ famBits
      k.v6 ∧ d.stgUsed lpmBit 0 + 1 ≤ lpmCap ∧ (d.staged.route k).isSome = true) ∧
    (∃ (s : State) (d : Dev) (fn : Nat) (k : RouteKey) (c : Instr) (why : Nat), s.chip.dev = d ∧ d.routeKey = k ∧ c ∈ [Instr.routeAdd
      fn, .routeDelete fn] ∧ ((famBits k.v6 < k.len ∧ why = 5) ∨ (k.len ≤ famBits k.v6 ∧ lpmCap < d.stgUsed lpmBit 0 + 1 ∧ why = 3) ∨ (c
      = .routeDelete fn ∧ k.len ≤ famBits k.v6 ∧ d.stgUsed lpmBit 0 + 1 ≤ lpmCap ∧ d.staged.route k = none ∧ why = 4)) ∧ d.opens fn .lpm
      0 = true) ∧
    (∃ (s : State) (d : Dev) (fn : Nat), s.chip.dev = d ∧ d.opens fn .lpm 0 = true) ∧
    (∃ (s : State) (d : Dev) (fn : Nat), s.chip.dev = d ∧ d.opens fn .lpm 0 = true ∧ d.stgUsed lpmBit 0 + 1 ≤ lpmCap) ∧
    (∃ (s : State) (d : Dev) (fn k lo : Nat), s.chip.dev = d ∧ Tab.get (d.get LPM.SMAC.SmacLo 0 k) d.fab.hold (Blk.lpm.base 0 + 0x300 +
      8 * k) = lo ∧ d.opens fn .lpm 0 = true ∧ k < 64 ∧ d.stgUsed lpmBit 0 + 1 ≤ lpmCap) := by
  exact ⟨⟨st (b0.set LPM.ROUTE_CTL.Length 32), _, 0, _, _, rfl, rfl, rfl, by decide +kernel⟩,
   ⟨st { (b0.set LPM.ROUTE_CTL.Length 32) with fwd := { routes := [(((b0.set LPM.ROUTE_CTL.Length 32)).routeKey, 5)] } }, _, 0, _, rfl,
    rfl, by decide +kernel⟩,
   ⟨st (b0.set LPM.ROUTE_CTL.Length 33), _, 0, _, .routeAdd 0, 5, rfl, rfl, by simp, .inl ⟨by decide +kernel, rfl⟩, by decide +kernel⟩,
   ⟨st b0, _, 0, rfl, by decide +kernel⟩,
   ⟨st b0, _, 0, rfl, by decide +kernel⟩,
   ⟨st b0, _, 0, 63, _, rfl, rfl, by decide +kernel⟩⟩

/-- What the hypotheses of L2Commands ask is met. -/
theorem witness_L2Commands :
    (∃ (s : State) (d : Dev) (fn m v : Nat), s.chip.dev = d ∧ d.l2Key = (m, v) ∧ d.opens fn .l2t 0 = true ∧ d.stgUsed l2tBit 0 + 1 ≤
      l2tCap) ∧
    (∃ (s : State) (d : Dev) (fn m v : Nat), s.chip.dev = d ∧ d.l2Key = (m, v) ∧ d.opens fn .l2t 0 = true ∧ d.stgUsed l2tBit 0 + 1 ≤
      l2tCap ∧ d.l2Staged m v = true) ∧
    (∃ (s : State) (d : Dev) (fn m v : Nat), s.chip.dev = d ∧ d.l2Key = (m, v) ∧ d.opens fn .l2t 0 = true) ∧
    (∃ (s : State) (d : Dev) (fn : Nat), s.chip.dev = d ∧ d.opens fn .l2t 0 = true ∧ d.stgUsed l2tBit 0 + 1 ≤ l2tCap) ∧
    (∃ (s : State) (d : Dev) (fn : Nat), s.chip.dev = d ∧ d.opens fn .l2t 0 = true) ∧
    (∃ (s : State) (d : Dev) (pid : Nat) (rest : List Nat) (p : Pkt) (slot : Nat) (e : L2Entry), s.chip.dev = d ∧ d.l2.reqs = pid ::
      rest ∧ Tab.find d.pkts pid = some p ∧ d.l2Find (macNum p.parsed.smac) p.vlan = some (slot, e) ∧ e.port = p.port) ∧
    (∃ (s : State) (d : Dev) (pid : Nat) (rest : List Nat) (p : Pkt) (slot : Nat), s.chip.dev = d ∧ d.l2.reqs = pid :: rest ∧ Tab.find
      d.pkts pid = some p ∧ d.l2Find (macNum p.parsed.smac) p.vlan = none ∧ ((d.l2Slots (macNum p.parsed.smac) p.vlan).find? fun k =>
      (Tab.find d.l2.ents k).isNone) = some slot) ∧
    (∃ (s : State) (d : Dev) (slot : Nat) (e : L2Entry), s.chip.dev = d ∧ Tab.find d.l2.ents slot = some e ∧ d.get L2T.CFG.AgeTime ≠ 0) := by
  exact ⟨⟨st b0, _, 0, _, _, rfl, rfl, by decide +kernel⟩,
   ⟨st { b0 with stg := [⟨l2tBit, 0, 1, .l2 0 0 (some (1, true, false))⟩] }, _, 0, _, _, rfl, rfl, by decide +kernel⟩,
   ⟨st b0, _, 0, _, _, rfl, rfl, by decide +kernel⟩,
   ⟨st b0, _, 0, rfl, by decide +kernel⟩,
   ⟨st b0, _, 0, rfl, by decide +kernel⟩,
   ⟨st l2Dev, _, 7, _, _, 4 * (Config.l2Hash 0 0 0 0 % 262144) + 0, ⟨0, 0, 0, false, false, true, true, 0⟩, rfl, rfl, rfl, l2Found, rfl⟩,
   ⟨st { b0 with l2 := { reqs := [7] }, pkts := [(7, {})] }, _, 7, _, _, _, rfl, rfl, rfl, rfl, rfl⟩,
   ⟨st ({ b0 with l2 := { ents := [(2097151, ⟨0, 0, 0, false, false, true, true, 0⟩)] } }.set L2T.CFG.AgeTime 1), _, 2097151, _, rfl, rfl,
    by decide +kernel⟩⟩

/-- What the hypotheses of EcmCommands ask is met. -/
theorem witness_EcmCommands :
    (∃ (s : State) (d : Dev) (fn : Nat), s.chip.dev = d ∧ d.opens fn .ecm 0 = true ∧ d.stgUsed ecmBit 0 + 1 ≤ ecmCap ∧ d.grpData.ok =
      true) ∧
    (∃ (s : State) (d : Dev) (fn : Nat), s.chip.dev = d ∧ d.opens fn .ecm 0 = true ∧ d.grpData.ok = false) ∧
    (∃ (s : State) (d : Dev) (fn : Nat), s.chip.dev = d ∧ d.opens fn .ecm 0 = true ∧ d.stgUsed ecmBit 0 + 1 ≤ ecmCap ∧ d.get
      ECM.SLOT_DATA.State ≠ 3) ∧
    (∃ (s : State) (d : Dev) (fn : Nat), s.chip.dev = d ∧ d.opens fn .ecm 0 = true ∧ d.get ECM.SLOT_DATA.State = 3) ∧
    (∃ (s : State) (d : Dev) (fn : Nat), s.chip.dev = d ∧ d.opens fn .ecm 0 = true) ∧
    (∃ (s : State) (d : Dev) (fn : Nat) (g : EcmGroup), s.chip.dev = d ∧ d.staged.group (d.get ECM.GRP_SEL.Group) = g ∧ (∃ k, k <
      g.slotCount ∧ (d.staged.slot (g.slotBase + k)).state = 1) ∧ d.opens fn .ecm 0 = true ∧ g.slotCount ≠ 0 ∧ 6 ≤ g.bucketLog2 ∧
      g.bucketLog2 ≤ 12 ∧ d.stgUsed ecmBit 0 + 2 ^ g.bucketLog2 ≤ ecmCap ∧ g.resilient = false) := by
  exact ⟨⟨st (b0.set ECM.GRP_DATA1.BucketLog2 12), _, 0, rfl, by decide +kernel⟩,
   ⟨st (b0.set ECM.GRP_DATA1.BucketLog2 13), _, 0, rfl, by decide +kernel⟩,
   ⟨st b0, _, 0, rfl, by decide +kernel⟩,
   ⟨st (b0.set ECM.SLOT_DATA.State 3), _, 0, rfl, by decide +kernel⟩,
   ⟨st b0, _, 0, rfl, by decide +kernel⟩,
   ⟨st { b0 with fwd := { groups := [(0, { slotCount := 1, bucketLog2 := 12 })], slots := [(0, { state := 1 })] } }, _, 0, _, rfl, rfl, ⟨0,
    by decide⟩, by decide +kernel⟩⟩

/-- What the hypotheses of NatCommands ask is met. -/
theorem witness_NatCommands :
    (∃ (s : State) (d : Dev) (fn : Nat) (v : NatAddr), s.chip.dev = d ∧ v =
      { address := d.get NAT.ADDR_DATA0.Address, portBase := d.get NAT.ADDR_DATA1.PortBase, blockLog2 := d.get NAT.ADDR_DATA1.BlockLog2, nat64 := d.flag NAT.ADDR_DATA1.Kind, pfx64 := d.get NAT.ADDR_DATA1.Pfx64, valid := d.flag NAT.ADDR_DATA1.Valid }
      ∧ d.opens fn .nat 0 = true ∧ 6 ≤ v.blockLog2 ∧ v.blockLog2 ≤ 12 ∧ v.portBase + 2 ^ v.blockLog2 ≤ 65536 ∧ d.stgUsed natBit 0 + 1 ≤
      natCap) ∧
    (∃ (s : State) (d : Dev) (fn : Nat) (v : NatAddr), s.chip.dev = d ∧ v =
      { address := d.get NAT.ADDR_DATA0.Address, portBase := d.get NAT.ADDR_DATA1.PortBase, blockLog2 := d.get NAT.ADDR_DATA1.BlockLog2, nat64 := d.flag NAT.ADDR_DATA1.Kind, pfx64 := d.get NAT.ADDR_DATA1.Pfx64, valid := d.flag NAT.ADDR_DATA1.Valid }
      ∧ d.opens fn .nat 0 = true ∧ (v.blockLog2 < 6 ∨ 12 < v.blockLog2 ∨ 65536 < v.portBase + 2 ^ v.blockLog2)) ∧
    (∃ (s : State) (d : Dev) (fn : Nat), s.chip.dev = d ∧ d.opens fn .nat 0 = true) ∧
    (∃ (s : State) (d : Dev) (fn : Nat), s.chip.dev = d ∧ d.opens fn .nat 0 = true ∧ d.get NAT.PFX_LEN.Len ≤ 5 ∧ d.stgUsed natBit 0 + 1
      ≤ natCap) ∧
    (∃ (s : State) (d : Dev) (fn : Nat), s.chip.dev = d ∧ d.opens fn .nat 0 = true ∧ 5 < d.get NAT.PFX_LEN.Len) ∧
    (∃ (s : State) (d : Dev) (fn : Nat), s.chip.dev = d ∧ d.opens fn .nat 0 = true ∧ d.mapData.all d.staged.blockOk = true ∧ d.stgUsed
      natBit 0 + 1 ≤ natCap) ∧
    (∃ (s : State) (d : Dev) (fn : Nat), s.chip.dev = d ∧ d.opens fn .nat 0 = true ∧ d.mapData.all d.staged.blockOk = false) ∧
    (∃ (s : State) (d : Dev) (i : Nat) (e : MapEntry) (rest : List (Nat × MapEntry)), s.chip.dev = d ∧ d.nat.overlay = (i, e) :: rest ∧
      e.slots.length = 4 ∧ d.mapAddr i % 32 = 0 ∧ d.hbmMayPut 5 (d.mapAddr i) = true ∧ (d.hpc (d.mapAddr i / 2 ^ 29)).waiting = []) := by
  exact ⟨⟨st ((b0.set NAT.ADDR_DATA1.BlockLog2 12).set NAT.ADDR_DATA1.PortBase 61440), _, 0, _, rfl, rfl, by decide +kernel⟩,
   ⟨st ((b0.set NAT.ADDR_DATA1.BlockLog2 12).set NAT.ADDR_DATA1.PortBase 61441), _, 0, _, rfl, rfl, by decide +kernel⟩,
   ⟨st b0, _, 0, rfl, by decide +kernel⟩,
   ⟨st (b0.set NAT.PFX_LEN.Len 5), _, 0, rfl, by decide +kernel⟩,
   ⟨st (b0.set NAT.PFX_LEN.Len 6), _, 0, rfl, by decide +kernel⟩,
   ⟨st b0, _, 0, rfl, by decide +kernel⟩,
   ⟨st ({ b0 with fwd := { natAddr := [(0, { portBase := 65536 })] } }.set NAT.MAP_DATA.Valid 1 0 3), _, 0, rfl, by decide +kernel⟩,
   ⟨st ({ b0 with nat := { overlay := [(5, {})] } }.set (HDR.CTL.Enable .hbc) 1), _, _, _, _, rfl, rfl, by decide +kernel⟩⟩

/-- What the hypotheses of ShadowWalker ask is met. -/
theorem witness_ShadowWalker :
    (∃ (s : State) (d : Dev) (fn : Nat), s.chip.dev = d ∧ d.opens fn .shw 0 = true ∧ d.flag SHW.STAT.Active = false ∧ d.shw.dump = [] ∧
      d.get SHW.COUNT.Count ≠ 0) ∧
    (∃ (s : State) (d : Dev) (fn : Nat), s.chip.dev = d ∧ d.opens fn .shw 0 = true) ∧
    (∃ (s : State) (d : Dev) (fn ch : Nat) (es : List (List Byte)), s.chip.dev = d ∧ d.get SHW.CFG.DumpChannel = ch ∧ (s.chip.shwKeys
      (d.get SHW.CFG.Table)).map (s.chip.shadowBytes (d.get SHW.CFG.Table)) = es ∧ d.opens fn .shw 0 = true ∧ d.flag SHW.STAT.Active =
      false ∧ d.shw.dump = []) ∧
    (∃ (s : State) (d : Dev), s.chip.dev = d ∧ d.flag SHW.STAT.Active = true ∧ d.walkerReads = true) ∧
    (∃ (s : State) (d : Dev) (entry : List Byte) (gen key data ahead : Nat), s.chip.dev = d ∧ ofLE ((entry.drop 2).take 2) = gen ∧ ofLE
      ((entry.drop 4).take 20) = key ∧ ofLE (entry.drop 24) = data ∧ (gen + 65536 - d.get GLB.COMMIT_STAT.Gen) % 65536 = ahead ∧ d.flag
      SHW.STAT.Active = true ∧ d.walkerReads = true ∧ entry.length = 32) := by
  exact ⟨⟨st (b0.set SHW.COUNT.Count 1), _, 0, rfl, by decide +kernel⟩,
   ⟨st b0, _, 0, rfl, by decide +kernel⟩,
   ⟨st b0, _, 0, _, _, rfl, rfl, rfl, by decide +kernel⟩,
   ⟨st ({ b0 with dma := { b0.dma with ints := [⟨true, 0, 32, 0, false⟩] } }.set SHW.STAT.Active 1), _, rfl, by decide +kernel⟩,
   ⟨st ({ b0 with dma := { b0.dma with ints := [⟨true, 0, 32, 0, false⟩] } }.set SHW.STAT.Active 1), _, List.replicate 32 0, _, _, _, _,
    rfl, rfl, rfl, rfl, rfl, by decide +kernel⟩⟩

/-- What the hypotheses of CommitArming ask is met. -/
theorem witness_CommitArming :
    (∃ (s : State) (d : Dev) (fn m : Nat), s.chip.dev = d ∧ d.get GLB.COMMIT_MASK.Mask = m ∧ (∀ b ∈ d.overflow, bit m b = false) ∧ (∀ p,
      d.glb.prevAct = some p → p + nsU 4000 ≤ d.dt + armLead) ∧ d.opens fn .glb 0 = true ∧ d.glb.armed = none ∧ d.flag
      GLB.COMMIT_STAT.Busy = false ∧ m ≠ 0) ∧
    (∃ (s : State) (d : Dev) (fn m : Nat), s.chip.dev = d ∧ d.get GLB.COMMIT_MASK.Mask = m ∧ (∀ b ∈ d.overflow, bit m b = false) ∧ (∀ p,
      d.glb.prevAct = some p → p + nsU 4000 ≤ d.commitTime) ∧ d.opens fn .glb 0 = true ∧ d.glb.armed = none ∧ d.flag
      GLB.COMMIT_STAT.Busy = false ∧ m ≠ 0 ∧ d.dt + armLead ≤ d.commitTime ∧ d.get GLB.COMMIT_TIME_NS.Nanoseconds ≤ 999999999) ∧
    (∃ (s : State) (d : Dev) (fn : Nat), s.chip.dev = d ∧ d.opens fn .glb 0 = true ∧ d.commitTime < d.dt + armLead) ∧
    (∃ (s : State) (d : Dev) (fn : Nat), s.chip.dev = d ∧ d.opens fn .glb 0 = true) ∧
    (∃ (s : State) (d : Dev) (fn : Nat) (a : Armed), s.chip.dev = d ∧ d.glb.armed = some a ∧ d.opens fn .glb 0 = true) ∧
    (∃ (s : State) (d : Dev) (fn m : Nat), s.chip.dev = d ∧ d.get GLB.COMMIT_MASK.Mask = m ∧ d.opens fn .glb 0 = true) := by
  exact ⟨⟨st (b0.set GLB.COMMIT_MASK.Mask 1), _, 0, _, rfl, rfl, (by intro b hb; cases hb), (by intro p hp; cases hp), by decide +kernel⟩,
   ⟨st ((b0.set GLB.COMMIT_MASK.Mask 1).set GLB.COMMIT_TIME_SEC_LO.SecondsLo 1), _, 0, _, rfl, rfl, (by intro b hb; cases hb),
    (by intro p hp; cases hp), by decide +kernel⟩,
   ⟨st b0, _, 0, rfl, by decide +kernel⟩,
   ⟨st b0, _, 0, rfl, by decide +kernel⟩,
   ⟨st { b0 with glb := { b0.glb with armed := some ⟨1, 5⟩ } }, _, 0, _, rfl, rfl, by decide +kernel⟩,
   ⟨st b0, _, 0, _, rfl, rfl, by decide +kernel⟩⟩

/-- What the hypotheses of CommitActing ask is met. -/
theorem witness_CommitActing :
    (∃ (s : State) (d : Dev) (a : Armed) (early late : List StgEntry), s.chip.dev = d ∧ d.glb.armed = some a ∧ d.stg.splitAt
      (d.stg.length - d.stgLate) = (early, late) ∧ d.pmc.snapArm = none ∧ d.flag GLB.COMMIT_STAT.Busy = false) ∧
    (∃ (s : State) (d : Dev) (a : Armed), s.chip.dev = d ∧ d.glb.armed = some a ∧ d.pmc.snapArm = none ∧ d.flag GLB.COMMIT_STAT.Busy =
      true) ∧
    (∃ (s : State) (d : Dev), s.chip.dev = d ∧ (∀ a, d.glb.armed = some a → d.dt + d.get TIM.INCR.Incr ≤ a.act) ∧ d.flag
      GLB.COMMIT_STAT.Busy = true ∧ d.usesPrev = false) ∧
    (∃ (s : State) (d : Dev) (a : Armed), s.chip.dev = d ∧ d.glb.armed = some a ∧ d.flag GLB.COMMIT_STAT.Busy = true ∧ d.usesPrev =
      false ∧ a.act < d.dt + d.get TIM.INCR.Incr) ∧
    (∃ (s : State) (d : Dev) (act mac : Nat) (ports : List (Nat × Nat)) (l : List (Nat × Nat × Nat)), s.chip.dev = d ∧ portLanes 0 ports
      = some l ∧ d.dt + armLead ≤ act ∧ mac < 16) := by
  exact ⟨⟨st { b0 with glb := { b0.glb with armed := some ⟨1, 5⟩ } }, _, _, _, _, rfl, rfl, rfl, by decide +kernel⟩,
   ⟨st ({ b0 with glb := { b0.glb with armed := some ⟨1, 5⟩ } }.set GLB.COMMIT_STAT.Busy 1), _, _, rfl, rfl, by decide +kernel⟩,
   ⟨st (b0.set GLB.COMMIT_STAT.Busy 1), _, rfl, (by intro a h; cases h), by decide +kernel⟩,
   ⟨st ({ b0 with glb := { b0.glb with armed := some ⟨1, 0⟩ } }.set GLB.COMMIT_STAT.Busy 1), _, _, rfl, rfl, by decide +kernel⟩,
   ⟨st b0, _, armLead, 15, [(4, 100), (4, 200)], _, rfl, rfl, by decide +kernel⟩⟩

/-- What the hypotheses of AclCommands ask is met. -/
theorem witness_AclCommands :
    (∃ (s : State) (d : Dev) (fn n i : Nat) (e : AclEnt), s.chip.dev = d ∧ d.get ACL.ENT_SEL.Index n = i ∧ (d.laidBank n).ent i = e ∧ n
      < 16 ∧ d.opens fn .acl n = true ∧ i < d.aclEntries n ∧ d.acl.plane < 2 ∧ d.flag GLB.COMMIT_STAT.Busy = false ∧ d.actDue = false ∧
      (d.bank n).deferred = [] ∧ aclActionOk (d.get ACL.ACTION.Action n) = true) ∧
    (∃ (s : State) (d : Dev) (fn n i : Nat) (e : AclEnt), s.chip.dev = d ∧ d.get ACL.ENT_SEL.Index n = i ∧ (d.laidBank n).ent i = e ∧ n
      < 16 ∧ d.opens fn .acl n = true ∧ i < d.aclEntries n ∧ d.acl.plane < 2 ∧ d.flag GLB.COMMIT_STAT.Busy = false ∧ d.actDue = false ∧
      (d.bank n).deferred = []) ∧
    (∃ (s : State) (d : Dev) (fn n i : Nat) (e : AclEnt), s.chip.dev = d ∧ d.get ACL.ENT_SEL.Index n = i ∧ (d.laidBank n).ent i = e ∧ n
      < 16 ∧ d.opens fn .acl n = true ∧ i < d.aclEntries n ∧ d.acl.plane < 2 ∧ (d.flag GLB.COMMIT_STAT.Busy = true ∨ d.actDue = true)) ∧
    (∃ (s : State) (d : Dev) (fn n i : Nat) (e : AclEnt), s.chip.dev = d ∧ d.get ACL.ENT_SEL.Index n = i ∧ (d.laidBank n).ent i = e ∧ n
      < 16 ∧ d.opens fn .acl n = true ∧ i < d.aclEntries n ∧ d.acl.plane < 2 ∧ d.injects .acl n 1 = false) ∧
    (∃ (s : State) (d : Dev) (n : Nat) (o : AclOp) (rest : List AclOp), s.chip.dev = d ∧ (d.bank n).deferred = o :: rest ∧ o.write =
      false ∧ d.acl.plane < 2 ∧ d.flag GLB.COMMIT_STAT.Busy = false ∧ d.actDue = false) ∧
    (∃ (s : State) (d : Dev) (n i : Nat) (rest : List Nat), s.chip.dev = d ∧ (d.bank n).repair = i :: rest ∧ d.injects .acl n 0 = false) ∧
    (∃ (s : State) (d : Dev) (n i v m : Nat) (e : AclEnt) (rest : Tab AclEnt), s.chip.dev = d ∧ (d.bank n).ents = (i, e) :: rest ∧ e.arr
      = some (v, m) ∧ (d.bank n).repair = [] ∧ d.injects .acl n 1 = false ∧ (v ≠ e.v ∨ m ≠ e.m)) ∧
    (∃ (s : State) (d : Dev) (pid n : Nat) (p : Pkt) (h : BankHit), s.chip.dev = d ∧ Tab.find d.pkts pid = some p ∧ p.look.banks.find?
      (fun h => h.bank = n && h.again) = some h) := by
  exact ⟨⟨st b0, _, 0, 15, _, _, rfl, rfl, rfl, by decide +kernel⟩,
   ⟨st b0, _, 0, 15, _, _, rfl, rfl, rfl, by decide +kernel⟩,
   ⟨st (b0.set GLB.COMMIT_STAT.Busy 1), _, 0, 15, _, _, rfl, rfl, rfl, by decide +kernel⟩,
   ⟨st b0, _, 0, 15, _, _, rfl, rfl, rfl, by decide +kernel⟩,
   ⟨st { b0 with acl := { b0.acl with banks := [(15, { deferred := [⟨false, 0, 0, 0, 0⟩] })] } }, _, 15, _, _, rfl, rfl, by decide +kernel⟩,
   ⟨st { b0 with acl := { b0.acl with banks := [(15, { repair := [4095] })] } }, _, 15, _, _, rfl, rfl, by decide +kernel⟩,
   ⟨st { b0 with acl := { b0.acl with banks := [(15, { ents := [(3, { v := 1, arr := some (0, 0) })] })] } }, _, 15, _, _, _, _, _, rfl,
    rfl, rfl, by decide +kernel⟩,
   ⟨st { b0 with pkts := [(2, { look := { ({} : Pkt).look with banks := [⟨15, none, some 4, true⟩] } })] }, _, 2, 15, _, _, rfl, rfl, rfl⟩⟩

/-- What the hypotheses of Snapshots ask is met. -/
theorem witness_Snapshots :
    (∃ (s : State) (d : Dev) (fn : Nat), s.chip.dev = d ∧ d.opens fn .pmc 0 = true) ∧
    (∃ (s : State) (d : Dev) (fn : Nat), s.chip.dev = d ∧ (∃ b ∈ blkTable, d.inScope b.type = true) ∧ d.opens fn .gth 0 = true ∧
      d.pmc.snapArm = none ∧ d.pmc.snap = none ∧ d.get DMA.BIND.Endpoint 0 (d.get GTH.SNAP_CFG.Channel) = 9) ∧
    (∃ (s : State) (d : Dev) (fn : Nat), s.chip.dev = d ∧ (∃ b ∈ blkTable, d.inScope b.type = true) ∧ d.opens fn .gth 0 = true ∧
      d.pmc.snapArm = none ∧ d.pmc.snap = none ∧ d.get DMA.BIND.Endpoint 0 (d.get GTH.SNAP_CFG.Channel) = 9 ∧ d.dt + armLead ≤
      d.snapTime ∧ d.get GTH.SNAP_TIME_NS.Nanoseconds ≤ 999999999) ∧
    (∃ (s : State) (d : Dev) (fn : Nat), s.chip.dev = d ∧ d.opens fn .gth 0 = true ∧ d.snapTime < d.dt + armLead) ∧
    (∃ (s : State) (d : Dev) (fn a : Nat), s.chip.dev = d ∧ d.pmc.snapArm = some a ∧ d.opens fn .gth 0 = true) ∧
    (∃ (s : State) (d : Dev) (a p : Nat), s.chip.dev = d ∧ d.pmc.snapArm = some a ∧ d.get GTH.SNAP_PERIOD.Period = p ∧ d.pmc.snap =
      none) ∧
    (∃ (s : State) (d : Dev) (a p : Nat) (b : SnapBuf), s.chip.dev = d ∧ d.pmc.snapArm = some a ∧ d.get GTH.SNAP_PERIOD.Period = p ∧
      d.pmc.snap = some b) ∧
    (∃ (s : State) (d : Dev) (b : SnapBuf), s.chip.dev = d ∧ d.pmc.snap = some b ∧ b.gathered = none) ∧
    (∃ (s : State) (d : Dev) (b : SnapBuf) (n ch : Nat), s.chip.dev = d ∧ d.pmc.snap = some b ∧ b.gathered = some n ∧ d.get
      GTH.SNAP_CFG.Channel = ch ∧ b.sent = none ∧ d.streamRoom ch = true) ∧
    (∃ (s : State) (d : Dev) (b : SnapBuf) (ch : Nat), s.chip.dev = d ∧ d.pmc.snap = some b ∧ b.sent = some (ch, 0)) ∧
    (∃ (s : State) (d : Dev) (b : SnapBuf) (ch n : Nat), s.chip.dev = d ∧ d.pmc.snap = some b ∧ b.sent = some (ch, n + 1)) := by
  exact ⟨⟨st b0, _, 0, rfl, by decide +kernel⟩,
   ⟨st (((b0.set GTH.SNAP_CFG.Channel 255).set DMA.BIND.Endpoint 9 0 255).set GTH.SNAP_SCOPE_LO.TypesLo 2), _, 0, rfl, ⟨blkRow .glb,
    by decide, by decide⟩, by decide +kernel⟩,
   ⟨st ((((b0.set GTH.SNAP_CFG.Channel 255).set DMA.BIND.Endpoint 9 0 255).set GTH.SNAP_SCOPE_LO.TypesLo 2).set
    GTH.SNAP_TIME_SEC_LO.SecondsLo 1), _, 0, rfl, ⟨blkRow .glb, by decide, by decide⟩, by decide +kernel⟩,
   ⟨st b0, _, 0, rfl, by decide +kernel⟩,
   ⟨st { b0 with pmc := { b0.pmc with snapArm := some 5 } }, _, 0, _, rfl, rfl, by decide +kernel⟩,
   ⟨st { b0 with pmc := { b0.pmc with snapArm := some 5 } }, _, _, _, rfl, rfl, rfl, by decide +kernel⟩,
   ⟨st
    { b0 with pmc := { b0.pmc with snapArm := some 5, snap := some { seq := 0, clear := false, act := 5, gen := 0, results := [], at0 := 0, bound := 9 } } },
    _, _, _, _, rfl, rfl, rfl, rfl⟩,
   ⟨st
    { b0 with pmc := { b0.pmc with snap := some { seq := 0, clear := false, act := 5, gen := 0, results := [], at0 := 0, bound := 9 } } },
    _, _, rfl, rfl, by decide +kernel⟩,
   ⟨st
    ({ b0 with pmc := { b0.pmc with snap := some { seq := 0, clear := false, act := 5, gen := 0, results := [], at0 := 0, bound := 9, gathered := some 3 } } }
    |>.set GTH.SNAP_CFG.Channel 255 |>.set DMA.BIND.Endpoint 9 0 255 |>.set DCH.STAT.State 1 255 |>.set DCH.STAT.Credit 1 255 |>.set
    DCH.BURST.Bytes 64 255), _, _, _, _, rfl, rfl, rfl, rfl, by decide +kernel⟩,
   ⟨st
    { b0 with pmc := { b0.pmc with snap := some { seq := 0, clear := false, act := 5, gen := 0, results := [], at0 := 0, bound := 9, sent := some (255, 0) } } },
    _, _, 255, rfl, rfl, by decide +kernel⟩,
   ⟨st
    { b0 with pmc := { b0.pmc with snap := some { seq := 0, clear := false, act := 5, gen := 0, results := [], at0 := 0, bound := 9, sent := some (255, 4) } } },
    _, _, 255, 3, rfl, rfl, by decide +kernel⟩⟩

/-- What the hypotheses of BandwidthIpfix ask is met. -/
theorem witness_BandwidthIpfix :
    (∃ (s : State) (d : Dev), s.chip.dev = d ∧ d.flag PMC.BW_CFG.Enable = true) ∧
    (∃ (s : State) (d : Dev) (fn : Nat), s.chip.dev = d ∧ d.opens fn .pmc 0 = true) ∧
    (∃ (s : State) (d : Dev) (fn : Nat), s.chip.dev = d ∧ d.opens fn .pmc 0 = true) ∧
    (∃ (s : State) (d : Dev) (fn data : Nat), s.chip.dev = d ∧ d.opens fn .pmc 0 = true ∧ d.flag PMC.IPX_CFG.Enable = false ∧ bit data 0
      = true) ∧
    (∃ (s : State) (d : Dev) (ch : Nat), s.chip.dev = d ∧ d.get PMC.IPX_CFG.Channel = ch ∧ d.pmc.ipxRing = [] ∧ d.pmc.open ≠ 0 ∧
      d.streamRoom ch = true ∧ d.flag PMC.IPX_CFG.Enable = false) ∧
    (∃ (s : State) (d : Dev) (ch : Nat), s.chip.dev = d ∧ d.get PMC.IPX_CFG.Channel = ch ∧ d.pmc.ipxRing = [] ∧ d.pmc.open ≠ 0 ∧
      d.streamRoom ch = true) := by
  exact ⟨⟨st (b0.set PMC.BW_CFG.Enable 1), _, rfl, by decide +kernel⟩,
   ⟨st b0, _, 0, rfl, by decide +kernel⟩,
   ⟨st b0, _, 0, rfl, by decide +kernel⟩,
   ⟨st b0, _, 0, 1, rfl, by decide +kernel⟩,
   ⟨st ({ b0 with pmc := { b0.pmc with ipxRing := [], msg256 := [[]] } } |>.set PMC.IPX_CFG.Channel 255 |>.set DMA.BIND.Endpoint 9 0 255
    |>.set DCH.STAT.State 1 255 |>.set DCH.STAT.Credit 1 255 |>.set DCH.BURST.Bytes 64 255), _, _, rfl, rfl, by decide +kernel⟩,
   ⟨st ({ b0 with pmc := { b0.pmc with ipxRing := [], msg256 := [[]] } } |>.set PMC.IPX_CFG.Channel 255 |>.set DMA.BIND.Endpoint 9 0 255
    |>.set DCH.STAT.State 1 255 |>.set DCH.STAT.Credit 1 255 |>.set DCH.BURST.Bytes 64 255), _, _, rfl, rfl, by decide +kernel⟩⟩

/-- What the hypotheses of IngressPath ask is met. -/
theorem witness_IngressPath :
    (∃ (s : State) (d : Dev) (port lane : Nat), s.chip.dev = d ∧ port < 128 ∧ (d.port port).state = 2 ∧ (d.port port).link = true ∧ port
      ≤ lane ∧ lane < port + (d.portMode port).1 ∧ d.glb.dpr = .idle ∧ d.arbiterOn (portSlice port) = true ∧ d.accepts .mac (port / 8) =
      true ∧ d.accepts .ser lane = true ∧ d.injects .prs (portSlice port) 0 = false) ∧
    (∃ (s : State) (d : Dev) (port : Nat) (f : List Byte) (rest : List (List Byte)), s.chip.dev = d ∧ Tab.get [] d.eg.recirc (port -
      130) = f :: rest ∧ 130 ≤ port ∧ port < 138 ∧ d.arbiterOn (portSlice port) = true ∧ d.hostWaits (portSlice port) = false ∧
      d.injects .prs (portSlice port) 0 = false) ∧
    (∃ (s : State) (d : Dev) (pid : Nat) (p : Pkt), s.chip.dev = d ∧ Tab.find d.pkts pid = some p ∧ p.due ≠ 0 ∧ p.dropped = false ∧
      d.freeCells ≠ 0 ∧ d.used p.port p.cls < (d.admOf p.gen 0 p.port p.cls).1) ∧
    (∃ (s : State) (d : Dev) (pid : Nat) (p : Pkt), s.chip.dev = d ∧ Tab.find d.pkts pid = some p ∧ p.due = p.total ∧ p.due ≠ 0 ∧
      p.dropped = false ∧ d.freeCells = 0) ∧
    (∃ (s : State) (d : Dev) (pid fcs good len : Nat) (p : Pkt), s.chip.dev = d ∧ Tab.find d.pkts pid = some p ∧ p.asCame.getD (crc32
      p.bytes, p.len) = (good, len) ∧ p.due = 0 ∧ p.ended = false ∧ p.dropped = false ∧ len ≤ 10240 ∧ (128 ≤ p.port ∨ fcs = good)) ∧
    (∃ (s : State) (d : Dev) (pid fcs good len : Nat) (p : Pkt), s.chip.dev = d ∧ Tab.find d.pkts pid = some p ∧ p.asCame.getD (crc32
      p.bytes, p.len) = (good, len) ∧ p.due = 0 ∧ p.ended = false ∧ p.dropped = false ∧ len ≤ 10240 ∧ p.port < 128 ∧ fcs ≠ good ∧ p.sent
      = false) := by
  exact ⟨⟨st ({ b0 with eg := { b0.eg with ports := [(127, { state := 2, link := true })] } } |>.set (HDR.CTL.Enable .mac) 1 15 |>.set
    (HDR.CTL.Enable .ser) 1 127 |>.set (HDR.CTL.Enable .prs) 1 7 |>.set (HDR.CTL.Enable .slc) 1 7), _, 127, 127, rfl, by decide +kernel⟩,
   ⟨st ({ b0 with eg := { b0.eg with recirc := [(7, [[0]])] } } |>.set (HDR.CTL.Enable .prs) 1 7 |>.set (HDR.CTL.Enable .slc) 1 7), _, 137,
    _, _, rfl, rfl, by decide +kernel⟩,
   ⟨st { b0 with pkts := [(4, { due := 1 })], bsn := { b0.bsn with lim := [(0, (1, 1))] } }, _, 4, _, rfl, rfl, by decide +kernel⟩,
   ⟨st { b0 with pkts := [(4, { due := 1, total := 1 })], bsn := { b0.bsn with cells := 786432 } }, _, 4, _, rfl, rfl, rfl,
    by decide +kernel⟩,
   ⟨st { b0 with pkts := [(4, { port := 128, len := 10240 })] }, _, 4, 0, _, _, _, rfl, rfl, rfl, by decide +kernel⟩,
   ⟨st { b0 with pkts := [(4, { len := 10240 })] }, _, 4, 5, _, _, _, rfl, rfl, rfl, by decide +kernel⟩⟩

/-- What the hypotheses of MergeStep ask is met. -/
theorem witness_MergeStep :
    (∃ (s : State) (d : Dev) (pid a : Nat) (p : Pkt), s.chip.dev = d ∧ Tab.find d.pkts pid = some p ∧ p.action = some a ∧ d.mergeable
      pid p = true ∧ bit a 7 = false ∧ (∀ g, g < 4 → d.winner p.gen g p.look.banks = none) ∧ d.meterOf p.gen p.port none = none ∧ a % 4
      = 1) ∧
    (∃ (s : State) (d : Dev) (pid a : Nat) (p : Pkt), s.chip.dev = d ∧ Tab.find d.pkts pid = some p ∧ p.action = some a ∧ d.mergeable
      pid p = true ∧ bit a 7 = false ∧ (∀ g, g < 4 → d.winner p.gen g p.look.banks = none) ∧ d.meterOf p.gen p.port none = none ∧ a % 4
      = 2) ∧
    (∃ (s : State) (d : Dev) (pid a : Nat) (p : Pkt), s.chip.dev = d ∧ Tab.find d.pkts pid = some p ∧ p.action = some a ∧ d.mergeable
      pid p = true ∧ bit a 7 = false ∧ (∀ g, g < 4 → d.winner p.gen g p.look.banks = none) ∧ d.meterOf p.gen p.port none = none ∧ a % 4
      = 0 ∧ bits a 12 2 < 2 ∧ p.look.learn = 0 ∧ p.look.l2hit = true ∧ p.look.l2router = false ∧ p.look.l2port ≤ 137 ∧ p.fcs = 0) ∧
    (∃ (s : State) (d : Dev) (pid : Nat) (p : Pkt), s.chip.dev = d ∧ Tab.find d.pkts pid = some p ∧ p.annexDue = true ∧ p.dropped =
      false) ∧
    (∃ (s : State) (d : Dev) (pid : Nat) (p : Pkt) (a : Nat) (k : List Byte), s.chip.dev = d ∧ Tab.find d.pkts pid = some p ∧ p.action =
      some a ∧ Mem.readN s.chip.hbm (annexAddr (bits a 32 30)) 48 = k ∧ be k 36 2 = bits a 80 16 ∧ p.annexDue = true ∧ p.dropped = false
      ∧ d.spanBad (annexAddr (bits a 32 30)) 48 = false ∧ bit (k.getD 1 0).toNat 0 = true) := by
  exact ⟨⟨st { b0 with pkts := [(4, { action := some 1, len := 60 })] }, _, 4, _, _, rfl, rfl, rfl, by decide +kernel⟩,
   ⟨st { b0 with pkts := [(4, { action := some 2, len := 60 })] }, _, 4, _, _, rfl, rfl, rfl, by decide +kernel⟩,
   ⟨st { b0 with pkts := [(4, { action := some 0, len := 60, look := { ({} : Pkt).look with l2hit := true, l2port := 137 } })] }, _, 4, _,
    _, rfl, rfl, rfl, by decide +kernel⟩,
   ⟨st { b0 with pkts := [(4, { annexDue := true })] }, _, 4, _, rfl, rfl, by decide +kernel⟩,
   ⟨st { b0 with pkts := [(4, { annexDue := true, action := some 0 })] } [(annexAddr 0 + 1, 1)], _, 4, _, _, _, rfl, rfl, rfl, rfl, rfl,
    by decide +kernel⟩⟩

/-- What the hypotheses of RillOrder ask is met. -/
theorem witness_RillOrder :
    (∃ (s : State) (d : Dev) (pid e : Nat) (p : Pkt), s.chip.dev = d ∧ Tab.find d.pkts pid = some p ∧ (∃ x ∈ p.targets, portSlice x = e)
      ∧ p.merged = true ∧ p.dropped = false ∧ p.punted = false ∧ p.annexDue = false ∧ e ∉ p.arrived ∧ d.accepts .rsq e = true ∧ p.domain
      = none) ∧
    (∃ (s : State) (d : Dev) (pid e : Nat) (p : Pkt) (dom n : Nat), s.chip.dev = d ∧ Tab.find d.pkts pid = some p ∧ (∃ x ∈ p.targets,
      portSlice x = e) ∧ p.domain = some dom ∧ p.seqs.find? (fun x => x.1 == e) = some (e, n, Tab.get 0 d.eg.tag (tagKey dom e)) ∧
      p.merged = true ∧ p.dropped = false ∧ p.punted = false ∧ p.annexDue = false ∧ e ∉ p.arrived ∧ d.accepts .rsq e = true ∧ n < 65536
      ∧ (d.rillOf e).expected dom = n) ∧
    (∃ (s : State) (d : Dev) (pid e : Nat) (p : Pkt) (dom n a : Nat), s.chip.dev = d ∧ Tab.find d.pkts pid = some p ∧ (∃ x ∈ p.targets,
      portSlice x = e) ∧ p.domain = some dom ∧ p.seqs.find? (fun x => x.1 == e) = some (e, n, Tab.get 0 d.eg.tag (tagKey dom e)) ∧ ahead
      n ((d.rillOf e).expected dom) = a ∧ (∀ h ∈ (d.rillOf e).held, h.domain = dom → h.num ≠ n) ∧ p.merged = true ∧ p.dropped = false ∧
      p.punted = false ∧ p.annexDue = false ∧ e ∉ p.arrived ∧ d.accepts .rsq e = true ∧ a ≠ 0 ∧ a < min 4096 (max 1 (d.get
      RSQ.CFG.Window e)) ∧ (d.rillOf e).held.length < 16384) ∧
    (∃ (s : State) (d : Dev) (e : Nat) (h : Held), s.chip.dev = d ∧ (d.rillOf e).held = [h] ∧ (d.rillOf e).voids = [] ∧ h.num < 65536) ∧
    (∃ (s : State) (d : Dev) (e dom n tag : Nat) (rest : List (Nat × Nat × Nat × Nat)), s.chip.dev = d ∧ d.eg.voidQ = (e, dom, n, tag)
      :: rest) := by
  exact ⟨⟨st (({ b0 with pkts := [(4, { merged := true, targets := [127] })] }).set (HDR.CTL.Enable .rsq) 1 7), _, 4, 7, _, rfl, rfl, ⟨127,
    by decide, by decide⟩, by decide +kernel⟩,
   ⟨st (({ b0 with pkts := [(4, { merged := true, targets := [127], domain := some 5, seqs := [(7, 0, 0)] })] }).set (HDR.CTL.Enable .rsq)
    1 7), _, 4, 7, _, _, 0, rfl, rfl, ⟨127, by decide, by decide⟩, rfl, rfl, by decide +kernel⟩,
   ⟨st (({ b0 with pkts := [(4, { merged := true, targets := [127], domain := some 5, seqs := [(7, 4095, 0)] })] }).set (HDR.CTL.Enable
    .rsq) 1 7 |>.set RSQ.CFG.Window 4096 7), _, 4, 7, _, _, 4095, _, rfl, rfl, ⟨127, by decide, by decide⟩, rfl, rfl, rfl,
    (by intro h hh; cases hh), by decide +kernel⟩,
   ⟨st { b0 with eg := { b0.eg with rill := [(7, { held := [⟨5, 6, 4, 0⟩] })] } }, _, 7, _, rfl, rfl, by decide +kernel⟩,
   ⟨st { b0 with eg := { b0.eg with voidQ := [(7, 5, 6, 0)] } }, _, _, _, _, _, _, rfl, rfl⟩⟩

/-- What the hypotheses of EgressQueues ask is met. -/
theorem witness_EgressQueues :
    (∃ (s : State) (d : Dev) (pid port q : Nat) (p : Pkt), s.chip.dev = d ∧ Tab.find d.pkts pid = some p ∧ d.queueOf p port = q ∧
      p.merged = true ∧ p.dropped = false ∧ p.punted = false ∧ p.annexDue = false ∧ port ∈ p.targets ∧ portSlice port ∈ p.released ∧
      d.behind pid port p.domain = false ∧ d.accepts .egs (portSlice port) = true ∧ p.ended = true ∧ p.fcs = 0 ∧ d.portTakes port = true
      ∧ (d.eq port q).cells < (d.admOf p.gen 1 port q).2 ∧ (d.groupOf p port q).1.filter (fun n => (d.gcfg n).mode ≠ 0) = none) ∧
    (∃ (s : State) (d : Dev) (port lane q : Nat) (c : Copy) (rest : List Copy), s.chip.dev = d ∧ d.nextQueue port = some q ∧ (d.eq port
      q).ready = c :: rest ∧ d.pathMoves = true ∧ port < 128 ∧ (d.port port).state = 2 ∧ (d.port port).link = true ∧ (d.port port).tx =
      none ∧ port ≤ lane ∧ lane < port + (d.portMode port).1 ∧ d.injects .bsn 0 0 = false) ∧
    (∃ (s : State) (d d' : Dev) (port : Nat) (c : Copy), s.chip.dev = d ∧ d.takeFifo port = some (c, d') ∧ d.pathMoves = true ∧ 130 ≤
      port ∧ port < 138 ∧ d.injects .bsn 0 0 = false) ∧
    (∃ (s : State) (d : Dev) (port : Nat) (c : Copy), s.chip.dev = d ∧ (d.port port).tx = some c ∧ (d.pkt c.pid).ended = true ∧ (d.pkt
      c.pid).trunc = false ∧ (128 ≤ port ∨ (d.port port).link = true) ∧ d.injects .bsn 0 0 = false) ∧
    (∃ (s : State) (d : Dev) (port : Nat), s.chip.dev = d ∧ d.inUse port = true ∧ (d.port port).state = 2 ∧ d.cfg EGS.PORT_CFG.PauseEn
      (portSlice port) (portIdx port) ≠ 0) ∧
    (∃ (s : State) (d : Dev) (port q u : Nat), s.chip.dev = d ∧ (d.eq port q).pauseTo = some u ∧ (∀ r v, r < 16 → (d.eq port r).pauseTo
      = some v → u ≤ v) ∧ q < 16) := by
  exact ⟨⟨st
    ({ b0 with eg := { b0.eg with ports := [(127, { state := 2 })] }, bsn := { b0.bsn with lim := [(6128, (0, 1))] }, pkts := [(4, { merged := true, targets := [127], released := [7], ended := true })] }.set
    (HDR.CTL.Enable .egs) 1 7), _, 4, 127, _, _, rfl, rfl, rfl, by decide +kernel⟩,
   ⟨st
    { b0 with eg := { b0.eg with ports := [(127, { state := 2, link := true })], queues := [(127 * 16 + 15, { ready := [{ pid := 4, port := 127, queue := 15, group := none, len := 64, cells := 1, cut := false, ord := 0 }] })] } },
    _, 127, 127, _, _, _, rfl, rfl, rfl, by decide +kernel⟩,
   ⟨st
    { b0 with eg := { b0.eg with queues := [(137 * 16 + 15, { ready := [{ pid := 4, port := 137, queue := 15, group := none, len := 64, cells := 1, cut := false, ord := 0 }] })] } },
    _, _, 137, _, rfl, rfl, by decide +kernel⟩,
   ⟨st
    { b0 with eg := { b0.eg with ports := [(127, { link := true, tx := some { pid := 4, port := 127, queue := 15, group := none, len := 64, cells := 1, cut := false, ord := 0 } })] }, pkts := [(4, { ended := true })] },
    _, 127, _, rfl, rfl, by decide +kernel⟩,
   ⟨st (on { b0 with eg := { b0.eg with ports := [(127, { state := 2 })] } } EGS.PORT_CFG.PauseEn 1 7 15), _, 127, rfl, by decide +kernel⟩,
   ⟨st pauseDev, _, 127, 15, _, rfl, rfl, pauseLeast, by decide +kernel⟩⟩

/-- What the hypotheses of Shapers ask is met. -/
theorem witness_Shapers :
    (∃ (s : State) (d : Dev) (g el : Nat) (st : GrpState) (c : Copy) (rest : List Copy), s.chip.dev = d ∧ (d.grp g).list = c :: rest ∧
      evalHead (d.gcfg g) (d.grp g) (d.grp g).headAt (c.grpCharge (d.gcfg g)) = (el, st) ∧ (d.grp g).eval = none) ∧
    (∃ (s : State) (d : Dev) (e p0 : Nat) (w : WheelEnt) (c : Copy) (rest : List Copy), s.chip.dev = d ∧ d.pllAt = some p0 ∧ Tab.get []
      d.eg.wheel e = [w] ∧ (d.grp w.grp).list = c :: rest ∧ p0 ≤ d.cyc ∧ w.level = 0) ∧
    (∃ (s : State) (d : Dev) (e p0 el : Nat) (w : WheelEnt), s.chip.dev = d ∧ d.pllAt = some p0 ∧ Tab.get [] d.eg.wheel e = [w] ∧ p0 ≤
      d.cyc ∧ w.level = 1 ∧ (d.grp w.grp).eval = some el) ∧
    (∃ (s : State) (d : Dev) (g : Nat) (x : GrpState), s.chip.dev = d ∧ d.grp g = x ∧ x.list = [] ∧ x.k ≤ d.boundary) := by
  exact ⟨⟨st
    { b0 with eg := { b0.eg with grps := [(3, { list := [{ pid := 4, port := 0, queue := 0, group := some 3, len := 64, cells := 1, cut := false, ord := 0 }] })] } },
    _, 3, _, _, _, _, rfl, rfl, rfl, by decide +kernel⟩,
   ⟨st
    { b0 with pllAt := some 0, eg := { b0.eg with grps := [(3, { list := [{ pid := 4, port := 0, queue := 0, group := some 3, len := 64, cells := 1, cut := false, ord := 0 }] })], wheel := [(7, [⟨3, 5, 0⟩])] } },
    _, 7, _, _, _, _, rfl, rfl, rfl, rfl, by decide +kernel⟩,
   ⟨st { b0 with pllAt := some 0, eg := { b0.eg with wheel := [(7, [⟨3, 5, 1⟩])], grps := [(3, { eval := some 5 })] } }, _, 7, _, 5, _,
    rfl, rfl, rfl, by decide +kernel⟩,
   ⟨st b0, _, 3, _, rfl, rfl, by decide +kernel⟩⟩

/-- What the hypotheses of EgressSettings ask is met. -/
theorem witness_EgressSettings :
    (∃ (s : State) (d : Dev) (fn e p : Nat), s.chip.dev = d ∧ portOfIdx e (d.get EGS.QSEL.Port e) = some p ∧ e < 8 ∧ d.opens fn .egs e =
      true ∧ d.stgUsed egsBit e + 1 ≤ egsCap) ∧
    (∃ (s : State) (d : Dev) (fn e p : Nat), s.chip.dev = d ∧ portOfIdx e (d.get EGS.QSEL.Port e) = some p ∧ e < 8 ∧ d.opens fn .egs e =
      true) ∧
    (∃ (s : State) (d : Dev) (fn e : Nat) (c : Instr), s.chip.dev = d ∧ c ∈ [Instr.egsQcmdStage fn e, .egsQcmdLoad fn e] ∧ e < 8 ∧
      d.opens fn .egs e = true ∧ portOfIdx e (d.get EGS.QSEL.Port e) = none) ∧
    (∃ (s : State) (d : Dev) (fn e : Nat), s.chip.dev = d ∧ e < 8 ∧ d.opens fn .egs e = true ∧ d.stgUsed egsBit e + 1 ≤ egsCap ∧ d.get
      EGS.GRP_CFG.Mode e ≠ 3) ∧
    (∃ (s : State) (d : Dev) (fn e : Nat), s.chip.dev = d ∧ e < 8 ∧ d.opens fn .egs e = true) ∧
    (∃ (s : State) (d : Dev) (fn : Nat), s.chip.dev = d ∧ d.opens fn .mtr 0 = true ∧ d.stgUsed mtrBit 0 + 1 ≤ mtrCap) ∧
    (∃ (s : State) (d : Dev) (fn : Nat), s.chip.dev = d ∧ d.opens fn .mtr 0 = true) ∧
    (∃ (s : State) (d : Dev) (fn : Nat), s.chip.dev = d ∧ d.opens fn .mtr 0 = true) ∧
    (∃ (s : State) (d : Dev), s.chip.dev = d) := by
  exact ⟨⟨st b0, _, 0, 7, _, rfl, rfl, by decide +kernel⟩,
   ⟨st b0, _, 0, 7, _, rfl, rfl, by decide +kernel⟩,
   ⟨st (b0.set EGS.QSEL.Port 18 7), _, 0, 7, .egsQcmdStage 0 7, rfl, by simp, by decide +kernel⟩,
   ⟨st b0, _, 0, 7, rfl, by decide +kernel⟩,
   ⟨st b0, _, 0, 7, rfl, by decide +kernel⟩,
   ⟨st b0, _, 0, rfl, by decide +kernel⟩,
   ⟨st b0, _, 0, rfl, by decide +kernel⟩,
   ⟨st b0, _, 0, rfl, by decide +kernel⟩,
   ⟨st { b0 with mtr := { b0.mtr with cfg := [(65535, { cfg := 2 ^ 31 })] } }, _, rfl⟩⟩

/-- What the hypotheses of PortsAndBasin ask is met. -/
theorem witness_PortsAndBasin :
    (∃ (s : State) (d : Dev) (fn mac i data : Nat) (x : PortSt), s.chip.dev = d ∧ d.port (8 * mac + i) = x ∧ mac < 16 ∧ i < 8 ∧ d.opens
      fn .mac mac = true ∧ (d.portMode (8 * mac + i)).1 ≠ 0 ∧ data % 2 = 1 ∧ x.state = 0 ∧ (∀ k, k < (d.portMode (8 * mac + i)).1 → bit
      (d.get BOOT.LANE_FAIL.Lanes 0 ((8 * mac + i + k) / 32)) ((8 * mac + i + k) % 32) = false)) ∧
    (∃ (s : State) (d : Dev) (fn mac i data : Nat) (x : PortSt), s.chip.dev = d ∧ d.port (8 * mac + i) = x ∧ mac < 16 ∧ i < 8 ∧ d.opens
      fn .mac mac = true ∧ (d.portMode (8 * mac + i)).1 ≠ 0 ∧ data % 2 = 0 ∧ (x.state = 1 ∨ x.state = 2)) ∧
    (∃ (s : State) (d : Dev) (n : Nat) (x : PortSt), s.chip.dev = d ∧ d.port n = x ∧ d.inUse n = true ∧ x.link = true) ∧
    (∃ (s : State) (d : Dev) (n : Nat) (x : PortSt), s.chip.dev = d ∧ d.port n = x ∧ (∀ u, x.holdTo = some u → x.state = 2 → d.cyc < u)
      ∧ d.inUse n = true ∧ x.link = false ∧ x.held = false) ∧
    (∃ (s : State) (d : Dev) (n : Nat) (x : PortSt) (u : Nat), s.chip.dev = d ∧ d.port n = x ∧ x.holdTo = some u ∧ d.inUse n = true ∧
      x.link = false ∧ x.held = false ∧ x.state = 2 ∧ u ≤ d.cyc) ∧
    (∃ (s : State) (d : Dev) (n : Nat) (x : PortSt) (u : Nat), s.chip.dev = d ∧ d.port n = x ∧ x.holdTo = some u ∧ d.inUse n = true ∧
      x.state = 2 ∧ x.link = false) ∧
    (∃ (s : State) (d : Dev) (n : Nat) (x : PortSt), s.chip.dev = d ∧ d.port n = x ∧ d.inUse n = true ∧ x.state = 3) ∧
    (∃ (s : State) (d : Dev) (fn : Nat), s.chip.dev = d ∧ d.opens fn .bsn 0 = true) ∧
    (∃ (s : State) (d : Dev) (fn k : Nat), s.chip.dev = d ∧ d.admSel = some k ∧ d.opens fn .adm 0 = true ∧ d.stgUsed admBit 0 + 1 ≤
      admCap) ∧
    (∃ (s : State) (d : Dev) (fn k : Nat), s.chip.dev = d ∧ d.admSel = some k ∧ d.opens fn .adm 0 = true) ∧
    (∃ (s : State) (d : Dev) (fn : Nat) (c : Instr), s.chip.dev = d ∧ (137 < d.get ADM.SEL.Port ∨ (d.get ADM.SEL.Kind = 0 ∧ 7 < d.get
      ADM.SEL.Index)) ∧ c ∈ [Instr.admCmdWrite fn, .admCmdRead fn] ∧ d.opens fn .adm 0 = true) ∧
    (∃ (s : State), s.chip.dev.bsn.reserveOnly = true) := by
  exact ⟨⟨st b0, _, 0, 15, 7, 1, _, rfl, rfl, by decide +kernel⟩,
   ⟨st { b0 with eg := { b0.eg with ports := [(127, { state := 2 })] } }, _, 0, 15, 7, 0, _, rfl, rfl, by decide +kernel⟩,
   ⟨st { b0 with eg := { b0.eg with ports := [(127, { link := true })] } }, _, 127, _, rfl, rfl, by decide +kernel⟩,
   ⟨st b0, _, 127, _, rfl, rfl, (by intro u h; cases h), by decide +kernel⟩,
   ⟨st { b0 with eg := { b0.eg with ports := [(127, { state := 2, holdTo := some 0 })] } }, _, 127, _, _, rfl, rfl, rfl, by decide +kernel⟩,
   ⟨st { b0 with eg := { b0.eg with ports := [(127, { state := 2, holdTo := some 9 })] } }, _, 127, _, _, rfl, rfl, rfl, by decide +kernel⟩,
   ⟨st { b0 with eg := { b0.eg with ports := [(127, { state := 3 })] } }, _, 127, _, rfl, rfl, by decide +kernel⟩,
   ⟨st b0, _, 0, rfl, by decide +kernel⟩,
   ⟨st b0, _, 0, _, rfl, rfl, by decide +kernel⟩,
   ⟨st b0, _, 0, _, rfl, rfl, by decide +kernel⟩,
   ⟨st (b0.set ADM.SEL.Port 138), _, 0, .admCmdWrite 0, rfl, .inl (by decide), by simp, by decide +kernel⟩,
   ⟨st { b0 with bsn := { b0.bsn with reserveOnly := true } }, by decide +kernel⟩⟩

/-- What the hypotheses of DmaControl ask is met. -/
theorem witness_DmaControl :
    (∃ (s : State) (d : Dev) (fn c data v : Nat), s.chip.dev = d ∧ data % 16 = v ∧ (isRx v = true → ∀ k, k < dmaChans → k ≠ c →
      d.endpoint k ≠ v) ∧ (isTx v = true → ((List.range dmaChans).filter fun k => k != c && d.endpoint k == v).length < 16) ∧ d.opens fn
      .dma 0 = true ∧ c < dmaChans ∧ d.get DCH.STAT.State c = 0 ∧ v ≤ 9) ∧
    (∃ (s : State) (d : Dev) (fn c data v : Nat), s.chip.dev = d ∧ data % 16 = v ∧ d.opens fn .dma 0 = true ∧ c < dmaChans ∧ d.get
      DCH.STAT.State c ≠ 0) ∧
    (∃ (s : State) (d : Dev) (fn c data v : Nat), s.chip.dev = d ∧ data % 16 = v ∧ d.opens fn .dma 0 = true ∧ c < dmaChans ∧ bits data 0
      15 + bits data 16 15 ≤ 32768) ∧
    (∃ (s : State) (d : Dev) (fn window c w : Nat), s.chip.dev = d ∧ (if fn = 0 then window else fn) = w ∧ fn ≠ 128 ∧ d.reachable fn =
      true ∧ c < dmaChans ∧ w < 128 ∧ d.chanOwner c = w) ∧
    (∃ (s : State) (d : Dev) (fn c : Nat), s.chip.dev = d ∧ c < dmaChans ∧ d.opensOwn fn .dch c = true ∧ (d.chan c).stopping = false ∧
      d.endpoint c ≠ 0 ∧ d.get DCH.STAT.State c = 0) ∧
    (∃ (s : State) (d : Dev) (fn c : Nat), s.chip.dev = d ∧ c < dmaChans ∧ d.opensOwn fn .dch c = true ∧ d.get DCH.STAT.State c = 3) ∧
    (∃ (s : State) (d : Dev) (fn c : Nat), s.chip.dev = d ∧ c < dmaChans ∧ d.opensOwn fn .dch c = true ∧ (d.get DCH.STAT.State c = 1 ∨
      d.get DCH.STAT.State c = 2)) ∧
    (∃ (s : State) (d : Dev) (fn c : Nat), s.chip.dev = d ∧ c < dmaChans ∧ d.opensOwn fn .dch c = true ∧ (d.chan c).stopping = false ∧
      d.endpoint c ≠ 0 ∧ d.get DCH.STAT.State c = 3) ∧
    (∃ (s : State) (d : Dev) (fn c : Nat), s.chip.dev = d ∧ c < dmaChans ∧ d.opensOwn fn .dch c = true ∧ (d.get DCH.STAT.State c = 0 ∨
      d.get DCH.STAT.State c = 3)) ∧
    (∃ (s : State) (d : Dev) (c : Nat), s.chip.dev = d ∧ (d.chan c).stopping = true ∧ (d.chan c).reads = [] ∧ (d.chan c).descs = []) := by
  exact ⟨⟨st b0, _, 0, 255, 1, _, rfl, rfl, (by intro h; exact absurd h (by decide)), (by intro h; exact absurd h (by decide)),
    by decide +kernel⟩,
   ⟨st (b0.set DCH.STAT.State 1 255), _, 0, 255, 1, _, rfl, rfl, by decide +kernel⟩,
   ⟨st b0, _, 0, 255, 0x40004000, _, rfl, rfl, by decide +kernel⟩,
   ⟨st b0, _, 0, 0, 255, 0, rfl, rfl, by decide +kernel⟩,
   ⟨st (b0.set DMA.BIND.Endpoint 1 0 255), _, 0, 255, rfl, by decide +kernel⟩,
   ⟨st (b0.set DCH.STAT.State 3 255), _, 0, 255, rfl, by decide +kernel⟩,
   ⟨st (b0.set DCH.STAT.State 2 255), _, 0, 255, rfl, by decide +kernel⟩,
   ⟨st ((b0.set DMA.BIND.Endpoint 1 0 255).set DCH.STAT.State 3 255), _, 0, 255, rfl, by decide +kernel⟩,
   ⟨st b0, _, 0, 255, rfl, by decide +kernel⟩,
   ⟨st { b0 with dma := { b0.dma with chans := [(255, { stopping := true })] } }, _, 255, rfl, by decide +kernel⟩⟩

/-- What the hypotheses of DmaTransfers ask is met. -/
theorem witness_DmaTransfers :
    (∃ (s : State) (d : Dev) (c n : Nat), s.chip.dev = d ∧ (∀ r ∈ (d.chan c).reads, r.why = .desc → r.drop = true) ∧ d.dmaRuns c = true
      ∧ d.endpoint c ≠ 0 ∧ d.readRoom c (d.get DCH.HEAD.Addr c) (32 * min 8 (d.get DCH.STAT.Credit c)) / 32 * 32 = n ∧ n ≠ 0) ∧
    (∃ (s : State) (d : Dev) (c idx : Nat) (data : List Byte) (r : DmaRead) (w : DescW), s.chip.dev = d ∧ (d.chan c).reads[idx]? = some
      r ∧ c < dmaChans ∧ r.why = .desc ∧ r.drop = false ∧ r.len = 32 ∧ data.length = 32 ∧ d.get DCH.HEAD.Addr c = r.addr ∧ descOf data =
      w ∧ w.kind = 0 ∧ d.get DCH.STAT.Credit c ≠ 0 ∧ d.descBad c w = false) ∧
    (∃ (s : State) (d : Dev) (c : Nat), s.chip.dev = d ∧ c < dmaChans ∧ [1, 3, 5].contains (d.endpoint c) = true ∧ d.dmaPick false =
      some c) ∧
    (∃ (s : State) (d : Dev) (c u : Nat), s.chip.dev = d ∧ c < dmaChans ∧ (d.chan c).since = some u ∧ d.chanState c = 1 ∧ d.dmaRuns c =
      true ∧ d.get DCH.TRIG.FlushUs c ≠ 0 ∧ d.dmaLevel c ≠ 0 ∧ d.hasCredit c = true ∧ d.endpoint c ≠ 9) ∧
    (∃ (s : State) (d : Dev) (c : Nat), s.chip.dev = d ∧ c < dmaChans ∧ [1, 3, 5, 7].contains (d.endpoint c) = true ∧ (d.chan c).burst =
      some 0) ∧
    (∃ (s : State) (d : Dev) (c idx : Nat) (r : DmaRead), s.chip.dev = d ∧ c < dmaChans ∧ (d.chan c).reads[idx]? = some r ∧ r.drop =
      false ∧ d.dmaRuns c = true) ∧
    (∃ (s : State) (d : Dev) (idx : Nat) (walker : Bool) (r : IntRead), s.chip.dev = d ∧ d.intAt walker idx = some r ∧ r.drop = false) ∧
    (∃ (s : State) (d : Dev) (idx : Nat) (walker : Bool) (r : IntRead), s.chip.dev = d ∧ d.intAt walker idx = some r ∧ (walker = false ∨
      r.drop = true)) ∧
    (∃ (s : State) (d : Dev) (c : Nat) (y : DmaDesc) (rest : List DmaDesc), s.chip.dev = d ∧ (d.chan c).descs = y :: rest ∧ c < dmaChans
      ∧ y.whole = true ∧ d.dmaMay c = true ∧ (d.endpoint c == 1 && d.unaccepted 2 c) = false ∧ (y.flush && writesHost (d.endpoint c) &&
      !y.flushed) = false) ∧
    (∃ (s : State) (d : Dev) (c : Nat) (y : DmaDesc) (rest : List DmaDesc), s.chip.dev = d ∧ (d.chan c).descs = y :: rest ∧ c < dmaChans
      ∧ y.whole = true ∧ d.dmaMay c = true ∧ (y.flush && writesHost (d.endpoint c) && !y.flushed) = true ∧ y.flushSent = false ∧
      d.tagsUsed < 768) ∧
    (∃ (s : State) (d : Dev) (c : Nat) (y : DmaDesc) (rest : List DmaDesc) (i : Nat), s.chip.dev = d ∧ (d.chan c).descs = y :: rest ∧ c
      < dmaChans ∧ ((d.chan c).reads.findIdx? fun r => r.why == .flush && !r.drop) = some i ∧ y.flushSent = true ∧ d.dmaMay c = true) ∧
    (∃ (s : State) (d : Dev) (port : Nat) (f : TxFrame) (rest : List TxFrame), s.chip.dev = d ∧ Tab.get [] d.dma.hostTx port = f :: rest
      ∧ (port = 128 ∨ port = 129) ∧ d.arbiterOn (portSlice port) = true ∧ d.injects .prs (portSlice port) 0 = false) ∧
    (∃ (s : State) (d : Dev) (c u : Nat), s.chip.dev = d ∧ (d.chan c).retryAt = some u ∧ (d.chan c).buf = none ∧ ((d.chan c).descs.find?
      fun y => !y.whole).isSome = true) := by
  exact ⟨⟨st (dch 1 {} |>.set DCH.STAT.Credit 1 255), _, 255, 32, rfl, (by intro r h; cases h), by decide +kernel⟩,
   ⟨st (dch 9 { reads := [⟨.desc, 0, 0, 32, 0, false⟩] } |>.set DCH.STAT.Credit 1 255), _, 255, 0, tData, ⟨.desc, 0, 0, 32, 0, false⟩, ⟨64,
    0, 48, 0, 0⟩, rfl, rfl, by decide +kernel⟩,
   ⟨st (dch 1 { descs := [dscOf false false false] }), _, 255, rfl, by decide +kernel⟩,
   ⟨st (dch 3 { since := some 5, descs := [dscOf false false false] } |>.set DCH.TRIG.FlushUs 1 255 |>.set DCH.TRIG.HighMark 1025 255), _,
    255, 5, rfl, by decide +kernel⟩,
   ⟨st (dch 7 { burst := some 0 }), _, 255, rfl, by decide +kernel⟩,
   ⟨st (dch 1 { reads := [rdOf .flush] }), _, 255, 0, rdOf .flush, rfl, by decide +kernel⟩,
   ⟨st { b0 with dma := { b0.dma with ints := [⟨true, 0, 32, 0, false⟩] } }, _, 0, true, _, rfl, rfl, by decide +kernel⟩,
   ⟨st { b0 with dma := { b0.dma with ints := [⟨false, 0, 32, 0, false⟩] } }, _, 0, false, _, rfl, rfl, by decide +kernel⟩,
   ⟨st (dch 9 { descs := [dscOf false true false] }), _, 255, _, _, rfl, rfl, by decide +kernel⟩,
   ⟨st (dch 9 { descs := [dscOf true true false] }), _, 255, _, _, rfl, rfl, by decide +kernel⟩,
   ⟨st (dch 9 { reads := [rdOf .flush], descs := [dscOf true true true] }), _, 255, _, _, 0, rfl, rfl, by decide +kernel⟩,
   ⟨st ({ b0 with dma := { b0.dma with hostTx := [(129, [⟨255, [], none⟩])] } }.set (HDR.CTL.Enable .prs) 1 (portSlice 129)), _, 129, _, _,
    rfl, rfl, by decide +kernel⟩,
   ⟨st (dch 7 { retryAt := some 5, descs := [dscOf false false false] }), _, 255, 5, rfl, by decide +kernel⟩⟩

/-- What the hypotheses of CisternCommands ask is met. -/
theorem witness_CisternCommands :
    (∃ (s : State) (d : Dev) (core bytes p : Nat), s.chip.dev = d ∧ 1 ≤ core ∧ core ≤ 4 ∧ 1 ≤ bytes ∧ bytes ≤ poolBytes p ∧ p < 4 ∧
      d.poolHas p = true ∧ (∀ q, q < p → bytes ≤ poolBytes q → d.poolHas q = false)) ∧
    (∃ (s : State) (d : Dev) (core bytes : Nat), s.chip.dev = d ∧ (∀ q, q < 4 → 1 ≤ bytes → bytes ≤ poolBytes q → d.poolHas q = false) ∧
      1 ≤ core ∧ core ≤ 4) ∧
    (∃ (s : State) (d : Dev) (tag h why : Nat) (b : CistBuf), s.chip.dev = d ∧ d.buf (handleKey h) = b ∧ why = (if handleReal h = false
      ∨ b.gen ≠ handleGen h then 2 else if b.held = false then 1 else if tag ≠ b.owner ∧ tag ≠ b.holder then 3 else 0) ∧ why ≠ 0) ∧
    (∃ (s : State) (d : Dev) (tag h : Nat), s.chip.dev = d ∧ d.holds tag h = false) ∧
    (∃ (s : State) (d : Dev) (tag h : Nat), s.chip.dev = d ∧ d.holds tag h = false) ∧
    (∃ (s : State) (d : Dev) (tag h : Nat) (b : CistBuf), s.chip.dev = d ∧ d.buf (handleKey h) = b ∧ tag = b.holder ∧ handleReal h =
      true ∧ b.gen = handleGen h ∧ b.held = true ∧ 15 ≤ b.refs) ∧
    (∃ (s : State) (d : Dev) (tag h : Nat) (b : CistBuf), s.chip.dev = d ∧ d.buf (handleKey h) = b ∧ handleReal h = true ∧ b.gen =
      handleGen h ∧ b.held = true ∧ (tag = b.owner ∨ tag = b.holder)) ∧
    (∃ (s : State) (d : Dev) (tag h : Nat) (b : CistBuf), s.chip.dev = d ∧ d.buf (handleKey h) = b ∧ handleReal h = true ∧ b.gen =
      handleGen h ∧ b.held = true ∧ (tag = b.owner ∨ tag = b.holder)) ∧
    (∃ (s : State) (d : Dev) (tag h : Nat) (b : CistBuf), s.chip.dev = d ∧ d.buf (handleKey h) = b ∧ tag = b.holder ∧ handleReal h =
      true ∧ b.gen = handleGen h ∧ b.held = true ∧ b.refs < 15) ∧
    (∃ (s : State) (d : Dev) (tag h : Nat) (b : CistBuf), s.chip.dev = d ∧ d.buf (handleKey h) = b ∧ tag = b.holder ∧ handleReal h =
      true ∧ b.gen = handleGen h ∧ b.held = true) ∧
    (∃ (s : State) (d : Dev) (h : Nat) (b : CistBuf) (core f c : Nat), s.chip.dev = d ∧ d.buf (handleKey h) = b ∧ handleReal h = true ∧
      b.gen = handleGen h ∧ b.held = true ∧ b.holder = 128 + core ∧ d.deliverChan f = some c) ∧
    (∃ (s : State) (d : Dev) (fn : Nat), s.chip.dev = d ∧ d.opens fn .cpm 0 = true ∧ d.flag CPM.CMD_STAT.Busy = false) ∧
    (∃ (s : State) (d : Dev) (arg : Nat), s.chip.dev = d ∧ d.cpm.cmd = some (1, arg)) ∧
    (∃ (s : State) (d : Dev) (arg : Nat), s.chip.dev = d ∧ d.cpm.cmd = some (0, arg) ∧ d.freeReason 0 arg = 0) ∧
    (∃ (s : State) (d : Dev) (p : Nat), s.chip.dev = d ∧ p ∈ d.cpm.rebuilding) := by
  exact ⟨⟨st b0, _, 4, 10240, 3, rfl, by decide +kernel⟩,
   ⟨st b0, _, 4, 10241, rfl, (by intro q hq h1 h2; exact absurd h2 (by revert q; decide)), by decide +kernel⟩,
   ⟨st b0, _, 5, 458752, 2, _, rfl, rfl, by decide +kernel⟩,
   ⟨st b0, _, 5, 0, rfl, by decide +kernel⟩,
   ⟨st b0, _, 5, 0, rfl, by decide +kernel⟩,
   ⟨st { b0 with cpm := { b0.cpm with bufs := [(196608, { held := true, gen := 1, refs := 15, owner := 5, holder := 129 })] } }, _, 129,
    458752, _, rfl, rfl, rfl, by decide +kernel⟩,
   ⟨st { b0 with cpm := { b0.cpm with bufs := [(196608, { held := true, gen := 1, refs := 1, owner := 5, holder := 129 })] } }, _, 5,
    458752, _, rfl, rfl, by decide +kernel⟩,
   ⟨st { b0 with cpm := { b0.cpm with bufs := [(196608, { held := true, gen := 1, refs := 15, owner := 5, holder := 129 })] } }, _, 129,
    458752, _, rfl, rfl, by decide +kernel⟩,
   ⟨st { b0 with cpm := { b0.cpm with bufs := [(196608, { held := true, gen := 1, refs := 14, owner := 5, holder := 129 })] } }, _, 129,
    458752, _, rfl, rfl, rfl, by decide +kernel⟩,
   ⟨st { b0 with cpm := { b0.cpm with bufs := [(196608, { held := true, gen := 1, refs := 15, owner := 5, holder := 129 })] } }, _, 129,
    458752, _, rfl, rfl, rfl, by decide +kernel⟩,
   ⟨st ({ b0 with cpm := { b0.cpm with bufs := [(196608, { held := true, gen := 1, refs := 1, owner := 5, holder := 131 })] } } |>.set
    DMA.BIND.Endpoint 8 0 255 |>.set (HDR.OWNER.Function .dch) 127 255), _, 458752, _, 3, 127, 255, rfl, rfl, by decide +kernel⟩,
   ⟨st b0, _, 0, rfl, by decide +kernel⟩,
   ⟨st { b0 with cpm := { b0.cpm with cmd := some (1, 255) } }, _, _, rfl, rfl⟩,
   ⟨st
    { b0 with cpm := { b0.cpm with bufs := [(196608, { held := true, gen := 1, refs := 1, owner := 0, holder := 129 })], cmd := some (0, 458752) } },
    _, 458752, rfl, by decide +kernel⟩,
   ⟨st { b0 with cpm := { b0.cpm with rebuilding := [3] } }, _, 3, rfl, by decide +kernel⟩⟩

/-- What the hypotheses of EngineWork ask is met. -/
theorem witness_EngineWork :
    (∃ (s : State) (d : Dev) (pid l : Nat) (p : Pkt) (front back : List FscEntry), s.chip.dev = d ∧ Tab.find d.pkts pid = some p ∧ (∀ e,
      e ∈ back → e.at0 = d.cyc ∧ p.slice % 8 < d.workRank e.work) ∧ (∀ e, front.getLast? = some e → e.at0 = d.cyc → d.workRank e.work ≤
      p.slice % 8) ∧ p.punted = true ∧ p.inFsc = false ∧ p.dropped = false ∧ (if p.action.getD 0 % 4 = 3 then d.get FSC.CFG.SpillPrio
      else bits (p.action.getD 0) 14 3) = l ∧ (d.lvl l).length < min 32768 (d.get FSC.LVL_CFG.Limit 0 l) ∧ d.fscUsed < 32768 ∧ d.lvl l =
      front ++ back) ∧
    (∃ (s : State) (d : Dev) (pid l : Nat) (p : Pkt) (front back : List FscEntry), s.chip.dev = d ∧ Tab.find d.pkts pid = some p ∧ (∀ e,
      e ∈ back → e.at0 = d.cyc ∧ p.slice % 8 < d.workRank e.work) ∧ (∀ e, front.getLast? = some e → e.at0 = d.cyc → d.workRank e.work ≤
      p.slice % 8) ∧ p.punted = true ∧ p.inFsc = false ∧ p.dropped = false ∧ (if p.action.getD 0 % 4 = 3 then d.get FSC.CFG.SpillPrio
      else bits (p.action.getD 0) 14 3) = l ∧ (d.lvl l).length < min 32768 (d.get FSC.LVL_CFG.Limit 0 l) ∧ d.fscUsed < 32768 ∧ d.lvl l =
      front ++ back) ∧
    (∃ (s : State) (d : Dev) (l pid : Nat) (e : FscEntry) (rest : List FscEntry), s.chip.dev = d ∧ d.lvl l = e :: rest ∧ e.work = .pkt
      pid ∧ d.get FSC.LVL_TIME.Expire 0 l ≠ 0 ∧ ((d.pkt pid).action.getD 0 % 4 = 3 ∨ d.flag FSC.LVL_CFG.Overflow 0 l = false)) ∧
    (∃ (s : State) (d : Dev) (l cl pid : Nat) (aged : Bool) (e : FscEntry) (rest : List FscEntry), s.chip.dev = d ∧ d.lvl l = e :: rest
      ∧ d.fsc.recount = false ∧ d.accepts .fsc = true ∧ d.glb.dpr = .idle ∧ d.get FSC.CFG.Rate ≤ 1 ∧ d.nextLevel = some (l, aged) ∧
      d.bestCluster = some cl ∧ e.work = .pkt pid ∧ d.gateOk cl (d.activeBank cl) (d.packetThread pid l (d.activeBank cl)).pc = true) ∧
    (∃ (s : State) (d : Dev) (h : Nat) (m : HostMsg) (rest : List Nat), s.chip.dev = d ∧ d.fsc.inbox = h :: rest ∧ d.hostMsg h = (m,
      true) ∧ (∃ c, c < 16 ∧ bit (d.dispEntry c m.opcode) 15 = true ∧ (m.fn = 0 ∨ bit (d.dispEntry c m.opcode) 16 = true)) ∧ (d.lvl
      m.prio).length < min 32768 (d.get FSC.LVL_CFG.Limit 0 m.prio) ∧ d.fscUsed < 32768) ∧
    (∃ (s : State) (d : Dev) (r : EngResult) (rest : List EngResult) (x : Thread), s.chip.dev = d ∧ d.results = r :: rest ∧ x.run =
      r.src.run ∧ d.thr r.src.cluster r.src.thread = some x ∧ r.nat = none ∧ r.search = none) := by
  exact ⟨⟨st { b0 with pkts := [(4, { punted := true, action := some (7 * 2 ^ 14) })] }, _, 4, 7, _, [], [], rfl, rfl, (by intro e h; cases h),
    (by intro e h; cases h), by decide +kernel⟩,
   ⟨st ({ b0 with pkts := [(4, { punted := true, action := some 3 })] } |>.set FSC.CFG.SpillPrio 6), _, 4, 6, _, [], [], rfl, rfl,
    (by intro e h; cases h), (by intro e h; cases h), by decide +kernel⟩,
   ⟨st ({ b0 with fsc := { b0.fsc with levels := [(7, [⟨.pkt 4, 7⟩])] }, pkts := [(4, { action := some 3 })] } |>.set FSC.LVL_TIME.Expire 9
    0 7), _, 7, 4, _, _, rfl, rfl, by decide +kernel⟩,
   ⟨st ({ b0 with fsc := { b0.fsc with levels := [(7, [⟨.pkt 4, 7⟩])] }, pkts := [(4, { action := some (2 + 0x6000 * 2 ^ 96) })] } |>.set
    FSC.CLU_EN.Enable 65535 |>.set (HDR.CTL.Enable .fen) 1 15 |>.set (HDR.CTL.Enable .fsc) 1 |>.set FSC.CFG.Rate 1), _, 7, 15, 4, false,
    _, _, rfl, rfl, by decide +kernel⟩,
   ⟨st cmdDev, _, 2 ^ 18, _, _, rfl, rfl, rfl, ⟨15, by decide +kernel⟩, by decide +kernel⟩,
   ⟨st { (thDev 0 (th [])) with results := [⟨⟨15, 255, 3, 15, false, none⟩, 0, [], none, 0, false, 3, none, none, none, none⟩] }, _, _, _,
    th [], rfl, rfl, rfl, by decide +kernel⟩⟩

/-- What the hypotheses of EngineWords ask is met. -/
theorem witness_EngineWords :
    (∃ (s : State) (d : Dev) (cl n : Nat) (x : Thread) (w o pc hdr : Nat) (st : List Nat) (b : List Byte) (c i : Instr) (j : Journal),
      s.chip.dev = d ∧ x.gp.getD (bits w 109 4) 0 = o ∧ x.reqSpace.drop o = b ∧ ofLE (sliceB b 0 8) = hdr ∧ d.nextPc cl x w (x.units w
      (compact d.dt)).2 = .ok (pc, st) ∧ (c = .microwordIssue cl n ∨ c = i) ∧ x.journal.length < 16 ∧ ((i = .genWrite cl n ∧ bits w 97 4
      = 8 ∧ operandOk o 16 = true ∧ ∃ a, d.genAddr b = some a ∧ j = .gen a (ofLE (sliceB b 8 8))) ∨ (i = .fenceReq cl n ∧ bits w 97 4 =
      13 ∧ j = .fence) ∨ (i = .recDelete cl n ∧ bits w 97 4 = 5 ∧ bits w 101 4 = 2 ∧ operandOk o 16 = true ∧ j = .delete (.loc
      (locOfWord (ofLE (sliceB b 8 4))) (ofLE (sliceB b 12 2))) (bits w 105 4)) ∨ (i = .recWrite cl n ∧ bits w 97 4 = 3 ∧ bits w 101 4 =
      1 ∧ operandOk o 128 = true ∧ j = .write (.digest (ofLE (sliceB b 8 16))) (bits hdr 4 5) (ofLE (sliceB b 64 64)) (bits w 105 4)) ∨
      (i = .recInsert cl n ∧ bits w 97 4 = 4 ∧ bits w 101 4 = 3 ∧ operandOk o 128 = true ∧ j = .insert (.key (sliceB b 8 48)) (ofLE
      (sliceB b 64 64)) (bits w 105 4)) ∨ (i = .recOps cl n ∧ bits w 97 4 = 2 ∧ bits w 101 4 = 1 ∧ hdr % 16 ≤ 8 ∧ operandOk o (64 + 8 *
      (hdr % 16)) = true ∧ j = .ops (.digest (ofLE (sliceB b 8 16))) (items64 (b.drop 64) (hdr % 16)) (bits w 105 4)) ∨ (i =
      .eventPostReq cl n ∧ bits w 97 4 = 9 ∧ bits w 101 4 = 0 ∧ 1 ≤ be b 2 1 ∧ be b 2 1 ≤ 7 ∧ operandOk o (8 + 8 * be b 2 1) = true ∧ j
      = .event (ofLE (sliceB b 0 2) % 512) (items64 (b.drop 8) (be b 2 1)))) ∧ d.mayIssue cl n x w = true ∧ bit w 38 = false ∧ bit w 37
      = false) ∧
    (∃ (s : State) (d : Dev) (cl n : Nat) (x : Thread) (w o pc hdr : Nat) (st : List Nat) (b : List Byte) (c i : Instr) (j : Journal),
      s.chip.dev = d ∧ x.gp.getD (bits w 109 4) 0 = o ∧ x.reqSpace.drop o = b ∧ ofLE (sliceB b 0 8) = hdr ∧ d.nextPc cl x w (x.units w
      (compact d.dt)).2 = .ok (pc, st) ∧ (c = .microwordIssue cl n ∨ c = i) ∧ x.journal.length < 16 ∧ ((i = .genWrite cl n ∧ bits w 97 4
      = 8 ∧ operandOk o 16 = true ∧ ∃ a, d.genAddr b = some a ∧ j = .gen a (ofLE (sliceB b 8 8))) ∨ (i = .fenceReq cl n ∧ bits w 97 4 =
      13 ∧ j = .fence) ∨ (i = .recDelete cl n ∧ bits w 97 4 = 5 ∧ bits w 101 4 = 2 ∧ operandOk o 16 = true ∧ j = .delete (.loc
      (locOfWord (ofLE (sliceB b 8 4))) (ofLE (sliceB b 12 2))) (bits w 105 4)) ∨ (i = .recWrite cl n ∧ bits w 97 4 = 3 ∧ bits w 101 4 =
      1 ∧ operandOk o 128 = true ∧ j = .write (.digest (ofLE (sliceB b 8 16))) (bits hdr 4 5) (ofLE (sliceB b 64 64)) (bits w 105 4)) ∨
      (i = .recInsert cl n ∧ bits w 97 4 = 4 ∧ bits w 101 4 = 3 ∧ operandOk o 128 = true ∧ j = .insert (.key (sliceB b 8 48)) (ofLE
      (sliceB b 64 64)) (bits w 105 4)) ∨ (i = .recOps cl n ∧ bits w 97 4 = 2 ∧ bits w 101 4 = 1 ∧ hdr % 16 ≤ 8 ∧ operandOk o (64 + 8 *
      (hdr % 16)) = true ∧ j = .ops (.digest (ofLE (sliceB b 8 16))) (items64 (b.drop 64) (hdr % 16)) (bits w 105 4)) ∨ (i =
      .eventPostReq cl n ∧ bits w 97 4 = 9 ∧ bits w 101 4 = 0 ∧ 1 ≤ be b 2 1 ∧ be b 2 1 ≤ 7 ∧ operandOk o (8 + 8 * be b 2 1) = true ∧ j
      = .event (ofLE (sliceB b 0 2) % 512) (items64 (b.drop 8) (be b 2 1)))) ∧ d.mayIssue cl n x w = true ∧ bit w 38 = false ∧ bit w 37
      = false) ∧
    (∃ (s : State) (d : Dev) (cl n : Nat) (x : Thread) (w o pc hdr : Nat) (st : List Nat) (b : List Byte) (c i : Instr) (j : Journal),
      s.chip.dev = d ∧ x.gp.getD (bits w 109 4) 0 = o ∧ x.reqSpace.drop o = b ∧ ofLE (sliceB b 0 8) = hdr ∧ d.nextPc cl x w (x.units w
      (compact d.dt)).2 = .ok (pc, st) ∧ (c = .microwordIssue cl n ∨ c = i) ∧ x.journal.length < 16 ∧ ((i = .genWrite cl n ∧ bits w 97 4
      = 8 ∧ operandOk o 16 = true ∧ ∃ a, d.genAddr b = some a ∧ j = .gen a (ofLE (sliceB b 8 8))) ∨ (i = .fenceReq cl n ∧ bits w 97 4 =
      13 ∧ j = .fence) ∨ (i = .recDelete cl n ∧ bits w 97 4 = 5 ∧ bits w 101 4 = 2 ∧ operandOk o 16 = true ∧ j = .delete (.loc
      (locOfWord (ofLE (sliceB b 8 4))) (ofLE (sliceB b 12 2))) (bits w 105 4)) ∨ (i = .recWrite cl n ∧ bits w 97 4 = 3 ∧ bits w 101 4 =
      1 ∧ operandOk o 128 = true ∧ j = .write (.digest (ofLE (sliceB b 8 16))) (bits hdr 4 5) (ofLE (sliceB b 64 64)) (bits w 105 4)) ∨
      (i = .recInsert cl n ∧ bits w 97 4 = 4 ∧ bits w 101 4 = 3 ∧ operandOk o 128 = true ∧ j = .insert (.key (sliceB b 8 48)) (ofLE
      (sliceB b 64 64)) (bits w 105 4)) ∨ (i = .recOps cl n ∧ bits w 97 4 = 2 ∧ bits w 101 4 = 1 ∧ hdr % 16 ≤ 8 ∧ operandOk o (64 + 8 *
      (hdr % 16)) = true ∧ j = .ops (.digest (ofLE (sliceB b 8 16))) (items64 (b.drop 64) (hdr % 16)) (bits w 105 4)) ∨ (i =
      .eventPostReq cl n ∧ bits w 97 4 = 9 ∧ bits w 101 4 = 0 ∧ 1 ≤ be b 2 1 ∧ be b 2 1 ≤ 7 ∧ operandOk o (8 + 8 * be b 2 1) = true ∧ j
      = .event (ofLE (sliceB b 0 2) % 512) (items64 (b.drop 8) (be b 2 1)))) ∧ d.mayIssue cl n x w = true ∧ bit w 38 = false ∧ bit w 37
      = false) ∧
    (∃ (s : State) (d : Dev) (cl n : Nat) (x : Thread) (w o pc hdr : Nat) (st : List Nat) (b : List Byte) (c i : Instr) (j : Journal),
      s.chip.dev = d ∧ x.gp.getD (bits w 109 4) 0 = o ∧ x.reqSpace.drop o = b ∧ ofLE (sliceB b 0 8) = hdr ∧ d.nextPc cl x w (x.units w
      (compact d.dt)).2 = .ok (pc, st) ∧ (c = .microwordIssue cl n ∨ c = i) ∧ x.journal.length < 16 ∧ ((i = .genWrite cl n ∧ bits w 97 4
      = 8 ∧ operandOk o 16 = true ∧ ∃ a, d.genAddr b = some a ∧ j = .gen a (ofLE (sliceB b 8 8))) ∨ (i = .fenceReq cl n ∧ bits w 97 4 =
      13 ∧ j = .fence) ∨ (i = .recDelete cl n ∧ bits w 97 4 = 5 ∧ bits w 101 4 = 2 ∧ operandOk o 16 = true ∧ j = .delete (.loc
      (locOfWord (ofLE (sliceB b 8 4))) (ofLE (sliceB b 12 2))) (bits w 105 4)) ∨ (i = .recWrite cl n ∧ bits w 97 4 = 3 ∧ bits w 101 4 =
      1 ∧ operandOk o 128 = true ∧ j = .write (.digest (ofLE (sliceB b 8 16))) (bits hdr 4 5) (ofLE (sliceB b 64 64)) (bits w 105 4)) ∨
      (i = .recInsert cl n ∧ bits w 97 4 = 4 ∧ bits w 101 4 = 3 ∧ operandOk o 128 = true ∧ j = .insert (.key (sliceB b 8 48)) (ofLE
      (sliceB b 64 64)) (bits w 105 4)) ∨ (i = .recOps cl n ∧ bits w 97 4 = 2 ∧ bits w 101 4 = 1 ∧ hdr % 16 ≤ 8 ∧ operandOk o (64 + 8 *
      (hdr % 16)) = true ∧ j = .ops (.digest (ofLE (sliceB b 8 16))) (items64 (b.drop 64) (hdr % 16)) (bits w 105 4)) ∨ (i =
      .eventPostReq cl n ∧ bits w 97 4 = 9 ∧ bits w 101 4 = 0 ∧ 1 ≤ be b 2 1 ∧ be b 2 1 ≤ 7 ∧ operandOk o (8 + 8 * be b 2 1) = true ∧ j
      = .event (ofLE (sliceB b 0 2) % 512) (items64 (b.drop 8) (be b 2 1)))) ∧ d.mayIssue cl n x w = true ∧ bit w 38 = false ∧ bit w 37
      = false) ∧
    (∃ (s : State) (d : Dev) (cl n : Nat) (x : Thread) (w o pc hdr : Nat) (st : List Nat) (b : List Byte) (c i : Instr) (j : Journal),
      s.chip.dev = d ∧ x.gp.getD (bits w 109 4) 0 = o ∧ x.reqSpace.drop o = b ∧ ofLE (sliceB b 0 8) = hdr ∧ d.nextPc cl x w (x.units w
      (compact d.dt)).2 = .ok (pc, st) ∧ (c = .microwordIssue cl n ∨ c = i) ∧ x.journal.length < 16 ∧ ((i = .genWrite cl n ∧ bits w 97 4
      = 8 ∧ operandOk o 16 = true ∧ ∃ a, d.genAddr b = some a ∧ j = .gen a (ofLE (sliceB b 8 8))) ∨ (i = .fenceReq cl n ∧ bits w 97 4 =
      13 ∧ j = .fence) ∨ (i = .recDelete cl n ∧ bits w 97 4 = 5 ∧ bits w 101 4 = 2 ∧ operandOk o 16 = true ∧ j = .delete (.loc
      (locOfWord (ofLE (sliceB b 8 4))) (ofLE (sliceB b 12 2))) (bits w 105 4)) ∨ (i = .recWrite cl n ∧ bits w 97 4 = 3 ∧ bits w 101 4 =
      1 ∧ operandOk o 128 = true ∧ j = .write (.digest (ofLE (sliceB b 8 16))) (bits hdr 4 5) (ofLE (sliceB b 64 64)) (bits w 105 4)) ∨
      (i = .recInsert cl n ∧ bits w 97 4 = 4 ∧ bits w 101 4 = 3 ∧ operandOk o 128 = true ∧ j = .insert (.key (sliceB b 8 48)) (ofLE
      (sliceB b 64 64)) (bits w 105 4)) ∨ (i = .recOps cl n ∧ bits w 97 4 = 2 ∧ bits w 101 4 = 1 ∧ hdr % 16 ≤ 8 ∧ operandOk o (64 + 8 *
      (hdr % 16)) = true ∧ j = .ops (.digest (ofLE (sliceB b 8 16))) (items64 (b.drop 64) (hdr % 16)) (bits w 105 4)) ∨ (i =
      .eventPostReq cl n ∧ bits w 97 4 = 9 ∧ bits w 101 4 = 0 ∧ 1 ≤ be b 2 1 ∧ be b 2 1 ≤ 7 ∧ operandOk o (8 + 8 * be b 2 1) = true ∧ j
      = .event (ofLE (sliceB b 0 2) % 512) (items64 (b.drop 8) (be b 2 1)))) ∧ d.mayIssue cl n x w = true ∧ bit w 38 = false ∧ bit w 37
      = false) ∧
    (∃ (s : State) (d : Dev) (cl n : Nat) (x : Thread) (w o pc hdr : Nat) (st : List Nat) (b : List Byte) (c i : Instr) (j : Journal),
      s.chip.dev = d ∧ x.gp.getD (bits w 109 4) 0 = o ∧ x.reqSpace.drop o = b ∧ ofLE (sliceB b 0 8) = hdr ∧ d.nextPc cl x w (x.units w
      (compact d.dt)).2 = .ok (pc, st) ∧ (c = .microwordIssue cl n ∨ c = i) ∧ x.journal.length < 16 ∧ ((i = .genWrite cl n ∧ bits w 97 4
      = 8 ∧ operandOk o 16 = true ∧ ∃ a, d.genAddr b = some a ∧ j = .gen a (ofLE (sliceB b 8 8))) ∨ (i = .fenceReq cl n ∧ bits w 97 4 =
      13 ∧ j = .fence) ∨ (i = .recDelete cl n ∧ bits w 97 4 = 5 ∧ bits w 101 4 = 2 ∧ operandOk o 16 = true ∧ j = .delete (.loc
      (locOfWord (ofLE (sliceB b 8 4))) (ofLE (sliceB b 12 2))) (bits w 105 4)) ∨ (i = .recWrite cl n ∧ bits w 97 4 = 3 ∧ bits w 101 4 =
      1 ∧ operandOk o 128 = true ∧ j = .write (.digest (ofLE (sliceB b 8 16))) (bits hdr 4 5) (ofLE (sliceB b 64 64)) (bits w 105 4)) ∨
      (i = .recInsert cl n ∧ bits w 97 4 = 4 ∧ bits w 101 4 = 3 ∧ operandOk o 128 = true ∧ j = .insert (.key (sliceB b 8 48)) (ofLE
      (sliceB b 64 64)) (bits w 105 4)) ∨ (i = .recOps cl n ∧ bits w 97 4 = 2 ∧ bits w 101 4 = 1 ∧ hdr % 16 ≤ 8 ∧ operandOk o (64 + 8 *
      (hdr % 16)) = true ∧ j = .ops (.digest (ofLE (sliceB b 8 16))) (items64 (b.drop 64) (hdr % 16)) (bits w 105 4)) ∨ (i =
      .eventPostReq cl n ∧ bits w 97 4 = 9 ∧ bits w 101 4 = 0 ∧ 1 ≤ be b 2 1 ∧ be b 2 1 ≤ 7 ∧ operandOk o (8 + 8 * be b 2 1) = true ∧ j
      = .event (ofLE (sliceB b 0 2) % 512) (items64 (b.drop 8) (be b 2 1)))) ∧ d.mayIssue cl n x w = true ∧ bit w 38 = false ∧ bit w 37
      = false) ∧
    (∃ (s : State) (d : Dev) (cl n : Nat) (x : Thread) (w o pc hdr : Nat) (st : List Nat) (b : List Byte) (c i : Instr) (j : Journal),
      s.chip.dev = d ∧ x.gp.getD (bits w 109 4) 0 = o ∧ x.reqSpace.drop o = b ∧ ofLE (sliceB b 0 8) = hdr ∧ d.nextPc cl x w (x.units w
      (compact d.dt)).2 = .ok (pc, st) ∧ (c = .microwordIssue cl n ∨ c = i) ∧ x.journal.length < 16 ∧ ((i = .genWrite cl n ∧ bits w 97 4
      = 8 ∧ operandOk o 16 = true ∧ ∃ a, d.genAddr b = some a ∧ j = .gen a (ofLE (sliceB b 8 8))) ∨ (i = .fenceReq cl n ∧ bits w 97 4 =
      13 ∧ j = .fence) ∨ (i = .recDelete cl n ∧ bits w 97 4 = 5 ∧ bits w 101 4 = 2 ∧ operandOk o 16 = true ∧ j = .delete (.loc
      (locOfWord (ofLE (sliceB b 8 4))) (ofLE (sliceB b 12 2))) (bits w 105 4)) ∨ (i = .recWrite cl n ∧ bits w 97 4 = 3 ∧ bits w 101 4 =
      1 ∧ operandOk o 128 = true ∧ j = .write (.digest (ofLE (sliceB b 8 16))) (bits hdr 4 5) (ofLE (sliceB b 64 64)) (bits w 105 4)) ∨
      (i = .recInsert cl n ∧ bits w 97 4 = 4 ∧ bits w 101 4 = 3 ∧ operandOk o 128 = true ∧ j = .insert (.key (sliceB b 8 48)) (ofLE
      (sliceB b 64 64)) (bits w 105 4)) ∨ (i = .recOps cl n ∧ bits w 97 4 = 2 ∧ bits w 101 4 = 1 ∧ hdr % 16 ≤ 8 ∧ operandOk o (64 + 8 *
      (hdr % 16)) = true ∧ j = .ops (.digest (ofLE (sliceB b 8 16))) (items64 (b.drop 64) (hdr % 16)) (bits w 105 4)) ∨ (i =
      .eventPostReq cl n ∧ bits w 97 4 = 9 ∧ bits w 101 4 = 0 ∧ 1 ≤ be b 2 1 ∧ be b 2 1 ≤ 7 ∧ operandOk o (8 + 8 * be b 2 1) = true ∧ j
      = .event (ofLE (sliceB b 0 2) % 512) (items64 (b.drop 8) (be b 2 1)))) ∧ d.mayIssue cl n x w = true ∧ bit w 38 = false ∧ bit w 37
      = false) ∧
    (∃ (s : State) (d : Dev) (cl n : Nat) (x : Thread) (w o pc hdr : Nat) (st : List Nat) (b : List Byte), s.chip.dev = d ∧
      x.reqSpace.drop o = b ∧ ofLE (sliceB b 0 8) = hdr ∧ d.nextPc cl x w (x.units w (compact d.dt)).2 = .ok (pc, st) ∧ d.mayIssue cl n
      x w = true ∧ x.gp.getD (bits w 109 4) 0 = o ∧ bit w 38 = false ∧ bit w 37 = false ∧ bits w 97 4 = 1 ∧ bits w 101 4 = 1 ∧ operandOk
      o 24 = true) ∧
    (∃ (s : State) (d : Dev) (cl n : Nat) (x : Thread) (w o pc hdr : Nat) (st : List Nat) (b : List Byte), s.chip.dev = d ∧
      x.reqSpace.drop o = b ∧ ofLE (sliceB b 0 8) = hdr ∧ d.nextPc cl x w (x.units w (compact d.dt)).2 = .ok (pc, st) ∧ d.mayIssue cl n
      x w = true ∧ x.gp.getD (bits w 109 4) 0 = o ∧ bit w 38 = false ∧ bit w 37 = false ∧ bits w 97 4 = 6 ∧ bits w 101 4 = 1 ∧ operandOk
      o 8 = true) ∧
    (∃ (s : State) (d : Dev) (cl n : Nat) (x : Thread) (w o pc hdr : Nat) (st : List Nat) (b : List Byte) (a : Nat), s.chip.dev = d ∧
      x.reqSpace.drop o = b ∧ ofLE (sliceB b 0 8) = hdr ∧ d.nextPc cl x w (x.units w (compact d.dt)).2 = .ok (pc, st) ∧ d.genAddr b =
      some a ∧ d.mayIssue cl n x w = true ∧ x.gp.getD (bits w 109 4) 0 = o ∧ bit w 38 = false ∧ bit w 37 = false ∧ bits w 97 4 = 7 ∧
      operandOk o 8 = true ∧ d.burstBad a = false ∧ d.hbmMayRead 1 a = true ∧ (d.hpc (a / 2 ^ 29)).waiting = []) ∧
    (∃ (s : State) (d : Dev) (cl n : Nat) (x : Thread) (w o : Nat) (b : List Byte) (c i : Instr) (j : Journal), s.chip.dev = d ∧
      x.gp.getD (bits w 109 4) 0 = o ∧ x.reqSpace.drop o = b ∧ (c = .microwordIssue cl n ∨ c = i) ∧ ((i = .forward cl n ∧ bits w 97 4 =
      10 ∧ (∃ pid, x.work = .pkt pid) ∧ be b 0 1 ≤ 2 ∧ ofLE (sliceB b 8 2) ≤ 512 ∧ operandOk o 10 = true ∧ j = .forward (be b 0 1) (ofLE
      (sliceB b 2 2)) (be b 4 1) (ofLE (sliceB b 6 2)) (ofLE (sliceB b 8 2))) ∨ (i = .drop cl n ∧ bits w 97 4 = 11 ∧ (∃ pid, x.work =
      .pkt pid) ∧ j = .drop) ∨ (i = .reply cl n ∧ bits w 97 4 = 12 ∧ (∃ m, x.work = .cmd m) ∧ be b 0 1 ≤ 6 ∧ operandOk o (8 + 8 * be b 0
      1) = true ∧ j = .reply (items64 (b.drop 8) (be b 0 1)) (ofLE (sliceB b 2 2) % 2 ^ 13))) ∧ d.mayIssue cl n x w = true ∧ bit w 38 =
      true ∧ x.journal.length < 16) ∧
    (∃ (s : State) (d : Dev) (cl n : Nat) (x : Thread) (w o : Nat) (b : List Byte) (c i : Instr) (j : Journal), s.chip.dev = d ∧
      x.gp.getD (bits w 109 4) 0 = o ∧ x.reqSpace.drop o = b ∧ (c = .microwordIssue cl n ∨ c = i) ∧ ((i = .forward cl n ∧ bits w 97 4 =
      10 ∧ (∃ pid, x.work = .pkt pid) ∧ be b 0 1 ≤ 2 ∧ ofLE (sliceB b 8 2) ≤ 512 ∧ operandOk o 10 = true ∧ j = .forward (be b 0 1) (ofLE
      (sliceB b 2 2)) (be b 4 1) (ofLE (sliceB b 6 2)) (ofLE (sliceB b 8 2))) ∨ (i = .drop cl n ∧ bits w 97 4 = 11 ∧ (∃ pid, x.work =
      .pkt pid) ∧ j = .drop) ∨ (i = .reply cl n ∧ bits w 97 4 = 12 ∧ (∃ m, x.work = .cmd m) ∧ be b 0 1 ≤ 6 ∧ operandOk o (8 + 8 * be b 0
      1) = true ∧ j = .reply (items64 (b.drop 8) (be b 0 1)) (ofLE (sliceB b 2 2) % 2 ^ 13))) ∧ d.mayIssue cl n x w = true ∧ bit w 38 =
      true ∧ x.journal.length < 16) ∧
    (∃ (s : State) (d : Dev) (cl n : Nat) (x : Thread) (w o : Nat) (b : List Byte) (c i : Instr) (j : Journal), s.chip.dev = d ∧
      x.gp.getD (bits w 109 4) 0 = o ∧ x.reqSpace.drop o = b ∧ (c = .microwordIssue cl n ∨ c = i) ∧ ((i = .forward cl n ∧ bits w 97 4 =
      10 ∧ (∃ pid, x.work = .pkt pid) ∧ be b 0 1 ≤ 2 ∧ ofLE (sliceB b 8 2) ≤ 512 ∧ operandOk o 10 = true ∧ j = .forward (be b 0 1) (ofLE
      (sliceB b 2 2)) (be b 4 1) (ofLE (sliceB b 6 2)) (ofLE (sliceB b 8 2))) ∨ (i = .drop cl n ∧ bits w 97 4 = 11 ∧ (∃ pid, x.work =
      .pkt pid) ∧ j = .drop) ∨ (i = .reply cl n ∧ bits w 97 4 = 12 ∧ (∃ m, x.work = .cmd m) ∧ be b 0 1 ≤ 6 ∧ operandOk o (8 + 8 * be b 0
      1) = true ∧ j = .reply (items64 (b.drop 8) (be b 0 1)) (ofLE (sliceB b 2 2) % 2 ^ 13))) ∧ d.mayIssue cl n x w = true ∧ bit w 38 =
      true ∧ x.journal.length < 16) := by
  exact ⟨⟨st (thDev 609739938709778342119914241785856 (th [248, 255, 255, 246, 47, 0, 0, 0])), _, 15, 255, th [248, 255, 255, 246, 47, 0, 0, 0],
    609739938709778342119914241785856, 0, 0, _, [], _, .microwordIssue 15 255, .genWrite 15 255, _, rfl, rfl, rfl, rfl, rfl, .inl rfl,
    by decide, .inl ⟨rfl, by decide, by decide +kernel, _, rfl, rfl⟩, by decide +kernel⟩,
   ⟨st (thDev 610532220334920985495849681289216 (th [])), _, 15, 255, th [], 610532220334920985495849681289216, 0, 0, _, [], _, .fenceReq
    15 255, .fenceReq 15 255, _, rfl, rfl, rfl, rfl, rfl, .inr rfl, by decide, .inr (.inl ⟨rfl, by decide, rfl⟩), by decide +kernel⟩,
   ⟨st (thDev 614335172135605673700339790905344 (th [])), _, 15, 255, th [], 614335172135605673700339790905344, 0, 0, _, [], _,
    .microwordIssue 15 255, .recDelete 15 255, _, rfl, rfl, rfl, rfl, rfl, .inl rfl, by decide, .inr (.inr (.inl ⟨rfl, by decide,
    by decide, by decide +kernel, rfl⟩)), by decide +kernel⟩,
   ⟨st (thDev 611482958285092157546972208693248 (th [])), _, 15, 255, th [], 611482958285092157546972208693248, 0, 0, _, [], _, .recWrite
    15 255, .recWrite 15 255, _, rfl, rfl, rfl, rfl, rfl, .inr rfl, by decide, .inr (.inr (.inr (.inl ⟨rfl, by decide, by decide,
    by decide +kernel, rfl⟩))), by decide +kernel⟩,
   ⟨st (thDev 616712017011033603828146109415424 (th [])), _, 15, 255, th [], 616712017011033603828146109415424, 0, 0, _, [], _,
    .microwordIssue 15 255, .recInsert 15 255, _, rfl, rfl, rfl, rfl, rfl, .inl rfl, by decide, .inr (.inr (.inr (.inr (.inl ⟨rfl,
    by decide, by decide, by decide +kernel, rfl⟩)))), by decide +kernel⟩,
   ⟨st (thDev 611324501960063628871785120792576 (th [8])), _, 15, 255, th [8], 611324501960063628871785120792576, 0, 0, _, [], _, .recOps
    15 255, .recOps 15 255, _, rfl, rfl, rfl, rfl, rfl, .inr rfl, by decide, .inr (.inr (.inr (.inr (.inr (.inl ⟨rfl, by decide,
    by decide, by decide +kernel, by decide +kernel, rfl⟩))))), by decide +kernel⟩,
   ⟨st (thDev 609898395034806870795101329686528 (th [0, 0, 7])), _, 15, 255, th [0, 0, 7], 609898395034806870795101329686528, 0, 0, _, [],
    _, .microwordIssue 15 255, .eventPostReq 15 255, _, rfl, rfl, rfl, rfl, rfl, .inl rfl, by decide, .inr (.inr (.inr (.inr (.inr (.inr
    ⟨rfl, by decide, by decide, by decide +kernel, by decide +kernel, by decide +kernel, rfl⟩))))), by decide +kernel⟩,
   ⟨st (thDev 2693757525484987478180494311424 (th [])), _, 15, 255, th [], 2693757525484987478180494311424, 0, 0, _, [], _, rfl, rfl, rfl,
    rfl, by decide +kernel⟩,
   ⟨st (thDev 3486039150627630854115933814784 (th [])), _, 15, 255, th [], 3486039150627630854115933814784, 0, 0, _, [], _, rfl, rfl, rfl,
    rfl, by decide +kernel⟩,
   ⟨st ((thDev 1109194275199700726309615304704 (th [248, 255, 255, 246, 47, 0, 0, 0])).set (HDR.CTL.Enable .hbc) 1 5), _, 15, 255, th [248,
    255, 255, 246, 47, 0, 0, 0], 1109194275199700726309615304704, 0, 0, _, [], _, _, rfl, rfl, rfl, rfl, rfl, by decide +kernel⟩,
   ⟨st (thDev 1584563250285286752145756913664 (th [2])), _, 15, 255, th [2], 1584563250285286752145756913664, 0, _, .forward 15 255,
    .forward 15 255, _, rfl, rfl, rfl, .inr rfl, .inl ⟨rfl, by decide, ⟨4, rfl⟩, by decide +kernel, by decide +kernel,
    by decide +kernel, rfl⟩, by decide +kernel⟩,
   ⟨st (thDev 1743019575313815427332844814336 (th [])), _, 15, 255, th [], 1743019575313815427332844814336, 0, _, .microwordIssue 15 255,
    .drop 15 255, _, rfl, rfl, rfl, .inl rfl, .inr (.inl ⟨rfl, by decide, ⟨4, rfl⟩, rfl⟩), by decide +kernel⟩,
   ⟨st (thDev 1901475900342344102519932715008 cmdTh), _, 15, 255, cmdTh, 1901475900342344102519932715008, 0, _, .reply 15 255, .reply 15
    255, _, rfl, rfl, rfl, .inr rfl, .inr (.inr ⟨rfl, by decide, ⟨_, rfl⟩, by decide +kernel, by decide +kernel, rfl⟩),
    by decide +kernel⟩⟩

/-- What the hypotheses of EngineSeals ask is met. -/
theorem witness_EngineSeals :
    (∃ (s : State), ∃ (d : Dev), ∃ (cl n i : Nat), ∃ (x : Thread), ∃ (q : Seal), ∃ (j : Journal), ∃ (a : Nat), ∃ v, s.chip.dev = d ∧
      x.sealing = some q ∧ q.left = [(i, j)] ∧ j = .gen a v ∧ d.pathMoves = true ∧ (∀ o ∈ d.fsc.orphans, o.cluster = cl → o.thread ≠ n)
      ∧ d.thr cl n = some x ∧ q.fin = false ∧ a % 64 ≤ 56 ∧ (d.hpc (a / 2 ^ 29)).waiting = [] ∧ d.hbmFree (a / 2 ^ 29)
      { readOf 1 0 a with write := true, merge := true } = true) ∧
    (∃ (s : State) (d : Dev) (cl n i : Nat) (x : Thread) (q : Seal) (j : Journal), s.chip.dev = d ∧ x.sealing = some q ∧ q.left = [(i,
      j)] ∧ j = .fence ∧ d.pathMoves = true ∧ (∀ o ∈ d.fsc.orphans, o.cluster = cl → o.thread ≠ n) ∧ d.thr cl n = some x ∧ q.fin = false
      ∧ d.unaccepted 1 (threadSrc cl n) = true) ∧
    (∃ (s : State) (d : Dev) (cl n i : Nat) (x : Thread) (q : Seal) (j : Journal), s.chip.dev = d ∧ x.sealing = some q ∧ q.left = [(i,
      j)] ∧ j = .fence ∧ d.pathMoves = true ∧ (∀ o ∈ d.fsc.orphans, o.cluster = cl → o.thread ≠ n) ∧ d.thr cl n = some x ∧ q.fin = false
      ∧ d.unaccepted 1 (threadSrc cl n) = false) ∧
    (∃ (s : State), ∃ (d : Dev), ∃ (cl n i : Nat), ∃ (x : Thread), ∃ (q : Seal), ∃ (j : Journal), ∃ pid, s.chip.dev = d ∧ x.sealing =
      some q ∧ q.left = [(i, j)] ∧ j = .drop ∧ d.pathMoves = true ∧ (∀ o ∈ d.fsc.orphans, o.cluster = cl → o.thread ≠ n) ∧ d.thr cl n =
      some x ∧ x.work = .pkt pid) ∧
    (∃ (s : State) (d : Dev) (cl n : Nat) (x : Thread) (q : Seal), s.chip.dev = d ∧ x.sealing = some q ∧ d.thr cl n = some x ∧ q.sent =
      true ∧ d.sealWaits cl n x.run = false ∧ d.unaccepted 1 (threadSrc cl n) = false ∧ x.kill = false) ∧
    (∃ (s : State) (d : Dev) (cl n : Nat) (x : Thread), s.chip.dev = d ∧ cl < 16 ∧ d.thr cl n = some x ∧ x.sealing = none) ∧
    (∃ (s : State), ∃ (d : Dev), ∃ (cl n : Nat), ∃ (x : Thread), ∃ fn, s.chip.dev = d ∧ cl < 16 ∧ d.thr cl n = some x ∧ n < 256 ∧
      d.opens fn .fen cl = true) := by
  exact ⟨⟨st ((thDev 0 (sealTh (.gen 0 7) false)).set (HDR.CTL.Enable .hbc) 1 0), _, 15, 255, 0, sealTh (.gen 0 7) false, _, _, _, _, rfl, rfl,
    rfl, rfl, by decide +kernel⟩,
   ⟨st
    { (thDev 0 (sealTh .fence false)) with hbc := { b0.hbc with pcs := [(383, { waiting := [{ port := 1, src := threadSrc 15 255, write := true, t := 5 }] })] } },
    _, 15, 255, 0, sealTh .fence false, _, _, rfl, rfl, rfl, rfl, by decide +kernel⟩,
   ⟨st (thDev 0 (sealTh .fence false)), _, 15, 255, 0, sealTh .fence false, _, _, rfl, rfl, rfl, rfl, by decide +kernel⟩,
   ⟨st (thDev 0 (sealTh .drop false)), _, 15, 255, 0, sealTh .drop false, _, _, 4, rfl, rfl, rfl, rfl, by decide +kernel⟩,
   ⟨st (thDev 0 (sealTh .drop true)), _, 15, 255, sealTh .drop true, _, rfl, rfl, by decide +kernel⟩,
   ⟨st (thDev 0 (th [])), _, 15, 255, th [], rfl, by decide +kernel⟩,
   ⟨st (thDev 0 (th [])), _, 15, 255, th [], 0, rfl, by decide +kernel⟩⟩

/-- What the hypotheses of UcsLoads ask is met. -/
theorem witness_UcsLoads :
    (∃ (s : State) (d : Dev) (fn r : Nat) (image img : List Byte) (err : Bool) (ts : List Nat), s.chip.dev = d ∧ d.opens fn .ucs 0 =
      true ∧ d.get UCS.LOAD_CFG.Op = 1 ∧ d.load = none ∧ d.loadTargets = ts ∧ d.loadBusy ts = false ∧ (if d.flag UCS.LOAD_CFG.Source =
      true then Tab.get [] d.mram.images (d.get UCS.LOAD_CFG.MramSlot) else sliceB image 0 (d.get UCS.LOAD_LEN.Length)) = img ∧ (d.flag
      UCS.LOAD_CFG.Source = true ∨ err = false) ∧ d.imageCheck img = r) ∧
    (∃ (s : State) (d : Dev) (fn r : Nat) (image img : List Byte) (err : Bool) (ts : List Nat), s.chip.dev = d ∧ d.opens fn .ucs 0 =
      true ∧ d.get UCS.LOAD_CFG.Op = 1 ∧ d.load = none ∧ d.loadTargets = ts ∧ d.loadBusy ts = false ∧ (if d.flag UCS.LOAD_CFG.Source =
      true then Tab.get [] d.mram.images (d.get UCS.LOAD_CFG.MramSlot) else sliceB image 0 (d.get UCS.LOAD_LEN.Length)) = img ∧ (d.flag
      UCS.LOAD_CFG.Source = true ∨ err = false) ∧ d.imageCheck img = r) ∧
    (∃ (s : State) (d : Dev) (fn : Nat) (ts : List Nat), s.chip.dev = d ∧ d.opens fn .ucs 0 = true ∧ d.get UCS.LOAD_CFG.Op = 2 ∧ d.load
      = none ∧ d.loadTargets = ts ∧ d.loadBusy ts = false) ∧
    (∃ (s : State) (d : Dev) (fn op : Nat) (image : List Byte) (err : Bool) (i : Instr) (l : LoadSt), s.chip.dev = d ∧ ((i = .ucsLoad fn
      image err ∧ op = 1) ∨ (i = .ucsClone fn ∧ op = 2)) ∧ d.load = some l ∧ d.opens fn .ucs 0 = true ∧ d.get UCS.LOAD_CFG.Op = op) ∧
    (∃ (s : State) (d : Dev) (fn op : Nat) (image : List Byte) (err : Bool) (i : Instr) (l : LoadSt), s.chip.dev = d ∧ ((i = .ucsLoad fn
      image err ∧ op = 1) ∨ (i = .ucsClone fn ∧ op = 2)) ∧ d.load = some l ∧ d.opens fn .ucs 0 = true ∧ d.get UCS.LOAD_CFG.Op = op) ∧
    (∃ (s : State) (d : Dev) (fn op : Nat) (image : List Byte) (err : Bool) (i : Instr), s.chip.dev = d ∧ ((i = .ucsLoad fn image err ∧
      op = 1) ∨ (i = .ucsClone fn ∧ op = 2)) ∧ d.opens fn .ucs 0 = true ∧ d.get UCS.LOAD_CFG.Op = op ∧ d.load = none ∧ d.loadBusy
      d.loadTargets = true) ∧
    (∃ (s : State) (d : Dev) (fn op : Nat) (image : List Byte) (err : Bool) (i : Instr), s.chip.dev = d ∧ ((i = .ucsLoad fn image err ∧
      op = 1) ∨ (i = .ucsClone fn ∧ op = 2)) ∧ d.opens fn .ucs 0 = true ∧ d.get UCS.LOAD_CFG.Op = op ∧ d.load = none ∧ d.loadBusy
      d.loadTargets = true) ∧
    (∃ (s : State) (d : Dev) (fn : Nat) (record r : List Byte), s.chip.dev = d ∧ d.opens fn .ucs 0 = true ∧ d.get UCS.LOAD_CFG.Op = 3 ∧
      d.load = none ∧ sliceB record 0 (d.get UCS.LOAD_LEN.Length) = r ∧ d.mramOpen 0 = true ∧ d.sec.trngBad = false) ∧
    (∃ (s : State) (d : Dev) (e : Nat) (r : List Byte), s.chip.dev = d ∧ d.load = some ⟨3, [], e, [], r, false, 0, [], (0, 0)⟩) ∧
    (∃ (s : State) (d : Dev) (l : LoadSt) (c : Nat), s.chip.dev = d ∧ d.load = some l ∧ c < 16 ∧ d.activeBank c < 2 ∧ l.targets = [c] ∧
      l.fail = [] ∧ l.result = 0 ∧ l.ask.2 ≠ 0 ∧ d.get DMA.INT_CFG.IntTags = 0) ∧
    (∃ (s : State) (d : Dev) (l : LoadSt) (c : Nat), s.chip.dev = d ∧ d.load = some l ∧ c < 16 ∧ d.activeBank c < 2 ∧ l.targets = [c] ∧
      l.fail = [] ∧ l.result = 0 ∧ l.ask.2 = 0 ∧ l.op = 1) ∧
    (∃ (s : State) (d : Dev) (l : LoadSt) (c : Nat), s.chip.dev = d ∧ d.load = some l ∧ c < 16 ∧ d.activeBank c < 2 ∧ l.targets = [c] ∧
      l.fail = [] ∧ l.result = 0 ∧ l.ask.2 = 0 ∧ l.op = 2 ∧ l.self = false) ∧
    (∃ (s : State) (d : Dev) (l : LoadSt) (c : Nat), s.chip.dev = d ∧ d.load = some l ∧ c < 16 ∧ d.activeBank c < 2 ∧ l.targets = [c] ∧
      l.fail = [] ∧ l.result = 0 ∧ l.ask.2 = 0) := by
  exact ⟨⟨st (b0 |>.set UCS.LOAD_CFG.Op 1 |>.set UCS.LOAD_CFG.Clusters 32768), _, 0, 1, [], [], false, [15], rfl, by decide +kernel⟩,
   ⟨st ({ b0 with mram := { b0.mram with images := [(3, [1])] } } |>.set UCS.LOAD_CFG.Op 1 |>.set UCS.LOAD_CFG.Clusters 32768 |>.set
    UCS.LOAD_CFG.Source 1 |>.set UCS.LOAD_CFG.MramSlot 3), _, 128, 1, [], [1], true, [15], rfl, by decide +kernel⟩,
   ⟨st (b0 |>.set UCS.LOAD_CFG.Op 2 |>.set UCS.LOAD_CFG.Clusters 32768), _, 0, [15], rfl, by decide +kernel⟩,
   ⟨st ({ b0 with load := some ⟨1, [15], 0, [], [], false, 0, [], (0, 0)⟩ } |>.set UCS.LOAD_CFG.Op 1 |>.set UCS.LOAD_CFG.Clusters 32768),
    _, 0, 1, [], false, .ucsLoad 0 [] false, _, rfl, .inl ⟨rfl, rfl⟩, rfl, by decide +kernel⟩,
   ⟨st ({ b0 with load := some ⟨2, [15], 0, [], [], false, 0, [], (0, 0)⟩ } |>.set UCS.LOAD_CFG.Op 2 |>.set UCS.LOAD_CFG.Clusters 32768),
    _, 0, 2, [], false, .ucsClone 0, _, rfl, .inr ⟨rfl, rfl⟩, rfl, by decide +kernel⟩,
   ⟨st (b0 |>.set UCS.LOAD_CFG.Op 1 |>.set UCS.LOAD_CFG.Clusters 32768 |>.set UCS.STAT.Draining 1 15), _, 0, 1, [], false, .ucsLoad 0 []
    false, rfl, .inl ⟨rfl, rfl⟩, by decide +kernel⟩,
   ⟨st (b0 |>.set UCS.LOAD_CFG.Op 2 |>.set UCS.LOAD_CFG.Clusters 32768 |>.set UCS.STAT.Trial 1 15), _, 0, 2, [], false, .ucsClone 0, rfl,
    .inr ⟨rfl, rfl⟩, by decide +kernel⟩,
   ⟨st (b0.set UCS.LOAD_CFG.Op 3), _, 0, [], [], rfl, by decide +kernel⟩,
   ⟨st { b0 with load := some ⟨3, [], 0, [], [], false, 0, [], (0, 0)⟩ }, _, 0, [], rfl, by decide +kernel⟩,
   ⟨st ({ b0 with load := some ⟨1, [15], 0, [], [], false, 0, [], (64, 32)⟩ } |>.set DMA.INT_CFG.IntTags 0), _, ⟨1, [15], 0, [], [], false,
    0, [], (64, 32)⟩, 15, rfl, by decide +kernel⟩,
   ⟨st { b0 with load := some ⟨1, [15], 0, [], [], false, 0, [], (0, 0)⟩ }, _, ⟨1, [15], 0, [], [], false, 0, [], (0, 0)⟩, 15, rfl,
    by decide +kernel⟩,
   ⟨st { b0 with load := some ⟨2, [15], 0, [], [], false, 0, [], (0, 0)⟩ }, _, ⟨2, [15], 0, [], [], false, 0, [], (0, 0)⟩, 15, rfl,
    by decide +kernel⟩,
   ⟨st { b0 with load := some ⟨1, [15], 0, [], [], false, 0, [], (0, 0)⟩ }, _, ⟨1, [15], 0, [], [], false, 0, [], (0, 0)⟩, 15, rfl,
    by decide +kernel⟩⟩

/-- What the hypotheses of UcsSwaps ask is met. -/
theorem witness_UcsSwaps :
    (∃ (s : State) (d : Dev) (fn c : Nat), s.chip.dev = d ∧ c < 16 ∧ d.opens fn .ucs c = true ∧ d.swapReason c = 0) ∧
    (∃ (s : State) (d : Dev) (fn c why : Nat), s.chip.dev = d ∧ c < 16 ∧ d.opens fn .ucs c = true ∧ d.swapReason c = why ∧ why ≠ 0) ∧
    (∃ (s : State) (d : Dev) (fn c why : Nat), s.chip.dev = d ∧ c < 16 ∧ d.opens fn .ucs c = true ∧ d.swapReason c = why ∧ why ≠ 0) ∧
    (∃ (s : State) (d : Dev) (fn c : Nat), s.chip.dev = d ∧ c < 16 ∧ d.opens fn .ucs c = true) ∧
    (∃ (s : State) (d : Dev) (fn c : Nat), s.chip.dev = d ∧ c < 16 ∧ d.opens fn .ucs c = true) ∧
    (∃ (s : State) (d : Dev) (fn c a : Nat) (x : Bank), s.chip.dev = d ∧ (d.store c).bank (d.get UCS.READ_SEL.Bank c) = x ∧ c < 16 ∧
      d.opens fn .ucs c = true ∧ d.get UCS.READ_SEL.Addr c = a) ∧
    (∃ (s : State) (d : Dev) (c ab : Nat), s.chip.dev = d ∧ c < 16 ∧ d.activeBank c = ab ∧ ab < 2 ∧ d.flag UCS.STAT.Draining c = true ∧
      d.busyThreads c = []) ∧
    (∃ (s : State) (d : Dev) (c ab : Nat), s.chip.dev = d ∧ c < 16 ∧ d.activeBank c = ab ∧ ab < 2 ∧ d.flag UCS.STAT.Draining c = true ∧
      d.busyThreads c = []) ∧
    (∃ (s : State) (d : Dev) (c : Nat), s.chip.dev = d ∧ c < 16 ∧ d.onTrial c = true ∧ d.flag UCS.SWAP_CFG.AutoRollback c = true ∧
      d.flag UCS.STAT.Draining c = false ∧ max 1 (d.get UCS.SWAP_CFG.TrialAborts c) ≤ (d.store c).trialAborts ∧ d.bankState c (1 -
      d.activeBank c) = 2 ∧ d.belowFloor c (1 - d.activeBank c) = false) ∧
    (∃ (s : State) (d : Dev) (c e : Nat), s.chip.dev = d ∧ c < 16 ∧ (d.store c).trialEnd = some e) ∧
    (∃ (s : State) (d : Dev) (c p : Nat), s.chip.dev = d ∧ c < 16 ∧ (d.store c).scrub = p ∧ d.injects .ucs c 0 = false ∧ d.injects .ucs
      c 1 = false) ∧
    (∃ (s : State) (d : Dev) (c p : Nat), s.chip.dev = d ∧ c < 16 ∧ (d.store c).scrub = p ∧ d.injects .ucs c 0 = false ∧ d.injects .ucs
      c 1 = false ∧ p / 33024 = d.activeBank c ∧ p % 33024 < 32768) := by
  exact ⟨⟨st (b0.set UCS.STAT.StateB 2 15), _, 0, 15, rfl, by decide +kernel⟩,
   ⟨st b0, _, 0, 15, 1, rfl, by decide +kernel⟩,
   ⟨st ({ b0 with fab := { b0.fab with inReset := [Blk.fen.page 15] } }.set UCS.STAT.StateB 2 15), _, 0, 15, 5, rfl, by decide +kernel⟩,
   ⟨st b0, _, 0, 15, rfl, by decide +kernel⟩,
   ⟨st b0, _, 0, 15, rfl, by decide +kernel⟩,
   ⟨st (b0.set UCS.READ_SEL.Addr 32767 15), _, 0, 15, 32767, _, rfl, rfl, by decide +kernel⟩,
   ⟨st (b0.set UCS.STAT.Draining 1 15), _, 15, 0, rfl, by decide +kernel⟩,
   ⟨st ((b0.set UCS.STAT.Draining 1 15).set UCS.STAT.ActiveBank 1 15), _, 15, 1, rfl, by decide +kernel⟩,
   ⟨st ({ b0 with ucs := [(15, { trialAborts := 65535 })] } |>.set UCS.STAT.Trial 1 15 |>.set UCS.SWAP_CFG.AutoRollback 1 15 |>.set
    UCS.STAT.StateB 2 15), _, 15, rfl, by decide +kernel⟩,
   ⟨st { b0 with ucs := [(15, { trialEnd := some 9 })] }, _, 15, 9, rfl, by decide +kernel⟩,
   ⟨st { b0 with ucs := [(15, { scrub := 66047 })] }, _, 15, 66047, rfl, by decide +kernel⟩,
   ⟨st { b0 with ucs := [(15, { scrub := 32767 })] }, _, 15, 32767, rfl, by decide +kernel⟩⟩

/-- What the hypotheses of PageInterrupts ask is met. -/
theorem witness_PageInterrupts :
    (∃ (s : State) (d : Dev) (fn page i : Nat) (b : Blk), s.chip.dev = d ∧ pageBlk page = some (b, i) ∧ d.reachable fn = true ∧
      d.mayWrite fn b i 0x010 = true) ∧
    (∃ (s : State) (d : Dev) (fn page i : Nat) (b : Blk), s.chip.dev = d ∧ pageBlk page = some (b, i) ∧ d.reachable fn = true ∧
      d.mayWrite fn b i 0x014 = true) ∧
    (∃ (s : State) (d : Dev) (fn page i : Nat) (b : Blk), s.chip.dev = d ∧ pageBlk page = some (b, i) ∧ d.reachable fn = true ∧
      d.mayWrite fn b i 0x018 = true) ∧
    (∃ (s : State) (d : Dev) (fn page i : Nat) (b : Blk), s.chip.dev = d ∧ pageBlk page = some (b, i) ∧ d.reachable fn = true ∧
      d.mayWrite fn b i 0x020 = true ∧ d.injOpen b = true) ∧
    (∃ (s : State) (d : Dev) (fn page i : Nat) (b : Blk), s.chip.dev = d ∧ pageBlk page = some (b, i) ∧ d.reachable fn = true ∧
      d.mayWrite fn b i 0x020 = true ∧ d.injOpen b = false) ∧
    (∃ (s : State) (d : Dev) (fn data v p i : Nat) (b : Blk), s.chip.dev = d ∧ d.opens fn .err 0 = true ∧ d.get ERR.ROUTE_SEL.Page = p ∧
      bits data 0 11 = v ∧ pageBlk p = some (b, i)) ∧
    (∃ (s : State) (d : Dev) (fn data v p i : Nat) (b : Blk), s.chip.dev = d ∧ d.opens fn .err 0 = true ∧ d.get ERR.ROUTE_SEL.Page = p ∧
      bits data 0 11 = v ∧ pageBlk p = some (b, i)) ∧
    (∃ (s : State) (d : Dev) (fn v : Nat) (e : MsixVec), s.chip.dev = d ∧ d.vec fn v = e ∧ fn ≠ 128 ∧ d.reachable fn = true ∧ v <
      vectors fn ∧ e.mask = true) := by
  exact ⟨⟨st b0, _, 0, 1324, 300, .ruu, rfl, by decide +kernel⟩,
   ⟨st b0, _, 0, 1324, 300, .ruu, rfl, by decide +kernel⟩,
   ⟨st b0, _, 0, 1324, 300, .ruu, rfl, by decide +kernel⟩,
   ⟨st b0, _, 0, 1324, 300, .ruu, rfl, by decide +kernel⟩,
   ⟨st b0, _, 0, Blk.clk.page 0, 0, .clk, rfl, by decide +kernel⟩,
   ⟨st (b0.set ERR.ROUTE_SEL.Page 1324), _, 0, 2047, 2047, 1324, 300, .ruu, rfl, by decide +kernel⟩,
   ⟨st ((b0.set ERR.ROUTE_SEL.Page (Blk.evp.page 511)).set (HDR.OWNER.Function .evp) 3 511), _, 0, 64, 64, Blk.evp.page 511, 511, .evp,
    rfl, by decide +kernel⟩,
   ⟨st { b0 with fab := { b0.fab with msix := [(2047, { mask := true })] } }, _, 0, 2047, _, rfl, rfl, by decide +kernel⟩⟩

/-- What the hypotheses of PageControl ask is met. -/
theorem witness_PageControl :
    (∃ (s : State) (d : Dev) (fn page i : Nat) (b : Blk), s.chip.dev = d ∧ pageBlk page = some (b, i) ∧ d.reachable fn = true ∧
      d.mayWrite fn b i 0x008 = true) ∧
    (∃ (s : State) (d : Dev) (fn page i : Nat) (b : Blk), s.chip.dev = d ∧ pageBlk page = some (b, i) ∧ d.reachable fn = true ∧ isPf fn
      = true) ∧
    (∃ (s : State) (d : Dev) (fn page i : Nat) (b : Blk), s.chip.dev = d ∧ pageBlk page = some (b, i) ∧ d.reachable fn = true ∧
      d.opPending b i = false) ∧
    (∃ (s : State) (d : Dev) (fn page i : Nat) (b : Blk), s.chip.dev = d ∧ pageBlk page = some (b, i) ∧ d.reachable fn = true ∧
      d.opPending b i = true) ∧
    (∃ (s : State) (d : Dev) (fn page i : Nat) (b : Blk), s.chip.dev = d ∧ pageBlk page = some (b, i) ∧ d.reachable fn = true ∧
      d.mayWrite fn b i 0x044 = true) ∧
    (∃ (s : State) (d : Dev) (fn page i : Nat) (b : Blk), s.chip.dev = d ∧ pageBlk page = some (b, i) ∧ d.reachable fn = true ∧
      d.mayWrite fn b i 0x044 = true) ∧
    (∃ (s : State) (d : Dev) (fn page i : Nat) (b : Blk) (k x : Nat), s.chip.dev = d ∧ pageBlk page = some (b, i) ∧ d.reachable fn =
      true ∧ k < 16 ∧ d.mayRead fn b i (0x108 + 16 * k) = true ∧ ((d.request fn).ctr (b.page i) k).value = x ∧ Tab.find d.fab.latchLo
      (latchKey fn (b.page i) k) = none) ∧
    (∃ (s : State) (d : Dev) (fn page i : Nat) (b : Blk) (k v : Nat), s.chip.dev = d ∧ pageBlk page = some (b, i) ∧ d.reachable fn =
      true ∧ k < 16 ∧ d.mayRead fn b i (0x108 + 16 * k) = true ∧ Tab.find d.fab.latchLo (latchKey fn (b.page i) k) = some v) ∧
    (∃ (s : State) (d : Dev) (fn page i : Nat) (b : Blk) (k lo : Nat), s.chip.dev = d ∧ pageBlk page = some (b, i) ∧ d.reachable fn =
      true ∧ k < 16 ∧ d.mayWrite fn b i (0x10C + 16 * k) = true ∧ Tab.find d.fab.hold (b.base i + 0x108 + 16 * k) = some lo) ∧
    (∃ (s : State) (d : Dev) (page i : Nat) (b : Blk), s.chip.dev = d ∧ pageBlk page = some (b, i) ∧ d.flag (HDR.CTL.QuiesceReq b) i =
      true ∧ d.workIn b i = false) := by
  exact ⟨⟨st b0, _, 0, 1324, 300, .ruu, rfl, by decide +kernel⟩,
   ⟨st b0, _, 0, 1324, 300, .ruu, rfl, by decide +kernel⟩,
   ⟨st b0, _, 0, 1324, 300, .ruu, rfl, by decide +kernel⟩,
   ⟨st (b0.set RUU.POISON_STAT.Busy 1 300), _, 0, 1324, 300, .ruu, rfl, by decide +kernel⟩,
   ⟨st b0, _, 0, 1324, 300, .ruu, rfl, by decide +kernel⟩,
   ⟨st b0, _, 0, 1324, 300, .ruu, rfl, by decide +kernel⟩,
   ⟨st b0, _, 0, 1324, 300, .ruu, 15, 0, rfl, by decide +kernel⟩,
   ⟨st { b0 with fab := { b0.fab with latchLo := [(latchKey 0 1324 15, 7)] } }, _, 0, 1324, 300, .ruu, 15, 7, rfl, by decide +kernel⟩,
   ⟨st { b0 with fab := { b0.fab with hold := [(Blk.ruu.base 300 + 0x108 + 16 * 15, 7)] } }, _, 0, 1324, 300, .ruu, 15, 7, rfl,
    by decide +kernel⟩,
   ⟨st (b0.set (HDR.CTL.QuiesceReq .ruu) 1 300), _, 1324, 300, .ruu, rfl, by decide +kernel⟩⟩

/-- What the hypotheses of HbmRequests ask is met. -/
theorem witness_HbmRequests :
    (∃ (s : State) (d : Dev) (pc port addr mask a : Nat) (data : List Byte) (x : HbmReq), s.chip.dev = d ∧ hbmAddr pc addr = a ∧ x =
      { port := port, write := true, t := addr / 64, put := maskedPut addr mask data, ord := d.hbc.ord, at0 := d.cyc, merge := (List.range 4).any (fun q => bits mask (16 * q) 16 != 0 && bits mask (16 * q) 16 != 65535), mark := if port = 5 ∧ d.phase = 3 then some (d.migMark (d.clearedTo addr)) else none }
      ∧ pc < 384 ∧ port ≤ 6 ∧ addr < 0x18000000 ∧ addr % 64 = 0 ∧ d.hbmMayWrite pc port addr data = true ∧ (d.hpc pc).waiting = [] ∧
      d.hbmFree pc x = true) ∧
    (∃ (s : State) (port addr : Nat), 1 ≤ port ∧ port ≠ 5 ∧ addr < generalBase (s.chip.dev.get FTB.GEOM_STAT.MaxLog2)) ∧
    (∃ (s : State) (d : Dev) (pc bk row : Nat) (x : HbmReq) (b : HbmBank), s.chip.dev = d ∧ d.bankRow pc x.t = (bk, row) ∧ d.injects
      .hbc (pc / 64) 1 = false ∧ (d.hpc pc).bank bk = b ∧ pc < 384 ∧ d.hbmServes pc = true ∧ (d.hpc pc).waiting = [] ∧ (∀ y ∈ (d.hpc
      pc).queue, d.urgency pc y ≠ 3) ∧ d.hbmChoose pc = some x ∧ d.injects .hbc (pc / 64) 2 = false) ∧
    (∃ (s : State) (d : Dev) (pc : Nat) (x : HbmReq), s.chip.dev = d ∧ pc < 384 ∧ (d.hpc pc).due = some x ∧ (d.hpc pc).spoiled x.t =
      false ∧ (d.hpc pc).weak x.t = false) ∧
    (∃ (s : State) (d : Dev) (pc : Nat) (x : HbmReq), s.chip.dev = d ∧ pc < 384 ∧ (d.hpc pc).due = some x ∧ (d.hpc pc).spoiled x.t =
      false ∧ x.taken = false) ∧
    (∃ (s : State) (d : Dev) (pc : Nat) (x : HbmReq), s.chip.dev = d ∧ pc < 384 ∧ (d.hpc pc).due = some x) ∧
    (∃ (s : State) (d : Dev) (pc : Nat) (x : HbmReq), s.chip.dev = d ∧ pc < 384 ∧ ((d.hpc pc).queue.find? fun y => !y.write) = some x) ∧
    (∃ (s : State) (d : Dev) (pc : Nat) (crc : Bool) (x : HbmReq), s.chip.dev = d ∧ pc < 384 ∧ (d.hpc pc).lastCmd = some x ∧ (crc =
      false ∨ x.write = true)) ∧
    (∃ (s : State) (d : Dev) (pc : Nat) (crc : Bool) (x : HbmReq), s.chip.dev = d ∧ pc < 384 ∧ (d.hpc pc).lastCmd = some x ∧ (crc =
      false ∨ x.write = true)) := by
  exact ⟨⟨st (hb {}), _, 383, 6, 0x17FFFFC0, 0xFFFF, _, [], _, rfl, rfl, rfl, by decide +kernel⟩,
   ⟨st (b0.set FTB.GEOM_STAT.MaxLog2 30), 6, 64, by decide +kernel⟩,
   ⟨st (hb { queue := [hreq false] } |>.set HBC.PORT_CFG.Ramp 0 5 0), _, 383, _, _, hreq false, _, rfl, rfl, rfl, rfl, by decide +kernel⟩,
   ⟨st (hb { queue := [hreq true] }), _, 383, hreq true, rfl, by decide +kernel⟩,
   ⟨st (hb { queue := [hreq true] }), _, 383, hreq true, rfl, by decide +kernel⟩,
   ⟨st (hb { queue := [hreq true] }), _, 383, hreq true, rfl, by decide +kernel⟩,
   ⟨st (hb { queue := [hreq false] }), _, 383, hreq false, rfl, by decide +kernel⟩,
   ⟨st (hb { lastCmd := some (hreq true) }), _, 383, false, hreq true, rfl, by decide +kernel⟩,
   ⟨st (hb { lastCmd := some { hreq true with write := true }, retries := 3 }), _, 383, true, { hreq true with write := true }, rfl,
    by decide +kernel⟩⟩

/-- What the hypotheses of HbmUpkeep ask is met. -/
theorem witness_HbmUpkeep :
    (∃ (s : State) (d : Dev), s.chip.dev = d) ∧
    (∃ (s : State) (d : Dev) (pc : Nat), s.chip.dev = d ∧ pc < 384 ∧ d.live .hbc (pc / 64) = true ∧ (d.stack (pc / 64)).selfRef = false) ∧
    (∃ (s : State) (d : Dev) (k : Nat) (v : Int), s.chip.dev = d ∧ k < 6 ∧ d.live .hbc k = true ∧ v ≤ 105) ∧
    (∃ (s : State) (d : Dev) (k p q : Nat), s.chip.dev = d ∧ k < 6 ∧ d.flag HBC.SCRUB_CFG.Enable k = true ∧ (d.stack k).scrubPc = q ∧
      d.pathMoves = true ∧ (d.hpc (64 * k + q)).waiting = [] ∧ d.hbmFree (64 * k + q) { port := 6, write := false, t := p } = true ∧
      d.get HBC.SCRUB_POS.Position k = p ∧ (d.hpc (64 * k + q)).spoiled p = false ∧ (d.hpc (64 * k + q)).weak p = false) ∧
    (∃ (s : State) (d : Dev) (fn data why : Nat), s.chip.dev = d ∧ d.opens fn .hbc 0 = true ∧ d.freqReason (data % 4) = why) ∧
    (∃ (s : State) (d : Dev) (fn data why : Nat), s.chip.dev = d ∧ d.opens fn .hbc 0 = true ∧ d.freqReason (data % 4) = why) ∧
    (∃ (s : State) (d : Dev) (t0 : Nat), s.chip.dev = d ∧ d.hbc.freqAt = some t0 ∧ d.glb.dprWait = none) ∧
    (∃ (s : State) (d : Dev) (fn i data a b : Nat), s.chip.dev = d ∧ i < 6 ∧ d.opens fn .hbc i = true ∧ bits data 0 2 = a ∧ bits data 2
      2 = b) ∧
    (∃ (s : State) (d : Dev) (fn i data a b : Nat), s.chip.dev = d ∧ i < 6 ∧ d.opens fn .hbc i = true ∧ bits data 0 2 = a ∧ bits data 2
      2 = b) := by
  exact ⟨⟨st b0, _, rfl⟩,
   ⟨st (hb {}), _, 383, rfl, by decide +kernel⟩,
   ⟨st b0, _, 5, 105, rfl, by decide +kernel⟩,
   ⟨st (hb {} |>.set HBC.SCRUB_CFG.Enable 1 5), _, 5, 0, 0, rfl, by decide +kernel⟩,
   ⟨st b0, _, 0, 0, 1, rfl, by decide +kernel⟩,
   ⟨st b0, _, 0, 3, 4, rfl, by decide +kernel⟩,
   ⟨st { b0 with hbc := { b0.hbc with freqAt := some 5, freqRate := 1 } }, _, 5, rfl, by decide +kernel⟩,
   ⟨st b0, _, 0, 5, 15, 3, 3, rfl, by decide +kernel⟩,
   ⟨st (hb {}), _, 0, 5, 5, 1, 1, rfl, by decide +kernel⟩⟩

/-- What the hypotheses of TimeBase ask is met. -/
theorem witness_TimeBase :
    (∃ (s : State) (d : Dev) (fn new m incr : Nat), s.chip.dev = d ∧ 2 ^ 48 * secUnits = m ∧ d.get TIM.INCR.Incr = incr ∧ dtOf (d.get
      TIM.SET_SEC_LO.SecondsLo + 2 ^ 32 * d.get TIM.SET_SEC_HI.SecondsHi) (d.get TIM.SET_NS.Nanoseconds) = new ∧ d.opens fn .tim 0 =
      true ∧ d.get TIM.SET_NS.Nanoseconds ≤ 999999999) ∧
    (∃ (s : State) (d : Dev) (fn new m incr : Nat), s.chip.dev = d ∧ 2 ^ 48 * secUnits = m ∧ d.get TIM.INCR.Incr = incr ∧ dtOf (d.get
      TIM.SET_SEC_LO.SecondsLo + 2 ^ 32 * d.get TIM.SET_SEC_HI.SecondsHi) (d.get TIM.SET_NS.Nanoseconds) = new ∧ d.opens fn .tim 0 =
      true ∧ 999999999 < d.get TIM.SET_NS.Nanoseconds) ∧
    (∃ (s : State) (d : Dev) (fn new m incr : Nat), s.chip.dev = d ∧ 2 ^ 48 * secUnits = m ∧ d.get TIM.INCR.Incr = incr ∧ dtOf (d.get
      TIM.SET_SEC_LO.SecondsLo + 2 ^ 32 * d.get TIM.SET_SEC_HI.SecondsHi) (d.get TIM.SET_NS.Nanoseconds) = new ∧ d.opens fn .tim 0 =
      true) ∧
    (∃ (s : State) (d : Dev) (fn data v : Nat) (whole : Bool), s.chip.dev = d ∧ ((whole = true ∧ v = data % 2 ^ 48) ∨ (whole = false ∧ ∃
      lo, Tab.find d.fab.hold (Blk.tim.base 0 + 0x210) = some lo ∧ v = (lo + 2 ^ 32 * (data % 2 ^ 32)) % 2 ^ 48)) ∧ d.opens fn .tim 0 =
      true) ∧
    (∃ (s : State) (d : Dev) (fn data v : Nat) (whole : Bool), s.chip.dev = d ∧ ((whole = true ∧ v = data % 2 ^ 48) ∨ (whole = false ∧ ∃
      lo, Tab.find d.fab.hold (Blk.tim.base 0 + 0x210) = some lo ∧ v = (lo + 2 ^ 32 * (data % 2 ^ 32)) % 2 ^ 48)) ∧ d.opens fn .tim 0 =
      true) ∧
    (∃ (s : State) (d : Dev), s.chip.dev = d ∧ d.flag TIM.PPS_OUT_CFG.Enable = true ∧ d.tim.ppsOut = false) ∧
    (∃ (s : State) (d : Dev), s.chip.dev = d ∧ d.tim.ppsOut = true) ∧
    (∃ (s : State) (d : Dev) (falling : Bool), s.chip.dev = d ∧ (∀ a, d.tim.ppsInAt = some a → a + secCyc / 2 ≤ d.cyc) ∧ d.flag
      TIM.PPS_IN_CFG.Enable = true ∧ d.flag TIM.PPS_IN_CFG.Falling = falling) ∧
    (∃ (s : State) (d : Dev), s.chip.dev = d ∧ d.flag TIM.TEN_CFG.Enable = true) ∧
    (∃ (s : State) (d : Dev) (lane c n : Nat) (transmit : Bool) (sum diff : Int), s.chip.dev = d ∧ (∃ p, d.portOfLane lane = some p ∧
      (d.port p).link = true) ∧ 2 ^ d.get TIM.CAL_CFG.AvgLog2 = n ∧ Tab.get 0 (if transmit = true then d.tim.tx else d.tim.rx) lane = c
      ∧ sum - (c : Int) * n = diff ∧ lane < 128 ∧ d.flag TIM.CAL_CFG.Enable = true) := by
  exact ⟨⟨st (b0.set TIM.SET_NS.Nanoseconds 999999999), _, 0, _, _, _, rfl, rfl, rfl, rfl, by decide +kernel⟩,
   ⟨st (b0.set TIM.SET_NS.Nanoseconds 1000000000), _, 0, _, _, _, rfl, rfl, rfl, rfl, by decide +kernel⟩,
   ⟨st (b0.set TIM.SET_NS.Nanoseconds 999999999), _, 0, _, _, _, rfl, rfl, rfl, rfl, by decide +kernel⟩,
   ⟨st b0, _, 0, 878729692919, 878729692919, true, rfl, .inl ⟨rfl, by decide⟩, by decide +kernel⟩,
   ⟨st { b0 with fab := { b0.fab with hold := [(Blk.tim.base 0 + 0x210, 5)] } }, _, 0, 0, 5, false, rfl, .inr ⟨rfl, 5, by decide +kernel,
    by decide⟩, by decide +kernel⟩,
   ⟨st (b0.set TIM.PPS_OUT_CFG.Enable 1), _, rfl, by decide +kernel⟩,
   ⟨st { b0 with tim := { b0.tim with ppsOut := true } }, _, rfl, by decide +kernel⟩,
   ⟨st (b0.set TIM.PPS_IN_CFG.Enable 1 |>.set TIM.PPS_IN_CFG.Falling 1), _, true, rfl, (by intro a h; cases h), by decide +kernel⟩,
   ⟨st (b0.set TIM.TEN_CFG.Enable 1), _, rfl, by decide +kernel⟩,
   ⟨st ({ b0 with eg := { b0.eg with ports := [(127, { link := true })] } } |>.set TIM.CAL_CFG.Enable 1), _, 127, _, _, false, 5, _, rfl,
    ⟨127, by decide +kernel⟩, rfl, rfl, rfl, by decide +kernel⟩⟩

/-- What the hypotheses of SundialRuns ask is met. -/
theorem witness_SundialRuns :
    (∃ (s : State) (d : Dev) (fn k data r : Nat) (x : Stream), s.chip.dev = d ∧ d.stream k = x ∧ d.opens fn .sdl 0 = true ∧ k < 16 ∧
      x.active = false ∧ (d.setStreamCfg k data).enableReason k = r) ∧
    (∃ (s : State) (d : Dev) (fn k data r : Nat) (x : Stream), s.chip.dev = d ∧ d.stream k = x ∧ d.opens fn .sdl 0 = true ∧ k < 16 ∧
      x.active = false ∧ (d.setStreamCfg k data).enableReason k = r) ∧
    (∃ (s : State) (d : Dev) (fn k data : Nat) (x : Stream) (i : Instr), s.chip.dev = d ∧ d.stream k = x ∧ d.opens fn .sdl 0 = true ∧ k
      < 16 ∧ x.active = true ∧ d.sameStreamCfg k data = false ∧ i ∈ [Instr.streamEnable fn k data, .streamDisable fn k data]) ∧
    (∃ (s : State) (d : Dev) (fn k data : Nat) (x : Stream), s.chip.dev = d ∧ d.stream k = x ∧ d.opens fn .sdl 0 = true ∧ k < 16 ∧
      x.active = true ∧ x.ending = false ∧ d.sameStreamCfg k data = true ∧ x.jobs = [] ∧ x.buf = [] ∧ x.gap = none) ∧
    (∃ (s : State) (d : Dev) (k a : Nat) (x : Stream) (e : LedEnt) (rest : List LedEnt) (b : List Byte), s.chip.dev = d ∧ d.stream k = x
      ∧ d.ringAddr k x.put = a ∧ x.buf = e :: rest ∧ b = sliceB (putB e.bytes 8 (toLE 8 x.index)) 0 64 ∧ (e.late = true ∨ (d.horizonFree
      = true ∧ e.stamp < x.bound ∧ e.stamp + 1 + nsU (16 * max 1 (d.get SDL.MERGE_CFG.Hold)) ≤ d.dt ∧ d.dt < 2 ^ 48 * secUnits)) ∧ k <
      16 ∧ x.active = true ∧ x.jobs = [] ∧ d.ringFull k = false ∧ a % 64 = 0 ∧ (d.hpc (a / 2 ^ 29)).waiting = [] ∧ d.hbmMayPut 3 a =
      true ∧ (x.gap = none ∨ 2048 < x.buf.length)) ∧
    (∃ (s : State) (d : Dev) (k a : Nat) (x : Stream) (e : LedEnt) (rest : List LedEnt) (b : List Byte), s.chip.dev = d ∧ d.stream k = x
      ∧ d.ringAddr k x.put = a ∧ x.buf = e :: rest ∧ b = sliceB (putB e.bytes 8 (toLE 8 x.index)) 0 64 ∧ (e.late = true ∨ (d.horizonFree
      = true ∧ e.stamp < x.bound ∧ e.stamp + 1 + nsU (16 * max 1 (d.get SDL.MERGE_CFG.Hold)) ≤ d.dt ∧ d.dt < 2 ^ 48 * secUnits)) ∧ k <
      16 ∧ x.active = true ∧ x.jobs = [] ∧ d.ringFull k = false ∧ a % 64 = 0 ∧ (d.hpc (a / 2 ^ 29)).waiting = [] ∧ d.hbmMayPut 3 a =
      true ∧ (x.gap = none ∨ 2048 < x.buf.length)) ∧
    (∃ (s : State) (d : Dev) (k a : Nat) (x : Stream) (g : LedGap) (b : List Byte), s.chip.dev = d ∧ d.stream k = x ∧ d.ringAddr k x.put
      = a ∧ b = sliceB (putB g.bytes 8 (toLE 8 x.index)) 0 64 ∧ k < 16 ∧ x.active = true ∧ x.jobs = [] ∧ d.ringFull k = false ∧ a % 64 =
      0 ∧ (d.hpc (a / 2 ^ 29)).waiting = [] ∧ d.hbmMayPut 3 a = true ∧ x.gap = some g ∧ x.buf.length ≤ 2048) ∧
    (∃ (s : State) (d : Dev) (k a : Nat) (x : Stream), s.chip.dev = d ∧ d.stream k = x ∧ d.ringAddr k x.put = a ∧ (∀ e rest, x.buf = e
      :: rest → e.late = false ∧ x.bound ≤ e.stamp) ∧ k < 16 ∧ x.active = true ∧ x.jobs = [] ∧ d.ringFull k = false ∧ a % 64 = 0 ∧
      (d.hpc (a / 2 ^ 29)).waiting = [] ∧ d.hbmMayPut 3 a = true ∧ x.ending = false ∧ d.horizonFree = true ∧ x.bound + nsU (16 * max 1
      (d.get SDL.MERGE_CFG.Hold)) ≤ d.dt ∧ d.dt < 2 ^ 48 * secUnits) := by
  exact ⟨⟨st b0, _, 0, 15, 1, 1, _, rfl, rfl, by decide +kernel⟩,
   ⟨st ({ b0 with sdl := { b0.sdl with bootOk := true } } |>.set TIM.TIME_STAT.Valid 1 |>.set SDL.EPOCH.EpochUs 100 0 15), _, 0, 15, 1, 0,
    _, rfl, rfl, by decide +kernel⟩,
   ⟨st (sdlDev { active := true }), _, 0, 15, 2, _, .streamDisable 0 15 2, rfl, rfl, by decide +kernel⟩,
   ⟨st (sdlDev { active := true }), _, 0, 15, 0, _, rfl, rfl, by decide +kernel⟩,
   ⟨st ((sdlDev { active := true, buf := [lent true], bound := 9 }).set (HDR.CTL.Enable .hbc) 1 5 |>.set (HDR.CTL.Enable .hbc) 1 0), _, 15,
    _, _, lent true, _, _, rfl, rfl, rfl, rfl, rfl, .inl rfl, by decide +kernel⟩,
   ⟨st ((sdlDev { active := true, buf := [lent false], bound := 9 }).set (HDR.CTL.Enable .hbc) 1 5 |>.set (HDR.CTL.Enable .hbc) 1 0), _,
    15, _, _, lent false, _, _, rfl, rfl, rfl, rfl, rfl, .inr (by decide +kernel), by decide +kernel⟩,
   ⟨st ((sdlDev { active := true, gap := some lgap }).set (HDR.CTL.Enable .hbc) 1 5 |>.set (HDR.CTL.Enable .hbc) 1 0), _, 15, _, _, lgap,
    _, rfl, rfl, rfl, rfl, by decide +kernel⟩,
   ⟨st ((sdlDev { active := true, bound := 5 }).set (HDR.CTL.Enable .hbc) 1 5 |>.set (HDR.CTL.Enable .hbc) 1 0), _, 15, _, _, rfl, rfl,
    rfl, (by intro e r h; cases h), by decide +kernel⟩⟩

/-- What the hypotheses of SundialSeals ask is met. -/
theorem witness_SundialSeals :
    (∃ (s : State) (d : Dev) (k key : Nat) (x : Stream) (q : SealReq) (rest : List SealReq) (body sig : List Byte), s.chip.dev = d ∧
      d.stream k = x ∧ x.seals = q :: rest ∧ q.bytes k d.mram.boot x.prevSeal = body ∧ (d.secSign key body).1 = sig ∧ d.canSign q.key =
      some key) ∧
    (∃ (s : State) (d : Dev) (k ec : Nat) (x : Stream), s.chip.dev = d ∧ d.stream k = x ∧ k < 16 ∧ d.get SDL.STREAM_CFG.EntryChannel 0 k
      = ec ∧ x.got < x.put ∧ d.streamRoom ec = true ∧ d.pathMoves = true ∧ d.burstBad (d.ringAddr k x.got) = false ∧ d.hbmMayRead 3
      (d.ringAddr k x.got) = true ∧ (d.hpc (d.ringAddr k x.got / 2 ^ 29)).waiting = []) ∧
    (∃ (s : State) (d : Dev) (n : Nat) (i : Instr), s.chip.dev = d ∧ (∃ key, d.canSign d.mram.ledgerSerial = some key) ∧ ofLE (sliceB
      d.mram.anchor 16 8) + 1 = n ∧ ((i = .anchorPeriodic ∧ d.flag SDL.ANCHOR_CFG.Enable = true ∧ d.live .sdl = true) ∨ (∃ fn, i =
      .anchorNow fn ∧ d.opens fn .sdl 0 = true ∧ d.flag SDL.ANCHOR_CFG.Enable = true ∧ ∀ a, d.sdl.anchorAt = some a → a + secCyc ≤
      d.cyc))) ∧
    (∃ (s : State) (d : Dev) (n : Nat) (i : Instr), s.chip.dev = d ∧ (∃ key, d.canSign d.mram.ledgerSerial = some key) ∧ ofLE (sliceB
      d.mram.anchor 16 8) + 1 = n ∧ ((i = .anchorPeriodic ∧ d.flag SDL.ANCHOR_CFG.Enable = true ∧ d.live .sdl = true) ∨ (∃ fn, i =
      .anchorNow fn ∧ d.opens fn .sdl 0 = true ∧ d.flag SDL.ANCHOR_CFG.Enable = true ∧ ∀ a, d.sdl.anchorAt = some a → a + secCyc ≤
      d.cyc))) ∧
    (∃ (s : State) (d : Dev) (fn a : Nat), s.chip.dev = d ∧ d.opens fn .sdl 0 = true ∧ d.sdl.anchorAt = some a ∧ d.cyc < a + secCyc) ∧
    (∃ (s : State) (d : Dev) (fn : Nat), s.chip.dev = d ∧ d.opens fn .sdl 0 = true) ∧
    (∃ (s : State) (d : Dev) (fn : Nat), s.chip.dev = d ∧ d.opens fn .sdl 0 = true) ∧
    (∃ (s : State) (d : Dev) (n : Nat), s.chip.dev = d ∧ d.sdl.rotKey = some n ∧ d.mram.ledgerSerial + 1 = n ∧ d.sec.stopped = false ∧
      d.sec.trngBad = false) ∧
    (∃ (s : State) (d : Dev) (n : Nat), s.chip.dev = d ∧ (∀ k, k < 16 → (d.stream k).rotate = false ∧ (∀ q ∈ (d.stream k).seals, q.key =
      n) ∧ ((d.stream k).active = true → (d.stream k).key = n)) ∧ d.sdl.rotKey = some n ∧ d.mram.ledgerSerial = n) ∧
    (∃ (s : State) (d : Dev) (n k : Nat), s.chip.dev = d ∧ d.sdl.rotKey = some n ∧ k < 16 ∧ (d.stream k).rotate = true) := by
  exact ⟨⟨st { (sdlDev { seals := [sealReq] }) with mram := { b0.mram with ledgerSerial := 3, ledgerKeys := [(3, 5)] } }, _, 15, 5, _, sealReq,
    _, _, _, rfl, rfl, rfl, rfl, rfl, by decide +kernel⟩,
   ⟨st (sdlDev { got := 2, put := 3 } |>.set SDL.STREAM_CFG.EntryChannel 255 0 15 |>.set DMA.BIND.Endpoint 9 0 255 |>.set DCH.STAT.State 1
    255 |>.set DCH.STAT.Credit 1 255 |>.set DCH.BURST.Bytes 64 255 |>.set (HDR.CTL.Enable .hbc) 1 0 |>.set (HDR.CTL.Enable .hbc) 1 5),
    _, 15, 255, _, rfl, rfl, by decide +kernel⟩,
   ⟨st ({ b0 with mram := { b0.mram with ledgerSerial := 3, ledgerKeys := [(3, 5)] } } |>.set SDL.ANCHOR_CFG.Enable 1), _, _,
    .anchorPeriodic, rfl, ⟨5, by decide +kernel⟩, rfl, .inl ⟨rfl, by decide +kernel, by decide +kernel⟩⟩,
   ⟨st ({ b0 with mram := { b0.mram with ledgerSerial := 3, ledgerKeys := [(3, 5)] } } |>.set SDL.ANCHOR_CFG.Enable 1), _, _, .anchorNow 0,
    rfl, ⟨5, by decide +kernel⟩, rfl, (.inr ⟨0, rfl, by decide +kernel, by decide +kernel, by intro a h; cases h⟩)⟩,
   ⟨st { b0 with sdl := { b0.sdl with anchorAt := some 5 } }, _, 0, 5, rfl, by decide +kernel⟩,
   ⟨st b0, _, 0, rfl, by decide +kernel⟩,
   ⟨st (b0.set SDL.ROT_STAT.Busy 1), _, 0, rfl, by decide +kernel⟩,
   ⟨st { (sdlDev {  }) with sdl := { (sdlDev {  }).sdl with rotKey := some 4 }, mram := { b0.mram with ledgerSerial := 3 } }, _, 4, rfl,
    by decide +kernel⟩,
   ⟨st { b0 with sdl := { b0.sdl with rotKey := some 4 }, mram := { b0.mram with ledgerSerial := 4 } }, _, 4, rfl,
    (by intro k _; exact ⟨rfl, (by intro q hq; cases hq), (by intro h; cases h)⟩), by decide +kernel⟩,
   ⟨st
    { (sdlDev { rotate := true }) with sdl := { (sdlDev { rotate := true }).sdl with rotKey := some 4 }, mram := { b0.mram with ledgerSerial := 4 } },
    _, 4, 15, rfl, by decide +kernel⟩⟩

/-- What the hypotheses of HostFunctions ask is met. -/
theorem witness_HostFunctions :
    (∃ (s : State) (d : Dev) (rate width : Nat), s.chip.dev = d ∧ d.boot.relAt ≠ none ∧ 1 ≤ rate ∧ rate ≤ 5 ∧ width ∈ [1, 2, 4, 8]) ∧
    (∃ (s : State) (d : Dev) (n : Nat), s.chip.dev = d ∧ d.cfgUp 0 = true ∧ n ≤ 127 ∧ d.fab.vfEnable = false) ∧
    (∃ (s : State) (d : Dev) (n : Nat), s.chip.dev = d ∧ d.cfgUp 0 = true ∧ n ≤ 127 ∧ d.fab.vfEnable = false) ∧
    (∃ (s : State) (d : Dev) (n : Nat), s.chip.dev = d ∧ d.cfgUp 0 = true ∧ d.fab.vfEnable = false ∧ d.fab.vfChange = some (n, true)) ∧
    (∃ (s : State) (d : Dev) (n : Nat) (on : Bool), s.chip.dev = d ∧ d.fab.vfChange = some (n, on)) ∧
    (∃ (s : State) (d : Dev) (f : Nat), s.chip.dev = d ∧ d.fnExists f = true ∧ d.cfgUp f = true) ∧
    (∃ (s : State) (d : Dev) (f : Nat), s.chip.dev = d ∧ d.fnExists f = true ∧ d.cfgUp f = true) ∧
    (∃ (s : State) (d : Dev) (f : Nat), s.chip.dev = d ∧ d.fnExists f = true ∧ d.cfgUp f = true) ∧
    (∃ (s : State) (d : Dev) (f : Nat), s.chip.dev = d ∧ d.fnExists f = true ∧ d.boot.hostUp = true ∧ (d.fn f).flr = true) ∧
    (∃ (s : State) (d : Dev) (f : Nat), s.chip.dev = d ∧ d.fnExists f = true ∧ d.boot.hostUp = true ∧ (d.fn f).flr = false) ∧
    (∃ (s : State) (d : Dev) (f : Nat), s.chip.dev = d ∧ f < 128 ∧ (d.fn f).flr = true) ∧
    (∃ (s : State) (d : Dev) (f : Nat), s.chip.dev = d ∧ 0 < f ∧ f < 128 ∧ d.reachable f = true) ∧
    (∃ (s : State) (d : Dev) (w : Nat), s.chip.dev = d ∧ 0 < w ∧ w < 128 ∧ d.reachable 0 = true) ∧
    (∃ (s : State) (d : Dev) (fn j : Nat), s.chip.dev = d ∧ d.opens fn .hif 0 = true ∧ j < 4) ∧
    (∃ (s : State) (d : Dev) (n : Nat) (d3 : Bool) (i : Instr), s.chip.dev = d ∧ i ∈ [Instr.vfEnableSet n, .vfEnableClear,
      .powerStateChange 0 d3, .flr 0, .getVersion] ∧ d.boot.hostUp = false) := by
  exact ⟨⟨st { b0 with boot := { b0.boot with relAt := some 5 } }, _, 5, 8, rfl, by decide +kernel⟩,
   ⟨st bu, _, 127, rfl, by decide +kernel⟩,
   ⟨st bu, _, 0, rfl, by decide +kernel⟩,
   ⟨st { bu with fab := { bu.fab with vfChange := some (127, true) } }, _, 127, rfl, by decide +kernel⟩,
   ⟨st { bu with fab := { bu.fab with vfChange := some (127, true) } }, _, 127, true, rfl, by decide +kernel⟩,
   ⟨st bu, _, 0, rfl, by decide +kernel⟩,
   ⟨st { bu with fab := { bu.fab with numVfs := 127, vfEnable := true } }, _, 127, rfl, by decide +kernel⟩,
   ⟨st { bu with fab := { bu.fab with numVfs := 127, vfEnable := true } }, _, 127, rfl, by decide +kernel⟩,
   ⟨st { bu with fab := { bu.fab with numVfs := 127, vfEnable := true, fns := [(127, { flr := true })] } }, _, 127, rfl, by decide +kernel⟩,
   ⟨st { bu with fab := { bu.fab with numVfs := 127, vfEnable := true } }, _, 127, rfl, by decide +kernel⟩,
   ⟨st { bu with fab := { bu.fab with fns := [(127, { flr := true })] } }, _, 127, rfl, by decide +kernel⟩,
   ⟨st { bu with fab := { bu.fab with numVfs := 127, vfEnable := true, vfMse := true } }, _, 127, rfl, by decide +kernel⟩,
   ⟨st b0, _, 127, rfl, by decide +kernel⟩,
   ⟨st b0, _, 0, 3, rfl, by decide +kernel⟩,
   ⟨st b0, _, 127, true, .getVersion, rfl, by simp, by decide +kernel⟩⟩

/-- What the hypotheses of SpdmAnswers ask is met. -/
theorem witness_SpdmAnswers :
    (∃ (s : State) (d : Dev), s.chip.dev = d ∧ d.cfgUp 0 = true) ∧
    (∃ (s : State) (d : Dev), s.chip.dev = d ∧ d.cfgUp 0 = true) ∧
    (∃ (s : State) (d : Dev) (m : List Byte), s.chip.dev = d ∧ m = [0x10, 0x04, 0, 0, 0, 1, 0, 0x12] ∧ d.cfgUp 0 = true) ∧
    (∃ (s : State) (d : Dev) (v : Nat) (e : MsixVec), s.chip.dev = d ∧ v = Config.doeVector.toNat ∧ d.vec 0 v = e ∧ d.cfgUp 0 = true ∧
      d.doe.intOn = true ∧ e.mask = false ∧ (d.fn 0).fmask = false ∧ (d.fn 0).bme = true) ∧
    (∃ (s : State) (d : Dev) (m : List Byte), s.chip.dev = d ∧ m = [0x12, 0x61, 0, 0, 0, 16, 0, 0] ++ toLE 4 0x16 ++ toLE 4 4096 ++ toLE
      4 4096 ∧ d.cfgUp 0 = true) ∧
    (∃ (s : State) (d : Dev) (req : List Byte), s.chip.dev = d ∧ d.cfgUp 0 = true ∧ 1024 < 12 + req.length) ∧
    (∃ (s : State) (d : Dev) (req : List Byte), s.chip.dev = d ∧ d.cfgUp 0 = true ∧ 12 + req.length ≤ 1024) ∧
    (∃ (s : State) (d : Dev) (slot offset length summary : Nat) (nonce : List Byte) (attr op : Nat) (i : Instr), s.chip.dev = d ∧ i ∈
      [Instr.getDigests, .getCertificate slot offset length, .challenge slot summary nonce, .getMeasurements attr op nonce slot] ∧
      d.cfgUp 0 = true ∧ d.doe.phase ≠ 3) ∧
    (∃ (s : State) (d : Dev), s.chip.dev = d ∧ d.cfgUp 0 = true) ∧
    (∃ (s : State) (d : Dev) (chain : List Byte), s.chip.dev = d ∧ d.slot0 = chain ∧ d.cfgUp 0 = true ∧ d.doe.phase = 3) ∧
    (∃ (s : State) (d : Dev) (chain : List Byte) (slot offset length : Nat) (p : List Byte), s.chip.dev = d ∧ d.slot0 = chain ∧ offset <
      chain.length ∧ (chain.drop offset).take (min 4032 length) = p ∧ d.cfgUp 0 = true ∧ d.doe.phase = 3 ∧ slot % 16 = 0) ∧
    (∃ (s : State) (d : Dev) (chain : List Byte) (key summary : Nat) (nonce q m mine : List Byte) (e : Dev), s.chip.dev = d ∧ d.slot0 =
      chain ∧ d.nonce32 = (mine, e) ∧ q = [0x12, 0x83, 0] ++ toLE 1 summary ++ sliceB nonce 0 32 ∧ m = [0x12, 0x03, 0, 1] ++ sha384
      chain ++ mine ++ (if summary = 0 then [] else sha384 d.measureAll) ++ [0, 0] ∧ d.cfgUp 0 = true ∧ d.doe.phase = 3 ∧ d.attestKey =
      some key ∧ (summary = 0 ∨ summary = 0xFF)) ∧
    (∃ (s : State) (d : Dev) (chain : List Byte) (key summary : Nat) (nonce q m mine : List Byte) (e : Dev), s.chip.dev = d ∧ d.slot0 =
      chain ∧ d.nonce32 = (mine, e) ∧ q = [0x12, 0x83, 0] ++ toLE 1 summary ++ sliceB nonce 0 32 ∧ m = [0x12, 0x03, 0, 1] ++ sha384
      chain ++ mine ++ (if summary = 0 then [] else sha384 d.measureAll) ++ [0, 0] ∧ d.cfgUp 0 = true ∧ d.doe.phase = 3 ∧ d.attestKey =
      some key ∧ (summary = 0 ∨ summary = 0xFF)) ∧
    (∃ (s : State) (d : Dev) (chain : List Byte) (attr op slot : Nat) (nonce q m mine : List Byte) (e : Dev) (rec_ : List Byte) (count :
      Nat), s.chip.dev = d ∧ d.slot0 = chain ∧ d.nonce32 = (mine, e) ∧ q = [0x12, 0xE0] ++ toLE 1 attr ++ toLE 1 op ++ (if bit attr 0 =
      true then sliceB nonce 0 32 ++ toLE 1 slot else []) ∧ rec_ = (if op = 0 then [] else if op = 0xFF then d.measureAll else
      d.measureBlock op) ∧ count = (if op = 0 then 0 else if op = 0xFF then 6 else 1) ∧ m = [0x12, 0x60] ++ toLE 1 (if op = 0 then 6
      else 0) ++ [0] ++ toLE 1 count ++ toLE 3 rec_.length ++ rec_ ++ mine ++ [0, 0] ∧ d.cfgUp 0 = true ∧ d.doe.phase = 3 ∧ (op ≤ 6 ∨ op
      = 0xFF) ∧ (bit attr 0 = false ∨ slot % 16 = 0)) ∧
    (∃ (s : State) (d : Dev) (chain : List Byte) (attr op slot : Nat) (nonce q m mine : List Byte) (e : Dev) (rec_ : List Byte) (count :
      Nat), s.chip.dev = d ∧ d.slot0 = chain ∧ d.nonce32 = (mine, e) ∧ q = [0x12, 0xE0] ++ toLE 1 attr ++ toLE 1 op ++ (if bit attr 0 =
      true then sliceB nonce 0 32 ++ toLE 1 slot else []) ∧ rec_ = (if op = 0 then [] else if op = 0xFF then d.measureAll else
      d.measureBlock op) ∧ count = (if op = 0 then 0 else if op = 0xFF then 6 else 1) ∧ m = [0x12, 0x60] ++ toLE 1 (if op = 0 then 6
      else 0) ++ [0] ++ toLE 1 count ++ toLE 3 rec_.length ++ rec_ ++ mine ++ [0, 0] ∧ d.cfgUp 0 = true ∧ d.doe.phase = 3 ∧ (op ≤ 6 ∨ op
      = 0xFF) ∧ (bit attr 0 = false ∨ slot % 16 = 0)) ∧
    (∃ (s : State) (d : Dev) (chain : List Byte) (attr op slot : Nat) (nonce q m mine : List Byte) (e : Dev) (rec_ : List Byte) (count :
      Nat), s.chip.dev = d ∧ d.slot0 = chain ∧ d.nonce32 = (mine, e) ∧ q = [0x12, 0xE0] ++ toLE 1 attr ++ toLE 1 op ++ (if bit attr 0 =
      true then sliceB nonce 0 32 ++ toLE 1 slot else []) ∧ rec_ = (if op = 0 then [] else if op = 0xFF then d.measureAll else
      d.measureBlock op) ∧ count = (if op = 0 then 0 else if op = 0xFF then 6 else 1) ∧ m = [0x12, 0x60] ++ toLE 1 (if op = 0 then 6
      else 0) ++ [0] ++ toLE 1 count ++ toLE 3 rec_.length ++ rec_ ++ mine ++ [0, 0] ∧ d.cfgUp 0 = true ∧ d.doe.phase = 3 ∧ (op ≤ 6 ∨ op
      = 0xFF) ∧ (bit attr 0 = false ∨ slot % 16 = 0)) := by
  exact ⟨⟨st bu, _, rfl, by decide +kernel⟩,
   ⟨st bu, _, rfl, by decide +kernel⟩,
   ⟨st bu, _, _, rfl, rfl, by decide +kernel⟩,
   ⟨st doeDev, _, Config.doeVector.toNat, { mask := false }, rfl, rfl, doeDev_vec, by decide +kernel⟩,
   ⟨st bu, _, _, rfl, rfl, by decide +kernel⟩,
   ⟨st bu, _, List.replicate 1013 0, rfl, by decide +kernel⟩,
   ⟨st bu, _, [], rfl, by decide +kernel⟩,
   ⟨st bu, _, 0, 0, 0, 0, [], 0, 0, .getDigests, rfl, by simp, by decide +kernel⟩,
   ⟨st bu, _, rfl, by decide +kernel⟩,
   ⟨st sp, _, _, rfl, rfl, by decide +kernel⟩,
   ⟨st sp, _, _, 0, 0, 4032, _, rfl, rfl, slot0_pos sp, rfl, by decide +kernel⟩,
   ⟨st sp, _, _, 7, 0, [], _, _, _, _, rfl, rfl, rfl, rfl, rfl, by decide +kernel⟩,
   ⟨st sp, _, _, 7, 0xFF, [], _, _, _, _, rfl, rfl, rfl, rfl, rfl, by decide +kernel⟩,
   ⟨st sp, _, _, 1, 0xFF, 0, [], _, _, _, _, _, _, rfl, rfl, rfl, rfl, rfl, rfl, rfl, by decide +kernel⟩,
   ⟨st sp, _, _, 0, 6, 0, [], _, _, _, _, _, _, rfl, rfl, rfl, rfl, rfl, rfl, rfl, by decide +kernel⟩,
   ⟨st sp, _, _, 0, 0, 0, [], _, _, _, _, _, _, rfl, rfl, rfl, rfl, rfl, rfl, rfl, by decide +kernel⟩⟩

/-- What the hypotheses of VfRemoval ask is met. -/
theorem witness_VfRemoval :
    ∃ (s : State) (d : Dev), s.chip.dev = d ∧ d.cfgUp 0 = true ∧ d.fab.vfEnable = true := by
  exact ⟨st { bu with fab := { bu.fab with numVfs := 127, vfEnable := true } }, _, rfl, by decide +kernel⟩

/-- What the hypotheses of DetectorReports ask is met. -/
theorem witness_DetectorReports :
    (∃ (s : State) (d : Dev) (page det i : Nat) (b : Blk), s.chip.dev = d ∧ pageBlk page = some (b, i) ∧ det < detCount b ∧ (d.live b i
      = true ∨ b = .clk) ∧ (b, det) ∉ [(Blk.ruu, 3), (.hbc, 0), (.evq, 0), (.evp, 0)] ∧ d.injects b i det = false) ∧
    (∃ (s : State) (d : Dev) (page det i : Nat) (b : Blk) (n : Nat), s.chip.dev = d ∧ pageBlk page = some (b, i) ∧ det < detCount b ∧
      (d.live b i = true ∨ b = .clk) ∧ (b, det) ∉ [(Blk.ruu, 3), (.hbc, 0), (.evq, 0), (.evp, 0)] ∧ d.injects b i det = true ∧
      detCorrects b det = true ∧ n < 32 ∧ d.get (HDR.ERR_INJ_DATA.Pattern b) i = 2 ^ n) ∧
    (∃ (s : State) (d : Dev) (page : Nat) (b : Blk), s.chip.dev = d ∧ pageBlk page = some (b, 0) ∧ d.live b 0 = true ∧ b = .bsn ∧
      d.injects b 0 1 = false ∧ d.flag ERR.CONTAIN_CFG.DeviceAuto = false) ∧
    (∃ (s : State) (d : Dev) (page : Nat) (b : Blk), s.chip.dev = d ∧ pageBlk page = some (b, 0) ∧ d.live b 0 = true ∧ b = .ftb ∧
      d.injects b 0 0 = false) ∧
    (∃ (s : State) (d : Dev) (page : Nat) (b : Blk) (det : Nat), s.chip.dev = d ∧ pageBlk page = some (b, 0) ∧ d.live b 0 = true ∧ b =
      .clk ∧ det < 2 ∧ d.injects b 0 det = false) ∧
    (∃ (s : State) (d : Dev) (e : LogEntry) (t0 : Nat), s.chip.dev = d ∧ d.err.critHeld = some e ∧ d.err.critAt = some t0) ∧
    (∃ (s : State) (d : Dev), s.chip.dev = d ∧ d.live .tmp = true) ∧
    (∃ (s : State) (d : Dev), s.chip.dev = d ∧ d.live .tmp = true) ∧
    (∃ (s : State) (d : Dev), s.chip.dev = d) := by
  exact ⟨⟨st b0, _, 1324, 5, 300, .ruu, rfl, by decide +kernel⟩,
   ⟨st (b0.set GLB.ERR_INJ_EN.Enable 1 |>.set (HDR.ERR_INJ.Arm .ruu) 1 300 |>.set (HDR.ERR_INJ.Detector .ruu) 4 300 |>.set
    (HDR.ERR_INJ_DATA.Pattern .ruu) (2 ^ 31) 300), _, 1324, 4, 300, .ruu, 31, rfl, by decide +kernel⟩,
   ⟨st (b0.set ERR.CONTAIN_CFG.DeviceAuto 0), _, Blk.bsn.page 0, .bsn, rfl, by decide +kernel⟩,
   ⟨st b0, _, Blk.ftb.page 0, .ftb, rfl, by decide +kernel⟩,
   ⟨st b0, _, Blk.clk.page 0, .clk, 1, rfl, by decide +kernel⟩,
   ⟨st { b0 with err := { b0.err with critHeld := some ⟨0, 0, 0, 0, 2, false, false, 0, 0, 0, 0⟩, critAt := some 5 } }, _, ⟨0, 0, 0, 0, 2,
    false, false, 0, 0, 0, 0⟩, 5, rfl, by decide +kernel⟩,
   ⟨st b0, _, rfl, by decide +kernel⟩,
   ⟨st b0, _, rfl, by decide +kernel⟩,
   ⟨st b0, _, rfl⟩⟩

/-- What the hypotheses of SoftReset ask is met. -/
theorem witness_SoftReset :
    (∃ (s : State) (d : Dev) (fn data : Nat), s.chip.dev = d ∧ d.opens fn .glb 0 = true ∧ data % 2 = 1 ∧ d.glb.dpr = .idle ∧ d.glb.hold
      ≠ 1) ∧
    (∃ (s : State) (d : Dev) (fn data : Nat), s.chip.dev = d ∧ d.opens fn .glb 0 = true ∧ (data % 2 = 0 ∨ d.glb.dpr ≠ .idle)) ∧
    (∃ (s : State) (d : Dev) (fn data : Nat), s.chip.dev = d ∧ d.opens fn .glb 0 = true ∧ (data % 2 = 0 ∨ d.glb.dpr ≠ .idle)) ∧
    (∃ (s : State) (d : Dev) (fn : Nat), s.chip.dev = d ∧ d.opens fn .glb 0 = true ∧ d.glb.dpr ≠ .begun) ∧
    (∃ (s : State) (d : Dev) (fn : Nat), s.chip.dev = d ∧ d.opens fn .glb 0 = true ∧ d.glb.dpr = .begun) ∧
    (∃ (s : State) (d : Dev), s.chip.dev = d ∧ d.glb.dpr = .begun ∧ d.flag GLB.DPR_CTL.Hold = false) ∧
    (∃ (s : State) (d : Dev), s.chip.dev = d ∧ d.glb.dpr = .begun ∧ d.flag GLB.DPR_CTL.Hold = true ∧ d.glb.hotHold = true ∧ (∀ k, k < 6
      → sint 8 (d.get HBC.TEMP_STAT.Case k) ≤ 100) ∧ sint 10 (d.get TMP.DIE_MAX.DieMax) ≤ 460) ∧
    (∃ (s : State) (d : Dev) (k : Nat), s.chip.dev = d ∧ d.glb.dpr = .begun ∧ d.flag GLB.DPR_CTL.Hold = true ∧ d.glb.hotHold = true ∧ k
      < 6 ∧ 100 < sint 8 (d.get HBC.TEMP_STAT.Case k)) ∧
    (∃ (s : State) (d : Dev), s.chip.dev = d ∧ d.glb.dpr = .begun ∧ d.flag GLB.DPR_CTL.Hold = true ∧ d.glb.hotHold = true ∧ 460 < sint
      10 (d.get TMP.DIE_MAX.DieMax)) ∧
    (∃ (s : State) (d : Dev), s.chip.dev = d ∧ d.glb.dpr = .refreshed ∧ d.flag GLB.DPR_CTL.Hold = true) ∧
    (∃ (s : State) (d : Dev), s.chip.dev = d ∧ d.glb.dpr = .refreshed ∧ d.flag GLB.DPR_CTL.Hold = false) := by
  exact ⟨⟨st b0, _, 0, 3, rfl, by decide +kernel⟩,
   ⟨st b0, _, 0, 2, rfl, by decide +kernel⟩,
   ⟨st { b0 with glb := { b0.glb with dpr := .refreshed } }, _, 0, 1, rfl, by decide +kernel⟩,
   ⟨st b0, _, 0, rfl, by decide +kernel⟩,
   ⟨st { b0 with glb := { b0.glb with dpr := .begun } }, _, 0, rfl, by decide +kernel⟩,
   ⟨st { b0 with glb := { b0.glb with dpr := .begun } }, _, rfl, by decide +kernel⟩,
   ⟨st ({ b0 with glb := { b0.glb with dpr := .begun, hotHold := true } } |>.set GLB.DPR_CTL.Hold 1 |>.set HBC.TEMP_STAT.Case 100 5 |>.set
    TMP.DIE_MAX.DieMax 460), _, rfl, by decide +kernel⟩,
   ⟨st ({ b0 with glb := { b0.glb with dpr := .begun, hotHold := true } } |>.set GLB.DPR_CTL.Hold 1 |>.set HBC.TEMP_STAT.Case 101 5), _, 5,
    rfl, by decide +kernel⟩,
   ⟨st ({ b0 with glb := { b0.glb with dpr := .begun, hotHold := true } } |>.set GLB.DPR_CTL.Hold 1 |>.set TMP.DIE_MAX.DieMax 461), _, rfl,
    by decide +kernel⟩,
   ⟨st ({ b0 with glb := { b0.glb with dpr := .refreshed } } |>.set GLB.DPR_CTL.Hold 1), _, rfl, by decide +kernel⟩,
   ⟨st { b0 with glb := { b0.glb with dpr := .refreshed } }, _, rfl, by decide +kernel⟩⟩

/-- What the hypotheses of DawnStages ask is met. -/
theorem witness_DawnStages :
    (∃ (s : State) (d : Dev), s.chip.dev = d) ∧
    (∃ (s : State) (d : Dev), s.chip.dev = d ∧ d.boot.relAt = none) ∧
    (∃ (s : State) (d : Dev), s.chip.dev = d ∧ d.boot.relAt ≠ none) ∧
    (∃ (s : State) (d : Dev) (us fault info t0 st : Nat) (cf : Bool) (cal : List (Nat × Nat × Nat × Nat × Nat × Nat)) (lanes : List (Nat
      × Nat × Nat)) (failed : List Nat) (i : Instr), s.chip.dev = d ∧ i = .dawnStageEnd us fault info cf cal lanes failed ∧ ((st = 1 ∧
      fault = 0) ∨ st = 3 ∨ (st = 4 ∧ fault = 0) ∨ st = 6) ∧ d.boot.relAt = some t0 ∧ d.boot.stopped = false ∧ d.get BOOT.STAT.Stage =
      st) ∧
    (∃ (s : State) (d : Dev) (us fault info t0 st : Nat) (cf : Bool) (cal : List (Nat × Nat × Nat × Nat × Nat × Nat)) (lanes : List (Nat
      × Nat × Nat)) (failed : List Nat) (i : Instr), s.chip.dev = d ∧ i = .dawnStageEnd us fault info cf cal lanes failed ∧ ((st = 1 ∧
      fault = 0) ∨ st = 3 ∨ (st = 4 ∧ fault = 0) ∨ st = 6) ∧ d.boot.relAt = some t0 ∧ d.boot.stopped = false ∧ d.get BOOT.STAT.Stage =
      st) ∧
    (∃ (s : State) (d : Dev) (us fault info t0 st : Nat) (cf : Bool) (cal : List (Nat × Nat × Nat × Nat × Nat × Nat)) (lanes : List (Nat
      × Nat × Nat)) (failed : List Nat) (i : Instr), s.chip.dev = d ∧ i = .dawnStageEnd us fault info cf cal lanes failed ∧ ((st = 1 ∧
      fault = 0) ∨ st = 3 ∨ (st = 4 ∧ fault = 0) ∨ st = 6) ∧ d.boot.relAt = some t0 ∧ d.boot.stopped = false ∧ d.get BOOT.STAT.Stage =
      st) ∧
    (∃ (s : State) (d : Dev) (us fault info t0 st : Nat) (cf : Bool) (cal : List (Nat × Nat × Nat × Nat × Nat × Nat)) (lanes : List (Nat
      × Nat × Nat)) (failed : List Nat) (i : Instr), s.chip.dev = d ∧ i = .dawnStageEnd us fault info cf cal lanes failed ∧ ((st = 1 ∧
      fault = 0) ∨ st = 3 ∨ (st = 4 ∧ fault = 0) ∨ st = 6) ∧ d.boot.relAt = some t0 ∧ d.boot.stopped = false ∧ d.get BOOT.STAT.Stage =
      st) ∧
    (∃ (s : State) (d : Dev) (us fault info t0 st : Nat) (cf : Bool) (cal : List (Nat × Nat × Nat × Nat × Nat × Nat)) (lanes : List (Nat
      × Nat × Nat)) (failed : List Nat) (i : Instr), s.chip.dev = d ∧ i = .dawnStageEnd us fault info cf cal lanes failed ∧ d.boot.relAt
      = some t0 ∧ d.boot.stopped = false ∧ d.get BOOT.STAT.Stage = st ∧ st = 1 ∧ fault = 0) ∧
    (∃ (s : State) (d : Dev) (us fault info t0 st : Nat) (cf : Bool) (cal : List (Nat × Nat × Nat × Nat × Nat × Nat)) (lanes : List (Nat
      × Nat × Nat)) (failed : List Nat) (i : Instr), s.chip.dev = d ∧ i = .dawnStageEnd us fault info cf cal lanes failed ∧ d.boot.relAt
      = some t0 ∧ d.boot.stopped = false ∧ d.get BOOT.STAT.Stage = st ∧ st = 1 ∧ 1 ≤ fault ∧ fault ≤ 3) ∧
    (∃ (s : State) (d : Dev) (us fault info t0 st : Nat) (cf : Bool) (cal : List (Nat × Nat × Nat × Nat × Nat × Nat)) (lanes : List (Nat
      × Nat × Nat)) (failed : List Nat) (i : Instr), s.chip.dev = d ∧ i = .dawnStageEnd us fault info cf cal lanes failed ∧ d.boot.relAt
      = some t0 ∧ d.boot.stopped = false ∧ d.get BOOT.STAT.Stage = st ∧ st = 1 ∧ 1 ≤ fault ∧ fault ≤ 3) ∧
    (∃ (s : State) (d : Dev) (us fault info t0 st : Nat) (cf : Bool) (cal : List (Nat × Nat × Nat × Nat × Nat × Nat)) (lanes : List (Nat
      × Nat × Nat)) (failed : List Nat) (i : Instr), s.chip.dev = d ∧ i = .dawnStageEnd us fault info cf cal lanes failed ∧ d.boot.relAt
      = some t0 ∧ d.boot.stopped = false ∧ d.get BOOT.STAT.Stage = st ∧ st = 2 ∧ d.boot.rcv = true) ∧
    (∃ (s : State) (d : Dev) (us fault info t0 st : Nat) (cf : Bool) (cal : List (Nat × Nat × Nat × Nat × Nat × Nat)) (lanes : List (Nat
      × Nat × Nat)) (failed : List Nat) (i : Instr), s.chip.dev = d ∧ i = .dawnStageEnd us fault info cf cal lanes failed ∧ d.boot.relAt
      = some t0 ∧ d.boot.stopped = false ∧ d.get BOOT.STAT.Stage = st ∧ st = 3) ∧
    (∃ (s : State) (d : Dev) (us fault info t0 st : Nat) (cf : Bool) (cal : List (Nat × Nat × Nat × Nat × Nat × Nat)) (lanes : List (Nat
      × Nat × Nat)) (failed : List Nat) (i : Instr), s.chip.dev = d ∧ i = .dawnStageEnd us fault info cf cal lanes failed ∧ d.boot.relAt
      = some t0 ∧ d.boot.stopped = false ∧ d.get BOOT.STAT.Stage = st ∧ st = 4 ∧ fault = 0) ∧
    (∃ (s : State) (d : Dev) (us fault info t0 st : Nat) (cf : Bool) (cal : List (Nat × Nat × Nat × Nat × Nat × Nat)) (lanes : List (Nat
      × Nat × Nat)) (failed : List Nat) (i : Instr), s.chip.dev = d ∧ i = .dawnStageEnd us fault info cf cal lanes failed ∧ d.boot.relAt
      = some t0 ∧ d.boot.stopped = false ∧ d.get BOOT.STAT.Stage = st ∧ st = 4 ∧ (fault = 1 ∨ fault = 6)) ∧
    (∃ (s : State) (d : Dev) (us fault info t0 st : Nat) (cf : Bool) (cal : List (Nat × Nat × Nat × Nat × Nat × Nat)) (lanes : List (Nat
      × Nat × Nat)) (failed : List Nat) (i : Instr), s.chip.dev = d ∧ i = .dawnStageEnd us fault info cf cal lanes failed ∧ d.boot.relAt
      = some t0 ∧ d.boot.stopped = false ∧ d.get BOOT.STAT.Stage = st ∧ st = 4 ∧ (fault = 1 ∨ fault = 6)) ∧
    (∃ (s : State) (d : Dev) (us fault info t0 st : Nat) (cf : Bool) (cal : List (Nat × Nat × Nat × Nat × Nat × Nat)) (lanes : List (Nat
      × Nat × Nat)) (failed : List Nat) (i : Instr), s.chip.dev = d ∧ i = .dawnStageEnd us fault info cf cal lanes failed ∧ d.boot.relAt
      = some t0 ∧ d.boot.stopped = false ∧ d.get BOOT.STAT.Stage = st ∧ st = 5 ∧ d.flashDir.1 = none) ∧
    (∃ (s : State) (d : Dev) (us fault info t0 st : Nat) (cf : Bool) (cal : List (Nat × Nat × Nat × Nat × Nat × Nat)) (lanes : List (Nat
      × Nat × Nat)) (failed : List Nat) (i : Instr), s.chip.dev = d ∧ i = .dawnStageEnd us fault info cf cal lanes failed ∧ d.boot.relAt
      = some t0 ∧ d.boot.stopped = false ∧ d.get BOOT.STAT.Stage = st ∧ st = 6) := by
  exact ⟨⟨st b0, _, rfl⟩,
   ⟨st b0, _, rfl, by decide +kernel⟩,
   ⟨st ({ b0 with boot := { b0.boot with relAt := some 5 } }.set BOOT.STAT.Stage 1), _, rfl, by decide +kernel⟩,
   ⟨st ({ b0 with boot := { b0.boot with relAt := some 5 } }.set BOOT.STAT.Stage 1), _, 9, 0, 0, 5, 1, true, [], [], [], _, rfl, rfl, .inl
    (by decide), by decide +kernel⟩,
   ⟨st ({ b0 with boot := { b0.boot with relAt := some 5 } }.set BOOT.STAT.Stage 3), _, 9, 0, 0, 5, 3, true, [], [], [], _, rfl, rfl, .inr
    (.inl rfl), by decide +kernel⟩,
   ⟨st ({ b0 with boot := { b0.boot with relAt := some 5 } }.set BOOT.STAT.Stage 4), _, 9, 0, 0, 5, 4, true, [], [], [], _, rfl, rfl, .inr
    (.inr (.inl (by decide))), by decide +kernel⟩,
   ⟨st ({ b0 with boot := { b0.boot with relAt := some 5 } }.set BOOT.STAT.Stage 6), _, 9, 0, 0, 5, 6, true, [], [], [], _, rfl, rfl, .inr
    (.inr (.inr rfl)), by decide +kernel⟩,
   ⟨st ({ b0 with boot := { b0.boot with relAt := some 5 } }.set BOOT.STAT.Stage 1), _, 9, 0, 0, 5, 1, true, [], [], [], _, rfl, rfl,
    by decide +kernel⟩,
   ⟨st ({ b0 with boot := { b0.boot with relAt := some 5 } }.set BOOT.STAT.Stage 1), _, 9, 1, 0, 5, 1, true, [], [], [], _, rfl, rfl,
    by decide +kernel⟩,
   ⟨st ({ b0 with boot := { b0.boot with relAt := some 5 } }.set BOOT.STAT.Stage 1), _, 9, 3, 0, 5, 1, true, [], [], [], _, rfl, rfl,
    by decide +kernel⟩,
   ⟨st ({ b0 with boot := { b0.boot with relAt := some 5, rcv := true } }.set BOOT.STAT.Stage 2), _, 9, 0, 0, 5, 2, true, [], [], [], _,
    rfl, rfl, by decide +kernel⟩,
   ⟨st ({ b0 with boot := { b0.boot with relAt := some 5 } }.set BOOT.STAT.Stage 3), _, 9, 0, 0, 5, 3, true, [], [], [], _, rfl, rfl,
    by decide +kernel⟩,
   ⟨st ({ b0 with boot := { b0.boot with relAt := some 5 } }.set BOOT.STAT.Stage 4), _, 9, 0, 0, 5, 4, true, [], [], [], _, rfl, rfl,
    by decide +kernel⟩,
   ⟨st ({ b0 with boot := { b0.boot with relAt := some 5 } }.set BOOT.STAT.Stage 4), _, 9, 1, 0, 5, 4, true, [], [], [], _, rfl, rfl,
    by decide +kernel⟩,
   ⟨st ({ b0 with boot := { b0.boot with relAt := some 5 } }.set BOOT.STAT.Stage 4), _, 9, 6, 0, 5, 4, true, [], [], [], _, rfl, rfl,
    by decide +kernel⟩,
   ⟨st ({ b0 with boot := { b0.boot with relAt := some 5 } }.set BOOT.STAT.Stage 5), _, 9, 0, 0, 5, 5, true, [], [], [], _, rfl, rfl,
    by decide +kernel⟩,
   ⟨st ({ b0 with boot := { b0.boot with relAt := some 5 } }.set BOOT.STAT.Stage 6), _, 9, 0, 0, 5, 6, true, [], [], [], _, rfl, rfl,
    by decide +kernel⟩⟩

/-- What the hypotheses of BootStores ask is met. -/
theorem witness_BootStores :
    (∃ (s : State) (d : Dev) (fn op : Nat) (i : Instr), s.chip.dev = d ∧ d.opens fn .boot 0 = true ∧ (i, op) ∈ [(Instr.flashRead fn, 1),
      (.flashProgram fn, 2), (.flashErase fn, 3)]) ∧
    (∃ (s : State) (d : Dev) (fn op : Nat) (i : Instr), s.chip.dev = d ∧ d.opens fn .boot 0 = true ∧ (i, op) ∈ [(Instr.flashRead fn, 1),
      (.flashProgram fn, 2), (.flashErase fn, 3)]) ∧
    (∃ (s : State) (d : Dev) (fn op : Nat) (i : Instr), s.chip.dev = d ∧ d.opens fn .boot 0 = true ∧ (i, op) ∈ [(Instr.flashRead fn, 1),
      (.flashProgram fn, 2), (.flashErase fn, 3)]) ∧
    (∃ (s : State) (d : Dev) (op a : Nat), s.chip.dev = d ∧ d.boot.op = some (op, a) ∧ (d.boot.stopped = true ∨ (d.get BOOT.STAT.Stage ≠
      2 ∧ d.get BOOT.STAT.Stage ≠ 5)) ∧ op = 1) ∧
    (∃ (s : State) (d : Dev) (op a b : Nat), s.chip.dev = d ∧ a % 2 ^ 24 / 256 * 256 = b ∧ d.boot.op = some (op, a) ∧ (d.boot.stopped =
      true ∨ (d.get BOOT.STAT.Stage ≠ 2 ∧ d.get BOOT.STAT.Stage ≠ 5)) ∧ op = 2) ∧
    (∃ (s : State) (d : Dev) (op a b : Nat), s.chip.dev = d ∧ a % 2 ^ 24 / 65536 * 65536 = b ∧ d.boot.op = some (op, a) ∧
      (d.boot.stopped = true ∨ (d.get BOOT.STAT.Stage ≠ 2 ∧ d.get BOOT.STAT.Stage ≠ 5)) ∧ op = 3) ∧
    (∃ (s : State) (d : Dev) (op a : Nat), s.chip.dev = d ∧ d.boot.op = some (op, a) ∧ (d.boot.stopped = true ∨ (d.get BOOT.STAT.Stage ≠
      2 ∧ d.get BOOT.STAT.Stage ≠ 5)) ∧ (op = 2 ∨ op = 3)) ∧
    (∃ (s : State) (d : Dev) (fn v : Nat), s.chip.dev = d ∧ min (d.get BOOT.SECVER.Monitor) (d.get BOOT.SECVER.Firmware) = v ∧ d.opens
      fn .boot 0 = true) ∧
    (∃ (s : State) (d : Dev) (fn slot k n : Nat) (image img : List Byte), s.chip.dev = d ∧ slot % 8 = k ∧ d.get BOOT.STORE_LEN.Length =
      n ∧ sliceB image 0 n = img ∧ d.opens fn .boot 0 = true ∧ d.boot.storing = none ∧ d.mramOpen (2 + k) = false) ∧
    (∃ (s : State) (d : Dev) (fn slot k n : Nat) (image img : List Byte) (err : Bool) (r : Nat), s.chip.dev = d ∧ slot % 8 = k ∧ d.get
      BOOT.STORE_LEN.Length = n ∧ sliceB image 0 n = img ∧ r = (if n = 0 then 0 else if 786432 < n then 1 else if err = true then 8 else
      d.imageCheck img) ∧ d.opens fn .boot 0 = true ∧ d.boot.storing = none ∧ d.mramOpen (2 + k) = true) ∧
    (∃ (s : State) (d : Dev) (k r : Nat) (img : List Byte), s.chip.dev = d ∧ d.boot.storing = some (k, img, r)) ∧
    (∃ (s : State) (d : Dev) (fn : Nat), s.chip.dev = d ∧ d.opens fn .boot 0 = true ∧ pcfgOk d.pcfgCopy = true ∧ d.boot.commit = none ∧
      d.mramOpen 1 = true) ∧
    (∃ (s : State) (d : Dev) (fn : Nat), s.chip.dev = d ∧ d.opens fn .boot 0 = true ∧ pcfgOk d.pcfgCopy = false) ∧
    (∃ (s : State) (d : Dev) (fn : Nat), s.chip.dev = d ∧ d.opens fn .boot 0 = true) ∧
    (∃ (s : State) (d : Dev) (r : List Byte), s.chip.dev = d ∧ d.boot.commit = some r) ∧
    (∃ (s : State) (d : Dev) (fn why : Nat) (tok : List Byte), s.chip.dev = d ∧ (List.range 32).flatMap (fun k => toLE 4 (d.get
      SEC.DBG_TOKEN.Token 0 k)) = tok ∧ d.tokenReason tok = why ∧ d.opens fn .sec 0 = true ∧ d.sec.stopped = false ∧ d.sec.trngBad =
      false) := by
  exact ⟨⟨st b0, _, 0, 1, .flashRead 0, rfl, by decide +kernel⟩,
   ⟨st b0, _, 0, 2, .flashProgram 0, rfl, by decide +kernel⟩,
   ⟨st b0, _, 0, 3, .flashErase 0, rfl, by decide +kernel⟩,
   ⟨st { b0 with boot := { b0.boot with op := some (1, 16777215) } }, _, 1, 16777215, rfl, by decide +kernel⟩,
   ⟨st { b0 with boot := { b0.boot with op := some (2, 16777215) } }, _, 2, 16777215, _, rfl, rfl, by decide +kernel⟩,
   ⟨st { b0 with boot := { b0.boot with op := some (3, 16777215) } }, _, 3, 16777215, _, rfl, rfl, by decide +kernel⟩,
   ⟨st { b0 with boot := { b0.boot with op := some (3, 16777215) } }, _, 3, 16777215, rfl, by decide +kernel⟩,
   ⟨st b0, _, 0, _, rfl, rfl, by decide +kernel⟩,
   ⟨st { b0 with sec := { b0.sec with wrote := [(9, 0)] } }, _, 0, 7, _, _, [], _, rfl, rfl, rfl, rfl, by decide +kernel⟩,
   ⟨st b0, _, 0, 7, _, _, [], _, false, _, rfl, rfl, rfl, rfl, rfl, by decide +kernel⟩,
   ⟨st { b0 with boot := { b0.boot with storing := some (7, [], 15) } }, _, 7, 15, [], rfl, by decide +kernel⟩,
   ⟨st (b0.set BOOT.PCFG.Record 0x4350584B 0 0 |>.set BOOT.PCFG.Record 1 0 1), _, 0, rfl, by decide +kernel⟩,
   ⟨st b0, _, 0, rfl, by decide +kernel⟩,
   ⟨st b0, _, 0, rfl, by decide +kernel⟩,
   ⟨st { b0 with boot := { b0.boot with commit := some [] } }, _, [], rfl, by decide +kernel⟩,
   ⟨st b0, _, 0, _, _, rfl, rfl, rfl, by decide +kernel⟩⟩

/-- What the hypotheses of RegisterWrites ask is met. -/
theorem witness_RegisterWrites :
    (∃ (s : State) (d e : Dev) (fn addr v i off : Nat) (b : Blk) (data : List Byte) (host : Option (List Byte)), s.chip.dev = d ∧
      d.request fn = e ∧ d.wordOpen fn addr b i off ∧ ofLE data = v ∧ e.plainWord b i off v host ∧ e.mayWrite fn b i off = true ∧
      data.length = 4 ∧ ((wordRows b off).map fun x => x.1.fld.key i x.2).Nodup ∧ (∀ x ∈ wordRows b off, x.1.staged = true → b = .l2t)) ∧
    (∃ (s : State) (d e : Dev) (fn addr v i off : Nat) (b : Blk) (data : List Byte) (host : Option (List Byte)) (r : RegRow) (j m k cap
      : Nat), s.chip.dev = d ∧ d.request fn = e ∧ d.wordOpen fn addr b i off ∧ ofLE data = v ∧ e.plainWord b i off v host ∧ stageOf b i
      = (m, k, cap) ∧ e.mayWrite fn b i off = true ∧ data.length = 4 ∧ ((wordRows b off).map fun x => x.1.fld.key i x.2).Nodup ∧ b ≠
      .l2t ∧ (wordRows b off).filter (fun x => x.1.staged) = [(r, j)]) ∧
    (∃ (s : State) (d : Dev) (fn bar addr : Nat) (data : List Byte), s.chip.dev = d ∧ (d.reachable fn = false ∨ hasBar fn bar = false ∨
      barLen fn bar < addr + data.length)) ∧
    (∃ (s : State) (d : Dev) (fn bar addr : Nat) (data : List Byte), s.chip.dev = d ∧ (d.reachable fn = false ∨ hasBar fn bar = false ∨
      barLen fn bar < addr + data.length)) ∧
    (∃ (s : State) (d : Dev) (fn bar addr : Nat) (data : List Byte), s.chip.dev = d ∧ (d.reachable fn = false ∨ hasBar fn bar = false ∨
      barLen fn bar < addr + data.length)) ∧
    (∃ (s : State) (d : Dev) (fn bar addr : Nat) (data : List Byte), s.chip.dev = d ∧ (data.length < 4 ∨ addr % 4 ≠ 0 ∨ 64 < data.length
      ∨ (bar = 0 ∧ data.length = 4 ∧ (locate addr = none ∨ ∃ b i off, locate addr = some (b, i, off) ∧ (known b off = false ∨ 0x200 ≤
      off ∧ d.live b i = false)))) ∧ d.reachable fn = true ∧ hasBar fn bar = true ∧ addr + data.length ≤ barLen fn bar) ∧
    (∃ (s : State) (d : Dev) (fn bar addr : Nat) (data : List Byte), s.chip.dev = d ∧ (data.length < 4 ∨ addr % 4 ≠ 0 ∨ 64 < data.length
      ∨ (bar = 0 ∧ data.length = 4 ∧ (locate addr = none ∨ ∃ b i off, locate addr = some (b, i, off) ∧ (known b off = false ∨ 0x200 ≤
      off ∧ d.live b i = false)))) ∧ d.reachable fn = true ∧ hasBar fn bar = true ∧ addr + data.length ≤ barLen fn bar) ∧
    (∃ (s : State) (d : Dev) (fn bar addr : Nat) (data : List Byte), s.chip.dev = d ∧ (data.length < 4 ∨ addr % 4 ≠ 0 ∨ 64 < data.length
      ∨ (bar = 0 ∧ data.length = 4 ∧ (locate addr = none ∨ ∃ b i off, locate addr = some (b, i, off) ∧ (known b off = false ∨ 0x200 ≤
      off ∧ d.live b i = false)))) ∧ d.reachable fn = true ∧ hasBar fn bar = true ∧ addr + data.length ≤ barLen fn bar) ∧
    (∃ (s : State) (d : Dev) (fn bar addr : Nat) (data : List Byte) (b : Blk) (i off : Nat), s.chip.dev = d ∧ d.reachable fn = true ∧
      hasBar fn bar = true ∧ addr + data.length ≤ barLen fn bar ∧ bar = 0 ∧ data.length = 4 ∧ addr % 4 = 0 ∧ locate addr = some (b, i,
      off) ∧ known b off = true ∧ (off < 0x200 ∨ d.live b i = true) ∧ d.mayWrite fn b i off = false) ∧
    (∃ (s : State) (d : Dev) (fn bar addr : Nat) (data : List Byte) (n : Nat), s.chip.dev = d ∧ d.reachable fn = true ∧ hasBar fn bar =
      true ∧ addr + data.length ≤ barLen fn bar ∧ bar = 4 ∧ n < vectors fn ∧ addr = 16 * n + 8 ∧ data.length = 4) ∧
    (∃ (s : State) (d : Dev) (fn bar addr : Nat) (data : List Byte) (n : Nat), s.chip.dev = d ∧ d.reachable fn = true ∧ hasBar fn bar =
      true ∧ addr + data.length ≤ barLen fn bar ∧ bar = 4 ∧ n < vectors fn ∧ addr = 16 * n + 8 ∧ data.length = 4) := by
  exact ⟨⟨st b0, _, _, 0, Blk.glb.base 0 + 0x200, _, 0, 0x200, .glb, [255, 3, 0, 0], none, rfl, rfl, opened (by decide +kernel), rfl, plain
    (by decide +kernel), by decide +kernel⟩,
   ⟨st b0, _, _, 0, Blk.adm.base 0 + ADM.SHARED_LIMIT.SharedLimit.off, _, 0, ADM.SHARED_LIMIT.SharedLimit.off, .adm, [255, 3, 0, 0], none,
    ⟨ADM.SHARED_LIMIT.SharedLimit, 1, .rw, true⟩, 0, _, _, _, rfl, rfl, opened (by decide +kernel), rfl, plain (by decide +kernel), rfl,
    by decide +kernel⟩,
   ⟨st b0, _, 1, 0, 0, [0, 0, 0, 0], rfl, by decide +kernel⟩,
   ⟨st b0, _, 128, 2, 0, [0, 0, 0, 0], rfl, by decide +kernel⟩,
   ⟨st b0, _, 0, 0, 67108861, [0, 0, 0, 0], rfl, by decide +kernel⟩,
   ⟨st b0, _, 0, 0, 67108861, [0, 0, 0], rfl, .inl (by decide +kernel), by decide +kernel⟩,
   ⟨st b0, _, 0, 4, 1, [0, 0, 0, 0], rfl, .inr (.inl (by decide +kernel)), by decide +kernel⟩,
   ⟨st b0, _, 0, 0, 67108860, [0, 0, 0, 0], rfl, .inr (.inr (.inr ⟨rfl, rfl, .inl (by decide +kernel)⟩)), by decide +kernel⟩,
   ⟨st vf3, _, 3, 0, Blk.glb.base 0 + 0x200, [0, 0, 0, 0], .glb, 0, 0x200, rfl, by decide +kernel⟩,
   ⟨st b0, _, 0, 4, 16 * 2047 + 8, [1, 0, 0, 0], 2047, rfl, by decide +kernel⟩,
   ⟨st vf3, _, 3, 4, 16 * 63 + 8, [1, 0, 0, 0], 63, rfl, by decide +kernel⟩⟩

/-- What the hypotheses of RegisterReads ask is met. -/
theorem witness_RegisterReads :
    (∃ (s : State) (d e : Dev) (fn addr i off : Nat) (b : Blk), s.chip.dev = d ∧ d.request fn = e ∧ d.wordOpen fn addr b i off ∧
      e.mayRead fn b i off = true ∧ b ≠ .err ∧ b ≠ .evp ∧ b ≠ .ftb ∧ b ≠ .tim ∧ b ≠ .pmc ∧ (∀ x ∈ wordRows b off, x.1.acc ≠ .wo)) ∧
    (∃ (s : State) (d : Dev) (fn bar addr len : Nat), s.chip.dev = d ∧ (d.reachable fn = false ∨ hasBar fn bar = false ∨ barLen fn bar <
      addr + len)) ∧
    (∃ (s : State) (d : Dev) (fn bar addr len : Nat), s.chip.dev = d ∧ (d.reachable fn = false ∨ hasBar fn bar = false ∨ barLen fn bar <
      addr + len)) ∧
    (∃ (s : State) (d : Dev) (fn bar addr len : Nat), s.chip.dev = d ∧ (d.reachable fn = false ∨ hasBar fn bar = false ∨ barLen fn bar <
      addr + len)) ∧
    (∃ (s : State) (d : Dev) (fn bar addr len : Nat), s.chip.dev = d ∧ (addr % 4 ≠ 0 ∨ 64 < len ∨ (bar = 0 ∧ len = 4 ∧ (locate addr =
      none ∨ ∃ b i off, locate addr = some (b, i, off) ∧ (known b off = false ∨ 0x200 ≤ off ∧ d.live b i = false)))) ∧ d.reachable fn =
      true ∧ hasBar fn bar = true ∧ addr + len ≤ barLen fn bar) ∧
    (∃ (s : State) (d : Dev) (fn bar addr len : Nat), s.chip.dev = d ∧ (addr % 4 ≠ 0 ∨ 64 < len ∨ (bar = 0 ∧ len = 4 ∧ (locate addr =
      none ∨ ∃ b i off, locate addr = some (b, i, off) ∧ (known b off = false ∨ 0x200 ≤ off ∧ d.live b i = false)))) ∧ d.reachable fn =
      true ∧ hasBar fn bar = true ∧ addr + len ≤ barLen fn bar) ∧
    (∃ (s : State) (d : Dev) (fn bar addr len : Nat), s.chip.dev = d ∧ (addr % 4 ≠ 0 ∨ 64 < len ∨ (bar = 0 ∧ len = 4 ∧ (locate addr =
      none ∨ ∃ b i off, locate addr = some (b, i, off) ∧ (known b off = false ∨ 0x200 ≤ off ∧ d.live b i = false)))) ∧ d.reachable fn =
      true ∧ hasBar fn bar = true ∧ addr + len ≤ barLen fn bar) ∧
    (∃ (s : State) (d : Dev) (fn bar addr len : Nat) (b : Blk) (i off : Nat), s.chip.dev = d ∧ d.reachable fn = true ∧ hasBar fn bar =
      true ∧ addr + len ≤ barLen fn bar ∧ bar = 0 ∧ len = 4 ∧ addr % 4 = 0 ∧ locate addr = some (b, i, off) ∧ known b off = true ∧ (off
      < 0x200 ∨ d.live b i = true) ∧ d.mayRead fn b i off = false) ∧
    (∃ (s : State) (d : Dev) (fn bar addr len n : Nat), s.chip.dev = d ∧ d.reachable fn = true ∧ hasBar fn bar = true ∧ addr + len ≤
      barLen fn bar ∧ bar = 4 ∧ n < vectors fn ∧ addr = 16 * n + 8 ∧ len = 4) ∧
    (∃ (s : State) (d : Dev) (fn bar addr len n : Nat), s.chip.dev = d ∧ d.reachable fn = true ∧ hasBar fn bar = true ∧ addr + len ≤
      barLen fn bar ∧ bar = 4 ∧ n < vectors fn ∧ addr = 16 * n + 8 ∧ len = 4) := by
  exact ⟨⟨st b0, _, _, 0, Blk.glb.base 0 + 0x200, 0, 0x200, .glb, rfl, rfl, opened (by decide +kernel), by decide +kernel⟩,
   ⟨st b0, _, 1, 0, 0, 4, rfl, by decide +kernel⟩,
   ⟨st b0, _, 128, 2, 0, 4, rfl, by decide +kernel⟩,
   ⟨st b0, _, 0, 0, 67108861, 4, rfl, by decide +kernel⟩,
   ⟨st b0, _, 0, 4, 1, 4, rfl, .inl (by decide +kernel), by decide +kernel⟩,
   ⟨st b0, _, 0, 0, 0, 68, rfl, .inr (.inl (by decide +kernel)), by decide +kernel⟩,
   ⟨st b0, _, 0, 0, 67108860, 4, rfl, .inr (.inr ⟨rfl, rfl, .inl (by decide +kernel)⟩), by decide +kernel⟩,
   ⟨st vf3, _, 3, 0, Blk.glb.base 0 + 0x200, 4, .glb, 0, 0x200, rfl, by decide +kernel⟩,
   ⟨st b0, _, 0, 4, 16 * 2047 + 8, 4, 2047, rfl, by decide +kernel⟩,
   ⟨st vf3, _, 3, 4, 16 * 63 + 8, 4, 63, rfl, by decide +kernel⟩⟩

/-- What the hypotheses of MonitorPrints ask is met. -/
theorem witness_MonitorPrints :
    (∃ (s : State) (d e : Dev), s.chip.dev = d ∧ d.count .mon 0 0x230 = e ∧ d.monTakes (.help none)) ∧
    (∃ (s : State) (d e : Dev) (w : List Byte), s.chip.dev = d ∧ d.count .mon 0 0x230 = e ∧ d.monTakes (.help (some w)) ∧ (∀ x ∈
      monTable, str x.1 ≠ w)) ∧
    (∃ (s : State) (d e : Dev) (w : List Byte) (n : String) (l : Nat) (x : String), s.chip.dev = d ∧ d.count .mon 0 0x230 = e ∧
      d.monTakes (.help (some w)) ∧ str n = w ∧ (n, l, x) ∈ monTable) ∧
    (∃ (s : State) (d e : Dev), s.chip.dev = d ∧ d.count .mon 0 0x230 = e ∧ d.monTakes .ver) ∧
    (∃ (s : State) (d e : Dev), s.chip.dev = d ∧ d.count .mon 0 0x230 = e ∧ d.monTakes .ident) ∧
    (∃ (s : State) (d e : Dev), s.chip.dev = d ∧ d.count .mon 0 0x230 = e ∧ d.monTakes .dawn) ∧
    (∃ (s : State) (d e : Dev), s.chip.dev = d ∧ d.count .mon 0 0x230 = e ∧ d.monTakes .temp) ∧
    (∃ (s : State) (d e : Dev) (p : Nat), s.chip.dev = d ∧ d.count .mon 0 0x230 = e ∧ d.monTakes (.port (some p)) ∧ (d.portMode p).1 =
      0) ∧
    (∃ (s : State) (d e : Dev) (p : Nat), s.chip.dev = d ∧ d.count .mon 0 0x230 = e ∧ d.monTakes (.port (some p)) ∧ (d.portMode p).1 ≠
      0) ∧
    (∃ (s : State) (d e : Dev), s.chip.dev = d ∧ d.count .mon 0 0x230 = e ∧ d.monTakes (.port none)) ∧
    (∃ (s : State) (d e : Dev) (n : Nat) (pre l : List LogEntry), s.chip.dev = d ∧ d.count .mon 0 0x230 = e ∧ d.monTakes (.log n) ∧
      d.err.log = pre ++ l ∧ (l.length = n ∨ l.length ≤ n ∧ pre = [])) ∧
    (∃ (s : State) (d e : Dev) (n : Nat) (pre l : List LogEntry), s.chip.dev = d ∧ d.count .mon 0 0x230 = e ∧ d.monTakes (.log n) ∧
      d.err.log = pre ++ l ∧ (l.length = n ∨ l.length ≤ n ∧ pre = [])) ∧
    (∃ (s : State) (d e : Dev) (n : Nat) (c : List Byte), s.chip.dev = d ∧ d.count .mon 0 0x230 = e ∧ d.monTakes (.cert n) ∧ (n ≤ 2 ∧
      d.cert n = c ∨ 2 < n ∧ Tab.find d.mram.ledgerCerts (n - 2) = some c)) ∧
    (∃ (s : State) (d e : Dev) (n : Nat) (c : List Byte), s.chip.dev = d ∧ d.count .mon 0 0x230 = e ∧ d.monTakes (.cert n) ∧ (n ≤ 2 ∧
      d.cert n = c ∨ 2 < n ∧ Tab.find d.mram.ledgerCerts (n - 2) = some c)) ∧
    (∃ (s : State) (d e : Dev) (n : Nat), s.chip.dev = d ∧ d.count .mon 0 0x230 = e ∧ d.monTakes (.cert n) ∧ 2 < n ∧ Tab.find
      d.mram.ledgerCerts (n - 2) = none) ∧
    (∃ (s : State) (d e : Dev), s.chip.dev = d ∧ d.count .mon 0 0x230 = e ∧ d.monTakes .mram) ∧
    (∃ (s : State) (d e : Dev), s.chip.dev = d ∧ d.count .mon 0 0x230 = e ∧ d.monTakes .logout) ∧
    (∃ (s : State) (d e : Dev), s.chip.dev = d ∧ d.count .mon 0 0x230 = e ∧ d.monTakes (.unlock none)) ∧
    (∃ (s : State) (d e : Dev) (tok : List Byte) (why : Nat), s.chip.dev = d ∧ d.count .mon 0 0x230 = e ∧ d.monTakes (.unlock (some
      tok)) ∧ d.tokenReason tok = why ∧ d.sec.stopped = false ∧ d.sec.trngBad = false) ∧
    (∃ (s : State) (d : Dev) (l : List Byte) (n : Nat), s.chip.dev = d ∧ parseLine l = .error n ∧ d.monRuns = true ∧ d.mon.ask = 0 ∧
      d.mon.dp = none ∧ d.mon.ready = some l) ∧
    (∃ (s : State) (d : Dev) (l : List Byte) (n : Nat), s.chip.dev = d ∧ parseLine l = .error n ∧ d.monRuns = true ∧ d.mon.ask = 0 ∧
      d.mon.dp = none ∧ d.mon.ready = some l) ∧
    (∃ (s : State) (d : Dev) (l : List Byte) (i : Instr) (cmd : MonCmd), s.chip.dev = d ∧ (i, cmd) ∈ ([(.monRd, .rd 0x5200 1),
      (.monFence, .fence 0x5200), (.monFloor, .floor), (.monResetDp, .resetDp), (.monResetChip, .resetChip), (.monCoreHalt, .coreHalt
      1), (.monHbmRead, .hbm 0 0 1)] : List (Instr × MonCmd)) ∧ parseLine l = .ok cmd ∧ d.monRuns = true ∧ d.mon.ask = 0 ∧ d.mon.dp =
      none ∧ d.mon.ready = some l ∧ d.get MON.STAT.Level < cmd.level) ∧
    (∃ (s : State) (d : Dev) (l : List Byte) (i : Instr) (cmd : MonCmd), s.chip.dev = d ∧ (i, cmd) ∈ ([(.monRd, .rd 0x5200 1),
      (.monFence, .fence 0x5200), (.monFloor, .floor), (.monResetDp, .resetDp), (.monResetChip, .resetChip), (.monCoreHalt, .coreHalt
      1), (.monHbmRead, .hbm 0 0 1)] : List (Instr × MonCmd)) ∧ parseLine l = .ok cmd ∧ d.monRuns = true ∧ d.mon.ask = 0 ∧ d.mon.dp =
      none ∧ d.mon.ready = some l ∧ d.get MON.STAT.Level < cmd.level) ∧
    (∃ (s : State) (d : Dev) (l : List Byte) (i : Instr) (cmd : MonCmd), s.chip.dev = d ∧ (i, cmd) ∈ ([(.monWr none, .wr 0x5240 1),
      (.monBaud, .baud 115200 false), (.monFloor, .floor), (.monResetDp, .resetDp), (.monResetChip, .resetChip), (.monCoreResume,
      .coreResume 1), (.monHbmRead, .hbm 0 0 1)] : List (Instr × MonCmd)) ∧ parseLine l = .ok cmd ∧ d.monRuns = true ∧ d.mon.ask = 0 ∧
      d.mon.dp = none ∧ d.mon.ready = some l ∧ cmd.level ≤ d.get MON.STAT.Level ∧ d.flag MON.CTL.HostLock = true) := by
  exact ⟨⟨st (mn 0 (str "help")), _, _, rfl, rfl, takes (str "help") (by decide +kernel) rfl rfl rfl rfl (by decide +kernel) (by decide +kernel)⟩,
   ⟨st (mn 0 (str "help nothing")), _, _, str "nothing", rfl, rfl, takes (str "help nothing") (by decide +kernel) rfl rfl rfl rfl
    (by decide +kernel) (by decide +kernel), by decide +kernel⟩,
   ⟨st (mn 0 (str "HELP hbm")), _, _, str "hbm", "hbm", 2, "hbm pc off [n]", rfl, rfl, takes (str "HELP hbm") (by decide +kernel) rfl rfl
    rfl rfl (by decide +kernel) (by decide +kernel), rfl, by decide +kernel⟩,
   ⟨st (mn 0 (str "ver")), _, _, rfl, rfl, takes (str "ver") (by decide +kernel) rfl rfl rfl rfl (by decide +kernel) (by decide +kernel)⟩,
   ⟨st (mn 0 (str "id")), _, _, rfl, rfl, takes (str "id") (by decide +kernel) rfl rfl rfl rfl (by decide +kernel) (by decide +kernel)⟩,
   ⟨st (mn 0 (str "dawn")), _, _, rfl, rfl, takes (str "dawn") (by decide +kernel) rfl rfl rfl rfl (by decide +kernel) (by decide +kernel)⟩,
   ⟨st (mn 0 (str "temp")), _, _, rfl, rfl, takes (str "temp") (by decide +kernel) rfl rfl rfl rfl (by decide +kernel) (by decide +kernel)⟩,
   ⟨st { mn 0 (str "port 1") with eg := { b0.eg with width := [(1, (0, 0))] } }, _, _, 1, rfl, rfl, takes (str "port 1")
    (by decide +kernel) rfl rfl rfl rfl (by decide +kernel) (by decide +kernel), by decide +kernel⟩,
   ⟨st (mn 0 (str "port 127")), _, _, 127, rfl, rfl, takes (str "port 127") (by decide +kernel) rfl rfl rfl rfl (by decide +kernel)
    (by decide +kernel), by decide +kernel⟩,
   ⟨st (mn 0 (str "port")), _, _, rfl, rfl, takes (str "port") (by decide +kernel) rfl rfl rfl rfl (by decide +kernel) (by decide +kernel)⟩,
   ⟨st
    { mn 0 (str "log 1") with err := { b0.err with log := [⟨0, 0, 0, 0, 2, false, false, 0, 0, 0, 0⟩, ⟨0, 0, 0, 0, 2, false, false, 0, 0, 0, 0⟩] } },
    _, _, 1, [⟨0, 0, 0, 0, 2, false, false, 0, 0, 0, 0⟩], [⟨0, 0, 0, 0, 2, false, false, 0, 0, 0, 0⟩], rfl, rfl, takes (str "log 1")
    (by decide +kernel) rfl rfl rfl rfl (by decide +kernel) (by decide +kernel), rfl, .inl rfl⟩,
   ⟨st (mn 0 (str "log 64")), _, _, 64, [], [], rfl, rfl, takes (str "log 64") (by decide +kernel) rfl rfl rfl rfl (by decide +kernel)
    (by decide +kernel), rfl, .inr ⟨by decide, rfl⟩⟩,
   ⟨st (mn 0 (str "cert 2")), _, _, 2, _, rfl, rfl, takes (str "cert 2") (by decide +kernel) rfl rfl rfl rfl (by decide +kernel)
    (by decide +kernel), .inl ⟨by decide, rfl⟩⟩,
   ⟨st { mn 0 (str "cert 3") with mram := { b0.mram with ledgerCerts := [(1, [7])] } }, _, _, 3, [7], rfl, rfl, takes (str "cert 3")
    (by decide +kernel) rfl rfl rfl rfl (by decide +kernel) (by decide +kernel), .inr ⟨by decide, rfl⟩⟩,
   ⟨st (mn 0 (str "cert 3")), _, _, 3, rfl, rfl, takes (str "cert 3") (by decide +kernel) rfl rfl rfl rfl (by decide +kernel)
    (by decide +kernel), by decide +kernel⟩,
   ⟨st (mn 0 (str "mram")), _, _, rfl, rfl, takes (str "mram") (by decide +kernel) rfl rfl rfl rfl (by decide +kernel) (by decide +kernel)⟩,
   ⟨st (mn 2 (str "logout")), _, _, rfl, rfl, takes (str "logout") (by decide +kernel) rfl rfl rfl rfl (by decide +kernel)
    (by decide +kernel)⟩,
   ⟨st (mn 0 (str "unlock")), _, _, rfl, rfl, takes (str "unlock") (by decide +kernel) rfl rfl rfl rfl (by decide +kernel)
    (by decide +kernel)⟩,
   ⟨st (mn 0 (str "unlock " ++ List.replicate 256 48)), _, _, List.replicate 128 0, _, rfl, rfl, takes (str "unlock " ++ List.replicate 256
    48) (by decide +kernel) rfl rfl rfl (spells (l := str "unlock " ++ List.replicate 256 48) (c := .unlock (some (List.replicate 128
    0))) (by decide +kernel)) (by decide +kernel) (by decide +kernel), rfl, by decide +kernel⟩,
   ⟨st (mn 0 (str "nothing")), _, str "nothing", 2, rfl, rfl, by decide +kernel⟩,
   ⟨st (mn 0 (str "port 128")), _, str "port 128", 1, rfl, rfl, by decide +kernel⟩,
   ⟨st (mn 0 (str "rd 0x5200")), _, str "rd 0x5200", .monRd, .rd 0x5200 1, rfl, by simp, rfl, by decide +kernel⟩,
   ⟨st (mn 1 (str "hbm 0 0")), _, str "hbm 0 0", .monHbmRead, .hbm 0 0 1, rfl, by simp, rfl, by decide +kernel⟩,
   ⟨st (mn 2 (str "hbm 0 0") |>.set MON.CTL.HostLock 1), _, str "hbm 0 0", .monHbmRead, .hbm 0 0 1, rfl, by simp, rfl, by decide +kernel⟩⟩

/-- What the hypotheses of MonitorActs ask is met. -/
theorem witness_MonitorActs :
    (∃ (s : State) (d : Dev) (ch : Nat), s.chip.dev = d ∧ d.monRuns = true ∧ ch < 256) ∧
    (∃ (s : State) (d : Dev) (pw : List Byte) (k n : Nat), s.chip.dev = d ∧ (k = 1 ∨ k = 2) ∧ d.monRuns = true ∧ d.mon.ready = some pw ∧
      d.mon.ask = k ∧ d.mon.fails = n ∧ sha384 (sliceB d.boot.pcfg 16 16 ++ pw) = d.passHash) ∧
    (∃ (s : State) (d : Dev) (pw : List Byte) (k n : Nat), s.chip.dev = d ∧ (k = 1 ∨ k = 2) ∧ d.monRuns = true ∧ d.mon.ready = some pw ∧
      d.mon.ask = k ∧ d.mon.fails = n ∧ sha384 (sliceB d.boot.pcfg 16 16 ++ pw) = d.passHash) ∧
    (∃ (s : State) (d : Dev) (pw : List Byte) (k n : Nat), s.chip.dev = d ∧ (k = 1 ∨ k = 2) ∧ d.monRuns = true ∧ d.mon.ready = some pw ∧
      d.mon.ask = k ∧ d.mon.fails = n ∧ sha384 (sliceB d.boot.pcfg 16 16 ++ pw) ≠ d.passHash) ∧
    (∃ (s : State) (d : Dev), s.chip.dev = d ∧ d.monRuns = true ∧ d.get MON.STAT.Level ≠ 0) ∧
    (∃ (s : State) (d : Dev) (t0 : Nat), s.chip.dev = d ∧ d.monRuns = true ∧ d.mon.dp = some t0) ∧
    (∃ (s : State) (d : Dev) (l : List Byte), s.chip.dev = d ∧ d.monRuns = true ∧ d.mon.ready = some l ∧ d.mon.ask = 3 ∧ l.map lower =
      str "y") ∧
    (∃ (s : State) (d : Dev) (l : List Byte), s.chip.dev = d ∧ d.monRuns = true ∧ d.mon.ready = some l ∧ d.mon.ask = 3 ∧ l.map lower ≠
      str "y") ∧
    (∃ (s : State) (d e : Dev), s.chip.dev = d ∧ d.count .mon 0 0x230 = e ∧ d.monTakes (.login false) ∧ ofLE d.passHash ≠ 0 ∧
      d.lockedOut = false) ∧
    (∃ (s : State) (d e : Dev), s.chip.dev = d ∧ d.count .mon 0 0x230 = e ∧ d.monTakes (.login false) ∧ (ofLE d.passHash = 0 ∨
      d.lockedOut = true)) ∧
    (∃ (s : State) (d e : Dev) (a i off v : Nat) (b : Blk), s.chip.dev = d ∧ d.count .mon 0 0x230 = e ∧ d.monTakes (.rd a 1) ∧
      d.wordOpen 128 a b i off ∧ e.read0 128 a = (e, v)) ∧
    (∃ (s : State) (d e : Dev) (a v i off : Nat) (b : Blk) (r : RegRow) (j : Nat) (host : Option (List Byte)), s.chip.dev = d ∧ d.count
      .mon 0 0x230 = e ∧ d.monTakes (.wr a v) ∧ d.wordOpen 128 a b i off ∧ e.plainWord b i off v host ∧ e.mayWrite 128 b i off = true ∧
      wordRows b off = [(r, j)] ∧ r.staged = false ∧ (r.acc = .rw ∨ r.acc = .rws) ∧ r.fld.w ≤ 32 ∧ r.fld.blk = b ∧ b ≠ .mon) ∧
    (∃ (s : State) (d e : Dev) (a i off : Nat) (b : Blk), s.chip.dev = d ∧ d.count .mon 0 0x230 = e ∧ d.monTakes (.fence a) ∧ locate a =
      some (b, i, off) ∧ d.opPending b i = false) ∧
    (∃ (s : State) (d e : Dev) (r : Nat), s.chip.dev = d ∧ d.count .mon 0 0x230 = e ∧ d.monTakes (.baud r false)) ∧
    (∃ (s : State) (d e : Dev), s.chip.dev = d ∧ d.count .mon 0 0x230 = e ∧ d.monTakes .floor ∧ (d.mramOpen 0 = true ∨ min (d.get
      BOOT.SECVER.Monitor) (d.get BOOT.SECVER.Firmware) ≤ d.mram.fwFloor) ∧ d.live .boot 0 = true) ∧
    (∃ (s : State) (d e : Dev), s.chip.dev = d ∧ d.count .mon 0 0x230 = e ∧ d.monTakes .resetDp ∧ d.glb.dpr ≠ .idle) ∧
    (∃ (s : State) (d e : Dev), s.chip.dev = d ∧ d.count .mon 0 0x230 = e ∧ d.monTakes .resetDp ∧ d.glb.dpr = .idle ∧ d.glb.hold ≠ 1 ∧
      d.live .glb 0 = true) ∧
    (∃ (s : State) (d e : Dev), s.chip.dev = d ∧ d.count .mon 0 0x230 = e ∧ d.monTakes .resetChip) ∧
    (∃ (s : State) (d e : Dev) (k : Nat), s.chip.dev = d ∧ d.count .mon 0 0x230 = e ∧ d.monTakes (.coreHalt k)) ∧
    (∃ (s : State) (d e : Dev) (k : Nat), s.chip.dev = d ∧ d.count .mon 0 0x230 = e ∧ d.monTakes (.coreResume k)) ∧
    (∃ (s : State) (d e : Dev) (k a : Nat), s.chip.dev = d ∧ d.count .mon 0 0x230 = e ∧ d.monTakes (.coreRd k a)) ∧
    (∃ (s : State) (d e : Dev) (p o : Nat), s.chip.dev = d ∧ d.count .mon 0 0x230 = e ∧ d.monTakes (.hbm p o 1) ∧ d.live .hbc (p / 64) =
      true ∧ generalBase (d.get FTB.GEOM_STAT.MaxLog2) ≤ o ∧ o + 4 ≤ generalEnd ∧ d.pathMoves = true) ∧
    (∃ (s : State) (d e : Dev) (p o : Nat), s.chip.dev = d ∧ d.count .mon 0 0x230 = e ∧ d.monTakes (.hbm p o 1) ∧ (o < generalBase
      (d.get FTB.GEOM_STAT.MaxLog2) ∨ generalEnd < o + 4) ∧ d.live .hbc (p / 64) = true) := by
  exact ⟨⟨st (mn 0 []), _, 255, rfl, by decide +kernel⟩,
   ⟨st (asks 1 (str "pw") pwRec), _, str "pw", 1, 0, rfl, .inl rfl, by decide +kernel⟩,
   ⟨st (asks 2 (str "pw") pwRec), _, str "pw", 2, 0, rfl, .inr rfl, by decide +kernel⟩,
   ⟨st (asks 2 (str "PW") pwRec), _, str "PW", 2, 0, rfl, .inr rfl, by decide +kernel⟩,
   ⟨st (mn 1 []), _, rfl, by decide +kernel⟩,
   ⟨st { mn 1 [] with mon := { b0.mon with dp := some 5 } }, _, 5, rfl, by decide +kernel⟩,
   ⟨st (asks 3 (str "Y") []), _, str "Y", rfl, by decide +kernel⟩,
   ⟨st (asks 3 (str "n") []), _, str "n", rfl, by decide +kernel⟩,
   ⟨st { mn 0 (str "login") with boot := { b0.boot with pcfg := pwRec } }, _, _, rfl, rfl, takes (str "login") (by decide +kernel) rfl rfl
    rfl rfl (by decide +kernel) (by decide +kernel), by decide +kernel⟩,
   ⟨st (mn 0 (str "login")), _, _, rfl, rfl, takes (str "login") (by decide +kernel) rfl rfl rfl rfl (by decide +kernel)
    (by decide +kernel), .inl (by decide +kernel)⟩,
   ⟨st (mn 1 (str "rd 0x200")), _, _, 0x200, 0, 0x200, 0, .glb, rfl, rfl, takes (str "rd 0x200") (by decide +kernel) rfl rfl rfl rfl
    (by decide +kernel) (by decide +kernel), opened (by decide +kernel), by decide +kernel⟩,
   ⟨st (mn 1 (str "wr 0x200 1023")), _, _, 0x200, 1023, 0, 0x200, .glb, ⟨GLB.COMMIT_MASK.Mask, 1, .rw, false⟩, 0, none, rfl, rfl, takes
    (str "wr 0x200 1023") (by decide +kernel) rfl rfl rfl rfl (by decide +kernel) (by decide +kernel), opened (by decide +kernel), plain
    (by decide +kernel), by decide +kernel⟩,
   ⟨st (mn 1 (str "fence 0x52C010")), _, _, 0x52C010, 300, 0x10, .ruu, rfl, rfl, takes (str "fence 0x52C010") (by decide +kernel) rfl rfl
    rfl rfl (by decide +kernel) (by decide +kernel), by decide +kernel⟩,
   ⟨st (mn 1 (str "baud 921600")), _, _, 921600, rfl, rfl, takes (str "baud 921600") (by decide +kernel) rfl rfl rfl rfl
    (by decide +kernel) (by decide +kernel)⟩,
   ⟨st (mn 1 (str "floor fw")), _, _, rfl, rfl, takes (str "floor fw") (by decide +kernel) rfl rfl rfl rfl (by decide +kernel)
    (by decide +kernel), .inl (by decide +kernel), by decide +kernel⟩,
   ⟨st { mn 1 (str "reset dp") with glb := { b0.glb with dpr := .refreshed } }, _, _, rfl, rfl, takes (str "reset dp") (by decide +kernel)
    rfl rfl rfl rfl (by decide +kernel) (by decide +kernel), by decide +kernel⟩,
   ⟨st (mn 1 (str "reset dp")), _, _, rfl, rfl, takes (str "reset dp") (by decide +kernel) rfl rfl rfl rfl (by decide +kernel)
    (by decide +kernel), by decide +kernel⟩,
   ⟨st (mn 1 (str "reset chip")), _, _, rfl, rfl, takes (str "reset chip") (by decide +kernel) rfl rfl rfl rfl (by decide +kernel)
    (by decide +kernel)⟩,
   ⟨st (mn 2 (str "core 3 halt")), _, _, 3, rfl, rfl, takes (str "core 3 halt") (by decide +kernel) rfl rfl rfl rfl (by decide +kernel)
    (by decide +kernel)⟩,
   ⟨st (mn 2 (str "core 3 resume")), _, _, 3, rfl, rfl, takes (str "core 3 resume") (by decide +kernel) rfl rfl rfl rfl (by decide +kernel)
    (by decide +kernel)⟩,
   ⟨st (mn 2 (str "core 3 rd 0x40")), _, _, 3, 64, rfl, rfl, takes (str "core 3 rd 0x40") (by decide +kernel) rfl rfl rfl rfl
    (by decide +kernel) (by decide +kernel)⟩,
   ⟨st (mn 2 (str "hbm 383 0x16FFFFFC")), _, _, 383, 0x16FFFFFC, rfl, rfl, takes (str "hbm 383 0x16FFFFFC") (by decide +kernel) rfl rfl rfl
    rfl (by decide +kernel) (by decide +kernel), by decide +kernel⟩,
   ⟨st (mn 2 (str "hbm 383 0x17000000")), _, _, 383, 0x17000000, rfl, rfl, takes (str "hbm 383 0x17000000") (by decide +kernel) rfl rfl rfl
    rfl (by decide +kernel) (by decide +kernel), .inr (by decide +kernel), by decide +kernel⟩⟩

end Sys2Proof.Machine.Tests
end

section
/-! PROOFS. The state after cold reset (R9, R25): no register field is listed but the supply windows of TMP (R537), and every other
part of the device has its empty form. -/

namespace Sys2Proof.Machine

/-! ### Reads of a sparse table by what it lists -/

theorem Tab.get_of_unlisted {α : Type} (d : α) {t : Tab α} {k : Nat} (h : ∀ e ∈ t, e.1 ≠ k) : Tab.get d t k = d := by
  induction t with
  | nil => rfl
  | cons e t ih =>
    obtain ⟨he, ht⟩ := List.forall_mem_cons.1 h
    simp [Tab.get, he, ih ht]

theorem Tab.get_of_mem {α : Type} (d : α) {t : Tab α} {k : Nat} {v : α} (hr : Tab.rising t = true) (h : (k, v) ∈ t) :
    Tab.get d t k = v := by
  induction t with
  | nil => cases h
  | cons e t ih =>
    obtain ⟨ha, ht⟩ := (Tab.rising_cons _ _).1 hr
    rcases List.mem_cons.1 h with rfl | h
    · simp [Tab.get]
    · have hne : e.1 ≠ k := Nat.ne_of_lt (ha _ h)
      simp [Tab.get, hne, ih ht h]

/-! ### What the reset state lists -/

/-- The listed fields after reset are the two limits of each supply window. -/
theorem Dev.mem_reset_regs {e : Nat × Nat} : e ∈ Dev.reset.regs ↔
    ∃ k w, vmonWindows[k]? = some w ∧ (e = (TMP.VMON_WIN.Low.key 0 k, w.1) ∨ e = (TMP.VMON_WIN.High.key 0 k, w.2)) := by
  simp only [Dev.reset, List.mem_flatMap, List.mem_zipIdx_iff_getElem?, List.mem_cons, List.not_mem_nil, or_false]
  constructor
  · rintro ⟨⟨w, k⟩, hw, he⟩
    exact ⟨k, w, hw, he⟩
  · rintro ⟨k, w, hw, he⟩
    exact ⟨(w, k), hw, he⟩

theorem Dev.reset_regs_rising : Tab.rising Dev.reset.regs = true := by decide

/-- Every listed field after reset lies in the page of TMP. -/
theorem Dev.reset_regs_in_tmp {e : Nat × Nat} (h : e ∈ Dev.reset.regs) : 0x7000 * 8 ≤ e.1 ∧ e.1 < 0x8000 * 8 := by
  obtain ⟨k, w, hw, he⟩ := Dev.mem_reset_regs.1 h
  have hk : k < 9 := (List.getElem?_eq_some_iff.1 hw).1
  rcases he with rfl | rfl <;> simp only [Fld.key, Blk.base, blkRow, TMP.VMON_WIN.Low, TMP.VMON_WIN.High] <;> omega

/-! ### Register fields after reset -/

theorem Dev.reset_get_outside_tmp (f : Fld) (i j : Nat) (h : f.key i j < 0x7000 * 8 ∨ 0x8000 * 8 ≤ f.key i j) :
    Dev.reset.get f i j = f.reset j := by
  refine Tab.get_of_unlisted _ fun e he heq => ?_
  have hin := Dev.reset_regs_in_tmp he
  omega

theorem Dev.reset_get_vmonWin (k : Nat) (w : Nat × Nat) (h : vmonWindows[k]? = some w) :
    Dev.reset.get TMP.VMON_WIN.Low 0 k = w.1 ∧ Dev.reset.get TMP.VMON_WIN.High 0 k = w.2 :=
  ⟨Tab.get_of_mem _ Dev.reset_regs_rising (Dev.mem_reset_regs.2 ⟨k, w, h, .inl rfl⟩),
   Tab.get_of_mem _ Dev.reset_regs_rising (Dev.mem_reset_regs.2 ⟨k, w, h, .inr rfl⟩)⟩

/-! ### The other parts of the device after reset -/

theorem Dev.reset_live (b : Blk) (i : Nat) : Dev.reset.live b i = false := rfl

theorem Dev.reset_queue (q : Nat) : Dev.reset.queue q = {} := rfl

theorem Dev.reset_stack (k : Nat) : Dev.reset.stack k = {} := rfl

/-- PF0 has Memory Space Enable 0, and no VF is in force: only the monitor's requests are served. -/
theorem Dev.reset_reachable {f : Nat} (h : f ≠ 128) : Dev.reset.reachable f = false := by
  have hmse : (Dev.reset.fn 0).mse = false := rfl
  have hvf : Dev.reset.fab.vfEnable = false := rfl
  by_cases hf : f = 0
  · simp [Dev.reachable, hf, hmse]
  · simp [Dev.reachable, h, hf, hvf]

theorem State.reset_wf : State.reset.wf = true := rfl

/-- Settles O3: the registers by what the reset table lists, every other part by its empty form. -/
theorem resetState : Obligations.ResetState := by
  unfold Obligations.ResetState
  refine ⟨rfl, rfl, State.reset_wf, rfl, Dev.reset_get_outside_tmp, Dev.reset_get_vmonWin, Dev.reset_live, rfl, rfl, rfl,
    fun q => ?_, fun k _ => ?_, rfl, fun _ => Dev.reset_reachable, rfl, rfl⟩
  · rw [Dev.reset_queue]
  · rw [Dev.reset_stack]

end Sys2Proof.Machine
end
